-- ==== Sys2Proof/Word.lean ====
section
/-! DEFINITION. The word types of the Exorn module and the numbers of its units (R7, R11 to R13). -/

namespace Sys2Proof

abbrev Byte := BitVec 8
abbrev Half := BitVec 16
abbrev Word := BitVec 32
abbrev DWord := BitVec 64

/-- Logical core number, R13. -/
abbrev CoreId := Fin 64
/-- Link number, R12. -/
abbrev LinkId := Fin 24
/-- Granary stack, R13. -/
abbrev StackId := Fin 8
/-- GDDR port, R13. -/
abbrev PortId := Fin 32
/-- Ring of one core's DMA engine, R225. -/
abbrev RingId := Fin 128

end Sys2Proof
end

