-- ==== Sys2Proof/Syntax.lean ====
section
/-! DEFINITION. The commands of the Exorn module: one constructor per row of spec/opcode_table.json, and
the types of their operands. A command names the unit it acts on; what the row leaves to physics (an ECC
outcome, a reading, a time that has passed) is an operand. -/

namespace Sys2Proof

/-- Who writes control space, R380 and R388 (0 steward, 1 plan loader, 2 host, 3 I2C). -/
inductive Requester where
  | steward | planLoader | host | i2c
  deriving DecidableEq, Repr

/-- How a word of an instruction memory decodes when it is fetched (R127): what the memory physically holds. -/
inductive WordEcc where
  | good | corrected | uncorrectable
  deriving DecidableEq, Repr

/-- A cell of the vector register file that one error code covers, R125: a 32-bit element of a vector register, or a 32-bit group of a
mask register. -/
inductive RfCell where
  | elem (r : Fin 32) (i : Fin 1024)
  | mask (m : Fin 8) (g : Fin 32)
  deriving DecidableEq, Repr

/-- An error that has arisen in a cell of the register file; `bad`: more than one bit. -/
structure RfUpset where
  cell : RfCell
  bad : Bool
  deriving DecidableEq, Repr

/-- An error that has arisen in an accumulator entry (R97): the array, the entry in it, and whether more than one bit is wrong. -/
structure AccUpset where
  array : Fin 4
  entry : BitVec 16
  bad : Bool
  deriving DecidableEq, Repr

/-- The two steps of a vector word (R108, R116): the sequencer passes it to the issue queue, which fetches it from the instruction memory, and
later the vector engine issues it from the head of that queue, which reads the register file. -/
inductive VecStep where
  | pass (ecc : WordEcc := .good)
  | issue (upsets : List RfUpset := [])
  deriving DecidableEq, Repr

/-- A lane of a Granary channel, R172. -/
structure LaneId where
  stack : Fin 8
  channel : Fin 32
  lane : Fin 74
  deriving DecidableEq, Repr

/-- A row of a Granary bank, R175. -/
structure RowId where
  stack : Fin 8
  channel : Fin 32
  bank : Byte
  row : BitVec 24
  deriving DecidableEq, Repr

/-- Kinds of temperature sensor, in the numbering of R431. -/
inductive SensorKind where
  | junction | granary | gddr
  deriving DecidableEq, Repr

/-- A memory unit: a Granary stack or a GDDR port. -/
inductive MemUnit where
  | stack (k : StackId)
  | port (p : PortId)
  deriving DecidableEq, Repr

/-- What makes a memory access. -/
inductive MemRequester where
  | host
  | dma (c : CoreId) (r : RingId)
  | coll
  | index (c : CoreId)
  | thresher
  | trace (c : CoreId)
  | fabric
  deriving DecidableEq, Repr

/-- An access: a read of `n` bytes or a write of some bytes. -/
inductive Access where
  | read (n : Nat)
  | write (data : List Byte)
  deriving DecidableEq, Repr

/-- How the codewords of an access decode (R173 to R176, R179, R180, R186): what the memory physically holds.
`lane` and `row` are corrected errors by which the stack identifies a failing lane (R174) or lists a row (R175). -/
inductive EccOutcome where
  | good
  | corrected
  | lane (id : LaneId)
  | row (id : RowId)
  | uncorrectable
  deriving DecidableEq, Repr

/-- Why a link starts to train, R249. -/
inductive TrainCause where
  | linkReset | imageEnd | retrain | leaveL2
  deriving DecidableEq, Repr

/-- Where a doorbell comes from, R226. -/
inductive DoorbellSrc where
  | kick
  | reg (r : Requester)
  | bar4 (off : BitVec 18)
  deriving DecidableEq, Repr

/-- What wakes a module from G1, R423; the access takes effect once G0 is reached. -/
inductive WakeCause where
  | write (r : Requester) (off : BitVec 28) (value : Word)
  | doorbell (src : DoorbellSrc) (c : CoreId) (r : RingId) (value : Word)
  | loader (off : BitVec 28) (value : Word)
  | quiesce (c : CoreId)
  deriving DecidableEq, Repr

/-- The measurement of one lane, R268, besides its count of corrected symbols, which the State holds; `biasHigh` is the comparison with the laser's end-of-life limit and
`berHigh` that of the pre-FEC bit error ratio. -/
structure LaneMeasure where
  eyeH : BitVec 10
  eyeW : BitVec 10
  rxPwr : BitVec 16
  bias : BitVec 16
  biasHigh : Bool
  berHigh : Bool
  deriving DecidableEq, Repr

/-- A PCIe completion of a read of host memory, R239; `nth`: which of the engine's outstanding reads it answers, counted from the oldest (one
that is none of them was abandoned, R238). A timeout is that of the oldest. -/
inductive HostReply where
  | data (bytes : List Byte) (nth : Nat := 0)
  | error (nth : Nat := 0)
  | timeout
  deriving DecidableEq, Repr

/-- A frame of 256 bytes, R253, with the route header of R277 as its four words and the body as 224 bytes. -/
structure Frame where
  typ : BitVec 4
  vc : BitVec 2
  ackv : Bool
  piste : Bool
  blen : BitVec 8
  seq : BitVec 16
  ack : BitVec 16
  crdVc : BitVec 2
  crdCnt : BitVec 8
  lslot : BitVec 6
  rh0 : Word
  rh1 : Word
  rh2 : Word
  rh3 : Word
  crc : Word
  body : List Byte
  deriving DecidableEq, Repr

/-- The commands. Each docstring is the row of spec/opcode_table.json with its rule. `addr`: the seven-bit address that an I2C command names (R37);
`pecOk`: its packet error code is right; `trst`: the level of TRST_N (R35); `be`: the byte enables of an access to control space (R379); `hw`: what hardware sets
in the same cycle. -/
inductive Instr where
  /-- MODULE_INSERTION (R28). The module is slid onto a live 54 V feed: contacts make in the order of R26 and the inrush limiter charges the input capacitance at no more than 5 A. -/
  | moduleInsertion (ga : BitVec 4) (mv10 : BitVec 16)
  /-- POWER_APPLIED (R41). 54 V appears at the +54 V blades: the meter converter starts and the hardware sequencer begins ramping the rails while the steward is held in reset. -/
  | powerApplied (mv10 : BitVec 16)
  /-- RAILS_IN_REGULATION (R41). All rails reach regulation: PWR_OK rises and the module latches GA3–GA0 for its I2C address. -/
  | railsInRegulation (ga : BitVec 4)
  /-- RESET_N_ASSERT (R43). A low level on RESET_N held for 10 µs or more resets the MODULE reset domain; the meter is never reset. -/
  | resetNAssert (heldNs : Nat)
  /-- RESET_N_RELEASE (R42). RESET_N rises, and once PWR_OK has been high for 1 ms the internal reset ends and the steward boots. -/
  | resetNRelease
  /-- UNDERVOLTAGE_FALL (R40). The input stays below the falling undervoltage threshold for more than 200 µs: every power stage except the meter's stops and PWR_OK falls. -/
  | undervoltageFall
  /-- UNDERVOLTAGE_RISE (R40). The input rises above the rising undervoltage threshold and the power stages may start. -/
  | undervoltageRise
  /-- INPUT_LOW_ENTRY (R40). The input enters the band between 43.0 V and 48 V: the module runs, logs PWR_INPUT_LOW once for this entry and refuses sprint. -/
  | inputLowEntry (mv10 : BitVec 16)
  /-- OVERVOLTAGE (R40). The input exceeds 59.5 V for more than 50 µs: the power stages stop and PWR_OK falls until the input falls below the falling undervoltage threshold. -/
  | overvoltage
  /-- OVERCURRENT (R40). The 40 A current limit is held for more than 1 ms: the electronic fuse opens, the module behaves as at undervoltage, and restart needs the feed removed and restored. -/
  | overcurrent
  /-- RAIL_FAULT (R44). A rail leaves regulation: PWR_OK falls within 20 µs, and while the input holds, the module-fatal fault PWR_RAIL is raised and a dump is written. -/
  | railFault (stewardHolds : Bool)
  /-- STEWARD_BOOT_DONE (R408). The STEWARD phase completes with the ROM check and boot, PCIe and I2C come up, and the IMAGE phase begins. -/
  | stewardBootDone (romOk : Bool)
  /-- IMAGE_PHASE (R403). The steward reads and checks image slot A and then slot B if needed, loads GEN_EXPERT, merges defects, applies the LNK, MTC and FAB settings and the link plan, and starts time distribution. -/
  | imagePhase
  /-- SELFTEST_DONE (R408). Logic and SRAM self-test ends: spare cores are chosen, CLM and CSM are left zero, or bring-up fails with GEN_SELFTEST. -/
  | selftestDone (cores : List (Fin 8 × Fin 9)) (otherUnit : Option (BitVec 64))
  /-- MEMTRAIN_DONE (R408). Granary interfaces and GDDR ports finish training: lanes are spared by R174 and ports that fail at 32 Gb/s are marked for mapping out. -/
  | memtrainDone (lanes : List LaneId) (ports : List PortId)
  /-- MEMTEST_DONE (R410). The memory test in the configured mode ends on all stacks and ports, with repairs applied and memory zero-filled, or bring-up fails with GEN_MEMTEST. -/
  | memtestDone (lanes : List LaneId) (rows : List RowId) (ports : List PortId)
  /-- HIDE_DONE (R413). Spares and mapping out are applied, the tables of R166 are written, the remaining settings are committed and the capability list is built; the module is READY. -/
  | hideDone (bootMs : BitVec 32)
  /-- RESET_MODULE (R415). A requested MODULE reset resets everything but the meter and a held dump, and runs the whole of bring-up. -/
  | resetModule (r : Requester) (force : Bool)
  /-- RESET_COMPUTE (R415). A requested COMPUTE reset resets every core and cluster, zeroes CLM and CSM, and retrains the memory interfaces once running thresher work has ended. -/
  | resetCompute (r : Requester) (force : Bool)
  /-- RESET_CLUSTER (R415). A requested CLUSTER n reset resets the cluster's cores, its CSM and its memory port. -/
  | resetCluster (r : Requester) (n : BitVec 6) (force : Bool)
  /-- RESET_CORE (R415). A requested CORE n reset resets the sequencer, arrays, vector engine, DMA engine and index unit, leaving the core IDLE with bank 0 active. -/
  | resetCore (r : Requester) (n : BitVec 6) (force : Bool)
  /-- RESET_LINK (R415). A requested LINK n reset makes link n retrain by R249. -/
  | resetLink (r : Requester) (n : BitVec 6) (force : Bool)
  /-- RESET_GRANARY (R415). A requested GRANARY n reset retrains stack n's interface with spares switched in and aborts its thresher work. -/
  | resetGranary (r : Requester) (n : BitVec 6) (force : Bool)
  /-- RESET_COMPLETE (R419). A requested reset completes: BUSY clears and LAST records its domain. -/
  | resetComplete (lanes : List LaneId) (ports : List PortId)
  /-- LADDER_REQUEST_G0 (R421). A write of G0 to PWR_LADDER.TARGET requests the move up to Run from G1, G2 or G3. -/
  | ladderRequestG0 (r : Requester)
  /-- LADDER_REQUEST_G1 (R422). A write of G1 to PWR_LADDER.TARGET requests Glide, refused by the reasons of R422. -/
  | ladderRequestG1 (r : Requester)
  /-- LADDER_REQUEST_G2 (R422). A write of G2 to PWR_LADDER.TARGET requests Tuck, refused by the reasons of R422. -/
  | ladderRequestG2 (r : Requester)
  /-- LADDER_REQUEST_G3 (R422). A write of G3 to PWR_LADDER.TARGET requests Shelter, or the move from G4 up to G3. -/
  | ladderRequestG3 (r : Requester)
  /-- LADDER_REQUEST_G4 (R424). A write of G4 to PWR_LADDER.TARGET requests Stowed, which zeroes the memories on entry and requires every link to be in L2, DOWN or DARK. -/
  | ladderRequestG4 (r : Requester)
  /-- LADDER_MOVE_DONE (R420). A ladder move reaches its target state within its entry or exit time, and MOVING clears. -/
  | ladderMoveDone
  /-- G1_WAKE (R423). A core-block write, doorbell, plan-loader write or headland quiesce returns a module in G1 to G0, and the triggering access then takes effect. -/
  | g1Wake (cause : WakeCause)
  /-- SPRINT_GRANT (R425). Once every condition of R425 holds, the module raises the core clock to 1.50 GHz. -/
  | sprintGrant (gapMs : Nat)
  /-- SPRINT_END (R427). Sprint ends when the credit is exhausted, the 20 s timer runs out or a grant condition fails, and the clock returns within 20 µs. -/
  | sprintEnd (ms : Nat)
  /-- CREDIT_UPDATE (R426). Each millisecond, the sprint credit falls by the energy used above 1.400 J while in sprint, or rises by 0.050 J otherwise, up to 5,000 J. -/
  | creditUpdate (energyMj : Nat)
  /-- THERMAL_READING (R429). A junction, Granary or GDDR sensor reading updates the thermal curves and hence the core clock; a trip reading on two consecutive readings raises PWR_TRIP. -/
  | thermalReading (kind : SensorKind) (idx : Fin 32) (temp : BitVec 8)
  /-- POWER_LIMITER (R430). Every 100 µs the limiter compares the last millisecond's input power with its limit and steps its clock value down or up by 25 MHz. -/
  | powerLimiter (watts : BitVec 16) (msPassed : Bool)
  /-- THROTTLE_ALERT (R432). A thermal curve has held the clock below 1,300 MHz for more than 1 s without a break, and ALERT_N is driven low. -/
  | throttleAlert
  /-- LSTART (R138). LSTART opens a layer command: it snapshots and checks the record, resets per-command state, and starts the arrays 24 cycles later. -/
  | lstart (c : CoreId) (ecc : WordEcc := .good)
  /-- LSTART_PROCEED (R138). A stalled LSTART proceeds once the previous command has completed and no COLGO entry holds it. -/
  | lstartProceed (c : CoreId)
  /-- LEND (R137). LEND closes the open layer command. -/
  | lend (c : CoreId) (ecc : WordEcc := .good)
  /-- LAYER_COMPLETE (R142). Once LEND has issued and the array and vector parts are done, the sequencer writes the completion area, then CMP_STATUS, then sets EVT_DONE and writes a trace entry. -/
  | layerComplete (c : CoreId)
  /-- SEQ_WDOG (R143). The command watchdog expires: the command ends with CMP_STATUS = 3 and SEQ_WDOG is raised, queued vector words are discarded and the sequencer enters FAULT. -/
  | seqWdog (c : CoreId)
  /-- ARRAY_TILE_DONE (R90). The arrays finish streaming one weight tile and swap in the shadow tile. -/
  | arrayTileDone (c : CoreId) (upsets : List AccUpset := [])
  /-- NTILE_WRITTEN_OUT (R96). An N-tile's conversion and write-out to CLM completes and EVT_TILE is set. -/
  | ntileWrittenOut (c : CoreId) (upsets : List AccUpset := [])
  /-- SCALE_SCAN_DONE (R63). The scale scan of an integer record with an MX operand ends and fixes INT32 or FP32 accumulation, ending the command if FP32 conflicts with the record. -/
  | scaleScanDone (c : CoreId)
  /-- MXA_CTRCLR (R103). A write of 1 to CORE_MXA_CTRCLR.CLEAR zeroes both 64-bit MXA counters. -/
  | mxaCtrclr (c : CoreId)
  /-- START (R130). A write of 1 to CORE_SEQ_CTRL.START requests a start, which enters LOADCHK in IDLE, HALTED or QUIESCED and is otherwise rejected. -/
  | start (r : Requester) (c : CoreId)
  /-- LOADCHK_DONE (R130). The header and CRC check of the inactive bank ends: the banks swap and the core runs from PC 1, or SEQ_IMEM_CRC is raised. -/
  | loadchkDone (c : CoreId) (errs : List (BitVec 12 × WordEcc) := [])
  /-- QREQ (R152). A quiesce request from CORE_SEQ_CTRL.QREQ or the headland protocol stops issue and starts draining the arrays, the vector engine and the index unit. -/
  | qreq (r : Requester) (c : CoreId)
  /-- QUIESCE_DONE (R152). Once the drain and any spill end, the sequencer writes the completion area and the resume record, enters QUIESCED and acknowledges. -/
  | quiesceDone (c : CoreId) (upsets : List AccUpset := [])
  /-- RESUME (R154). A write of 1 to CORE_SEQ_CTRL.RESUME in QUIESCED checks the resume record, restores the command and any spilled rows, and continues at RR_PC. -/
  | resume (r : Requester) (c : CoreId)
  /-- IMEM_WRITE (R128). A write to an instruction memory bank is stored in the inactive bank, or discarded with IMEM_BUSY when it targets the active bank or a bank under a start check. -/
  | imemWrite (c : CoreId) (bank : Bool) (word : BitVec 12) (hi : Bool) (value : Word)
  /-- EVENT_SET_WRITE (R145). A write to CORE_SEQ_EVT_SET_LO or CORE_SEQ_EVT_SET_HI sets the named events. -/
  | eventSetWrite (r : Requester) (c : CoreId) (hi : Bool) (mask : Word)
  /-- FPFLAGS_CLEAR (R69). A W1C write to CORE_SEQ_FPFLAGS clears a flag and zeroes its counter, unless hardware sets the flag in the same cycle. -/
  | fpflagsClear (c : CoreId) (mask : BitVec 6) (hw : BitVec 6)
  /-- IDLECLR (R159). A write of 1 to CORE_SEQ_IDLECLR.CLEAR zeroes all eleven idle counters. -/
  | idleclr (r : Requester) (c : CoreId)
  /-- ADD (R133). Sets S[RD] to the 64-bit sum of S[RA] and S[RB]. -/
  | add (c : CoreId) (ecc : WordEcc := .good)
  /-- SUB (R133). Sets S[RD] to the 64-bit difference of S[RA] and S[RB]. -/
  | sub (c : CoreId) (ecc : WordEcc := .good)
  /-- AND (R133). Sets S[RD] to the bitwise AND of S[RA] and S[RB]. -/
  | andW (c : CoreId) (ecc : WordEcc := .good)
  /-- OR (R133). Sets S[RD] to the bitwise OR of S[RA] and S[RB]. -/
  | orW (c : CoreId) (ecc : WordEcc := .good)
  /-- XOR (R133). Sets S[RD] to the bitwise XOR of S[RA] and S[RB]. -/
  | xorW (c : CoreId) (ecc : WordEcc := .good)
  /-- SHL (R133). Shifts S[RA] left by S[RB][5:0] into S[RD]. -/
  | shl (c : CoreId) (ecc : WordEcc := .good)
  /-- SHR (R133). Shifts S[RA] right logically by S[RB][5:0] into S[RD]. -/
  | shr (c : CoreId) (ecc : WordEcc := .good)
  /-- SAR (R133). Shifts S[RA] right arithmetically by S[RB][5:0] into S[RD]. -/
  | sar (c : CoreId) (ecc : WordEcc := .good)
  /-- MUL (R133). Writes the low 64 bits of S[RA] times S[RB] to S[RD]. -/
  | mul (c : CoreId) (ecc : WordEcc := .good)
  /-- ADDI (R133). Sets S[RD] to S[RA] plus the sign-extended immediate. -/
  | addi (c : CoreId) (ecc : WordEcc := .good)
  /-- LDI (R133). Sets S[RD] to the sign-extended immediate. -/
  | ldi (c : CoreId) (ecc : WordEcc := .good)
  /-- SLD (R136). Loads 64 bits from the core's CLM into S[RD], or raises SEQ_ADDR for a bad address. -/
  | sld (c : CoreId) (ecc : WordEcc := .good)
  /-- SST (R136). Stores 64 bits to the core's CLM, or raises SEQ_ADDR for a bad address. -/
  | sst (c : CoreId) (ecc : WordEcc := .good)
  /-- SLDW (R136). Loads 32 bits, zero-extended, from the core's CLM into S[RD]. -/
  | sldw (c : CoreId) (ecc : WordEcc := .good)
  /-- SSTW (R136). Stores 32 bits to the core's CLM. -/
  | sstw (c : CoreId) (ecc : WordEcc := .good)
  /-- BR (R133). Branches unconditionally to IMM[11:0]. -/
  | br (c : CoreId) (ecc : WordEcc := .good)
  /-- BEQ (R133). Branches if S[RA] equals S[RB]. -/
  | beq (c : CoreId) (ecc : WordEcc := .good)
  /-- BNE (R133). Branches if S[RA] differs from S[RB]. -/
  | bne (c : CoreId) (ecc : WordEcc := .good)
  /-- BLT (R133). Branches if S[RA] is less than S[RB], signed. -/
  | blt (c : CoreId) (ecc : WordEcc := .good)
  /-- BGE (R133). Branches if S[RA] is greater than or equal to S[RB], signed. -/
  | bge (c : CoreId) (ecc : WordEcc := .good)
  /-- BLTU (R133). Branches if S[RA] is less than S[RB], unsigned. -/
  | bltu (c : CoreId) (ecc : WordEcc := .good)
  /-- FBLT (R133). Branches if the low 32 bits of S[RA] are less than those of S[RB] as FP32; a NaN operand never branches. -/
  | fblt (c : CoreId) (ecc : WordEcc := .good)
  /-- FBGE (R133). Branches if the low 32 bits of S[RA] are greater than or equal to those of S[RB] as FP32. -/
  | fbge (c : CoreId) (ecc : WordEcc := .good)
  /-- LOOP (R133). Loads loop counter L[LC] from S[RA] and branches past the loop if it is 0. -/
  | loopW (c : CoreId) (ecc : WordEcc := .good)
  /-- ENDL (R133). Decrements L[LC] and branches back while it is nonzero. -/
  | endl (c : CoreId) (ecc : WordEcc := .good)
  /-- LWAIT (R146). Holds issue until no layer command is incomplete. -/
  | lwait (c : CoreId) (ecc : WordEcc := .good)
  /-- WAITMT (R146). Holds issue until machine time reaches S[RA]; a target that has already passed completes at once and sets LATE. -/
  | waitmt (c : CoreId) (ecc : WordEcc := .good)
  /-- WAITMT_TRIGGER (R337). The counter reaches the rounded target and the waiting WAITMT ends in the second or third core cycle after the trigger. -/
  | waitmtTrigger (c : CoreId)
  /-- WAITEV (R146). Holds issue until event IMM[5:0] is set, clearing it on leaving if IMM[8] = 1. -/
  | waitev (c : CoreId) (ecc : WordEcc := .good)
  /-- WAIT_CONDITION_MET (R146). The condition of a pending WAITEV, LWAIT, IXWAIT or COLWAIT becomes true and issue continues. -/
  | waitConditionMet (c : CoreId)
  /-- SEQ_WAIT_TIMEOUT (R146). A WAITEV, LWAIT or IXWAIT exceeds CORE_SEQ_WAITLIM: the job-fatal fault is raised and the sequencer enters FAULT. -/
  | seqWaitTimeout (c : CoreId)
  /-- SETEV (R145). Sets event IMM[5:0]. -/
  | setev (c : CoreId) (ecc : WordEcc := .good)
  /-- CLREV (R145). Clears event IMM[5:0]. -/
  | clrev (c : CoreId) (ecc : WordEcc := .good)
  /-- COLGO (R147). After no layer command is incomplete, marks this core's part of script entry S[RA] ready and holds LSTART until the entry completes for the core. -/
  | colgo (c : CoreId) (ecc : WordEcc := .good)
  /-- COLWAIT (R147). Waits until script entry S[RA] has completed for this core. -/
  | colwait (c : CoreId) (ecc : WordEcc := .good)
  /-- DMAKICK (R226). Rings the doorbell of ring IMM[6:0] of this core with S[RA] descriptors. -/
  | dmakick (c : CoreId) (ecc : WordEcc := .good)
  /-- IXG (R149). Queues a gather that copies table rows named by an index tensor into CLM over the pick path. -/
  | ixg (c : CoreId) (ecc : WordEcc := .good)
  /-- IXS (R149). Queues a scatter that copies CLM rows to table rows named by an index tensor, accumulating into reduction buffers with ACC = 1. -/
  | ixs (c : CoreId) (ecc : WordEcc := .good)
  /-- INDEX_OP_DONE (R149). An index operation finishes its rows and sets its completion event; a malformed descriptor raises IDX_MALFORMED instead. -/
  | indexOpDone (c : CoreId)
  /-- IXWAIT (R151). Waits until the index queue is empty. -/
  | ixwait (c : CoreId) (ecc : WordEcc := .good)
  /-- RDMT (R330). Reads machine time into S[RD]. -/
  | rdmt (c : CoreId) (ecc : WordEcc := .good)
  /-- STEPSET (R133). Sets the step number to S[RA]. -/
  | stepset (c : CoreId) (ecc : WordEcc := .good)
  /-- TRACE (R157). Writes a trace entry of type 10 carrying S[RA] and S[RB]. -/
  | traceW (c : CoreId) (ecc : WordEcc := .good)
  /-- NOP (R133). Does nothing. -/
  | nop (c : CoreId) (ecc : WordEcc := .good)
  /-- HALT (R133). Enters HALTED once every layer command and index operation is complete, and with IMM[0] = 1 requests a start. -/
  | halt (c : CoreId) (ecc : WordEcc := .good)
  /-- VLD (R118). Loads VL unit-stride elements from CLM into vd after checking every active address. -/
  | vld (c : CoreId) (p : VecStep)
  /-- VLDS (R118). Loads VL elements from CLM at a stride taken from S[VC]. -/
  | vlds (c : CoreId) (p : VecStep)
  /-- VLDX (R118). Loads elements from CLM at addresses indexed by vb. -/
  | vldx (c : CoreId) (p : VecStep)
  /-- VST (R119). Stores vd unit-stride to CLM through the store buffer. -/
  | vst (c : CoreId) (p : VecStep)
  /-- VSTS (R119). Stores vd to CLM at a stride, filling scattered store-buffer entries. -/
  | vsts (c : CoreId) (p : VecStep)
  /-- VSTX (R119). Stores vd to CLM at addresses indexed by vb; the highest index wins where addresses collide. -/
  | vstx (c : CoreId) (p : VecStep)
  /-- VFENCE (R109). Issues nothing further until the store buffer is empty. -/
  | vfence (c : CoreId) (p : VecStep)
  /-- VADD (R109). Adds va and b element-wise. -/
  | vadd (c : CoreId) (p : VecStep)
  /-- VSUB (R109). Subtracts b from va element-wise. -/
  | vsub (c : CoreId) (p : VecStep)
  /-- VMUL (R109). Multiplies va and b element-wise on pipe A. -/
  | vmul (c : CoreId) (p : VecStep)
  /-- VFMA (R109). Computes va × b + vc with one rounding on pipe A. -/
  | vfma (c : CoreId) (p : VecStep)
  /-- VMIN (R65). Takes the element-wise minimum, following the NaN and signed-zero rules of R65. -/
  | vmin (c : CoreId) (p : VecStep)
  /-- VMAX (R65). Takes the element-wise maximum, following the NaN and signed-zero rules of R65. -/
  | vmax (c : CoreId) (p : VecStep)
  /-- VCMP (R109). Writes the mask M[VD] from a comparison of va with b under the condition in IMM[2:0]. -/
  | vcmp (c : CoreId) (p : VecStep)
  /-- VSEL (R109). Selects va or b per element by the mask M[MSK]. -/
  | vsel (c : CoreId) (p : VecStep)
  /-- VEXP (R112). Computes e^x per element by the fixed algorithm of R112. -/
  | vexp (c : CoreId) (p : VecStep)
  /-- VRCP (R110). Computes reciprocals per element by the fixed algorithm of R110. -/
  | vrcp (c : CoreId) (p : VecStep)
  /-- VRSQ (R111). Computes reciprocal square roots per element by the fixed algorithm of R111. -/
  | vrsq (c : CoreId) (p : VecStep)
  /-- VCVT (R109). Converts each element from the source format in IMM[3:0] to the target format in IMM[7:4]. -/
  | vcvt (c : CoreId) (p : VecStep)
  /-- VBCAST (R108). Broadcasts the low 32 bits of S[SA] to every active element, converted on 16-bit lanes. -/
  | vbcast (c : CoreId) (p : VecStep)
  /-- VIOTA (R109). Writes i plus the sign-extended immediate as 4-byte INT32 elements. -/
  | viota (c : CoreId) (p : VecStep)
  /-- VMXP (R113). Packs VL FP32 elements into an MX format, writing elements to vd and scales to vc. -/
  | vmxp (c : CoreId) (p : VecStep)
  /-- VMXU (R109). Unpacks MX elements of va with the scales in vc to FP32. -/
  | vmxu (c : CoreId) (p : VecStep)
  /-- VMAND (R109). Sets M[VD] to M[VA] AND M[VB]. -/
  | vmand (c : CoreId) (p : VecStep)
  /-- VMOR (R109). Sets M[VD] to M[VA] OR M[VB]. -/
  | vmor (c : CoreId) (p : VecStep)
  /-- VMNOT (R109). Sets M[VD] to NOT M[VA]. -/
  | vmnot (c : CoreId) (p : VecStep)
  /-- VMPOP (R109). Writes to S[VD] the number of set bits of M[VA] below VL. -/
  | vmpop (c : CoreId) (p : VecStep)
  /-- VPERM (R109). Permutes va by the INT32 indices in vb on the permute network. -/
  | vperm (c : CoreId) (p : VecStep)
  /-- VSHUF (R109). Shuffles va and vb by the fixed pattern in IMM[2:0]. -/
  | vshuf (c : CoreId) (p : VecStep)
  /-- VPACK (R109). Compresses the active elements of va into vd and writes the count to S[SA]. -/
  | vpack (c : CoreId) (p : VecStep)
  /-- VUNPACK (R109). Expands consecutive elements of va into the set mask positions of vd. -/
  | vunpack (c : CoreId) (p : VecStep)
  /-- VRSUM (R121). Reduces va by sum in the fixed order of R121 into S[VD]. -/
  | vrsum (c : CoreId) (p : VecStep)
  /-- VRMAX (R121). Reduces va by maximum in the fixed order into S[VD]. -/
  | vrmax (c : CoreId) (p : VecStep)
  /-- VRMIN (R121). Reduces va by minimum in the fixed order into S[VD]. -/
  | vrmin (c : CoreId) (p : VecStep)
  /-- VRNF (R109). Counts the active NaN and infinite elements of va into S[VD]. -/
  | vrnf (c : CoreId) (p : VecStep)
  /-- VSETVL (R106). Sets VL from the immediate or S[SA], capped at 1,024, and writes the granted length to S[VD]. -/
  | vsetvl (c : CoreId) (p : VecStep)
  /-- VSRI (R114). Loads SR_TID, SR_BASE and SR_STEP for stochastic rounding from S registers. -/
  | vsri (c : CoreId) (p : VecStep)
  /-- STORE_BUFFER_DRAIN (R119). The oldest store-buffer entry is written to CLM when CLM accepts it. -/
  | storeBufferDrain (c : CoreId)
  /-- STALLED_LOAD_READ (R120). A load piece that overlapped a store-buffer entry reads CLM once that entry and all older ones have drained. -/
  | stalledLoadRead (c : CoreId)
  /-- VEC_CTRCLR (R126). A write of 1 to CORE_VEC_CTRCLR.CLEAR zeroes SBSTALL and SBFWD. -/
  | vecCtrclr (c : CoreId)
  /-- GRANARY_ACCESS (R173). A Granary codeword access is translated by R164, corrected by Reed–Solomon where possible, or reported uncorrectable by R176. -/
  | granaryAccess (q : MemRequester) (addr : DWord) (how : Access) (outcome : EccOutcome)
  /-- GDDR_ACCESS (R179). A GDDR access is translated by R165, with CRC failures retried up to three times and on-die ECC reports handled by R180. -/
  | gddrAccess (q : MemRequester) (addr : DWord) (how : Access) (retries : BitVec 2) (outcome : EccOutcome)
  /-- GDM_MARGIN (R179). A port exceeds 1,000 retries in one second and logs the margin warning GDM_MARGIN. -/
  | gdmMargin (p : PortId)
  /-- GDDR_PORT_FAIL (R181). A port becomes unusable in service, and every access to it is uncorrectable until the next bring-up. -/
  | gddrPortFail (p : PortId)
  /-- SCRUB (R177). The background scrubber reads codewords, writing back correctable ones and logging uncorrectable ones as GRN_UE against no job. -/
  | scrub (k : StackId) (offset : BitVec 36) (outcome : EccOutcome)
  /-- REFRESH (R187). A per-bank refresh of a Granary stack or GDDR port takes place on its own schedule. -/
  | refresh (u : MemUnit) (bank : BitVec 8)
  /-- MEMORY_SENSOR_READ (R189). A stack's sensors are read every 100 µs, or a GDDR device temperature every 1 ms, setting double refresh and die throttling. -/
  | memorySensorRead (u : MemUnit) (temp : BitVec 8)
  /-- ACCUMULATE_WRITE (R196). A write landing in an enabled reduction buffer is accepted into the accumulate queue, or dropped as partial or late. -/
  | accumulateWrite (q : MemRequester) (addr : DWord) (data : List Byte)
  /-- ADDEND_ACCUMULATE (R197). A thresher lane adds one queued addend into its element by the buffer format's rule, counting non-finite events. -/
  | addendAccumulate (k : StackId)
  /-- DECISION_ARRIVE (R202). The block-wide skip bit and maxima arrive: groups either clear and lower the loss scale, or update their counters and start the recipe pass. -/
  | decisionArrive
  /-- RECIPE_PASS_DONE (R214). A group's optimiser pass ends and the mirror refresh begins, with the group entering MIRRORING. -/
  | recipePassDone (g : Fin 16)
  /-- CLEAR_PASS_DONE (R214). A group's clear pass ends and the group enters MIRRORING or OPEN. -/
  | clearPassDone (g : Fin 16)
  /-- MIRROR_REFRESH_DONE (R214). The mirror header gets STEP and STATE = 2 after all data writes have arrived, and the group returns to OPEN. -/
  | mirrorRefreshDone (g : Fin 16)
  /-- WEIGHT_DIGEST_DONE (R219). The weight digest of a group after an applied step completes, releasing its next pass and the audit entry. -/
  | weightDigestDone (g : Fin 16)
  /-- CLEAR (R223). GRN_THR_CMD with OP = 1 clears the group's reduction buffers. -/
  | thrClear (r : Requester) (g : Fin 16)
  /-- EXPORT (R217). GRN_THR_CMD with OP = 2 writes a group's export records from templates. -/
  | thrExport (r : Requester) (g : Fin 16)
  /-- IMPORT_CHECK (R217). GRN_THR_CMD with OP = 3 hashes the data in place and compares the result with each record's digest. -/
  | thrImportCheck (r : Requester) (g : Fin 16)
  /-- THR_CMD_DONE (R223). A thresher command ends, setting DONE or FAIL. -/
  | thrCmdDone
  /-- DOORBELL (R226). A doorbell from DMAKICK, CORE_DMA_RING_r_DB or BAR4 adds to a ring's pending count, or halts the ring on overflow. -/
  | doorbell (src : DoorbellSrc) (c : CoreId) (r : RingId) (value : Word)
  /-- DESCRIPTOR_FETCH (R227). At its ring's turn, the engine reads the next descriptor whole and starts its transfer, or halts the ring by R236. -/
  | descriptorFetch (c : CoreId) (outcome : EccOutcome) (responds : Bool)
  /-- DESCRIPTOR_COMPLETE (R234). Once the data condition holds, the engine adds the digest leaf, writes DONE and STATUS, clears OWN, sets the event, counts the completion and sends MSI-X. -/
  | descriptorComplete (c : CoreId) (wbOk : Bool)
  /-- TGT_TIMEOUT (R237). A local, remote or host access bound expires: the descriptor ends with a timeout status and its outstanding requests are abandoned. -/
  | tgtTimeout (c : CoreId) (got : Nat) (extra : Bool)
  /-- LATE_RESPONSE (R238). A response to an abandoned request arrives and is discarded, counting in CORE_DMA_LATE. -/
  | lateResponse (txid : BitVec 16)
  /-- TXID_HOLD_EXPIRE (R238). An abandoned request's tracker entry is freed after 2 × REMOTE_US. -/
  | txidHoldExpire (txid : BitVec 16)
  /-- REMOTE_RESPONSE (R278). Read data, a write acknowledge or an error returns to the originator and is accounted against its transaction. -/
  | remoteResponse (f : Frame)
  /-- RING_STOP (R240). CTL.STOP lets the current descriptor complete and then places the ring in STOPPED. -/
  | ringStop (r : Requester) (c : CoreId) (g : RingId)
  /-- RING_ABORT (R240). CTL.ABORT ends the current descriptor at the next 4 KiB boundary with ABORTED and stops the ring. -/
  | ringAbort (r : Requester) (c : CoreId) (g : RingId) (moved : Nat)
  /-- RING_RESTART (R240). CTL.RESTART returns a STOPPED or HALTED ring to RUN, clearing its fallback registers. -/
  | ringRestart (r : Requester) (c : CoreId) (g : RingId)
  /-- RING_ENABLE (R244). A change of CTL.EN from 0 to 1 resets the head index and pending count and puts the ring in RUN. -/
  | ringEnable (r : Requester) (c : CoreId) (g : RingId)
  /-- DMA_CTRCLR (R243). A write of 1 to CORE_DMA_CTRCLR.CLEAR zeroes the DMA byte, stall and late counters. -/
  | dmaCtrclr (c : CoreId)
  /-- TRAIN_START (R249). A used link starts training from LIGHT on a LINK reset, at the end of IMAGE, on RETRAIN or on leaving L2. -/
  | trainStart (l : LinkId) (why : TrainCause)
  /-- RETRAIN (R269). A write of 1 to LNK_CTL.RETRAIN starts training from step 1. -/
  | retrain (r : Requester) (l : LinkId)
  /-- LIGHT_DONE (R249). Average power of at least −12 dBm is found on lane 0, and the link moves to SPEAK. -/
  | lightDone (l : LinkId)
  /-- SPEAK_DONE (R249). TRAIN frames have exchanged versions, node identifier and link number, and the link moves to LOCK. -/
  | speakDone (l : LinkId) (node : BitVec 14) (link : BitVec 5) (vers : BitVec 2)
  /-- LOCK_DONE (R249). Clock recovery locks on all nine lanes, and the link moves to EQUALISE. -/
  | lockDone (l : LinkId) (locked : BitVec 9)
  /-- EQUALISE_DONE (R249). Receivers finish adapting, and the link moves to ALIGN. -/
  | equaliseDone (l : LinkId)
  /-- ALIGN_DONE (R250). Lanes are deskewed and tested, the spare is assigned and the width set, or the attempt fails. -/
  | alignDone (l : LinkId) (failed : BitVec 9) (peerFailed : BitVec 9)
  /-- IDENT_DONE (R251). The peer is checked against the link plan and VC credits are initialised, or the link goes DOWN with LNK_WIRING. -/
  | identDone (l : LinkId)
  /-- LATENCY_DONE (R249). 1,024 timed round trips set LNK_LAT and LNK_RTT, and the link reaches UP or UP_HELD. -/
  | latencyDone (l : LinkId) (lat : BitVec 24) (rtt : BitVec 24)
  /-- TRAIN_STEP_TIMEOUT (R249). A training step passes its limit: the link returns to DARK for 100 ms, or after the third failure enters DOWN with LNK_TRAIN_FAIL. -/
  | trainStepTimeout (l : LinkId)
  /-- DARK_BACKOFF_EXPIRE (R249). The 100 ms DARK pause after a failed attempt ends, and the next attempt begins. -/
  | darkBackoffExpire (l : LinkId)
  /-- CODEWORD_RECEIVE (R255). A codeword is decoded; an uncorrectable codeword discards every frame with a byte in it. -/
  | codewordReceive (l : LinkId) (symErrs : List (Fin 544)) (f : Option Frame) (tail : List Byte)
  /-- DATA (R256). A DATA frame passing its CRC is acknowledged and delivered in sequence, or discarded as a duplicate or gap. -/
  | dataFrame (l : LinkId) (f : Frame)
  /-- TARGET_WRITE_DONE (R278). The target's memory has written a remote write, and a write acknowledge is sent to SRC. -/
  | targetWriteDone
  /-- REMOTE_READ_SERVE (R278). A read request is served at the target and read data or an error is returned. -/
  | remoteReadServe
  /-- FRAME_TRANSMIT (R291). A link sends one frame in its next slot position, giving reserved positions to their piste when a credit is held. -/
  | frameTransmit (l : LinkId)
  /-- CTRL (R254). A CTRL frame is received, delivered in sequence and dispatched by its subtype. -/
  | ctrlFrame (l : LinkId) (f : Frame)
  /-- RREQ (R257). A replay request makes this end's sender resend from the requested ACK. -/
  | rreqFrame (l : LinkId) (f : Frame)
  /-- IDLE (R256). An IDLE frame passes its acknowledgement and credits to this end's sender. -/
  | idleFrame (l : LinkId) (f : Frame)
  /-- TRAIN (R254). A TRAIN frame carries a training exchange, accepted only in training steps 2 to 7. -/
  | trainFrame (l : LinkId) (f : Frame)
  /-- LMAP (R263). A received LMAP frame makes the transmitter switch to the new lane map at the next codeword boundary, marking it in the stream. -/
  | lmapFrame (l : LinkId) (f : Frame)
  /-- MAP_MARKER (R263). The receiver finds the map marker and decodes with the new lane map from there. -/
  | mapMarker (l : LinkId) (nth : Nat)
  /-- MAP_MARKER_TIMEOUT (R263). No map marker arrives within 50 µs of the lane's loss, and the link goes down. -/
  | mapMarkerTimeout (l : LinkId)
  /-- ACK_DUE (R256). A delivered frame's acknowledgement falls due after 0.2 µs or 64 frames, and a header, if needed an IDLE frame, is sent. -/
  | ackDue (l : LinkId)
  /-- REPLAY_TIMER (R257). Frame U stays unacknowledged for LNK_RTT + 2 µs, and the sender resends from U. -/
  | replayTimer (l : LinkId)
  /-- PROGRESS_TIMEOUT (R259). U has not advanced for PROGRESS_US, and the link goes down. -/
  | progressTimeout (l : LinkId)
  /-- LANE_LOCK_LOSS (R260). Three or more lanes in service lose lock within 10 µs, the codeword stream stops and the receiver enters HOLD. -/
  | laneLockLoss (l : LinkId) (lanes : BitVec 9)
  /-- HOLD_RESUME (R260). Codewords resume within STALL_US, and the partial frame is completed and checked. -/
  | holdResume (l : LinkId) (unlocked : BitVec 9) (rest : List Byte)
  /-- STALL_TIMEOUT (R260). STALL_US expires in HOLD: the partial frame is discarded and RREQ is sent, or the link goes down. -/
  | stallTimeout (l : LinkId) (unlocked : BitVec 9)
  /-- LANE_LOST (R262). A lane is out of lock or over the error rate for 10 µs: the spare takes over, the link narrows to 7/8, or it goes down. -/
  | laneLost (l : LinkId) (lane : Fin 9) (locked : Bool)
  /-- L1_ENTRY (R267). With PSTATE = 1, a link with no DATA frame for 100 µs enters L1. -/
  | l1Entry (l : LinkId)
  /-- L1_EXIT (R267). A DATA frame to send at either end returns the link from L1 to L0 within 20 µs. -/
  | l1Exit (l : LinkId)
  /-- POWER_STATE (R267). A CTRL frame of subtype 4 requests L2, or grants it when both ends have PSTATE = 2, and both ends enter L2. -/
  | powerState (l : LinkId) (f : Frame)
  /-- LINK_MARGIN_MEASURE (R268). Once per second each lane's eye, power, bias and error ratio are measured and LNK_MARGIN is logged on a threshold crossing. -/
  | linkMarginMeasure (l : LinkId) (lane : Fin 9) (m : LaneMeasure)
  /-- ENTRY_LAUNCH (R302). A script entry launches once every core in CORES has issued COLGO and its instant has come, flagging lateness, or is refused as COL_ENTRY_BAD. -/
  | entryLaunch
  /-- COUNT_RECORD (R314). A count record is checked against the current entry for GRIDE, PSTEP and bytes, or held for a later entry, or raises ORDER_CROSS or COL_STRAY. -/
  | countRecord (f : Frame)
  /-- DATA_RECORD (R312). A collective data record is written or accumulated at its address and counted towards its step. -/
  | dataRecord (f : Frame)
  /-- GRID_DATA_RECORD (R306). A grid-data record's 64-bit integers are added into the reduction buffer. -/
  | gridDataRecord (f : Frame)
  /-- ABORT_RECORD (R319). An abort record naming the current or a held entry stops the script and raises COL_ABORTED. -/
  | abortRecord (f : Frame)
  /-- COLLECTIVE_STEP_DONE (R309). A schedule step's count record and data have arrived, and the next halving-doubling step starts. -/
  | collectiveStepDone
  /-- ENTRY_COMPLETE (R303). An entry's records are all sent and received: the sequence counter advances and COLWAIT ends on its cores. -/
  | entryComplete
  /-- ORDER_STALL (R317). No record of the launched entry arrives for COL_WAIT_LIMIT, and ORDER_STALL is raised. -/
  | orderStall
  /-- POOL_GRANT (R321). Each cycle, the allocator grants free staging buffers in rotating priority, or answers POOL_EMPTY. -/
  | poolGrant (pool : Fin 16) (asking : List (Fin 25))
  /-- SEND_BUFFER_FREE (R322). A send queue frees a buffer once its last record has entered the replay buffer, passing it to the next waiting queue. -/
  | sendBufferFree (pool : Fin 16) (buf : BitVec 9)
  /-- COL_POOL_ALLOC (R322). A register read of COL_POOL_n_ALLOC allocates a buffer and returns its index, or 0xFFFF. -/
  | colPoolAlloc (r : Requester) (pool : Fin 16)
  /-- COL_POOL_FREE (R322). A write of an index to COL_POOL_n_FREE frees that buffer, or sets COL_ERR.POOL when it is not allocated. -/
  | colPoolFree (r : Requester) (pool : Fin 16) (idx : BitVec 16)
  /-- AUDIT_ENTRY_DONE (R346). The audit entry's combined block sums are hashed and the result record is written to DST. -/
  | auditEntryDone
  /-- COL_CTRCLR (R328). A write of 1 to COL_CTRCLR.CLEAR zeroes the collective counters. -/
  | colCtrclr
  /-- MT_TICK (R329). Each machine-time cycle adds 16 ticks to the counter, or 15 or 17 while steering. -/
  | mtTick (ticks : Nat)
  /-- TIME_FRAME_SEND (R331). Every 10 µs a time frame stamped with the sender's machine time is sent on each eligible Twivin 2 link. -/
  | timeFrameSend
  /-- TIME_FRAME_RECEIVE (R334). A received time frame yields an offset sample that updates the candidate set and steers the counter. -/
  | timeFrameReceive (l : LinkId) (f : Frame)
  /-- PARENT_SWITCH (R332). The parent stops being a candidate, or a better candidate persists for 1 ms, and the module changes parent. -/
  | parentSwitch
  /-- SYNC_ACQUIRE (R334). The filtered offset stays within ±4 ns for 1 ms, and SYNC becomes 1. -/
  | syncAcquire
  /-- MTC_OFFSET (R334). The filtered offset exceeds ±4 ns for 1 s, and the margin warning is logged. -/
  | mtcOffset
  /-- HOLDOVER_ENTER (R335). The module has no parent candidate, sets HOLD and logs MTC_HOLDOVER. -/
  | holdoverEnter
  /-- HOLDOVER_LIMIT (R335). HOLD_LIMIT_US passes without a candidate: SYNC clears and MTC_UNSYNC is raised. -/
  | holdoverLimit
  /-- ROOT_TAKEOVER (R333). The standby root has seen no primary candidate for 1 ms, becomes root and logs MTC_ROOT_TAKEOVER. -/
  | rootTakeover
  /-- ROOT_RETURN (R333). A primary candidate is present for 1 ms, and the standby root returns to following. -/
  | rootReturn
  /-- HEARTBEAT_SEND (R352). Every 100 µs a heartbeat CTRL frame is sent on each eligible link. -/
  | heartbeatSend
  /-- HEARTBEAT (R353). A received heartbeat refreshes the link's liveness and raises a module notice if HSTATE is 1 or 2. -/
  | heartbeat (l : LinkId) (f : Frame)
  /-- LINK_SILENT (R353). No heartbeat arrives on a link for LIMIT_US: a module notice is raised if all links to the neighbour are silent, else HB_LOST is logged and retraining begins. -/
  | linkSilent (l : LinkId)
  /-- NOTICE (R355). A headland notice is accepted, held or discarded by round, and stored and forwarded when its key is new or its STAMP earlier. -/
  | notice (l : LinkId) (f : Frame)
  /-- HL_CLOSE (R356). At instant C, the round moves from COLLECT to SETTLE. -/
  | hlClose
  /-- HL_DECIDE (R357). At instant D, the cut mask and plan are computed, cores quiesce, rings abort, a CONFIRM is flooded and the plan image is staged. -/
  | hlDecide
  /-- PLAN_PROGRAM_LOAD (R361). The plan loader copies a core's program into its inactive bank once that core is QUIESCED, and issues CLEAR as groups reach OPEN. -/
  | planProgramLoad (c : CoreId)
  /-- HL_COMMIT (R360). At instant P, with checks passed, the staged plan is committed, cores are started and HL_CUT is logged; otherwise HL_SPLIT, HL_NO_MIRROR or HL_NO_PLAN is raised. -/
  | hlCommit
  /-- MARGIN_MONITOR (R368). Every 1 ms the voltage and timing monitors compare their readings and raise FLT_VMARGIN or FLT_TMARGIN. -/
  | marginMonitor (timing : Bool) (cluster : Fin 8) (monitor : Fin 8) (reading : BitVec 16) (below : Bool)
  /-- DRAIN_BUCKET_AGE (R369). Hourly, the oldest score bucket ages out and DRAIN clears if the score falls below the limit. -/
  | drainBucketAge
  /-- GLEANER_WRITE (R372). A pending record whose holding time has passed, or any record while the queue is crowded, is written to the ring, or lost if the ring is full. -/
  | gleanerWrite (us : Nat) (sramOk : Bool)
  /-- FATAL_DUMP_DONE (R375). The steward completes the dump in the first place that succeeds, sets VALID and WHERE and logs FLT_DUMP_DONE. -/
  | fatalDumpDone (gddrOk : Bool) (granaryOk : Bool)
  /-- DUMP_RELEASE (R377). A write of 1 to FLT_DUMP.RELEASE clears VALID and returns the dump region to use. -/
  | dumpRelease (r : Requester)
  /-- CHECK (R390). STG_CTL.CHECK in OPEN starts STG_CHECK on the post-commit state. -/
  | stgCheck (r : Requester)
  /-- STG_CHECK_DONE (R390). STG_CHECK finishes: STG enters CHECKED, or records the first failure and returns to OPEN. -/
  | stgCheckDone
  /-- ARM (R391). STG_CTL.ARM in CHECKED arms the commit at STG_COMMIT_AT. -/
  | stgArm (r : Requester)
  /-- DISARM (R389). STG_CTL.DISARM returns ARMED to CHECKED. -/
  | stgDisarm (r : Requester)
  /-- DISCARD (R389). STG_CTL.DISCARD copies live values to the shadow, clears dirty marks and returns STG to OPEN. -/
  | stgDiscard (r : Requester)
  /-- STG_COMMIT (R392). At the trigger, every dirty field takes its shadow value in its own domain, then STG returns to OPEN and the commit count rises. -/
  | stgCommit
  /-- CONTROL_WRITE (R464). A write to a register word without behaviour of its own updates each field per its access type, subject to the expert gate and live-field rules. -/
  | controlWrite (r : Requester) (off : BitVec 28) (be : BitVec 4) (value : Word) (hw : Word)
  /-- PERST_ASSERT (R436). PERST# low resets the host interface only. -/
  | perstAssert
  /-- FUNCTION_LEVEL_RESET (R436). A Function Level Reset resets the host interface only. -/
  | functionLevelReset
  /-- PCIE_LINK_TRAINED (R435). The host link trains, logging HST_WIDTH if it reaches less than ×16 or 64 GT/s. -/
  | pcieLinkTrained (width : BitVec 5) (speed : BitVec 3)
  /-- HST_LINK_DOWN (R435). The link leaves L0 for Detect or Disabled while PERST# is high, and HST_LINK_DOWN is logged. -/
  | hstLinkDown
  /-- HST_CORR (R435). A correctable PCIe error reported through AER logs HST_CORR. -/
  | hstCorr
  /-- BAR2_ACCESS (R438). A host read or write through BAR2 is translated from HST_BAR2_BASE and served, aborted or poisoned. -/
  | bar2Access (off : BitVec 36) (how : Access) (outcome : EccOutcome)
  /-- MSIX_UNMASK (R440). Unmasking a vector with a pending bit sends one message. -/
  | msixUnmask (v : BitVec 11)
  /-- STATUS (R449). The I2C STATUS command returns the boot, power and fault status words. -/
  | i2cStatus (addr : BitVec 7) (pecOk : Bool)
  /-- EVENTS (R450). The I2C EVENTS command returns the event word and clears the bits it returned. -/
  | i2cEvents (addr : BitVec 7) (pecOk : Bool) (hw : BitVec 6)
  /-- SENSORS (R449). The I2C SENSORS command returns coolant, temperature and input readings. -/
  | i2cSensors (addr : BitVec 7) (pecOk : Bool)
  /-- REG_READ (R449). The I2C REG_READ command reads a control-space word. -/
  | regRead (addr : BitVec 7) (pecOk : Bool) (off : Word)
  /-- REG_WRITE (R449). The I2C REG_WRITE command writes a control-space word as requester 3. -/
  | regWrite (addr : BitVec 7) (pecOk : Bool) (off : Word) (value : Word)
  /-- DUMP_READ (R449). The I2C DUMP_READ command returns up to 32 bytes of the sideband dump. -/
  | dumpRead (addr : BitVec 7) (pecOk : Bool) (off : Word)
  /-- FLASH_READ (R449). The I2C FLASH_READ command returns 32 bytes of an image slot. -/
  | flashRead (addr : BitVec 7) (pecOk : Bool) (slot : Byte) (off : Word)
  /-- FLASH_ERASE (R449). The I2C FLASH_ERASE command starts erasing a 16 MiB slot. -/
  | flashErase (addr : BitVec 7) (pecOk : Bool) (slot : Byte)
  /-- FLASH_ERASE_DONE (R449). The slot erase ends, and STATUS stops answering busy. -/
  | flashEraseDone
  /-- FLASH_WRITE (R449). The I2C FLASH_WRITE command writes 32 bytes to a slot. -/
  | flashWrite (addr : BitVec 7) (pecOk : Bool) (slot : Byte) (off : Word) (data : List Byte)
  /-- KEY_WRITE (R407). The I2C KEY_WRITE command writes the one-time key slot, and is refused once the slot is written. -/
  | keyWrite (addr : BitVec 7) (pecOk : Bool) (data : List Byte)
  /-- KEY_READ (R449). The I2C KEY_READ command returns whether the key slot is written and its contents. -/
  | keyRead (addr : BitVec 7) (pecOk : Bool)
  /-- BYPASS (R451). The test port's BYPASS instruction passes TDI to TDO through one bit. -/
  | tapBypass (trst : Bool) (tdi : List Bool)
  /-- IDCODE (R451). The test port's IDCODE instruction reads 0x10E4_058B. -/
  | tapIdcode (trst : Bool)
  /-- SAMPLE_PRELOAD (R451). The test port's SAMPLE/PRELOAD instruction samples or preloads the boundary scan. -/
  | tapSamplePreload (trst : Bool) (scan : List Bool)
  /-- EXTEST (R451). The test port's EXTEST instruction takes effect only while RESET_N is low, and otherwise acts as BYPASS. -/
  | tapExtest (trst : Bool) (tdi : List Bool)
  /-- METER_SAMPLE (R452). At 8 kHz, the meter samples voltage and current and integrates energy. -/
  | meterSample (mv : BitVec 32) (ma : BitVec 32) (energyMj : Nat)
  /-- METER_INTERVAL (R456). Each 1 ms meter interval's energy goes to the latest good tag's block, or to E_UNTAG. -/
  | meterInterval
  /-- TAG_SEND (R455). Every 1 ms the die sends the meter a block tag with BLK, STATE, WORK and MT. -/
  | tagSend
  /-- TAG_RECEIVE (R456). The meter takes a tag, adding WORK to W_BLK, or discards it and counts TAGLOST. -/
  | tagReceive (data : List Byte)
  /-- METER_COMMIT (R454). Every 60 s the meter commits its counters to non-volatile memory. -/
  | meterCommit
  /-- METER_POWER_LOSS (R454). The input falls below 20 V: the meter commits its counters on hold-up and adds 1 to PLOSS. -/
  | meterPowerLoss
  /-- TAMPER (R460). Opening the carrier sets TAMPER permanently in the meter. -/
  | tamper
  /-- METER_STATUS_FRAME (R462). Every 100 ms the meter's status frame updates the MTR mirror as one update. -/
  | meterStatusFrame
  /-- READ (R458). The meter READ command returns a signed snapshot of the counters for a block and nonce. -/
  | meterRead (crcOk : Bool) (blk : BitVec 16) (nonce : DWord)
  /-- PUBKEY (R457). The meter PUBKEY command returns the public key and the factory attestation. -/
  | meterPubkey (crcOk : Bool)
  /-- INFO (R457). The meter INFO command returns the serial number, firmware prefix and flags. -/
  | meterInfo (crcOk : Bool)
  /-- MODULE_REMOVAL (R27). The lever opens and the contacts break in the reverse of the R26 order, PRSNT_N going first and the power blades after it. -/
  | moduleRemoval (inputMa : Nat)
  /-- INTERNAL_RESET_RELEASE (R42). 1 ms after PWR_OK rose with RESET_N already high, the internal reset ends and the steward boot begins. -/
  | internalResetRelease
  /-- INPUT_LOW_EXIT (R40). The input rises out of the band between 43.0 V and 48 V, which ends the refusal of sprint and re-arms the once-per-entry warning. -/
  | inputLowExit (mv10 : BitVec 16)
  /-- COOLANT_READING (R46). The inlet and outlet coolant sensors are read and PWR_COOLANT is updated, which decides whether sprint may be granted or must end. -/
  | coolantReading (inlet : BitVec 12) (outlet : BitVec 12)
  /-- PERST_RELEASE (R435). PERST# rises, HST_STATUS.PERST clears and PCIe link training begins. -/
  | perstRelease
  /-- HOST_COMPLETION (R239). A PCIe completion for a DMA read of host memory arrives and delivers its data, or ends the descriptor with HOST_ERROR when it carries Unsupported Request, Completer Abort or poisoned data. -/
  | hostCompletion (c : CoreId) (reply : HostReply)
  /-- D3HOT_TRANSITION (R434). The host moves the function between D0 and D3hot, which stops or restores its starting of requests and leaves the power ladder unchanged. -/
  | d3hotTransition (toD3 : Bool)
  /-- LO_READ_LATCH (R381). A read of the _LO half of a 64-bit register pair latches the _HI half for that requester until the requester reads _HI or reads _LO again. -/
  | loReadLatch (r : Requester) (off : BitVec 28) (be : BitVec 4)
  deriving DecidableEq, Repr

end Sys2Proof
end

