-- ==== Sys2Proof/Decode.lean ====
section
/-! DEFINITION. Words of the opcode table: every row of it gives no bits, so no word spells a command. -/

namespace Sys2Proof

/-- The command that a word of `nbits` bits spells by the table: none, since no row gives bits. -/
def decodeTableWord (_nbits _w : Nat) : Option Instr := none

end Sys2Proof
end

