-- ==== Sys2Proof/Config.lean ====
section
/-! DEFINITION. The values the spec leaves open (log entry 1): constants without a body, applied to the counter `freeIdx` of the
State or to the operands they depend on. Nothing constrains them. -/

namespace Sys2Proof.Config

/-- A fresh bit that the spec leaves open. -/
opaque freeBit : Nat → Bool

/-- A fresh number that the spec leaves open, below a bound its user states. -/
opaque freeNat : Nat → Nat

/-- Fresh bytes that the spec leaves open: byte `i` of the value drawn at a counter. -/
opaque freeByte : Nat → Nat → Byte

/-- The row of a bank that an offset of a Granary stack lies in, as one number: the spec gives channels and offsets (R165) and no bank or row
addresses. -/
opaque grnRow : Nat → Nat → Nat

/-- The signature of R458 that this meter's private key makes of a message: 64 bytes, read by index (log entry 2). -/
opaque meterSign : List Byte → Nat → Byte

/-- The meter's public key of R457: 64 bytes. -/
opaque meterPub : Nat → Byte

/-- The factory attestation of R457. -/
opaque meterAttest : Nat → Byte

/-- The module's serial number, MODULE capability (log entry 2). -/
opaque serial : Nat

/-- The defects fused at the factory (R404, log entry 2): type, unit, index and detail of each. -/
opaque fused : List (Nat × Nat × Nat × Nat)

/-- The module is an EXN-640-M: its meter is sealed and certified (R461, log entry 2). -/
opaque certified : Bool

/-- The meter's serial number, the first bytes of its firmware's digest, and its age in seconds when the machine was reset (R458,
log entry 2). -/
opaque meterSerial : Nat
opaque meterFw : Nat
opaque meterAge : Nat

/-- Every record of a steward patch names the ROM revision of this steward (R403 reason 9, log entry 2). -/
opaque patchFits : List Byte → Bool

end Sys2Proof.Config
end

