-- ==== Sys2Proof/Machine/Numerics.lean ====
section
/-! DEFINITION. Number formats and arithmetic, R48 to R67 and R71 to R76. Values are exact (a sign, a natural
mantissa and a power of two), every operation is computed exactly and rounded once at the end. -/

namespace Sys2Proof.Machine

/-- Special encodings of a format, R49: infinities and NaNs in the top exponent, one NaN code only, or neither. -/
inductive Specials where
  | ieee | oneNan | none
  deriving DecidableEq, Repr

/-- A floating-point element format, R49. -/
structure FpFmt where
  ew : Nat
  mw : Nat
  bias : Nat
  specials : Specials
  deriving DecidableEq, Repr

def fp32 : FpFmt := ⟨8, 23, 127, .ieee⟩
def fp16 : FpFmt := ⟨5, 10, 15, .ieee⟩
def bf16 : FpFmt := ⟨8, 7, 127, .ieee⟩
def e4m3 : FpFmt := ⟨4, 3, 7, .oneNan⟩
def e5m2 : FpFmt := ⟨5, 2, 15, .ieee⟩
def e3m2 : FpFmt := ⟨3, 2, 3, .none⟩
def e2m3 : FpFmt := ⟨2, 3, 1, .none⟩
def e2m1 : FpFmt := ⟨2, 1, 1, .none⟩

/-- An exact value: NaN, a signed infinity, or `(-1)^neg * m * 2^e`. -/
inductive Val where
  | nan
  | inf (neg : Bool)
  | fin (neg : Bool) (m : Nat) (e : Int)
  deriving DecidableEq, Repr

/-- The five arithmetic flags, R67. -/
structure Flags where
  invalid : Bool := false
  divzero : Bool := false
  overflow : Bool := false
  underflow : Bool := false
  inexact : Bool := false
  deriving DecidableEq, Repr

/-- No flag. -/
def Flags.zero : Flags := ⟨false, false, false, false, false⟩

/-- The flags of two events together. -/
def Flags.or (a b : Flags) : Flags :=
  ⟨a.invalid || b.invalid, a.divzero || b.divzero, a.overflow || b.overflow, a.underflow || b.underflow,
   a.inexact || b.inexact⟩

/-- The invalid flag alone. -/
def Flags.inv (b : Bool) : Flags := { Flags.zero with invalid := b }

/-- What the matrix arrays set: invalid and overflow only, R67. -/
def Flags.arrayOnly (f : Flags) : Flags := { Flags.zero with invalid := f.invalid, overflow := f.overflow }

def Val.isNan : Val → Bool
  | .nan => true
  | _ => false

def Val.isInf : Val → Bool
  | .inf _ => true
  | _ => false

def Val.isFinite : Val → Bool
  | .fin _ _ _ => true
  | _ => false

def Val.isZero : Val → Bool
  | .fin _ 0 _ => true
  | _ => false

def Val.isNeg : Val → Bool
  | .nan => false
  | .inf n => n
  | .fin n _ _ => n

def Val.neg : Val → Val
  | .nan => .nan
  | .inf n => .inf (!n)
  | .fin n m e => .fin (!n) m e

def Val.abs : Val → Val
  | .nan => .nan
  | .inf _ => .inf false
  | .fin _ m e => .fin false m e

/-- Positive zero. -/
def Val.zero : Val := .fin false 0 0

/-- One. -/
def Val.one : Val := .fin false 1 0

/-- An integer as a value. -/
def Val.ofInt (n : Int) : Val := .fin (decide (n < 0)) n.natAbs 0

/-- The signed mantissa of a finite value at a smaller exponent. -/
def Val.atExp (neg : Bool) (m : Nat) (e lo : Int) : Int :=
  let a : Int := ((m <<< (e - lo).toNat : Nat) : Int)
  if neg then -a else a

/-- Exact sum; the flag tells infinity minus infinity (R51). Two zeros of different signs, and two values that cancel,
give +0 (IEEE 754). -/
def Val.add (a b : Val) : Val × Bool :=
  match a, b with
  | .nan, _ => (.nan, false)
  | _, .nan => (.nan, false)
  | .inf x, .inf y => if x = y then (.inf x, false) else (.nan, true)
  | .inf x, _ => (.inf x, false)
  | _, .inf y => (.inf y, false)
  | .fin x m e, .fin y n f =>
    let lo := min e f
    let s := Val.atExp x m e lo + Val.atExp y n f lo
    if s = 0 then (.fin (x && y) 0 0, false) else (.fin (decide (s < 0)) s.natAbs lo, false)

/-- Exact product; the flag tells zero times infinity. -/
def Val.mul (a b : Val) : Val × Bool :=
  match a, b with
  | .nan, _ => (.nan, false)
  | _, .nan => (.nan, false)
  | .inf x, .inf y => (.inf (x != y), false)
  | .inf x, .fin y n _ => if n = 0 then (.nan, true) else (.inf (x != y), false)
  | .fin x m _, .inf y => if m = 0 then (.nan, true) else (.inf (x != y), false)
  | .fin x m e, .fin y n f => (.fin (x != y) (m * n) (e + f), false)

/-- The value times a power of two. -/
def Val.scale (v : Val) (k : Int) : Val :=
  match v with
  | .fin n m e => .fin n m (e + k)
  | w => w

/-- Order of two values that are no NaN: the sign of their difference. -/
def Val.cmp (a b : Val) : Int :=
  match a, b with
  | .nan, _ => 0
  | _, .nan => 0
  | .inf x, .inf y => if x = y then 0 else if x then -1 else 1
  | .inf x, _ => if x then -1 else 1
  | _, .inf y => if y then 1 else -1
  | .fin x m e, .fin y n f =>
    let lo := min e f
    Val.atExp x m e lo - Val.atExp y n f lo

/-- The exponent ⌊log2 |x|⌋ of a finite nonzero value, R72. -/
def Val.exponent : Val → Int
  | .fin _ m e => (Nat.log2 m : Int) + e
  | _ => 0

/-! ### Encodings, R49 and R50 -/

def FpFmt.bits (f : FpFmt) : Nat := 1 + f.ew + f.mw

/-- The smallest exponent of a normal number. -/
def FpFmt.emin (f : FpFmt) : Int := 1 - (f.bias : Int)

/-- The magnitude code (exponent and mantissa fields together) of the largest finite value. -/
def FpFmt.maxCode (f : FpFmt) : Nat :=
  match f.specials with
  | .ieee => ((2 ^ f.ew - 1) <<< f.mw) - 1
  | .oneNan => 2 ^ (f.ew + f.mw) - 2
  | .none => 2 ^ (f.ew + f.mw) - 1

/-- The code of the canonical NaN (R50). Formats without NaN have none; 0 stands there and is never read. -/
def FpFmt.nanCode (f : FpFmt) : Nat :=
  match f.specials with
  | .ieee => ((2 ^ f.ew - 1) <<< f.mw) + 2 ^ (f.mw - 1)
  | .oneNan => 2 ^ (f.ew + f.mw) - 1
  | .none => 0

/-- The code of +∞ in a format that has infinities. -/
def FpFmt.infCode (f : FpFmt) : Nat := (2 ^ f.ew - 1) <<< f.mw

/-- A magnitude code with its sign. -/
def FpFmt.signed (f : FpFmt) (neg : Bool) (code : Nat) : Nat :=
  (if neg then 2 ^ (f.ew + f.mw) else 0) + code

/-- The value a code stands for. -/
def FpFmt.decode (f : FpFmt) (w : Nat) : Val :=
  let neg := w.testBit (f.ew + f.mw)
  let code := w % 2 ^ (f.ew + f.mw)
  let ex := code >>> f.mw
  let man := code % 2 ^ f.mw
  let fin : Val := if ex = 0 then .fin neg man (f.emin - f.mw)
    else .fin neg (2 ^ f.mw + man) ((ex : Int) - f.bias - f.mw)
  match f.specials with
  | .ieee => if ex = 2 ^ f.ew - 1 then (if man = 0 then .inf neg else .nan) else fin
  | .oneNan => if code = 2 ^ (f.ew + f.mw) - 1 then .nan else fin
  | .none => fin

/-! ### Rounding, R57 and R59 -/

/-- Rounding modes of R57; `stochastic` carries the 24-bit random integer of R60. -/
inductive Rnd where
  | nearest
  | zero
  | stochastic (r : Nat)
  deriving DecidableEq, Repr

/-- Round a magnitude `m * 2^e` to a multiple of `2^u`: the multiple and whether it differs from the exact value. -/
def roundAt (rnd : Rnd) (m : Nat) (e u : Int) : Nat × Bool :=
  if u ≤ e then (m <<< (e - u).toNat, false)
  else
    let sh := (u - e).toNat
    let lo := m >>> sh
    let rem := m % 2 ^ sh
    let up := match rnd with
      | .nearest => decide (2 ^ sh < 2 * rem) || (decide (2 * rem = 2 ^ sh) && lo.testBit 0)
      | .zero => false
      | .stochastic r => decide (2 ^ 24 ≤ ((rem <<< 24) >>> sh) + r)
    (if up then lo + 1 else lo, decide (rem ≠ 0))

/-- The magnitude code of `m * 2^e` rounded to the precision of a format with no upper limit on the exponent (R58),
and whether it differs from the exact value. -/
def FpFmt.roundCode (f : FpFmt) (rnd : Rnd) (m : Nat) (e : Int) : Nat × Bool :=
  if m = 0 then (0, false) else
  let u := max ((Nat.log2 m : Int) + e) f.emin - f.mw
  let (k, inex) := roundAt rnd m e u
  -- a multiple k of 2^u: below 2^mw it is subnormal, else its exponent field follows from u; a carry to 2^(mw+1) is
  -- the next binade, which the sum of fields gives by itself
  let field := (u + f.mw + f.bias - 1).toNat
  (field * 2 ^ f.mw + k, inex)

/-- Flags of a rounded result that stays in range: underflow is a nonzero result below the smallest normal
magnitude that is inexact (R67). -/
def FpFmt.tinyFlags (f : FpFmt) (code : Nat) (inex : Bool) : Flags :=
  { Flags.zero with underflow := inex && decide (code ≠ 0) && decide (code < 2 ^ f.mw), inexact := inex }

/-- A result of the vector engine, the arrays or the threshers rounded once: the overflow rule of R65. -/
def FpFmt.roundArith (f : FpFmt) (rnd : Rnd) (v : Val) : Nat × Flags :=
  match v with
  | .nan => (f.nanCode, Flags.zero)
  | .inf n => (f.signed n f.infCode, Flags.zero)
  | .fin n m e =>
    let (code, inex) := f.roundCode rnd m e
    if f.maxCode < code then
      let top := match rnd with
        | .zero => f.maxCode
        | _ => f.infCode
      (f.signed n top, { Flags.zero with overflow := true, inexact := true })
    else (f.signed n code, f.tinyFlags code inex)

/-- A narrowing conversion, R58. DESIGN CHOICE (log entry 41): where a finite value overflows with SAT = 0 to a format that has no infinity, the table
names overflow and invalid for the NaN; inexact is raised as well only where the rounding itself was inexact. -/
def FpFmt.convert (f : FpFmt) (rnd : Rnd) (sat : Bool) (v : Val) : Nat × Flags :=
  match v with
  | .nan => (f.nanCode, Flags.zero)
  | .inf n =>
    match f.specials with
    | .ieee => (f.signed n f.infCode, Flags.zero)
    | _ => (f.nanCode, Flags.inv true)
  | .fin n m e =>
    let (code, inex) := f.roundCode rnd m e
    if f.maxCode < code then
      if rnd = .zero ∨ sat = true then (f.signed n f.maxCode, { Flags.zero with overflow := true, inexact := true })
      else match f.specials with
        | .ieee => (f.signed n f.infCode, { Flags.zero with overflow := true, inexact := true })
        | _ => (f.nanCode, { Flags.zero with overflow := true, invalid := true, inexact := inex })
    else (f.signed n code, f.tinyFlags code inex)

/-- A conversion to a two's-complement integer of `w` bits, R58: the integer and the flags. -/
def convertInt (w : Nat) (rnd : Rnd) (v : Val) : Int × Flags :=
  let hi : Int := 2 ^ (w - 1) - 1
  let lo : Int := -(2 ^ (w - 1))
  match v with
  | .nan => (0, Flags.inv true)
  | .inf n => (if n then lo else hi, Flags.inv true)
  | .fin n m e =>
    let (k, inex) := roundAt rnd m e 0
    let x : Int := if n then -(k : Int) else k
    if hi < x ∨ x < lo then
      (if n then lo else hi, { Flags.zero with invalid := true, overflow := true, inexact := true })
    else (x, { Flags.zero with inexact := inex })

/-- An integer as a field of `w` bits in two's complement. -/
def intBits (w : Nat) (x : Int) : Nat := (x % (2 ^ w : Nat)).toNat

/-- The signed integer a field of `w` bits holds. -/
def bitsInt (w : Nat) (n : Nat) : Int :=
  let k := n % 2 ^ w
  if k < 2 ^ (w - 1) then k else (k : Int) - 2 ^ w

/-! ### Stochastic rounding, R60 -/

/-- The mixing function of R60. -/
def mix64 (z : DWord) : DWord :=
  let z := z + 0x9E3779B97F4A7C15#64
  let z := (z ^^^ (z >>> 30)) * 0xBF58476D1CE4E5B9#64
  let z := (z ^^^ (z >>> 27)) * 0x94D049BB133111EB#64
  z ^^^ (z >>> 31)

/-- The 24-bit random integer of an element, R60. -/
def srRandom (step : DWord) (tensor : Nat) (idx : DWord) : Nat :=
  ((mix64 (mix64 (mix64 step ^^^ BitVec.ofNat 64 tensor) ^^^ idx)) >>> 40).toNat

/-- The mode of a 2-bit rounding field; 3 is malformed where the field stands in a record and is not reached. -/
def rndOf (field : Nat) (r : Nat) : Rnd :=
  match field with
  | 0 => .nearest
  | 1 => .zero
  | _ => .stochastic r

/-! ### Microscaling blocks, R53 to R55 -/

/-- The element format of an MX format code; MXINT8 (10) has none. -/
def mxElem : Nat → Option FpFmt
  | 5 => some e4m3
  | 6 => some e5m2
  | 7 => some e3m2
  | 8 => some e2m3
  | 9 => some e2m1
  | _ => none

/-- emax of R54. -/
def mxEmax : Nat → Int
  | 5 => 8
  | 6 => 15
  | 7 => 4
  | 8 => 2
  | 9 => 2
  | _ => 0

/-- The value of an MX element before scaling. An element code that is a NaN or an infinity of its own format reads as such. -/
def mxElemVal (code : Nat) (w : Nat) : Val :=
  match mxElem code with
  | some f => f.decode w
  | none => (Val.ofInt (bitsInt 8 w)).scale (-6)

/-- The value of an element of an MX block, R55. -/
def mxVal (code scale w : Nat) : Val :=
  if scale = 0xFF then .nan else (mxElemVal code w).scale ((scale : Int) - 127)

/-- The larger of two finite magnitudes. -/
def maxMag (acc : Val) (v : Val) : Val :=
  if v.isFinite && decide (Val.cmp acc v.abs < 0) then v.abs else acc

/-- One element of an MX block written with scale exponent X, R54: saturation sets no flag. -/
def mxWriteElem (code : Nat) (x : Int) (rnd : Rnd) (v : Val) : Nat × Flags :=
  match v.scale (-x) with
  | .fin n m e =>
    match mxElem code with
    | some f =>
      let (k, inex) := f.roundCode rnd m e
      if f.maxCode < k then (f.signed n f.maxCode, Flags.zero) else (f.signed n k, f.tinyFlags k inex)
    | none =>
      let (k, inex) := roundAt rnd m e (-6)
      let y : Int := if n then -(k : Int) else k
      if 127 < y then (127, Flags.zero) else if y < -128 then (128, Flags.zero)
      else (intBits 8 y, { Flags.zero with inexact := inex })
  | _ => (0, Flags.zero)

/-- The scale code of a block of values, R54, and whether the block is non-finite. -/
def mxScale (code : Nat) (vs : List Val) : Nat × Bool :=
  if vs.any (fun v => !v.isFinite) then (0xFF, true)
  else
    let amax := vs.foldl maxMag Val.zero
    if amax.isZero then (0, false)
    else
      let x := amax.exponent - mxEmax code
      let x := if x < -127 then -127 else if 127 < x then 127 else x
      ((x + 127).toNat, false)

/-- A block of values written in an MX format, R54: the scale code, the element codes and the flags. `rnd i` is the
rounding of element i. -/
def mxWrite (code : Nat) (rnd : Nat → Rnd) (vs : List Val) : Nat × List Nat × Flags :=
  let (sc, nonfin) := mxScale code vs
  if nonfin then (0xFF, vs.map fun _ => 0, Flags.inv (vs.any Val.isInf))
  else if vs.all Val.isZero then (0, vs.map fun _ => 0, Flags.zero)
  else
    let x : Int := (sc : Int) - 127
    let es := vs.zipIdx.map fun p => mxWriteElem code x (rnd p.2) p.1
    (sc, es.map Prod.fst, es.foldl (fun a p => a.or p.2) Flags.zero)

/-! ### Format codes, R48 -/

/-- The floating-point format of a code without scale, or none. -/
def fmtOfCode : Nat → Option FpFmt
  | 0 => some fp32
  | 1 => some fp16
  | 2 => some bf16
  | 3 => some e4m3
  | 4 => some e5m2
  | _ => none

/-- Bits of an element of a format code, R48. -/
def elemBitsOf : Nat → Nat
  | 0 => 32
  | 1 => 16
  | 2 => 16
  | 7 => 6
  | 8 => 6
  | 9 => 4
  | 12 => 32
  | 13 => 64
  | _ => 8

def isMx (code : Nat) : Bool := decide (5 ≤ code) && decide (code ≤ 10)

/-- The value of an element of a format code with a scale code (0x7F where the format has no scale). -/
def elemVal (code scale w : Nat) : Val :=
  if isMx code then mxVal code scale w
  else match fmtOfCode code with
    | some f => f.decode w
    | none => Val.ofInt (bitsInt (elemBitsOf code) w)

/-- A value converted to a format code without scale: the element and the flags, R58. -/
def convertTo (code : Nat) (rnd : Rnd) (sat : Bool) (v : Val) : Nat × Flags :=
  match fmtOfCode code with
  | some f => f.convert rnd sat v
  | none =>
    let w := elemBitsOf code
    let (x, fl) := convertInt w rnd v
    (intBits w x, fl)

/-! ### FP32 helpers -/

/-- The canonical FP32 NaN. -/
def fp32Nan : Nat := 0x7FC00000

/-- FP32 bits that are NaN or infinite. -/
def fp32NonFinite (w : Nat) : Bool := !(fp32.decode w).isFinite

/-- FP32 addition, R62. -/
def fp32Add (a : Nat) (b : Val) : Nat × Flags :=
  let (v, inv) := Val.add (fp32.decode a) b
  let (r, fl) := fp32.roundArith .nearest v
  (r, fl.or (Flags.inv inv))

/-- The split of an FP32 operand into two BF16 halves, R64. -/
def split32 (v : Val) : Val × Val :=
  match v with
  | .nan => (.nan, Val.zero)
  | .inf n => (.inf n, Val.zero)
  | .fin n m e =>
    let hi := bf16.decode (bf16.convert .nearest true (.fin n m e)).1
    let lo := (Val.add (.fin n m e) hi.neg).1
    (hi, bf16.decode (bf16.convert .nearest true lo).1)

/-! ### Grid-sum, R71 to R76 -/

/-- The contribution of an addend on the grid of exponent E: the integer and whether it left the range (R73). -/
def gridTerm (gridE : Int) (v : Val) : Int × Bool :=
  match v with
  | .fin n m e =>
    if m = 0 then (0, false)
    else if gridE - 8 < (Val.fin n m e).exponent then (0, true)
    else
      let k := (roundAt .zero m e (gridE - 50)).1
      (if n then -(k : Int) else k, false)
  | _ => (0, false)

/-- Addition of 64-bit two's-complement integers with the wrap of R74: the sum and whether it overflowed. -/
def gridAdd (a b : DWord) : DWord × Bool :=
  let x := a.toInt + b.toInt
  (a + b, decide (x < -(2 ^ 63)) || decide (2 ^ 63 ≤ x))

/-- The FP32 value of a grid sum, R76: rounded once to nearest even, infinite beyond the range. -/
def gridToFp32 (gridE : Int) (w : DWord) : Nat :=
  (fp32.roundArith .nearest ((Val.ofInt w.toInt).scale (gridE - 50))).1

end Sys2Proof.Machine
end

