-- ==== Sys2Proof/Machine/Regs.lean ====
section
/-! DEFINITION. The register fields of control space (R14, R15) as the register tables of the spec give them:
R68, R103, R126, R159, R163, R190, R191, R194, R199, R222 to R224, R243, R244, R269, R289, R298, R328, R349, R378,
R397, R398, R419, R433, R446 and R462. Every field has a name, spelled as the spec spells it, and a row in
its block's table. Reserved bits have no field; they read 0. Registers whose value is held elsewhere in the State
(CORE_SEQ_STATUS, CORE_SEQ_S_n, CORE_VEC_STATUS, the instruction memories, the capability list, the Gleaner ring, FLT_LRL_n)
have no field here. -/

namespace Sys2Proof.Machine

/-- A field of a register: the word's offset in control space, the lowest bit, the width and the reset value. -/
structure Fld where
  off : Nat
  lo : Nat
  width : Nat
  reset : Nat
  deriving DecidableEq, Repr

/-- The key of a field in the register store. -/
def Fld.key (f : Fld) : Nat := f.off * 32 + f.lo

/-- The word above a field: the _HI half of a _LO field. -/
def Fld.hi (f : Fld) : Fld := ⟨f.off + 4, f.lo, f.width, 0⟩

/-- Access types, R9. -/
inductive Acc where
  | ro | rw | w1c | w1s | wo | st | rl
  deriving DecidableEq, Repr

/-- A row of a register table: the offset in the block, the stride and count of a repeated register, the bits, the reset
value (`reset`, and for the interleave tables plus the index divided by `rdiv` or modulo `rmod`), the access type and the page. -/
structure Row where
  rel : Nat
  stride : Nat
  count : Nat
  lo : Nat
  width : Nat
  reset : Nat
  rdiv : Nat
  rmod : Nat
  acc : Acc
  expert : Bool
  deriving DecidableEq, Repr

/-- The blocks of control space, R14. -/
inductive Blk where
  | gen | stg | mtc | pwr | flt | hst | mtr | lnk (l : Nat) | fab | pst | col | grn (k : Nat) | tbl | gdm (p : Nat)
  | core (c : Nat)
  deriving DecidableEq, Repr

/-! ### Block GEN -/

def Reg.GEN_ID.PART : Fld := ⟨0x00000000, 0, 16, 0x0E40⟩
def Reg.GEN_ID.STEP : Fld := ⟨0x00000000, 16, 8, 0xB1⟩
def Reg.GEN_CAP_PTR : Fld := ⟨0x00000004, 0, 28, 0x100⟩
def Reg.GEN_ERR.LIVE_WRITE_REJECT : Fld := ⟨0x00000008, 0, 1, 0⟩
def Reg.GEN_ERR.EXPERT_REJECT : Fld := ⟨0x00000008, 1, 1, 0⟩
def Reg.GEN_ERR.ACCESS : Fld := ⟨0x00000008, 2, 1, 0⟩
def Reg.GEN_ERR.LWR_CNT : Fld := ⟨0x00000008, 8, 8, 0⟩
def Reg.GEN_ERR.XR_CNT : Fld := ⟨0x00000008, 16, 8, 0⟩
def Reg.GEN_LWR_ADDR : Fld := ⟨0x0000000C, 0, 28, 0⟩
def Reg.GEN_EXPERT : Fld := ⟨0x00000010, 0, 16, 0⟩

/-! ### Block STG -/

def Reg.STG_STATUS.STATE : Fld := ⟨0x00010000, 0, 3, 0⟩
def Reg.STG_STATUS.DIRTY : Fld := ⟨0x00010000, 3, 1, 0⟩
def Reg.STG_STATUS.REASON : Fld := ⟨0x00010000, 8, 4, 0⟩
def Reg.STG_CTL.CHECK : Fld := ⟨0x00010004, 0, 1, 0⟩
def Reg.STG_CTL.ARM : Fld := ⟨0x00010004, 1, 1, 0⟩
def Reg.STG_CTL.DISARM : Fld := ⟨0x00010004, 2, 1, 0⟩
def Reg.STG_CTL.DISCARD : Fld := ⟨0x00010004, 3, 1, 0⟩
def Reg.STG_CTL.VIEW : Fld := ⟨0x00010004, 4, 1, 0⟩
def Reg.STG_FAIL_OFF : Fld := ⟨0x00010008, 0, 28, 0⟩
def Reg.STG_ERR.FAIL : Fld := ⟨0x0001000C, 0, 1, 0⟩
def Reg.STG_ERR.LATE : Fld := ⟨0x0001000C, 1, 1, 0⟩
def Reg.STG_ERR.BUSY : Fld := ⟨0x0001000C, 2, 1, 0⟩
def Reg.STG_ERR.PREEMPT : Fld := ⟨0x0001000C, 3, 1, 0⟩
def Reg.STG_ERR.SEQ : Fld := ⟨0x0001000C, 4, 1, 0⟩
def Reg.STG_ERR.LATE_CNT : Fld := ⟨0x0001000C, 8, 8, 0⟩
def Reg.STG_COMMIT_AT_LO : Fld := ⟨0x00010010, 0, 32, 0⟩
def Reg.STG_COMMIT_AT_HI : Fld := ⟨0x00010014, 0, 32, 0⟩
def Reg.STG_DONE_MT_LO : Fld := ⟨0x00010018, 0, 32, 0⟩
def Reg.STG_DONE_MT_HI : Fld := ⟨0x0001001C, 0, 32, 0⟩
def Reg.STG_COMMIT_CNT : Fld := ⟨0x00010020, 0, 32, 0⟩

/-! ### Block MTC -/

def Reg.MTC_STATUS.SYNC : Fld := ⟨0x00020000, 0, 1, 0⟩
def Reg.MTC_STATUS.ROOT : Fld := ⟨0x00020000, 1, 1, 0⟩
def Reg.MTC_STATUS.HOLD : Fld := ⟨0x00020000, 2, 1, 0⟩
def Reg.MTC_STATUS.ROOTSEL : Fld := ⟨0x00020000, 3, 1, 0⟩
def Reg.MTC_STATUS.HOPS : Fld := ⟨0x00020000, 4, 7, 0⟩
def Reg.MTC_STATUS.PLINK : Fld := ⟨0x00020000, 11, 5, 0⟩
def Reg.MTC_TIME_LO : Fld := ⟨0x00020004, 0, 32, 0⟩
def Reg.MTC_TIME_HI : Fld := ⟨0x00020008, 0, 32, 0⟩
def Reg.MTC_OFFSET : Fld := ⟨0x0002000C, 0, 32, 0⟩
def Reg.MTC_ROOT.ROOT0 : Fld := ⟨0x00020010, 0, 14, 0⟩
def Reg.MTC_ROOT.ROOT1 : Fld := ⟨0x00020010, 16, 14, 0⟩
def Reg.MTC_CFG.HOLD_LIMIT_US : Fld := ⟨0x00020014, 0, 16, 10000⟩
def Reg.MTC_ERR.HOLD : Fld := ⟨0x00020018, 0, 1, 0⟩
def Reg.MTC_ERR.UNSYNC : Fld := ⟨0x00020018, 1, 1, 0⟩
def Reg.MTC_ERR.OFFSET : Fld := ⟨0x00020018, 2, 1, 0⟩
def Reg.MTC_ERR.PARENT : Fld := ⟨0x00020018, 3, 1, 0⟩
def Reg.MTC_ERR.PCHG_CNT : Fld := ⟨0x00020018, 8, 8, 0⟩
def Reg.MTC_EPOCH_LO : Fld := ⟨0x0002001C, 0, 32, 0⟩
def Reg.MTC_EPOCH_HI : Fld := ⟨0x00020020, 0, 32, 0⟩
def Reg.MTC_DETERMINISM.STRICT : Fld := ⟨0x00020024, 0, 1, 0⟩
def Reg.MTC_DETERMINISM.EARLY : Fld := ⟨0x00020024, 1, 1, 0⟩

/-! ### Block PWR -/

def Reg.PWR_STATUS.STATE : Fld := ⟨0x00030000, 0, 3, 0⟩
def Reg.PWR_STATUS.MOVING : Fld := ⟨0x00030000, 3, 1, 0⟩
def Reg.PWR_STATUS.SPRINT : Fld := ⟨0x00030000, 4, 1, 0⟩
def Reg.PWR_STATUS.THROT_J : Fld := ⟨0x00030000, 5, 1, 0⟩
def Reg.PWR_STATUS.THROT_G : Fld := ⟨0x00030000, 6, 1, 0⟩
def Reg.PWR_STATUS.LIMIT : Fld := ⟨0x00030000, 7, 1, 0⟩
def Reg.PWR_STATUS.TRIPPED : Fld := ⟨0x00030000, 8, 1, 0⟩
def Reg.PWR_STATUS.CLK_MHZ : Fld := ⟨0x00030000, 16, 16, 1300⟩
def Reg.PWR_CTL.SPRINT_EN : Fld := ⟨0x00030004, 0, 1, 0⟩
def Reg.PWR_LADDER.TARGET : Fld := ⟨0x00030008, 0, 3, 0⟩
def Reg.PWR_LADDER.REJ : Fld := ⟨0x00030008, 8, 1, 0⟩
def Reg.PWR_LADDER.REASON : Fld := ⟨0x00030008, 12, 4, 0⟩
def Reg.PWR_LADDER.REJ_CNT : Fld := ⟨0x00030008, 16, 8, 0⟩
def Reg.PWR_CREDIT : Fld := ⟨0x0003000C, 0, 13, 0⟩
def Reg.PWR_INPUT.MV10 : Fld := ⟨0x00030010, 0, 16, 0⟩
def Reg.PWR_INPUT.WATTS : Fld := ⟨0x00030010, 16, 16, 0⟩
def Reg.PWR_TEMP.JUNCTION : Fld := ⟨0x00030014, 0, 8, 0⟩
def Reg.PWR_TEMP.GRANARY : Fld := ⟨0x00030014, 8, 8, 0⟩
def Reg.PWR_TEMP.GDDR : Fld := ⟨0x00030014, 16, 8, 0⟩
def Reg.PWR_COOLANT.INLET : Fld := ⟨0x00030018, 0, 12, 0⟩
def Reg.PWR_COOLANT.OUTLET : Fld := ⟨0x00030018, 16, 12, 0⟩
def Reg.PWR_ERR.THROTTLE : Fld := ⟨0x0003001C, 0, 1, 0⟩
def Reg.PWR_ERR.SPRINT_END : Fld := ⟨0x0003001C, 1, 1, 0⟩
def Reg.PWR_ERR.THR_CNT : Fld := ⟨0x0003001C, 8, 8, 0⟩
def Reg.PWR_THROT_MS : Fld := ⟨0x00030020, 0, 32, 0⟩
def Reg.PWR_SPRINT_MS : Fld := ⟨0x00030024, 0, 32, 0⟩
def Reg.PWR_BOOT_STATUS.PHASE : Fld := ⟨0x00030100, 0, 3, 0⟩
def Reg.PWR_BOOT_STATUS.FAIL_PHASE : Fld := ⟨0x00030100, 4, 3, 0⟩
def Reg.PWR_BOOT_STATUS.SLOT : Fld := ⟨0x00030100, 8, 1, 0⟩
def Reg.PWR_BOOT_STATUS.SLOT_A_BAD : Fld := ⟨0x00030100, 9, 1, 0⟩
def Reg.PWR_BOOT_STATUS.MODE : Fld := ⟨0x00030100, 10, 2, 0⟩
def Reg.PWR_BOOT_STATUS.DUMP_KEPT : Fld := ⟨0x00030100, 12, 1, 0⟩
def Reg.PWR_BOOT_STATUS.FAIL_CODE : Fld := ⟨0x00030100, 16, 16, 0⟩
def Reg.PWR_BOOT_TIME : Fld := ⟨0x00030104, 0, 32, 0⟩
def Reg.PWR_BOOT_ROWS : Fld := ⟨0x00030108, 0, 32, 0⟩
def Reg.PWR_RST_REQ.DOMAIN : Fld := ⟨0x00030110, 0, 3, 0⟩
def Reg.PWR_RST_REQ.INDEX : Fld := ⟨0x00030110, 8, 6, 0⟩
def Reg.PWR_RST_REQ.FORCE : Fld := ⟨0x00030110, 16, 1, 0⟩
def Reg.PWR_RST_REQ.GO : Fld := ⟨0x00030110, 31, 1, 0⟩
def Reg.PWR_RST_STATUS.BUSY : Fld := ⟨0x00030114, 0, 1, 0⟩
def Reg.PWR_RST_STATUS.REJ : Fld := ⟨0x00030114, 1, 1, 0⟩
def Reg.PWR_RST_STATUS.LAST : Fld := ⟨0x00030114, 2, 3, 0⟩
def Reg.PWR_RST_STATUS.REJ_CNT : Fld := ⟨0x00030114, 8, 8, 0⟩

/-! ### Block FLT -/

def Reg.FLT_STATUS.HL : Fld := ⟨0x00040000, 0, 3, 0⟩
def Reg.FLT_STATUS.LRL : Fld := ⟨0x00040000, 4, 1, 0⟩
def Reg.FLT_STATUS.DRAIN : Fld := ⟨0x00040000, 5, 1, 0⟩
def Reg.FLT_STATUS.DUMP : Fld := ⟨0x00040000, 6, 1, 0⟩
def Reg.FLT_STATUS.ROUND : Fld := ⟨0x00040000, 8, 8, 0⟩
def Reg.FLT_CTL.POLICY : Fld := ⟨0x00040004, 0, 1, 0⟩
def Reg.FLT_CTL.INT3 : Fld := ⟨0x00040004, 1, 1, 0⟩
def Reg.FLT_CTL.VEC : Fld := ⟨0x00040004, 16, 11, 0⟩
def Reg.FLT_HL_CFG.WINDOW_US : Fld := ⟨0x00040008, 0, 16, 1000⟩
def Reg.FLT_HL_CFG.SETTLE_US : Fld := ⟨0x00040008, 16, 16, 1000⟩
def Reg.FLT_HB_CFG.LIMIT_US : Fld := ⟨0x0004000C, 0, 16, 350⟩
def Reg.FLT_PLAN_BASE_LO : Fld := ⟨0x00040010, 0, 32, 0⟩
def Reg.FLT_PLAN_BASE_HI : Fld := ⟨0x00040014, 0, 32, 0⟩
def Reg.FLT_PLAN_COUNT : Fld := ⟨0x00040018, 0, 7, 0⟩
def Reg.FLT_CUT : Fld := ⟨0x0004001C, 0, 32, 0⟩
def Reg.FLT_HL_LAST.PLAN : Fld := ⟨0x00040020, 0, 16, 0xFFFF⟩
def Reg.FLT_HL_TMIN_LO : Fld := ⟨0x00040024, 0, 32, 0⟩
def Reg.FLT_HL_TMIN_HI : Fld := ⟨0x00040028, 0, 32, 0⟩
def Reg.FLT_ERR.STOP : Fld := ⟨0x00040030, 0, 1, 0⟩
def Reg.FLT_ERR.CUT : Fld := ⟨0x00040030, 1, 1, 0⟩
def Reg.FLT_ERR.HB_LOST : Fld := ⟨0x00040030, 2, 1, 0⟩
def Reg.FLT_ERR.LOST : Fld := ⟨0x00040030, 3, 1, 0⟩
def Reg.FLT_ERR.HB_CNT : Fld := ⟨0x00040030, 8, 8, 0⟩
def Reg.FLT_GLN_HEAD : Fld := ⟨0x00040040, 0, 32, 0⟩
def Reg.FLT_GLN_TAIL : Fld := ⟨0x00040044, 0, 32, 0⟩
def Reg.FLT_GLN_LOST.COUNT : Fld := ⟨0x00040048, 0, 16, 0⟩
def Reg.FLT_GLN_LOST.CODE : Fld := ⟨0x00040048, 16, 16, 0⟩
def Reg.FLT_GLN_CFG.COAL_US : Fld := ⟨0x0004004C, 0, 16, 100⟩
def Reg.FLT_DRAIN.SCORE : Fld := ⟨0x00040050, 0, 16, 0⟩
def Reg.FLT_DRAIN.LIMIT : Fld := ⟨0x00040050, 16, 16, 100⟩
def Reg.FLT_DUMP.VALID : Fld := ⟨0x00040054, 0, 1, 0⟩
def Reg.FLT_DUMP.WHERE : Fld := ⟨0x00040054, 1, 2, 0⟩
def Reg.FLT_DUMP.RELEASE : Fld := ⟨0x00040054, 3, 1, 0⟩

/-! ### Block HST -/

def Reg.HST_STATUS.LINK_UP : Fld := ⟨0x00050000, 0, 1, 0⟩
def Reg.HST_STATUS.SPEED : Fld := ⟨0x00050000, 1, 3, 0⟩
def Reg.HST_STATUS.WIDTH : Fld := ⟨0x00050000, 4, 5, 0⟩
def Reg.HST_STATUS.PERST : Fld := ⟨0x00050000, 9, 1, 1⟩
def Reg.HST_CTL.NS_DATA : Fld := ⟨0x00050004, 0, 1, 0⟩
def Reg.HST_CTL.VEC : Fld := ⟨0x00050004, 16, 11, 0⟩
def Reg.HST_BAR2_BASE_LO : Fld := ⟨0x00050008, 0, 32, 0⟩
def Reg.HST_BAR2_BASE_HI : Fld := ⟨0x0005000C, 0, 32, 0⟩
def Reg.HST_HWIN_BUS_LO : Fld := ⟨0x00050010, 0, 32, 0⟩
def Reg.HST_HWIN_BUS_HI : Fld := ⟨0x00050014, 0, 32, 0⟩
def Reg.HST_HWIN_SIZE : Fld := ⟨0x00050018, 0, 11, 0⟩
def Reg.HST_ERR.LINK_DOWN : Fld := ⟨0x0005001C, 0, 1, 0⟩
def Reg.HST_ERR.CORR : Fld := ⟨0x0005001C, 1, 1, 0⟩
def Reg.HST_ERR.WIDTH : Fld := ⟨0x0005001C, 2, 1, 0⟩
def Reg.HST_ERR.DB_ASLEEP : Fld := ⟨0x0005001C, 3, 1, 0⟩
def Reg.HST_ERR.CORR_CNT : Fld := ⟨0x0005001C, 8, 8, 0⟩

/-! ### Block MTR -/

def Reg.MTR_STATUS.PRESENT : Fld := ⟨0x00060000, 0, 1, 0⟩
def Reg.MTR_STATUS.SEALED : Fld := ⟨0x00060000, 1, 1, 0⟩
def Reg.MTR_STATUS.CERT : Fld := ⟨0x00060000, 2, 1, 0⟩
def Reg.MTR_STATUS.TAMPER : Fld := ⟨0x00060000, 3, 1, 0⟩
def Reg.MTR_STATUS.FRESH : Fld := ⟨0x00060000, 4, 1, 0⟩
def Reg.MTR_FWPFX : Fld := ⟨0x00060004, 0, 32, 0⟩
def Reg.MTR_E_TOTAL_LO : Fld := ⟨0x00060008, 0, 32, 0⟩
def Reg.MTR_E_TOTAL_HI : Fld := ⟨0x0006000C, 0, 32, 0⟩
def Reg.MTR_E_BLK_LO : Fld := ⟨0x00060010, 0, 32, 0⟩
def Reg.MTR_E_BLK_HI : Fld := ⟨0x00060014, 0, 32, 0⟩
def Reg.MTR_E_UNTAG_LO : Fld := ⟨0x00060018, 0, 32, 0⟩
def Reg.MTR_E_UNTAG_HI : Fld := ⟨0x0006001C, 0, 32, 0⟩
def Reg.MTR_POWER : Fld := ⟨0x00060020, 0, 32, 0⟩
def Reg.MTR_TAGLOST : Fld := ⟨0x00060024, 0, 32, 0⟩

/-! ### Block LNK -/

def Reg.LNK_STATUS.STATE (l : Nat) : Fld := ⟨0x00100000 + l * 0x1000, 0, 4, 0⟩
def Reg.LNK_STATUS.VER (l : Nat) : Fld := ⟨0x00100000 + l * 0x1000, 4, 2, 0⟩
def Reg.LNK_STATUS.NARROW (l : Nat) : Fld := ⟨0x00100000 + l * 0x1000, 6, 1, 0⟩
def Reg.LNK_STATUS.SPARE (l : Nat) : Fld := ⟨0x00100000 + l * 0x1000, 7, 1, 0⟩
def Reg.LNK_STATUS.LOST (l : Nat) : Fld := ⟨0x00100000 + l * 0x1000, 8, 9, 0⟩
def Reg.LNK_STATUS.PNARROW (l : Nat) : Fld := ⟨0x00100000 + l * 0x1000, 17, 1, 0⟩
def Reg.LNK_CTL.PSTATE (l : Nat) : Fld := ⟨0x00100004 + l * 0x1000, 0, 2, 0⟩
def Reg.LNK_CTL.ADMIT (l : Nat) : Fld := ⟨0x00100004 + l * 0x1000, 2, 1, 1⟩
def Reg.LNK_CTL.EXT (l : Nat) : Fld := ⟨0x00100004 + l * 0x1000, 3, 1, 0⟩
def Reg.LNK_CTL.VERMAX (l : Nat) : Fld := ⟨0x00100004 + l * 0x1000, 4, 2, 2⟩
def Reg.LNK_CTL.RETRAIN (l : Nat) : Fld := ⟨0x00100004 + l * 0x1000, 6, 1, 0⟩
def Reg.LNK_CFG.STALL_US (l : Nat) : Fld := ⟨0x00100008 + l * 0x1000, 0, 16, 1000⟩
def Reg.LNK_CFG.PROGRESS_US (l : Nat) : Fld := ⟨0x00100008 + l * 0x1000, 16, 16, 2000⟩
def Reg.LNK_PEER.NODE (l : Nat) : Fld := ⟨0x0010000C + l * 0x1000, 0, 14, 0⟩
def Reg.LNK_PEER.LINK (l : Nat) : Fld := ⟨0x0010000C + l * 0x1000, 14, 5, 0⟩
def Reg.LNK_PEER.VERS (l : Nat) : Fld := ⟨0x0010000C + l * 0x1000, 19, 2, 0⟩
def Reg.LNK_LAT (l : Nat) : Fld := ⟨0x00100010 + l * 0x1000, 0, 24, 0⟩
def Reg.LNK_RTT (l : Nat) : Fld := ⟨0x00100014 + l * 0x1000, 0, 24, 0⟩
def Reg.LNK_ERR.SPARED (l : Nat) : Fld := ⟨0x00100018 + l * 0x1000, 0, 1, 0⟩
def Reg.LNK_ERR.NARROW (l : Nat) : Fld := ⟨0x00100018 + l * 0x1000, 1, 1, 0⟩
def Reg.LNK_ERR.STALL (l : Nat) : Fld := ⟨0x00100018 + l * 0x1000, 2, 1, 0⟩
def Reg.LNK_ERR.WIRING (l : Nat) : Fld := ⟨0x00100018 + l * 0x1000, 3, 1, 0⟩
def Reg.LNK_ERR.DOWN (l : Nat) : Fld := ⟨0x00100018 + l * 0x1000, 4, 1, 0⟩
def Reg.LNK_ERR.MARGIN (l : Nat) : Fld := ⟨0x00100018 + l * 0x1000, 5, 1, 0⟩
def Reg.LNK_ERR.DOWN_CNT (l : Nat) : Fld := ⟨0x00100018 + l * 0x1000, 8, 8, 0⟩
def Reg.LNK_FECC_LO (l : Nat) : Fld := ⟨0x00100020 + l * 0x1000, 0, 32, 0⟩
def Reg.LNK_FECC_HI (l : Nat) : Fld := ⟨0x00100024 + l * 0x1000, 0, 32, 0⟩
def Reg.LNK_FECU_LO (l : Nat) : Fld := ⟨0x00100028 + l * 0x1000, 0, 32, 0⟩
def Reg.LNK_FECU_HI (l : Nat) : Fld := ⟨0x0010002C + l * 0x1000, 0, 32, 0⟩
def Reg.LNK_CRCF_LO (l : Nat) : Fld := ⟨0x00100030 + l * 0x1000, 0, 32, 0⟩
def Reg.LNK_CRCF_HI (l : Nat) : Fld := ⟨0x00100034 + l * 0x1000, 0, 32, 0⟩
def Reg.LNK_REPLAY_LO (l : Nat) : Fld := ⟨0x00100038 + l * 0x1000, 0, 32, 0⟩
def Reg.LNK_REPLAY_HI (l : Nat) : Fld := ⟨0x0010003C + l * 0x1000, 0, 32, 0⟩
def Reg.LNK_DUP_LO (l : Nat) : Fld := ⟨0x00100040 + l * 0x1000, 0, 32, 0⟩
def Reg.LNK_DUP_HI (l : Nat) : Fld := ⟨0x00100044 + l * 0x1000, 0, 32, 0⟩
def Reg.LNK_LANE.EYE_H (l : Nat) (i : Nat) : Fld := ⟨0x00100100 + l * 0x1000 + i * 16, 0, 10, 0⟩
def Reg.LNK_LANE.EYE_W (l : Nat) (i : Nat) : Fld := ⟨0x00100100 + l * 0x1000 + i * 16, 10, 10, 0⟩
def Reg.LNK_LANE.LOCK (l : Nat) (i : Nat) : Fld := ⟨0x00100100 + l * 0x1000 + i * 16, 20, 1, 0⟩
def Reg.LNK_LANE.RXPWR (l : Nat) (i : Nat) : Fld := ⟨0x00100104 + l * 0x1000 + i * 16, 0, 16, 0⟩
def Reg.LNK_LANE.BIAS (l : Nat) (i : Nat) : Fld := ⟨0x00100104 + l * 0x1000 + i * 16, 16, 16, 0⟩
def Reg.LNK_LANE.SYMERR (l : Nat) (i : Nat) : Fld := ⟨0x00100108 + l * 0x1000 + i * 16, 0, 32, 0⟩

/-! ### Block FAB -/

def Reg.FAB_STATUS.LINKS : Fld := ⟨0x00120000, 0, 24, 0⟩
def Reg.FAB_CTL.ADAPT : Fld := ⟨0x00120004, 0, 1, 0⟩
def Reg.FAB_CTL.TROOM : Fld := ⟨0x00120004, 1, 2, 0⟩
def Reg.FAB_GEOM : Fld := ⟨0x00120008, 0, 24, 0x041041⟩
def Reg.FAB_NODE : Fld := ⟨0x0012000C, 0, 14, 0⟩
def Reg.FAB_COORD : Fld := ⟨0x00120010, 0, 20, 0⟩
def Reg.FAB_BLOCK_ID : Fld := ⟨0x00120014, 0, 10, 0⟩
def Reg.FAB_BLOCK_ORG : Fld := ⟨0x00120018, 0, 20, 0⟩
def Reg.FAB_BLOCK_LEN : Fld := ⟨0x0012001C, 0, 24, 0x041041⟩
def Reg.FAB_TRANSIT.BLK (i : Nat) : Fld := ⟨0x00120020 + i * 4, 0, 10, 0⟩
def Reg.FAB_TRANSIT.EN (i : Nat) : Fld := ⟨0x00120020 + i * 4, 31, 1, 0⟩
def Reg.FAB_FWD_LO : Fld := ⟨0x00120040, 0, 32, 0⟩
def Reg.FAB_FWD_HI : Fld := ⟨0x00120044, 0, 32, 0⟩
def Reg.FAB_DELIV_LO : Fld := ⟨0x00120048, 0, 32, 0⟩
def Reg.FAB_DELIV_HI : Fld := ⟨0x0012004C, 0, 32, 0⟩
def Reg.FAB_SELF_LO : Fld := ⟨0x00120050, 0, 32, 0⟩
def Reg.FAB_SELF_HI : Fld := ⟨0x00120054, 0, 32, 0⟩
def Reg.FAB_PISTE_LO : Fld := ⟨0x00120058, 0, 32, 0⟩
def Reg.FAB_PISTE_HI : Fld := ⟨0x0012005C, 0, 32, 0⟩
def Reg.FAB_DETOUR_LO : Fld := ⟨0x00120060, 0, 32, 0⟩
def Reg.FAB_DETOUR_HI : Fld := ⟨0x00120064, 0, 32, 0⟩
def Reg.FAB_DROP_BLK : Fld := ⟨0x00120070, 0, 32, 0⟩
def Reg.FAB_DROP_HDR : Fld := ⟨0x00120074, 0, 32, 0⟩
def Reg.FAB_DROP_NEST : Fld := ⟨0x00120078, 0, 32, 0⟩
def Reg.FAB_DROP_ROUTE : Fld := ⟨0x0012007C, 0, 32, 0⟩
def Reg.FAB_ERR.BLK : Fld := ⟨0x00120080, 0, 1, 0⟩
def Reg.FAB_ERR.HDR : Fld := ⟨0x00120080, 1, 1, 0⟩
def Reg.FAB_ERR.NEST : Fld := ⟨0x00120080, 2, 1, 0⟩
def Reg.FAB_ERR.ROUTE : Fld := ⟨0x00120080, 3, 1, 0⟩
def Reg.FAB_ERR.DROP_CNT : Fld := ⟨0x00120080, 8, 8, 0⟩
def Reg.FAB_CTRCLR.CLEAR : Fld := ⟨0x00120084, 0, 1, 0⟩
def Reg.FAB_DTR.EN (i : Nat) : Fld := ⟨0x00120400 + i * 8, 0, 1, 0⟩
def Reg.FAB_DTR.AVOID (i : Nat) : Fld := ⟨0x00120400 + i * 8, 1, 14, 0⟩
def Reg.FAB_DTR.WAYPT (i : Nat) : Fld := ⟨0x00120404 + i * 8, 0, 14, 0⟩

/-! ### Block PST -/

def Reg.PST_CTL.EN (i : Nat) : Fld := ⟨0x00140000 + i * 16, 0, 1, 0⟩
def Reg.PST_CTL.ROLE (i : Nat) : Fld := ⟨0x00140000 + i * 16, 1, 2, 0⟩
def Reg.PST_CTL.IN_LINK (i : Nat) : Fld := ⟨0x00140000 + i * 16, 3, 5, 0⟩
def Reg.PST_CTL.OUT_LINK (i : Nat) : Fld := ⟨0x00140000 + i * 16, 8, 5, 0⟩
def Reg.PST_CTL.BLK (i : Nat) : Fld := ⟨0x00140000 + i * 16, 13, 10, 0⟩
def Reg.PST_DST.NODE (i : Nat) : Fld := ⟨0x00140004 + i * 16, 0, 14, 0⟩
def Reg.PST_SLOTS_LO (i : Nat) : Fld := ⟨0x00140008 + i * 16, 0, 32, 0⟩
def Reg.PST_SLOTS_HI (i : Nat) : Fld := ⟨0x0014000C + i * 16, 0, 32, 0⟩

/-! ### Block COL -/

def Reg.COL_STATUS.BUSY : Fld := ⟨0x00180000, 0, 1, 0⟩
def Reg.COL_STATUS.STOPPED : Fld := ⟨0x00180000, 1, 1, 0⟩
def Reg.COL_STATUS.HELD : Fld := ⟨0x00180000, 8, 7, 0⟩
def Reg.COL_STATUS.ENTRY : Fld := ⟨0x00180000, 16, 16, 0⟩
def Reg.COL_CTL.EN : Fld := ⟨0x00180004, 0, 1, 0⟩
def Reg.COL_SCRIPT_BASE_LO : Fld := ⟨0x00180008, 0, 32, 0⟩
def Reg.COL_SCRIPT_BASE_HI : Fld := ⟨0x0018000C, 0, 32, 0⟩
def Reg.COL_SCRIPT_LEN : Fld := ⟨0x00180010, 0, 16, 0⟩
def Reg.COL_WAIT_LIMIT : Fld := ⟨0x00180014, 0, 32, 50000⟩
def Reg.COL_BASE_LO : Fld := ⟨0x00180018, 0, 32, 0⟩
def Reg.COL_BASE_HI : Fld := ⟨0x0018001C, 0, 32, 0⟩
def Reg.COL_PERIOD_LO : Fld := ⟨0x00180020, 0, 32, 0⟩
def Reg.COL_PERIOD_HI : Fld := ⟨0x00180024, 0, 32, 0⟩
def Reg.COL_ERR.ORDER_CROSS : Fld := ⟨0x00180028, 0, 1, 0⟩
def Reg.COL_ERR.ORDER_STALL : Fld := ⟨0x00180028, 1, 1, 0⟩
def Reg.COL_ERR.STRAY : Fld := ⟨0x00180028, 2, 1, 0⟩
def Reg.COL_ERR.ENTRY_BAD : Fld := ⟨0x00180028, 3, 1, 0⟩
def Reg.COL_ERR.ABORTED : Fld := ⟨0x00180028, 4, 1, 0⟩
def Reg.COL_ERR.LATE : Fld := ⟨0x00180028, 5, 1, 0⟩
def Reg.COL_ERR.POOL : Fld := ⟨0x00180028, 6, 1, 0⟩
def Reg.COL_ERR.LATE_CNT : Fld := ⟨0x00180028, 8, 8, 0⟩
def Reg.COL_ERR_COMM.COMM1 : Fld := ⟨0x0018002C, 0, 6, 0⟩
def Reg.COL_ERR_COMM.COMM2 : Fld := ⟨0x0018002C, 8, 6, 0⟩
def Reg.COL_ERR_COMM.NONE2 : Fld := ⟨0x0018002C, 16, 1, 0⟩
def Reg.COL_TX_LO : Fld := ⟨0x00180030, 0, 32, 0⟩
def Reg.COL_TX_HI : Fld := ⟨0x00180034, 0, 32, 0⟩
def Reg.COL_RX_LO : Fld := ⟨0x00180038, 0, 32, 0⟩
def Reg.COL_RX_HI : Fld := ⟨0x0018003C, 0, 32, 0⟩
def Reg.COL_WAIT_PART_LO : Fld := ⟨0x00180040, 0, 32, 0⟩
def Reg.COL_WAIT_PART_HI : Fld := ⟨0x00180044, 0, 32, 0⟩
def Reg.COL_WAIT_POOL_LO : Fld := ⟨0x00180048, 0, 32, 0⟩
def Reg.COL_WAIT_POOL_HI : Fld := ⟨0x0018004C, 0, 32, 0⟩
def Reg.COL_WAIT_LAUNCH_LO : Fld := ⟨0x00180050, 0, 32, 0⟩
def Reg.COL_WAIT_LAUNCH_HI : Fld := ⟨0x00180054, 0, 32, 0⟩
def Reg.COL_CTRCLR.CLEAR : Fld := ⟨0x00180058, 0, 1, 0⟩
def Reg.COL_COMM_CTL.KIND (i : Nat) : Fld := ⟨0x00180100 + i * 32, 0, 2, 0⟩
def Reg.COL_COMM_CTL.AXIS (i : Nat) : Fld := ⟨0x00180100 + i * 32, 2, 2, 0⟩
def Reg.COL_COMM_CTL.SEQ (i : Nat) : Fld := ⟨0x00180100 + i * 32, 16, 16, 0⟩
def Reg.COL_COMM_MASK_0 (i : Nat) : Fld := ⟨0x00180104 + i * 32, 0, 32, 0⟩
def Reg.COL_COMM_MASK_1 (i : Nat) : Fld := ⟨0x00180108 + i * 32, 0, 32, 0⟩
def Reg.COL_COMM_MASK_2 (i : Nat) : Fld := ⟨0x0018010C + i * 32, 0, 32, 0⟩
def Reg.COL_COMM_MASK_3 (i : Nat) : Fld := ⟨0x00180110 + i * 32, 0, 32, 0⟩
def Reg.COL_POOL_BASE_LO (i : Nat) : Fld := ⟨0x00180900 + i * 16, 0, 32, 0⟩
def Reg.COL_POOL_BASE_HI (i : Nat) : Fld := ⟨0x00180904 + i * 16, 0, 32, 0⟩
def Reg.COL_POOL_CFG.COUNT (i : Nat) : Fld := ⟨0x00180908 + i * 16, 0, 9, 0⟩
def Reg.COL_POOL_CFG.SIZE_LOG2 (i : Nat) : Fld := ⟨0x00180908 + i * 16, 9, 5, 16⟩
def Reg.COL_POOL_CFG.FREE (i : Nat) : Fld := ⟨0x00180908 + i * 16, 16, 9, 0⟩
def Reg.COL_POOL_ALLOC (i : Nat) : Fld := ⟨0x0018090C + i * 16, 0, 16, 0xFFFF⟩
def Reg.COL_POOL_FREE (i : Nat) : Fld := ⟨0x0018090C + i * 16, 16, 16, 0⟩

/-! ### Block GRN -/

def Reg.GRN_STATUS.READY (k : Nat) : Fld := ⟨0x00200000 + k * 0x10000, 0, 1, 0⟩
def Reg.GRN_STATUS.THROT (k : Nat) : Fld := ⟨0x00200000 + k * 0x10000, 1, 1, 0⟩
def Reg.GRN_STATUS.REFX2 (k : Nat) : Fld := ⟨0x00200000 + k * 0x10000, 2, 1, 0⟩
def Reg.GRN_STATUS.TEMP (k : Nat) : Fld := ⟨0x00200000 + k * 0x10000, 8, 8, 0⟩
def Reg.GRN_STATUS.SPARES (k : Nat) : Fld := ⟨0x00200000 + k * 0x10000, 16, 6, 0⟩
def Reg.GRN_STATUS.ERASED (k : Nat) : Fld := ⟨0x00200000 + k * 0x10000, 22, 7, 0⟩
def Reg.GRN_ERR.CE (k : Nat) : Fld := ⟨0x00200004 + k * 0x10000, 0, 1, 0⟩
def Reg.GRN_ERR.UE (k : Nat) : Fld := ⟨0x00200004 + k * 0x10000, 1, 1, 0⟩
def Reg.GRN_ERR.LANE (k : Nat) : Fld := ⟨0x00200004 + k * 0x10000, 2, 1, 0⟩
def Reg.GRN_ERR.CE_CNT (k : Nat) : Fld := ⟨0x00200004 + k * 0x10000, 8, 8, 0⟩
def Reg.GRN_ERRADDR_LO.ADDR (k : Nat) : Fld := ⟨0x00200008 + k * 0x10000, 0, 32, 0⟩
def Reg.GRN_ERRADDR_HI.ADDR (k : Nat) : Fld := ⟨0x0020000C + k * 0x10000, 0, 32, 0⟩
def Reg.GRN_SCRUB.HOURS (k : Nat) : Fld := ⟨0x00200010 + k * 0x10000, 0, 8, 24⟩
def Reg.GRN_SCRUB.EN (k : Nat) : Fld := ⟨0x00200010 + k * 0x10000, 8, 1, 1⟩
def Reg.GRN_THR_STATUS.BUSY (k : Nat) : Fld := ⟨0x00200100 + k * 0x10000, 0, 1, 0⟩
def Reg.GRN_THR_STATUS.ACCQ (k : Nat) : Fld := ⟨0x00200100 + k * 0x10000, 8, 8, 0⟩
def Reg.GRN_THR_ERR.RB_PARTIAL (k : Nat) : Fld := ⟨0x00200104 + k * 0x10000, 0, 1, 0⟩
def Reg.GRN_THR_ERR.RB_LATE (k : Nat) : Fld := ⟨0x00200104 + k * 0x10000, 1, 1, 0⟩
def Reg.GRN_THR_ERR.DESC_BAD (k : Nat) : Fld := ⟨0x00200104 + k * 0x10000, 2, 1, 0⟩
def Reg.GRN_THR_ERR.MIR_FAIL (k : Nat) : Fld := ⟨0x00200104 + k * 0x10000, 3, 1, 0⟩
def Reg.GRN_THR_ERR.IMPORT (k : Nat) : Fld := ⟨0x00200104 + k * 0x10000, 4, 1, 0⟩
def Reg.GRN_THR_ERR.LATE_CNT (k : Nat) : Fld := ⟨0x00200104 + k * 0x10000, 8, 8, 0⟩
def Reg.GRN_THR_ACC_LO (k : Nat) : Fld := ⟨0x00200108 + k * 0x10000, 0, 32, 0⟩
def Reg.GRN_THR_ACC_HI (k : Nat) : Fld := ⟨0x0020010C + k * 0x10000, 0, 32, 0⟩
def Reg.GRN_THR_BUSY_LO (k : Nat) : Fld := ⟨0x00200110 + k * 0x10000, 0, 32, 0⟩
def Reg.GRN_THR_BUSY_HI (k : Nat) : Fld := ⟨0x00200114 + k * 0x10000, 0, 32, 0⟩
def Reg.GRN_THR_WAITMIR (k : Nat) : Fld := ⟨0x00200118 + k * 0x10000, 0, 32, 0⟩

/-! ### Block TBL -/

def Reg.GRN_IAT.MODE (i : Nat) : Fld := ⟨0x00280000 + i * 4, 0, 2, 1⟩
def Reg.GRN_IAT.HOME (i : Nat) : Fld := ⟨0x00280000 + i * 4, 2, 3, i / 48⟩
def Reg.GRN_IAT.SLOT (i : Nat) : Fld := ⟨0x00280000 + i * 4, 5, 6, i % 48⟩
def Reg.GRN_IAT.PART (i : Nat) : Fld := ⟨0x00280000 + i * 4, 11, 3, 0⟩
def Reg.GDM_IAT.MODE (i : Nat) : Fld := ⟨0x00280800 + i * 4, 0, 2, 1⟩
def Reg.GDM_IAT.HOME (i : Nat) : Fld := ⟨0x00280800 + i * 4, 2, 5, i / 32⟩
def Reg.GDM_IAT.SLOT (i : Nat) : Fld := ⟨0x00280800 + i * 4, 7, 5, i % 32⟩
def Reg.GDM_IAT.PART (i : Nat) : Fld := ⟨0x00280800 + i * 4, 12, 3, 0⟩
def Reg.GRN_RBT_CTL.FMT (i : Nat) : Fld := ⟨0x00281000 + i * 16, 0, 4, 0⟩
def Reg.GRN_RBT_CTL.AFMT (i : Nat) : Fld := ⟨0x00281000 + i * 16, 4, 1, 0⟩
def Reg.GRN_RBT_CTL.EN (i : Nat) : Fld := ⟨0x00281000 + i * 16, 5, 1, 0⟩
def Reg.GRN_RBT_CTL.GROUP (i : Nat) : Fld := ⟨0x00281000 + i * 16, 6, 4, 0⟩
def Reg.GRN_RBT_BASE (i : Nat) : Fld := ⟨0x00281004 + i * 16, 0, 27, 0⟩
def Reg.GRN_RBT_LEN (i : Nat) : Fld := ⟨0x00281008 + i * 16, 0, 32, 0⟩
def Reg.GRN_RBT_TID (i : Nat) : Fld := ⟨0x0028100C + i * 16, 0, 32, 0⟩
def Reg.GRN_RBS_FLAGS.MAXEXP (i : Nat) : Fld := ⟨0x00282000 + i * 8, 0, 9, 0⟩
def Reg.GRN_RBS_FLAGS.NONFIN (i : Nat) : Fld := ⟨0x00282000 + i * 8, 9, 1, 0⟩
def Reg.GRN_RBS_FLAGS.GRID_RANGE (i : Nat) : Fld := ⟨0x00282000 + i * 8, 10, 1, 0⟩
def Reg.GRN_RBS_FLAGS.GRIDE (i : Nat) : Fld := ⟨0x00282000 + i * 8, 16, 9, 0⟩
def Reg.GRN_RBS_NFCNT.COUNT (i : Nat) : Fld := ⟨0x00282004 + i * 8, 0, 32, 0⟩
def Reg.GRN_GRP_CTL.EN (i : Nat) : Fld := ⟨0x00283000 + i * 64, 0, 1, 0⟩
def Reg.GRN_GRP_CTL.MIR_EN (i : Nat) : Fld := ⟨0x00283000 + i * 64, 1, 1, 0⟩
def Reg.GRN_GRP_CTL.DIG_EN (i : Nat) : Fld := ⟨0x00283000 + i * 64, 2, 1, 0⟩
def Reg.GRN_GRP_STATE.STATE (i : Nat) : Fld := ⟨0x00283004 + i * 64, 0, 3, 0⟩
def Reg.GRN_GRP_STATE.SKIPPED (i : Nat) : Fld := ⟨0x00283004 + i * 64, 3, 1, 0⟩
def Reg.GRN_GRP_STATE.UPD_NONFIN (i : Nat) : Fld := ⟨0x00283004 + i * 64, 4, 1, 0⟩
def Reg.GRN_GRP_STATE.CMD_REJ (i : Nat) : Fld := ⟨0x00283004 + i * 64, 5, 1, 0⟩
def Reg.GRN_GRP_LS.LS_EXP (i : Nat) : Fld := ⟨0x00283008 + i * 64, 0, 8, 0⟩
def Reg.GRN_GRP_LS.LS_MIN (i : Nat) : Fld := ⟨0x00283008 + i * 64, 8, 8, 0x81⟩
def Reg.GRN_GRP_LS.LS_MAX (i : Nat) : Fld := ⟨0x00283008 + i * 64, 16, 8, 0x7F⟩
def Reg.GRN_GRP_GROW.INTERVAL (i : Nat) : Fld := ⟨0x0028300C + i * 64, 0, 16, 2000⟩
def Reg.GRN_GRP_GROW.GOOD (i : Nat) : Fld := ⟨0x0028300C + i * 64, 16, 16, 0⟩
def Reg.GRN_GRP_APPLIED (i : Nat) : Fld := ⟨0x00283010 + i * 64, 0, 32, 0⟩
def Reg.GRN_GRP_P1 (i : Nat) : Fld := ⟨0x00283014 + i * 64, 0, 32, 0x3F800000⟩
def Reg.GRN_GRP_P2 (i : Nat) : Fld := ⟨0x00283018 + i * 64, 0, 32, 0x3F800000⟩
def Reg.GRN_GRP_PADDR_LO (i : Nat) : Fld := ⟨0x00283020 + i * 64, 0, 32, 0⟩
def Reg.GRN_GRP_PADDR_HI (i : Nat) : Fld := ⟨0x00283024 + i * 64, 0, 32, 0⟩
def Reg.GRN_GRP_LIST_LO (i : Nat) : Fld := ⟨0x00283028 + i * 64, 0, 32, 0⟩
def Reg.GRN_GRP_LIST_HI (i : Nat) : Fld := ⟨0x0028302C + i * 64, 0, 32, 0⟩
def Reg.GRN_GRP_COUNT (i : Nat) : Fld := ⟨0x00283030 + i * 64, 0, 16, 0⟩
def Reg.GRN_GRP_MIR_LO (i : Nat) : Fld := ⟨0x00283038 + i * 64, 0, 32, 0⟩
def Reg.GRN_GRP_MIR_HI (i : Nat) : Fld := ⟨0x0028303C + i * 64, 0, 32, 0⟩
def Reg.GRN_THR_CMD.GROUP : Fld := ⟨0x00283400, 0, 4, 0⟩
def Reg.GRN_THR_CMD.OP : Fld := ⟨0x00283400, 4, 2, 0⟩
def Reg.GRN_THR_CMDSTAT.BUSY : Fld := ⟨0x00283404, 0, 1, 0⟩
def Reg.GRN_THR_CMDSTAT.DONE : Fld := ⟨0x00283404, 1, 1, 0⟩
def Reg.GRN_THR_CMDSTAT.FAIL : Fld := ⟨0x00283404, 2, 1, 0⟩
def Reg.GRN_THR_XSRC_LO : Fld := ⟨0x00283408, 0, 32, 0⟩
def Reg.GRN_THR_XSRC_HI : Fld := ⟨0x0028340C, 0, 32, 0⟩
def Reg.GRN_THR_XDST_LO : Fld := ⟨0x00283410, 0, 32, 0⟩
def Reg.GRN_THR_XDST_HI : Fld := ⟨0x00283414, 0, 32, 0⟩
def Reg.GRN_DIG_W (i : Nat) : Fld := ⟨0x00283500 + i * 4, 0, 32, 0⟩
def Reg.GRN_DIG_IN (i : Nat) : Fld := ⟨0x00283520 + i * 4, 0, 32, 0⟩
def Reg.GRN_DIG_PROG (i : Nat) : Fld := ⟨0x00283540 + i * 4, 0, 32, 0⟩

/-! ### Block GDM -/

def Reg.GDM_STATUS.STATE (p : Nat) : Fld := ⟨0x00300000 + p * 0x1000, 0, 2, 2⟩
def Reg.GDM_STATUS.REFX2 (p : Nat) : Fld := ⟨0x00300000 + p * 0x1000, 2, 1, 0⟩
def Reg.GDM_STATUS.TEMP (p : Nat) : Fld := ⟨0x00300000 + p * 0x1000, 8, 8, 0⟩
def Reg.GDM_ERR.CRC (p : Nat) : Fld := ⟨0x00300004 + p * 0x1000, 0, 1, 0⟩
def Reg.GDM_ERR.ODE_CE (p : Nat) : Fld := ⟨0x00300004 + p * 0x1000, 1, 1, 0⟩
def Reg.GDM_ERR.UE (p : Nat) : Fld := ⟨0x00300004 + p * 0x1000, 2, 1, 0⟩
def Reg.GDM_ERR.CRC_CNT (p : Nat) : Fld := ⟨0x00300004 + p * 0x1000, 8, 8, 0⟩
def Reg.GDM_ERR.ODE_CNT (p : Nat) : Fld := ⟨0x00300004 + p * 0x1000, 16, 8, 0⟩
def Reg.GDM_ERRADDR_LO.ADDR (p : Nat) : Fld := ⟨0x00300008 + p * 0x1000, 0, 32, 0⟩
def Reg.GDM_ERRADDR_HI.ADDR (p : Nat) : Fld := ⟨0x0030000C + p * 0x1000, 0, 32, 0⟩

/-! ### Block CORE -/

def Reg.CORE_SEQ_CTRL.START (c : Nat) : Fld := ⟨0x01000004 + c * 0x40000, 0, 1, 0⟩
def Reg.CORE_SEQ_CTRL.QREQ (c : Nat) : Fld := ⟨0x01000004 + c * 0x40000, 1, 1, 0⟩
def Reg.CORE_SEQ_CTRL.RESUME (c : Nat) : Fld := ⟨0x01000004 + c * 0x40000, 2, 1, 0⟩
def Reg.CORE_SEQ_ERR.IMEM_BUSY (c : Nat) : Fld := ⟨0x01000008 + c * 0x40000, 0, 1, 0⟩
def Reg.CORE_SEQ_ERR.START_REJ (c : Nat) : Fld := ⟨0x01000008 + c * 0x40000, 1, 1, 0⟩
def Reg.CORE_SEQ_ERR.START_FAIL (c : Nat) : Fld := ⟨0x01000008 + c * 0x40000, 2, 1, 0⟩
def Reg.CORE_SEQ_ERR.RESUME_REJ (c : Nat) : Fld := ⟨0x01000008 + c * 0x40000, 3, 1, 0⟩
def Reg.CORE_SEQ_ERR.FAULT (c : Nat) : Fld := ⟨0x01000008 + c * 0x40000, 4, 1, 0⟩
def Reg.CORE_SEQ_ERR.IDX_OOB (c : Nat) : Fld := ⟨0x01000008 + c * 0x40000, 5, 1, 0⟩
def Reg.CORE_SEQ_ERR.LATE (c : Nat) : Fld := ⟨0x01000008 + c * 0x40000, 6, 1, 0⟩
def Reg.CORE_SEQ_ERR.OOB_CNT (c : Nat) : Fld := ⟨0x01000008 + c * 0x40000, 16, 8, 0⟩
def Reg.CORE_SEQ_ERR.LATE_CNT (c : Nat) : Fld := ⟨0x01000008 + c * 0x40000, 24, 8, 0⟩
def Reg.CORE_SEQ_TAG.TAG (c : Nat) : Fld := ⟨0x0100000C + c * 0x40000, 0, 32, 0⟩
def Reg.CORE_SEQ_STEP_LO.STEP (c : Nat) : Fld := ⟨0x01000010 + c * 0x40000, 0, 32, 0⟩
def Reg.CORE_SEQ_STEP_HI.STEP (c : Nat) : Fld := ⟨0x01000014 + c * 0x40000, 0, 32, 0⟩
def Reg.CORE_SEQ_RESUME_ADDR.ADDR (c : Nat) : Fld := ⟨0x01000018 + c * 0x40000, 6, 16, 0xBFFF⟩
def Reg.CORE_SEQ_WAITLIM.US (c : Nat) : Fld := ⟨0x0100001C + c * 0x40000, 0, 32, 100000⟩
def Reg.CORE_SEQ_EVT_LO.EVT (c : Nat) : Fld := ⟨0x01000020 + c * 0x40000, 0, 32, 0⟩
def Reg.CORE_SEQ_EVT_HI.EVT (c : Nat) : Fld := ⟨0x01000024 + c * 0x40000, 0, 32, 0⟩
def Reg.CORE_SEQ_EVT_SET_LO.SET (c : Nat) : Fld := ⟨0x01000028 + c * 0x40000, 0, 32, 0⟩
def Reg.CORE_SEQ_EVT_SET_HI.SET (c : Nat) : Fld := ⟨0x0100002C + c * 0x40000, 0, 32, 0⟩
def Reg.CORE_SEQ_TRACE_CTL.EN (c : Nat) : Fld := ⟨0x01000030 + c * 0x40000, 0, 1, 0⟩
def Reg.CORE_SEQ_TRACE_CTL.STOP (c : Nat) : Fld := ⟨0x01000030 + c * 0x40000, 1, 1, 0⟩
def Reg.CORE_SEQ_TRACE_CTL.LOG2SIZE (c : Nat) : Fld := ⟨0x01000030 + c * 0x40000, 8, 5, 10⟩
def Reg.CORE_SEQ_TRACE_HEAD.HEAD (c : Nat) : Fld := ⟨0x01000034 + c * 0x40000, 0, 32, 0⟩
def Reg.CORE_SEQ_TRACE_BASE_LO.BASE (c : Nat) : Fld := ⟨0x01000038 + c * 0x40000, 0, 32, 0⟩
def Reg.CORE_SEQ_TRACE_BASE_HI.BASE (c : Nat) : Fld := ⟨0x0100003C + c * 0x40000, 0, 32, 0⟩
def Reg.CORE_SEQ_FPFLAGS.INVALID (c : Nat) : Fld := ⟨0x01000040 + c * 0x40000, 0, 1, 0⟩
def Reg.CORE_SEQ_FPFLAGS.DIVZERO (c : Nat) : Fld := ⟨0x01000040 + c * 0x40000, 1, 1, 0⟩
def Reg.CORE_SEQ_FPFLAGS.OVERFLOW (c : Nat) : Fld := ⟨0x01000040 + c * 0x40000, 2, 1, 0⟩
def Reg.CORE_SEQ_FPFLAGS.UNDERFLOW (c : Nat) : Fld := ⟨0x01000040 + c * 0x40000, 3, 1, 0⟩
def Reg.CORE_SEQ_FPFLAGS.INEXACT (c : Nat) : Fld := ⟨0x01000040 + c * 0x40000, 4, 1, 0⟩
def Reg.CORE_SEQ_FPFLAGS.NONFINITE (c : Nat) : Fld := ⟨0x01000040 + c * 0x40000, 5, 1, 0⟩
def Reg.CORE_SEQ_FPEVENTS.INVALID_CNT (c : Nat) : Fld := ⟨0x01000044 + c * 0x40000, 0, 6, 0⟩
def Reg.CORE_SEQ_FPEVENTS.DIVZERO_CNT (c : Nat) : Fld := ⟨0x01000044 + c * 0x40000, 6, 6, 0⟩
def Reg.CORE_SEQ_FPEVENTS.OVERFLOW_CNT (c : Nat) : Fld := ⟨0x01000044 + c * 0x40000, 12, 6, 0⟩
def Reg.CORE_SEQ_FPEVENTS.UNDERFLOW_CNT (c : Nat) : Fld := ⟨0x01000044 + c * 0x40000, 18, 6, 0⟩
def Reg.CORE_SEQ_FPEVENTS.NONFINITE_CNT (c : Nat) : Fld := ⟨0x01000044 + c * 0x40000, 24, 6, 0⟩
def Reg.CORE_SEQ_NFCOUNT.COUNT (c : Nat) : Fld := ⟨0x01000048 + c * 0x40000, 0, 32, 0⟩
def Reg.CORE_SEQ_TRACE_DROP.COUNT (c : Nat) : Fld := ⟨0x0100004C + c * 0x40000, 0, 32, 0⟩
def Reg.CORE_SEQ_IDLE_LO.COUNT (c : Nat) (i : Nat) : Fld := ⟨0x01000100 + c * 0x40000 + i * 8, 0, 32, 0⟩
def Reg.CORE_SEQ_IDLE_HI.COUNT (c : Nat) (i : Nat) : Fld := ⟨0x01000104 + c * 0x40000 + i * 8, 0, 32, 0⟩
def Reg.CORE_SEQ_IDLECLR.CLEAR (c : Nat) : Fld := ⟨0x01000180 + c * 0x40000, 0, 1, 0⟩
def Reg.CORE_MXA_STATUS.MODE (c : Nat) : Fld := ⟨0x01004000 + c * 0x40000, 0, 2, 0⟩
def Reg.CORE_MXA_STATUS.BUSY (c : Nat) : Fld := ⟨0x01004000 + c * 0x40000, 2, 1, 0⟩
def Reg.CORE_MXA_STATUS.ACTIVE (c : Nat) : Fld := ⟨0x01004000 + c * 0x40000, 3, 4, 0⟩
def Reg.CORE_MXA_STATUS.KEPT (c : Nat) : Fld := ⟨0x01004000 + c * 0x40000, 7, 1, 0⟩
def Reg.CORE_MXA_ERR.ACC_CE (c : Nat) : Fld := ⟨0x01004004 + c * 0x40000, 0, 1, 0⟩
def Reg.CORE_MXA_ERR.ACC_UE (c : Nat) : Fld := ⟨0x01004004 + c * 0x40000, 1, 1, 0⟩
def Reg.CORE_MXA_ERR.CE_CNT (c : Nat) : Fld := ⟨0x01004004 + c * 0x40000, 8, 8, 0⟩
def Reg.CORE_MXA_USEFUL_LO.COUNT (c : Nat) : Fld := ⟨0x01004010 + c * 0x40000, 0, 32, 0⟩
def Reg.CORE_MXA_USEFUL_HI.COUNT (c : Nat) : Fld := ⟨0x01004014 + c * 0x40000, 0, 32, 0⟩
def Reg.CORE_MXA_BUSY_LO.COUNT (c : Nat) : Fld := ⟨0x01004018 + c * 0x40000, 0, 32, 0⟩
def Reg.CORE_MXA_BUSY_HI.COUNT (c : Nat) : Fld := ⟨0x0100401C + c * 0x40000, 0, 32, 0⟩
def Reg.CORE_MXA_CTRCLR.CLEAR (c : Nat) : Fld := ⟨0x01004020 + c * 0x40000, 0, 1, 0⟩
def Reg.CORE_VEC_ERR.ADDR (c : Nat) : Fld := ⟨0x01008004 + c * 0x40000, 0, 1, 0⟩
def Reg.CORE_VEC_ERR.UNIT (c : Nat) : Fld := ⟨0x01008004 + c * 0x40000, 1, 1, 0⟩
def Reg.CORE_VEC_ERR.ILLEGAL (c : Nat) : Fld := ⟨0x01008004 + c * 0x40000, 2, 1, 0⟩
def Reg.CORE_VEC_ERR.RF_CE (c : Nat) : Fld := ⟨0x01008004 + c * 0x40000, 3, 1, 0⟩
def Reg.CORE_VEC_ERR.RF_UE (c : Nat) : Fld := ⟨0x01008004 + c * 0x40000, 4, 1, 0⟩
def Reg.CORE_VEC_ERR.CE_CNT (c : Nat) : Fld := ⟨0x01008004 + c * 0x40000, 8, 8, 0⟩
def Reg.CORE_VEC_SBSTALL.COUNT (c : Nat) : Fld := ⟨0x01008008 + c * 0x40000, 0, 32, 0⟩
def Reg.CORE_VEC_SBFWD.COUNT (c : Nat) : Fld := ⟨0x0100800C + c * 0x40000, 0, 32, 0⟩
def Reg.CORE_VEC_CTRCLR.CLEAR (c : Nat) : Fld := ⟨0x01008010 + c * 0x40000, 0, 1, 0⟩
def Reg.CORE_DMA_STATUS.BUSY (c : Nat) : Fld := ⟨0x0100C000 + c * 0x40000, 0, 1, 0⟩
def Reg.CORE_DMA_STATUS.RING (c : Nat) : Fld := ⟨0x0100C000 + c * 0x40000, 8, 7, 0⟩
def Reg.CORE_DMA_CHAIN_LIMIT.LIMIT (c : Nat) : Fld := ⟨0x0100C004 + c * 0x40000, 0, 16, 4096⟩
def Reg.CORE_DMA_TIMEOUT.LOCAL_US (c : Nat) : Fld := ⟨0x0100C008 + c * 0x40000, 0, 16, 100⟩
def Reg.CORE_DMA_TIMEOUT.REMOTE_US (c : Nat) : Fld := ⟨0x0100C008 + c * 0x40000, 16, 16, 20000⟩
def Reg.CORE_DMA_BYTES_LO (c : Nat) : Fld := ⟨0x0100C010 + c * 0x40000, 0, 32, 0⟩
def Reg.CORE_DMA_BYTES_HI (c : Nat) : Fld := ⟨0x0100C014 + c * 0x40000, 0, 32, 0⟩
def Reg.CORE_DMA_STALL_LO (c : Nat) : Fld := ⟨0x0100C018 + c * 0x40000, 0, 32, 0⟩
def Reg.CORE_DMA_STALL_HI (c : Nat) : Fld := ⟨0x0100C01C + c * 0x40000, 0, 32, 0⟩
def Reg.CORE_DMA_LATE (c : Nat) : Fld := ⟨0x0100C020 + c * 0x40000, 0, 32, 0⟩
def Reg.CORE_DMA_CTRCLR.CLEAR (c : Nat) : Fld := ⟨0x0100C024 + c * 0x40000, 0, 1, 0⟩
def Reg.CORE_DMA_RING_BASE_LO (c : Nat) (i : Nat) : Fld := ⟨0x0100D000 + c * 0x40000 + i * 64, 0, 32, 0⟩
def Reg.CORE_DMA_RING_BASE_HI (c : Nat) (i : Nat) : Fld := ⟨0x0100D004 + c * 0x40000 + i * 64, 0, 32, 0⟩
def Reg.CORE_DMA_RING_CTL.EN (c : Nat) (i : Nat) : Fld := ⟨0x0100D008 + c * 0x40000 + i * 64, 0, 1, 0⟩
def Reg.CORE_DMA_RING_CTL.STOP (c : Nat) (i : Nat) : Fld := ⟨0x0100D008 + c * 0x40000 + i * 64, 1, 1, 0⟩
def Reg.CORE_DMA_RING_CTL.ABORT (c : Nat) (i : Nat) : Fld := ⟨0x0100D008 + c * 0x40000 + i * 64, 2, 1, 0⟩
def Reg.CORE_DMA_RING_CTL.RESTART (c : Nat) (i : Nat) : Fld := ⟨0x0100D008 + c * 0x40000 + i * 64, 3, 1, 0⟩
def Reg.CORE_DMA_RING_CTL.SIZE_LOG2 (c : Nat) (i : Nat) : Fld := ⟨0x0100D008 + c * 0x40000 + i * 64, 4, 5, 4⟩
def Reg.CORE_DMA_RING_CTL.VEC (c : Nat) (i : Nat) : Fld := ⟨0x0100D008 + c * 0x40000 + i * 64, 16, 11, 0⟩
def Reg.CORE_DMA_RING_DB.COUNT (c : Nat) (i : Nat) : Fld := ⟨0x0100D00C + c * 0x40000 + i * 64, 0, 17, 0⟩
def Reg.CORE_DMA_RING_STATUS.STATE (c : Nat) (i : Nat) : Fld := ⟨0x0100D010 + c * 0x40000 + i * 64, 0, 2, 0⟩
def Reg.CORE_DMA_RING_STATUS.INCHAIN (c : Nat) (i : Nat) : Fld := ⟨0x0100D010 + c * 0x40000 + i * 64, 2, 1, 0⟩
def Reg.CORE_DMA_RING_STATUS.PEND (c : Nat) (i : Nat) : Fld := ⟨0x0100D010 + c * 0x40000 + i * 64, 15, 17, 0⟩
def Reg.CORE_DMA_RING_HEAD.INDEX (c : Nat) (i : Nat) : Fld := ⟨0x0100D014 + c * 0x40000 + i * 64, 0, 16, 0⟩
def Reg.CORE_DMA_RING_FBSTAT.CODE (c : Nat) (i : Nat) : Fld := ⟨0x0100D018 + c * 0x40000 + i * 64, 0, 8, 0⟩
def Reg.CORE_DMA_RING_FBADDR_LO (c : Nat) (i : Nat) : Fld := ⟨0x0100D01C + c * 0x40000 + i * 64, 0, 32, 0⟩
def Reg.CORE_DMA_RING_FBADDR_HI (c : Nat) (i : Nat) : Fld := ⟨0x0100D020 + c * 0x40000 + i * 64, 0, 32, 0⟩
def Reg.CORE_DMA_RING_CPL.COUNT (c : Nat) (i : Nat) : Fld := ⟨0x0100D024 + c * 0x40000 + i * 64, 0, 32, 0⟩

/-- Rows of block GEN, part 0. -/
def rowsGEN0 : List Row := [
  ⟨0x0, 4, 1, 0, 16, 0x0E40, 0, 0, .ro, false⟩,
  ⟨0x0, 4, 1, 16, 8, 0xB1, 0, 0, .ro, false⟩,
  ⟨0x4, 4, 1, 0, 28, 0x100, 0, 0, .ro, false⟩,
  ⟨0x8, 4, 1, 0, 1, 0, 0, 0, .w1c, false⟩,
  ⟨0x8, 4, 1, 1, 1, 0, 0, 0, .w1c, false⟩,
  ⟨0x8, 4, 1, 2, 1, 0, 0, 0, .w1c, false⟩,
  ⟨0x8, 4, 1, 8, 8, 0, 0, 0, .ro, false⟩,
  ⟨0x8, 4, 1, 16, 8, 0, 0, 0, .ro, false⟩,
  ⟨0xC, 4, 1, 0, 28, 0, 0, 0, .ro, false⟩,
  ⟨0x10, 4, 1, 0, 16, 0, 0, 0, .ro, false⟩]

/-- The register table of block GEN. -/
def rowsGEN : List Row := rowsGEN0

/-- Rows of block STG, part 0. -/
def rowsSTG0 : List Row := [
  ⟨0x0, 4, 1, 0, 3, 0, 0, 0, .ro, false⟩,
  ⟨0x0, 4, 1, 3, 1, 0, 0, 0, .ro, false⟩,
  ⟨0x0, 4, 1, 8, 4, 0, 0, 0, .ro, false⟩,
  ⟨0x4, 4, 1, 0, 1, 0, 0, 0, .w1s, false⟩,
  ⟨0x4, 4, 1, 1, 1, 0, 0, 0, .w1s, false⟩,
  ⟨0x4, 4, 1, 2, 1, 0, 0, 0, .w1s, false⟩,
  ⟨0x4, 4, 1, 3, 1, 0, 0, 0, .w1s, false⟩,
  ⟨0x4, 4, 1, 4, 1, 0, 0, 0, .rw, false⟩,
  ⟨0x8, 4, 1, 0, 28, 0, 0, 0, .ro, false⟩,
  ⟨0xC, 4, 1, 0, 1, 0, 0, 0, .w1c, false⟩,
  ⟨0xC, 4, 1, 1, 1, 0, 0, 0, .w1c, false⟩,
  ⟨0xC, 4, 1, 2, 1, 0, 0, 0, .w1c, false⟩,
  ⟨0xC, 4, 1, 3, 1, 0, 0, 0, .w1c, false⟩,
  ⟨0xC, 4, 1, 4, 1, 0, 0, 0, .w1c, false⟩,
  ⟨0xC, 4, 1, 8, 8, 0, 0, 0, .ro, false⟩,
  ⟨0x10, 4, 1, 0, 32, 0, 0, 0, .rw, false⟩,
  ⟨0x14, 4, 1, 0, 32, 0, 0, 0, .rw, false⟩,
  ⟨0x18, 4, 1, 0, 32, 0, 0, 0, .ro, false⟩,
  ⟨0x1C, 4, 1, 0, 32, 0, 0, 0, .ro, false⟩,
  ⟨0x20, 4, 1, 0, 32, 0, 0, 0, .ro, false⟩]

/-- The register table of block STG. -/
def rowsSTG : List Row := rowsSTG0

/-- Rows of block MTC, part 0. -/
def rowsMTC0 : List Row := [
  ⟨0x0, 4, 1, 0, 1, 0, 0, 0, .ro, false⟩,
  ⟨0x0, 4, 1, 1, 1, 0, 0, 0, .ro, false⟩,
  ⟨0x0, 4, 1, 2, 1, 0, 0, 0, .ro, false⟩,
  ⟨0x0, 4, 1, 3, 1, 0, 0, 0, .ro, false⟩,
  ⟨0x0, 4, 1, 4, 7, 0, 0, 0, .ro, false⟩,
  ⟨0x0, 4, 1, 11, 5, 0, 0, 0, .ro, false⟩,
  ⟨0x4, 4, 1, 0, 32, 0, 0, 0, .ro, false⟩,
  ⟨0x8, 4, 1, 0, 32, 0, 0, 0, .ro, false⟩,
  ⟨0xC, 4, 1, 0, 32, 0, 0, 0, .ro, false⟩,
  ⟨0x10, 4, 1, 0, 14, 0, 0, 0, .rl, false⟩,
  ⟨0x10, 4, 1, 16, 14, 0, 0, 0, .rl, false⟩,
  ⟨0x14, 4, 1, 0, 16, 10000, 0, 0, .rl, true⟩,
  ⟨0x18, 4, 1, 0, 1, 0, 0, 0, .w1c, false⟩,
  ⟨0x18, 4, 1, 1, 1, 0, 0, 0, .w1c, false⟩,
  ⟨0x18, 4, 1, 2, 1, 0, 0, 0, .w1c, false⟩,
  ⟨0x18, 4, 1, 3, 1, 0, 0, 0, .w1c, false⟩,
  ⟨0x18, 4, 1, 8, 8, 0, 0, 0, .ro, false⟩,
  ⟨0x1C, 4, 1, 0, 32, 0, 0, 0, .rl, true⟩,
  ⟨0x20, 4, 1, 0, 32, 0, 0, 0, .rl, true⟩,
  ⟨0x24, 4, 1, 0, 1, 0, 0, 0, .st, false⟩,
  ⟨0x24, 4, 1, 1, 1, 0, 0, 0, .st, true⟩]

/-- The register table of block MTC. -/
def rowsMTC : List Row := rowsMTC0

/-- Rows of block PWR, part 0. -/
def rowsPWR0 : List Row := [
  ⟨0x0, 4, 1, 0, 3, 0, 0, 0, .ro, false⟩,
  ⟨0x0, 4, 1, 3, 1, 0, 0, 0, .ro, false⟩,
  ⟨0x0, 4, 1, 4, 1, 0, 0, 0, .ro, false⟩,
  ⟨0x0, 4, 1, 5, 1, 0, 0, 0, .ro, false⟩,
  ⟨0x0, 4, 1, 6, 1, 0, 0, 0, .ro, false⟩,
  ⟨0x0, 4, 1, 7, 1, 0, 0, 0, .ro, false⟩,
  ⟨0x0, 4, 1, 8, 1, 0, 0, 0, .ro, false⟩,
  ⟨0x0, 4, 1, 16, 16, 1300, 0, 0, .ro, false⟩,
  ⟨0x4, 4, 1, 0, 1, 0, 0, 0, .rw, false⟩,
  ⟨0x8, 4, 1, 0, 3, 0, 0, 0, .rw, false⟩,
  ⟨0x8, 4, 1, 8, 1, 0, 0, 0, .w1c, false⟩,
  ⟨0x8, 4, 1, 12, 4, 0, 0, 0, .ro, false⟩,
  ⟨0x8, 4, 1, 16, 8, 0, 0, 0, .ro, false⟩,
  ⟨0xC, 4, 1, 0, 13, 0, 0, 0, .ro, false⟩,
  ⟨0x10, 4, 1, 0, 16, 0, 0, 0, .ro, false⟩,
  ⟨0x10, 4, 1, 16, 16, 0, 0, 0, .ro, false⟩,
  ⟨0x14, 4, 1, 0, 8, 0, 0, 0, .ro, false⟩,
  ⟨0x14, 4, 1, 8, 8, 0, 0, 0, .ro, false⟩,
  ⟨0x14, 4, 1, 16, 8, 0, 0, 0, .ro, false⟩,
  ⟨0x18, 4, 1, 0, 12, 0, 0, 0, .ro, false⟩,
  ⟨0x18, 4, 1, 16, 12, 0, 0, 0, .ro, false⟩,
  ⟨0x1C, 4, 1, 0, 1, 0, 0, 0, .w1c, false⟩,
  ⟨0x1C, 4, 1, 1, 1, 0, 0, 0, .w1c, false⟩,
  ⟨0x1C, 4, 1, 8, 8, 0, 0, 0, .ro, false⟩,
  ⟨0x20, 4, 1, 0, 32, 0, 0, 0, .ro, false⟩]

/-- Rows of block PWR, part 1. -/
def rowsPWR1 : List Row := [
  ⟨0x24, 4, 1, 0, 32, 0, 0, 0, .ro, false⟩,
  ⟨0x100, 4, 1, 0, 3, 0, 0, 0, .ro, false⟩,
  ⟨0x100, 4, 1, 4, 3, 0, 0, 0, .ro, false⟩,
  ⟨0x100, 4, 1, 8, 1, 0, 0, 0, .ro, false⟩,
  ⟨0x100, 4, 1, 9, 1, 0, 0, 0, .ro, false⟩,
  ⟨0x100, 4, 1, 10, 2, 0, 0, 0, .ro, false⟩,
  ⟨0x100, 4, 1, 12, 1, 0, 0, 0, .ro, false⟩,
  ⟨0x100, 4, 1, 16, 16, 0, 0, 0, .ro, false⟩,
  ⟨0x104, 4, 1, 0, 32, 0, 0, 0, .ro, false⟩,
  ⟨0x108, 4, 1, 0, 32, 0, 0, 0, .ro, false⟩,
  ⟨0x110, 4, 1, 0, 3, 0, 0, 0, .rw, false⟩,
  ⟨0x110, 4, 1, 8, 6, 0, 0, 0, .rw, false⟩,
  ⟨0x110, 4, 1, 16, 1, 0, 0, 0, .rw, false⟩,
  ⟨0x110, 4, 1, 31, 1, 0, 0, 0, .w1s, false⟩,
  ⟨0x114, 4, 1, 0, 1, 0, 0, 0, .ro, false⟩,
  ⟨0x114, 4, 1, 1, 1, 0, 0, 0, .w1c, false⟩,
  ⟨0x114, 4, 1, 2, 3, 0, 0, 0, .ro, false⟩,
  ⟨0x114, 4, 1, 8, 8, 0, 0, 0, .ro, false⟩]

/-- The register table of block PWR. -/
def rowsPWR : List Row := rowsPWR0 ++ rowsPWR1

/-- Rows of block FLT, part 0. -/
def rowsFLT0 : List Row := [
  ⟨0x0, 4, 1, 0, 3, 0, 0, 0, .ro, false⟩,
  ⟨0x0, 4, 1, 4, 1, 0, 0, 0, .ro, false⟩,
  ⟨0x0, 4, 1, 5, 1, 0, 0, 0, .ro, false⟩,
  ⟨0x0, 4, 1, 6, 1, 0, 0, 0, .ro, false⟩,
  ⟨0x0, 4, 1, 8, 8, 0, 0, 0, .ro, false⟩,
  ⟨0x4, 4, 1, 0, 1, 0, 0, 0, .rl, false⟩,
  ⟨0x4, 4, 1, 1, 1, 0, 0, 0, .rw, false⟩,
  ⟨0x4, 4, 1, 16, 11, 0, 0, 0, .rw, false⟩,
  ⟨0x8, 4, 1, 0, 16, 1000, 0, 0, .rl, true⟩,
  ⟨0x8, 4, 1, 16, 16, 1000, 0, 0, .rl, true⟩,
  ⟨0xC, 4, 1, 0, 16, 350, 0, 0, .rl, true⟩,
  ⟨0x10, 4, 1, 0, 32, 0, 0, 0, .st, false⟩,
  ⟨0x14, 4, 1, 0, 32, 0, 0, 0, .st, false⟩,
  ⟨0x18, 4, 1, 0, 7, 0, 0, 0, .st, false⟩,
  ⟨0x1C, 4, 1, 0, 32, 0, 0, 0, .ro, false⟩,
  ⟨0x20, 4, 1, 0, 16, 0xFFFF, 0, 0, .ro, false⟩,
  ⟨0x24, 4, 1, 0, 32, 0, 0, 0, .ro, false⟩,
  ⟨0x28, 4, 1, 0, 32, 0, 0, 0, .ro, false⟩,
  ⟨0x30, 4, 1, 0, 1, 0, 0, 0, .w1c, false⟩,
  ⟨0x30, 4, 1, 1, 1, 0, 0, 0, .w1c, false⟩,
  ⟨0x30, 4, 1, 2, 1, 0, 0, 0, .w1c, false⟩,
  ⟨0x30, 4, 1, 3, 1, 0, 0, 0, .w1c, false⟩,
  ⟨0x30, 4, 1, 8, 8, 0, 0, 0, .ro, false⟩,
  ⟨0x40, 4, 1, 0, 32, 0, 0, 0, .ro, false⟩,
  ⟨0x44, 4, 1, 0, 32, 0, 0, 0, .rw, false⟩]

/-- Rows of block FLT, part 1. -/
def rowsFLT1 : List Row := [
  ⟨0x48, 4, 1, 0, 16, 0, 0, 0, .ro, false⟩,
  ⟨0x48, 4, 1, 16, 16, 0, 0, 0, .ro, false⟩,
  ⟨0x4C, 4, 1, 0, 16, 100, 0, 0, .rw, true⟩,
  ⟨0x50, 4, 1, 0, 16, 0, 0, 0, .ro, false⟩,
  ⟨0x50, 4, 1, 16, 16, 100, 0, 0, .rw, true⟩,
  ⟨0x54, 4, 1, 0, 1, 0, 0, 0, .ro, false⟩,
  ⟨0x54, 4, 1, 1, 2, 0, 0, 0, .ro, false⟩,
  ⟨0x54, 4, 1, 3, 1, 0, 0, 0, .w1s, false⟩]

/-- The register table of block FLT. -/
def rowsFLT : List Row := rowsFLT0 ++ rowsFLT1

/-- Rows of block HST, part 0. -/
def rowsHST0 : List Row := [
  ⟨0x0, 4, 1, 0, 1, 0, 0, 0, .ro, false⟩,
  ⟨0x0, 4, 1, 1, 3, 0, 0, 0, .ro, false⟩,
  ⟨0x0, 4, 1, 4, 5, 0, 0, 0, .ro, false⟩,
  ⟨0x0, 4, 1, 9, 1, 1, 0, 0, .ro, false⟩,
  ⟨0x4, 4, 1, 0, 1, 0, 0, 0, .rw, true⟩,
  ⟨0x4, 4, 1, 16, 11, 0, 0, 0, .rw, false⟩,
  ⟨0x8, 4, 1, 0, 32, 0, 0, 0, .rw, false⟩,
  ⟨0xC, 4, 1, 0, 32, 0, 0, 0, .rw, false⟩,
  ⟨0x10, 4, 1, 0, 32, 0, 0, 0, .rl, false⟩,
  ⟨0x14, 4, 1, 0, 32, 0, 0, 0, .rl, false⟩,
  ⟨0x18, 4, 1, 0, 11, 0, 0, 0, .rl, false⟩,
  ⟨0x1C, 4, 1, 0, 1, 0, 0, 0, .w1c, false⟩,
  ⟨0x1C, 4, 1, 1, 1, 0, 0, 0, .w1c, false⟩,
  ⟨0x1C, 4, 1, 2, 1, 0, 0, 0, .w1c, false⟩,
  ⟨0x1C, 4, 1, 3, 1, 0, 0, 0, .w1c, false⟩,
  ⟨0x1C, 4, 1, 8, 8, 0, 0, 0, .ro, false⟩]

/-- The register table of block HST. -/
def rowsHST : List Row := rowsHST0

/-- Rows of block MTR, part 0. -/
def rowsMTR0 : List Row := [
  ⟨0x0, 4, 1, 0, 1, 0, 0, 0, .ro, false⟩,
  ⟨0x0, 4, 1, 1, 1, 0, 0, 0, .ro, false⟩,
  ⟨0x0, 4, 1, 2, 1, 0, 0, 0, .ro, false⟩,
  ⟨0x0, 4, 1, 3, 1, 0, 0, 0, .ro, false⟩,
  ⟨0x0, 4, 1, 4, 1, 0, 0, 0, .ro, false⟩,
  ⟨0x4, 4, 1, 0, 32, 0, 0, 0, .ro, false⟩,
  ⟨0x8, 4, 1, 0, 32, 0, 0, 0, .ro, false⟩,
  ⟨0xC, 4, 1, 0, 32, 0, 0, 0, .ro, false⟩,
  ⟨0x10, 4, 1, 0, 32, 0, 0, 0, .ro, false⟩,
  ⟨0x14, 4, 1, 0, 32, 0, 0, 0, .ro, false⟩,
  ⟨0x18, 4, 1, 0, 32, 0, 0, 0, .ro, false⟩,
  ⟨0x1C, 4, 1, 0, 32, 0, 0, 0, .ro, false⟩,
  ⟨0x20, 4, 1, 0, 32, 0, 0, 0, .ro, false⟩,
  ⟨0x24, 4, 1, 0, 32, 0, 0, 0, .ro, false⟩]

/-- The register table of block MTR. -/
def rowsMTR : List Row := rowsMTR0

/-- Rows of block LNK, part 0. -/
def rowsLNK0 : List Row := [
  ⟨0x0, 4, 1, 0, 4, 0, 0, 0, .ro, false⟩,
  ⟨0x0, 4, 1, 4, 2, 0, 0, 0, .ro, false⟩,
  ⟨0x0, 4, 1, 6, 1, 0, 0, 0, .ro, false⟩,
  ⟨0x0, 4, 1, 7, 1, 0, 0, 0, .ro, false⟩,
  ⟨0x0, 4, 1, 8, 9, 0, 0, 0, .ro, false⟩,
  ⟨0x0, 4, 1, 17, 1, 0, 0, 0, .ro, false⟩,
  ⟨0x4, 4, 1, 0, 2, 0, 0, 0, .st, false⟩,
  ⟨0x4, 4, 1, 2, 1, 1, 0, 0, .st, false⟩,
  ⟨0x4, 4, 1, 3, 1, 0, 0, 0, .st, true⟩,
  ⟨0x4, 4, 1, 4, 2, 2, 0, 0, .st, true⟩,
  ⟨0x4, 4, 1, 6, 1, 0, 0, 0, .w1s, false⟩,
  ⟨0x8, 4, 1, 0, 16, 1000, 0, 0, .rl, true⟩,
  ⟨0x8, 4, 1, 16, 16, 2000, 0, 0, .rl, true⟩,
  ⟨0xC, 4, 1, 0, 14, 0, 0, 0, .ro, false⟩,
  ⟨0xC, 4, 1, 14, 5, 0, 0, 0, .ro, false⟩,
  ⟨0xC, 4, 1, 19, 2, 0, 0, 0, .ro, false⟩,
  ⟨0x10, 4, 1, 0, 24, 0, 0, 0, .ro, false⟩,
  ⟨0x14, 4, 1, 0, 24, 0, 0, 0, .ro, false⟩,
  ⟨0x18, 4, 1, 0, 1, 0, 0, 0, .w1c, false⟩,
  ⟨0x18, 4, 1, 1, 1, 0, 0, 0, .w1c, false⟩,
  ⟨0x18, 4, 1, 2, 1, 0, 0, 0, .w1c, false⟩,
  ⟨0x18, 4, 1, 3, 1, 0, 0, 0, .w1c, false⟩,
  ⟨0x18, 4, 1, 4, 1, 0, 0, 0, .w1c, false⟩,
  ⟨0x18, 4, 1, 5, 1, 0, 0, 0, .w1c, false⟩,
  ⟨0x18, 4, 1, 8, 8, 0, 0, 0, .ro, false⟩]

/-- Rows of block LNK, part 1. -/
def rowsLNK1 : List Row := [
  ⟨0x20, 4, 1, 0, 32, 0, 0, 0, .ro, false⟩,
  ⟨0x24, 4, 1, 0, 32, 0, 0, 0, .ro, false⟩,
  ⟨0x28, 4, 1, 0, 32, 0, 0, 0, .ro, false⟩,
  ⟨0x2C, 4, 1, 0, 32, 0, 0, 0, .ro, false⟩,
  ⟨0x30, 4, 1, 0, 32, 0, 0, 0, .ro, false⟩,
  ⟨0x34, 4, 1, 0, 32, 0, 0, 0, .ro, false⟩,
  ⟨0x38, 4, 1, 0, 32, 0, 0, 0, .ro, false⟩,
  ⟨0x3C, 4, 1, 0, 32, 0, 0, 0, .ro, false⟩,
  ⟨0x40, 4, 1, 0, 32, 0, 0, 0, .ro, false⟩,
  ⟨0x44, 4, 1, 0, 32, 0, 0, 0, .ro, false⟩,
  ⟨0x100, 16, 9, 0, 10, 0, 0, 0, .ro, false⟩,
  ⟨0x100, 16, 9, 10, 10, 0, 0, 0, .ro, false⟩,
  ⟨0x100, 16, 9, 20, 1, 0, 0, 0, .ro, false⟩,
  ⟨0x104, 16, 9, 0, 16, 0, 0, 0, .ro, false⟩,
  ⟨0x104, 16, 9, 16, 16, 0, 0, 0, .ro, false⟩,
  ⟨0x108, 16, 9, 0, 32, 0, 0, 0, .ro, false⟩]

/-- The register table of block LNK. -/
def rowsLNK : List Row := rowsLNK0 ++ rowsLNK1

/-- Rows of block FAB, part 0. -/
def rowsFAB0 : List Row := [
  ⟨0x0, 4, 1, 0, 24, 0, 0, 0, .ro, false⟩,
  ⟨0x4, 4, 1, 0, 1, 0, 0, 0, .st, true⟩,
  ⟨0x4, 4, 1, 1, 2, 0, 0, 0, .st, false⟩,
  ⟨0x8, 4, 1, 0, 24, 0x041041, 0, 0, .rl, false⟩,
  ⟨0xC, 4, 1, 0, 14, 0, 0, 0, .ro, false⟩,
  ⟨0x10, 4, 1, 0, 20, 0, 0, 0, .rl, false⟩,
  ⟨0x14, 4, 1, 0, 10, 0, 0, 0, .st, false⟩,
  ⟨0x18, 4, 1, 0, 20, 0, 0, 0, .st, false⟩,
  ⟨0x1C, 4, 1, 0, 24, 0x041041, 0, 0, .st, false⟩,
  ⟨0x20, 4, 8, 0, 10, 0, 0, 0, .st, false⟩,
  ⟨0x20, 4, 8, 31, 1, 0, 0, 0, .st, false⟩,
  ⟨0x40, 4, 1, 0, 32, 0, 0, 0, .ro, false⟩,
  ⟨0x44, 4, 1, 0, 32, 0, 0, 0, .ro, false⟩,
  ⟨0x48, 4, 1, 0, 32, 0, 0, 0, .ro, false⟩,
  ⟨0x4C, 4, 1, 0, 32, 0, 0, 0, .ro, false⟩,
  ⟨0x50, 4, 1, 0, 32, 0, 0, 0, .ro, false⟩,
  ⟨0x54, 4, 1, 0, 32, 0, 0, 0, .ro, false⟩,
  ⟨0x58, 4, 1, 0, 32, 0, 0, 0, .ro, false⟩,
  ⟨0x5C, 4, 1, 0, 32, 0, 0, 0, .ro, false⟩,
  ⟨0x60, 4, 1, 0, 32, 0, 0, 0, .ro, false⟩,
  ⟨0x64, 4, 1, 0, 32, 0, 0, 0, .ro, false⟩,
  ⟨0x70, 4, 1, 0, 32, 0, 0, 0, .ro, false⟩,
  ⟨0x74, 4, 1, 0, 32, 0, 0, 0, .ro, false⟩,
  ⟨0x78, 4, 1, 0, 32, 0, 0, 0, .ro, false⟩,
  ⟨0x7C, 4, 1, 0, 32, 0, 0, 0, .ro, false⟩]

/-- Rows of block FAB, part 1. -/
def rowsFAB1 : List Row := [
  ⟨0x80, 4, 1, 0, 1, 0, 0, 0, .w1c, false⟩,
  ⟨0x80, 4, 1, 1, 1, 0, 0, 0, .w1c, false⟩,
  ⟨0x80, 4, 1, 2, 1, 0, 0, 0, .w1c, false⟩,
  ⟨0x80, 4, 1, 3, 1, 0, 0, 0, .w1c, false⟩,
  ⟨0x80, 4, 1, 8, 8, 0, 0, 0, .ro, false⟩,
  ⟨0x84, 4, 1, 0, 1, 0, 0, 0, .wo, false⟩,
  ⟨0x400, 8, 32, 0, 1, 0, 0, 0, .st, false⟩,
  ⟨0x400, 8, 32, 1, 14, 0, 0, 0, .st, false⟩,
  ⟨0x404, 8, 32, 0, 14, 0, 0, 0, .st, false⟩]

/-- The register table of block FAB. -/
def rowsFAB : List Row := rowsFAB0 ++ rowsFAB1

/-- Rows of block PST, part 0. -/
def rowsPST0 : List Row := [
  ⟨0x0, 16, 512, 0, 1, 0, 0, 0, .st, false⟩,
  ⟨0x0, 16, 512, 1, 2, 0, 0, 0, .st, false⟩,
  ⟨0x0, 16, 512, 3, 5, 0, 0, 0, .st, false⟩,
  ⟨0x0, 16, 512, 8, 5, 0, 0, 0, .st, false⟩,
  ⟨0x0, 16, 512, 13, 10, 0, 0, 0, .st, false⟩,
  ⟨0x4, 16, 512, 0, 14, 0, 0, 0, .st, false⟩,
  ⟨0x8, 16, 512, 0, 32, 0, 0, 0, .st, false⟩,
  ⟨0xC, 16, 512, 0, 32, 0, 0, 0, .st, false⟩]

/-- The register table of block PST. -/
def rowsPST : List Row := rowsPST0

/-- Rows of block COL, part 0. -/
def rowsCOL0 : List Row := [
  ⟨0x0, 4, 1, 0, 1, 0, 0, 0, .ro, false⟩,
  ⟨0x0, 4, 1, 1, 1, 0, 0, 0, .ro, false⟩,
  ⟨0x0, 4, 1, 8, 7, 0, 0, 0, .ro, false⟩,
  ⟨0x0, 4, 1, 16, 16, 0, 0, 0, .ro, false⟩,
  ⟨0x4, 4, 1, 0, 1, 0, 0, 0, .st, false⟩,
  ⟨0x8, 4, 1, 0, 32, 0, 0, 0, .st, false⟩,
  ⟨0xC, 4, 1, 0, 32, 0, 0, 0, .st, false⟩,
  ⟨0x10, 4, 1, 0, 16, 0, 0, 0, .st, false⟩,
  ⟨0x14, 4, 1, 0, 32, 50000, 0, 0, .rl, true⟩,
  ⟨0x18, 4, 1, 0, 32, 0, 0, 0, .st, false⟩,
  ⟨0x1C, 4, 1, 0, 32, 0, 0, 0, .st, false⟩,
  ⟨0x20, 4, 1, 0, 32, 0, 0, 0, .st, false⟩,
  ⟨0x24, 4, 1, 0, 32, 0, 0, 0, .st, false⟩,
  ⟨0x28, 4, 1, 0, 1, 0, 0, 0, .w1c, false⟩,
  ⟨0x28, 4, 1, 1, 1, 0, 0, 0, .w1c, false⟩,
  ⟨0x28, 4, 1, 2, 1, 0, 0, 0, .w1c, false⟩,
  ⟨0x28, 4, 1, 3, 1, 0, 0, 0, .w1c, false⟩,
  ⟨0x28, 4, 1, 4, 1, 0, 0, 0, .w1c, false⟩,
  ⟨0x28, 4, 1, 5, 1, 0, 0, 0, .w1c, false⟩,
  ⟨0x28, 4, 1, 6, 1, 0, 0, 0, .w1c, false⟩,
  ⟨0x28, 4, 1, 8, 8, 0, 0, 0, .ro, false⟩,
  ⟨0x2C, 4, 1, 0, 6, 0, 0, 0, .ro, false⟩,
  ⟨0x2C, 4, 1, 8, 6, 0, 0, 0, .ro, false⟩,
  ⟨0x2C, 4, 1, 16, 1, 0, 0, 0, .ro, false⟩,
  ⟨0x30, 4, 1, 0, 32, 0, 0, 0, .ro, false⟩]

/-- Rows of block COL, part 1. -/
def rowsCOL1 : List Row := [
  ⟨0x34, 4, 1, 0, 32, 0, 0, 0, .ro, false⟩,
  ⟨0x38, 4, 1, 0, 32, 0, 0, 0, .ro, false⟩,
  ⟨0x3C, 4, 1, 0, 32, 0, 0, 0, .ro, false⟩,
  ⟨0x40, 4, 1, 0, 32, 0, 0, 0, .ro, false⟩,
  ⟨0x44, 4, 1, 0, 32, 0, 0, 0, .ro, false⟩,
  ⟨0x48, 4, 1, 0, 32, 0, 0, 0, .ro, false⟩,
  ⟨0x4C, 4, 1, 0, 32, 0, 0, 0, .ro, false⟩,
  ⟨0x50, 4, 1, 0, 32, 0, 0, 0, .ro, false⟩,
  ⟨0x54, 4, 1, 0, 32, 0, 0, 0, .ro, false⟩,
  ⟨0x58, 4, 1, 0, 1, 0, 0, 0, .wo, false⟩,
  ⟨0x100, 32, 64, 0, 2, 0, 0, 0, .st, false⟩,
  ⟨0x100, 32, 64, 2, 2, 0, 0, 0, .st, false⟩,
  ⟨0x100, 32, 64, 16, 16, 0, 0, 0, .ro, false⟩,
  ⟨0x104, 32, 64, 0, 32, 0, 0, 0, .st, false⟩,
  ⟨0x108, 32, 64, 0, 32, 0, 0, 0, .st, false⟩,
  ⟨0x10C, 32, 64, 0, 32, 0, 0, 0, .st, false⟩,
  ⟨0x110, 32, 64, 0, 32, 0, 0, 0, .st, false⟩,
  ⟨0x900, 16, 16, 0, 32, 0, 0, 0, .st, false⟩,
  ⟨0x904, 16, 16, 0, 32, 0, 0, 0, .st, false⟩,
  ⟨0x908, 16, 16, 0, 9, 0, 0, 0, .st, false⟩,
  ⟨0x908, 16, 16, 9, 5, 16, 0, 0, .st, false⟩,
  ⟨0x908, 16, 16, 16, 9, 0, 0, 0, .ro, false⟩,
  ⟨0x90C, 16, 16, 0, 16, 0xFFFF, 0, 0, .ro, false⟩,
  ⟨0x90C, 16, 16, 16, 16, 0, 0, 0, .wo, false⟩]

/-- The register table of block COL. -/
def rowsCOL : List Row := rowsCOL0 ++ rowsCOL1

/-- Rows of block GRN, part 0. -/
def rowsGRN0 : List Row := [
  ⟨0x0, 4, 1, 0, 1, 0, 0, 0, .ro, false⟩,
  ⟨0x0, 4, 1, 1, 1, 0, 0, 0, .ro, false⟩,
  ⟨0x0, 4, 1, 2, 1, 0, 0, 0, .ro, false⟩,
  ⟨0x0, 4, 1, 8, 8, 0, 0, 0, .ro, false⟩,
  ⟨0x0, 4, 1, 16, 6, 0, 0, 0, .ro, false⟩,
  ⟨0x0, 4, 1, 22, 7, 0, 0, 0, .ro, false⟩,
  ⟨0x4, 4, 1, 0, 1, 0, 0, 0, .w1c, false⟩,
  ⟨0x4, 4, 1, 1, 1, 0, 0, 0, .w1c, false⟩,
  ⟨0x4, 4, 1, 2, 1, 0, 0, 0, .w1c, false⟩,
  ⟨0x4, 4, 1, 8, 8, 0, 0, 0, .ro, false⟩,
  ⟨0x8, 4, 1, 0, 32, 0, 0, 0, .ro, false⟩,
  ⟨0xC, 4, 1, 0, 32, 0, 0, 0, .ro, false⟩,
  ⟨0x10, 4, 1, 0, 8, 24, 0, 0, .rw, true⟩,
  ⟨0x10, 4, 1, 8, 1, 1, 0, 0, .rw, true⟩,
  ⟨0x100, 4, 1, 0, 1, 0, 0, 0, .ro, false⟩,
  ⟨0x100, 4, 1, 8, 8, 0, 0, 0, .ro, false⟩,
  ⟨0x104, 4, 1, 0, 1, 0, 0, 0, .w1c, false⟩,
  ⟨0x104, 4, 1, 1, 1, 0, 0, 0, .w1c, false⟩,
  ⟨0x104, 4, 1, 2, 1, 0, 0, 0, .w1c, false⟩,
  ⟨0x104, 4, 1, 3, 1, 0, 0, 0, .w1c, false⟩,
  ⟨0x104, 4, 1, 4, 1, 0, 0, 0, .w1c, false⟩,
  ⟨0x104, 4, 1, 8, 8, 0, 0, 0, .ro, false⟩,
  ⟨0x108, 4, 1, 0, 32, 0, 0, 0, .ro, false⟩,
  ⟨0x10C, 4, 1, 0, 32, 0, 0, 0, .ro, false⟩,
  ⟨0x110, 4, 1, 0, 32, 0, 0, 0, .ro, false⟩]

/-- Rows of block GRN, part 1. -/
def rowsGRN1 : List Row := [
  ⟨0x114, 4, 1, 0, 32, 0, 0, 0, .ro, false⟩,
  ⟨0x118, 4, 1, 0, 32, 0, 0, 0, .ro, false⟩]

/-- The register table of block GRN. -/
def rowsGRN : List Row := rowsGRN0 ++ rowsGRN1

/-- Rows of block TBL, part 0. -/
def rowsTBL0 : List Row := [
  ⟨0x0, 4, 384, 0, 2, 1, 0, 0, .st, false⟩,
  ⟨0x0, 4, 384, 2, 3, 0, 48, 0, .st, false⟩,
  ⟨0x0, 4, 384, 5, 6, 0, 0, 48, .st, false⟩,
  ⟨0x0, 4, 384, 11, 3, 0, 0, 0, .st, false⟩,
  ⟨0x800, 4, 256, 0, 2, 1, 0, 0, .st, false⟩,
  ⟨0x800, 4, 256, 2, 5, 0, 32, 0, .st, false⟩,
  ⟨0x800, 4, 256, 7, 5, 0, 0, 32, .st, false⟩,
  ⟨0x800, 4, 256, 12, 3, 0, 0, 0, .st, false⟩,
  ⟨0x1000, 16, 256, 0, 4, 0, 0, 0, .st, false⟩,
  ⟨0x1000, 16, 256, 4, 1, 0, 0, 0, .st, false⟩,
  ⟨0x1000, 16, 256, 5, 1, 0, 0, 0, .st, false⟩,
  ⟨0x1000, 16, 256, 6, 4, 0, 0, 0, .st, false⟩,
  ⟨0x1004, 16, 256, 0, 27, 0, 0, 0, .st, false⟩,
  ⟨0x1008, 16, 256, 0, 32, 0, 0, 0, .st, false⟩,
  ⟨0x100C, 16, 256, 0, 32, 0, 0, 0, .st, false⟩,
  ⟨0x2000, 8, 256, 0, 9, 0, 0, 0, .ro, false⟩,
  ⟨0x2000, 8, 256, 9, 1, 0, 0, 0, .ro, false⟩,
  ⟨0x2000, 8, 256, 10, 1, 0, 0, 0, .ro, false⟩,
  ⟨0x2000, 8, 256, 16, 9, 0, 0, 0, .ro, false⟩,
  ⟨0x2004, 8, 256, 0, 32, 0, 0, 0, .ro, false⟩,
  ⟨0x3000, 64, 16, 0, 1, 0, 0, 0, .st, false⟩,
  ⟨0x3000, 64, 16, 1, 1, 0, 0, 0, .st, false⟩,
  ⟨0x3000, 64, 16, 2, 1, 0, 0, 0, .st, false⟩,
  ⟨0x3004, 64, 16, 0, 3, 0, 0, 0, .ro, false⟩,
  ⟨0x3004, 64, 16, 3, 1, 0, 0, 0, .ro, false⟩]

/-- Rows of block TBL, part 1. -/
def rowsTBL1 : List Row := [
  ⟨0x3004, 64, 16, 4, 1, 0, 0, 0, .w1c, false⟩,
  ⟨0x3004, 64, 16, 5, 1, 0, 0, 0, .w1c, false⟩,
  ⟨0x3008, 64, 16, 0, 8, 0, 0, 0, .rl, false⟩,
  ⟨0x3008, 64, 16, 8, 8, 0x81, 0, 0, .rl, false⟩,
  ⟨0x3008, 64, 16, 16, 8, 0x7F, 0, 0, .rl, false⟩,
  ⟨0x300C, 64, 16, 0, 16, 2000, 0, 0, .rl, false⟩,
  ⟨0x300C, 64, 16, 16, 16, 0, 0, 0, .rl, false⟩,
  ⟨0x3010, 64, 16, 0, 32, 0, 0, 0, .rl, false⟩,
  ⟨0x3014, 64, 16, 0, 32, 0x3F800000, 0, 0, .rl, false⟩,
  ⟨0x3018, 64, 16, 0, 32, 0x3F800000, 0, 0, .rl, false⟩,
  ⟨0x3020, 64, 16, 0, 32, 0, 0, 0, .st, false⟩,
  ⟨0x3024, 64, 16, 0, 32, 0, 0, 0, .st, false⟩,
  ⟨0x3028, 64, 16, 0, 32, 0, 0, 0, .st, false⟩,
  ⟨0x302C, 64, 16, 0, 32, 0, 0, 0, .st, false⟩,
  ⟨0x3030, 64, 16, 0, 16, 0, 0, 0, .st, false⟩,
  ⟨0x3038, 64, 16, 0, 32, 0, 0, 0, .st, false⟩,
  ⟨0x303C, 64, 16, 0, 32, 0, 0, 0, .st, false⟩,
  ⟨0x3400, 4, 1, 0, 4, 0, 0, 0, .wo, false⟩,
  ⟨0x3400, 4, 1, 4, 2, 0, 0, 0, .wo, false⟩,
  ⟨0x3404, 4, 1, 0, 1, 0, 0, 0, .ro, false⟩,
  ⟨0x3404, 4, 1, 1, 1, 0, 0, 0, .w1c, false⟩,
  ⟨0x3404, 4, 1, 2, 1, 0, 0, 0, .w1c, false⟩,
  ⟨0x3408, 4, 1, 0, 32, 0, 0, 0, .rw, false⟩,
  ⟨0x340C, 4, 1, 0, 32, 0, 0, 0, .rw, false⟩,
  ⟨0x3410, 4, 1, 0, 32, 0, 0, 0, .rw, false⟩]

/-- Rows of block TBL, part 2. -/
def rowsTBL2 : List Row := [
  ⟨0x3414, 4, 1, 0, 32, 0, 0, 0, .rw, false⟩,
  ⟨0x3500, 4, 8, 0, 32, 0, 0, 0, .ro, false⟩,
  ⟨0x3520, 4, 8, 0, 32, 0, 0, 0, .ro, false⟩,
  ⟨0x3540, 4, 8, 0, 32, 0, 0, 0, .ro, false⟩]

/-- The register table of block TBL. -/
def rowsTBL : List Row := rowsTBL0 ++ rowsTBL1 ++ rowsTBL2

/-- Rows of block GDM, part 0. -/
def rowsGDM0 : List Row := [
  ⟨0x0, 4, 1, 0, 2, 2, 0, 0, .ro, false⟩,
  ⟨0x0, 4, 1, 2, 1, 0, 0, 0, .ro, false⟩,
  ⟨0x0, 4, 1, 8, 8, 0, 0, 0, .ro, false⟩,
  ⟨0x4, 4, 1, 0, 1, 0, 0, 0, .w1c, false⟩,
  ⟨0x4, 4, 1, 1, 1, 0, 0, 0, .w1c, false⟩,
  ⟨0x4, 4, 1, 2, 1, 0, 0, 0, .w1c, false⟩,
  ⟨0x4, 4, 1, 8, 8, 0, 0, 0, .ro, false⟩,
  ⟨0x4, 4, 1, 16, 8, 0, 0, 0, .ro, false⟩,
  ⟨0x8, 4, 1, 0, 32, 0, 0, 0, .ro, false⟩,
  ⟨0xC, 4, 1, 0, 32, 0, 0, 0, .ro, false⟩]

/-- The register table of block GDM. -/
def rowsGDM : List Row := rowsGDM0

/-- Rows of block CORE, part 0. -/
def rowsCORE0 : List Row := [
  ⟨0x4, 4, 1, 0, 1, 0, 0, 0, .w1s, false⟩,
  ⟨0x4, 4, 1, 1, 1, 0, 0, 0, .w1s, false⟩,
  ⟨0x4, 4, 1, 2, 1, 0, 0, 0, .w1s, false⟩,
  ⟨0x8, 4, 1, 0, 1, 0, 0, 0, .w1c, false⟩,
  ⟨0x8, 4, 1, 1, 1, 0, 0, 0, .w1c, false⟩,
  ⟨0x8, 4, 1, 2, 1, 0, 0, 0, .w1c, false⟩,
  ⟨0x8, 4, 1, 3, 1, 0, 0, 0, .w1c, false⟩,
  ⟨0x8, 4, 1, 4, 1, 0, 0, 0, .w1c, false⟩,
  ⟨0x8, 4, 1, 5, 1, 0, 0, 0, .w1c, false⟩,
  ⟨0x8, 4, 1, 6, 1, 0, 0, 0, .w1c, false⟩,
  ⟨0x8, 4, 1, 16, 8, 0, 0, 0, .ro, false⟩,
  ⟨0x8, 4, 1, 24, 8, 0, 0, 0, .ro, false⟩,
  ⟨0xC, 4, 1, 0, 32, 0, 0, 0, .ro, false⟩,
  ⟨0x10, 4, 1, 0, 32, 0, 0, 0, .rl, false⟩,
  ⟨0x14, 4, 1, 0, 32, 0, 0, 0, .rl, false⟩,
  ⟨0x18, 4, 1, 6, 16, 0xBFFF, 0, 0, .rl, false⟩,
  ⟨0x1C, 4, 1, 0, 32, 100000, 0, 0, .rl, true⟩,
  ⟨0x20, 4, 1, 0, 32, 0, 0, 0, .w1c, false⟩,
  ⟨0x24, 4, 1, 0, 32, 0, 0, 0, .w1c, false⟩,
  ⟨0x28, 4, 1, 0, 32, 0, 0, 0, .wo, false⟩,
  ⟨0x2C, 4, 1, 0, 32, 0, 0, 0, .wo, false⟩,
  ⟨0x30, 4, 1, 0, 1, 0, 0, 0, .rl, false⟩,
  ⟨0x30, 4, 1, 1, 1, 0, 0, 0, .rl, false⟩,
  ⟨0x30, 4, 1, 8, 5, 10, 0, 0, .rl, false⟩,
  ⟨0x34, 4, 1, 0, 32, 0, 0, 0, .ro, false⟩]

/-- Rows of block CORE, part 1. -/
def rowsCORE1 : List Row := [
  ⟨0x38, 4, 1, 0, 32, 0, 0, 0, .rl, false⟩,
  ⟨0x3C, 4, 1, 0, 32, 0, 0, 0, .rl, false⟩,
  ⟨0x40, 4, 1, 0, 1, 0, 0, 0, .w1c, false⟩,
  ⟨0x40, 4, 1, 1, 1, 0, 0, 0, .w1c, false⟩,
  ⟨0x40, 4, 1, 2, 1, 0, 0, 0, .w1c, false⟩,
  ⟨0x40, 4, 1, 3, 1, 0, 0, 0, .w1c, false⟩,
  ⟨0x40, 4, 1, 4, 1, 0, 0, 0, .w1c, false⟩,
  ⟨0x40, 4, 1, 5, 1, 0, 0, 0, .w1c, false⟩,
  ⟨0x44, 4, 1, 0, 6, 0, 0, 0, .ro, false⟩,
  ⟨0x44, 4, 1, 6, 6, 0, 0, 0, .ro, false⟩,
  ⟨0x44, 4, 1, 12, 6, 0, 0, 0, .ro, false⟩,
  ⟨0x44, 4, 1, 18, 6, 0, 0, 0, .ro, false⟩,
  ⟨0x44, 4, 1, 24, 6, 0, 0, 0, .ro, false⟩,
  ⟨0x48, 4, 1, 0, 32, 0, 0, 0, .ro, false⟩,
  ⟨0x4C, 4, 1, 0, 32, 0, 0, 0, .ro, false⟩,
  ⟨0x100, 8, 11, 0, 32, 0, 0, 0, .ro, false⟩,
  ⟨0x104, 8, 11, 0, 32, 0, 0, 0, .ro, false⟩,
  ⟨0x180, 4, 1, 0, 1, 0, 0, 0, .wo, false⟩,
  ⟨0x4000, 4, 1, 0, 2, 0, 0, 0, .ro, false⟩,
  ⟨0x4000, 4, 1, 2, 1, 0, 0, 0, .ro, false⟩,
  ⟨0x4000, 4, 1, 3, 4, 0, 0, 0, .ro, false⟩,
  ⟨0x4000, 4, 1, 7, 1, 0, 0, 0, .ro, false⟩,
  ⟨0x4004, 4, 1, 0, 1, 0, 0, 0, .w1c, false⟩,
  ⟨0x4004, 4, 1, 1, 1, 0, 0, 0, .w1c, false⟩,
  ⟨0x4004, 4, 1, 8, 8, 0, 0, 0, .ro, false⟩]

/-- Rows of block CORE, part 2. -/
def rowsCORE2 : List Row := [
  ⟨0x4010, 4, 1, 0, 32, 0, 0, 0, .ro, false⟩,
  ⟨0x4014, 4, 1, 0, 32, 0, 0, 0, .ro, false⟩,
  ⟨0x4018, 4, 1, 0, 32, 0, 0, 0, .ro, false⟩,
  ⟨0x401C, 4, 1, 0, 32, 0, 0, 0, .ro, false⟩,
  ⟨0x4020, 4, 1, 0, 1, 0, 0, 0, .wo, false⟩,
  ⟨0x8004, 4, 1, 0, 1, 0, 0, 0, .w1c, false⟩,
  ⟨0x8004, 4, 1, 1, 1, 0, 0, 0, .w1c, false⟩,
  ⟨0x8004, 4, 1, 2, 1, 0, 0, 0, .w1c, false⟩,
  ⟨0x8004, 4, 1, 3, 1, 0, 0, 0, .w1c, false⟩,
  ⟨0x8004, 4, 1, 4, 1, 0, 0, 0, .w1c, false⟩,
  ⟨0x8004, 4, 1, 8, 8, 0, 0, 0, .ro, false⟩,
  ⟨0x8008, 4, 1, 0, 32, 0, 0, 0, .ro, false⟩,
  ⟨0x800C, 4, 1, 0, 32, 0, 0, 0, .ro, false⟩,
  ⟨0x8010, 4, 1, 0, 1, 0, 0, 0, .wo, false⟩,
  ⟨0xC000, 4, 1, 0, 1, 0, 0, 0, .ro, false⟩,
  ⟨0xC000, 4, 1, 8, 7, 0, 0, 0, .ro, false⟩,
  ⟨0xC004, 4, 1, 0, 16, 4096, 0, 0, .rl, true⟩,
  ⟨0xC008, 4, 1, 0, 16, 100, 0, 0, .rl, true⟩,
  ⟨0xC008, 4, 1, 16, 16, 20000, 0, 0, .rl, true⟩,
  ⟨0xC010, 4, 1, 0, 32, 0, 0, 0, .ro, false⟩,
  ⟨0xC014, 4, 1, 0, 32, 0, 0, 0, .ro, false⟩,
  ⟨0xC018, 4, 1, 0, 32, 0, 0, 0, .ro, false⟩,
  ⟨0xC01C, 4, 1, 0, 32, 0, 0, 0, .ro, false⟩,
  ⟨0xC020, 4, 1, 0, 32, 0, 0, 0, .ro, false⟩,
  ⟨0xC024, 4, 1, 0, 1, 0, 0, 0, .wo, false⟩]

/-- Rows of block CORE, part 3. -/
def rowsCORE3 : List Row := [
  ⟨0xD000, 64, 128, 0, 32, 0, 0, 0, .rl, false⟩,
  ⟨0xD004, 64, 128, 0, 32, 0, 0, 0, .rl, false⟩,
  ⟨0xD008, 64, 128, 0, 1, 0, 0, 0, .rl, false⟩,
  ⟨0xD008, 64, 128, 1, 1, 0, 0, 0, .w1s, false⟩,
  ⟨0xD008, 64, 128, 2, 1, 0, 0, 0, .w1s, false⟩,
  ⟨0xD008, 64, 128, 3, 1, 0, 0, 0, .w1s, false⟩,
  ⟨0xD008, 64, 128, 4, 5, 4, 0, 0, .rl, false⟩,
  ⟨0xD008, 64, 128, 16, 11, 0, 0, 0, .rl, false⟩,
  ⟨0xD00C, 64, 128, 0, 17, 0, 0, 0, .wo, false⟩,
  ⟨0xD010, 64, 128, 0, 2, 0, 0, 0, .ro, false⟩,
  ⟨0xD010, 64, 128, 2, 1, 0, 0, 0, .ro, false⟩,
  ⟨0xD010, 64, 128, 15, 17, 0, 0, 0, .ro, false⟩,
  ⟨0xD014, 64, 128, 0, 16, 0, 0, 0, .ro, false⟩,
  ⟨0xD018, 64, 128, 0, 8, 0, 0, 0, .ro, false⟩,
  ⟨0xD01C, 64, 128, 0, 32, 0, 0, 0, .ro, false⟩,
  ⟨0xD020, 64, 128, 0, 32, 0, 0, 0, .ro, false⟩,
  ⟨0xD024, 64, 128, 0, 32, 0, 0, 0, .ro, false⟩]

/-- The register table of block CORE. -/
def rowsCORE : List Row := rowsCORE0 ++ rowsCORE1 ++ rowsCORE2 ++ rowsCORE3

/-- The register table of a block. -/
def Blk.rows : Blk → List Row
  | .gen => rowsGEN
  | .stg => rowsSTG
  | .mtc => rowsMTC
  | .pwr => rowsPWR
  | .flt => rowsFLT
  | .hst => rowsHST
  | .mtr => rowsMTR
  | .lnk _ => rowsLNK
  | .fab => rowsFAB
  | .pst => rowsPST
  | .col => rowsCOL
  | .grn _ => rowsGRN
  | .tbl => rowsTBL
  | .gdm _ => rowsGDM
  | .core _ => rowsCORE

/-- The offset at which a block starts, R14. -/
def Blk.base : Blk → Nat
  | .gen => 0x00000000
  | .stg => 0x00010000
  | .mtc => 0x00020000
  | .pwr => 0x00030000
  | .flt => 0x00040000
  | .hst => 0x00050000
  | .mtr => 0x00060000
  | .lnk l => 0x00100000 + l * 0x1000
  | .fab => 0x00120000
  | .pst => 0x00140000
  | .col => 0x00180000
  | .grn k => 0x00200000 + k * 0x10000
  | .tbl => 0x00280000
  | .gdm p => 0x00300000 + p * 0x1000
  | .core c => 0x01000000 + c * 0x40000

/-- The block that holds an offset, R14, R15: the offset in the block goes with it as `off - b.base`. -/
def blkOf (off : Nat) : Option Blk :=
  if off < 0x00010000 then some .gen
  else if off < 0x00020000 then some .stg
  else if off < 0x00030000 then some .mtc
  else if off < 0x00040000 then some .pwr
  else if off < 0x00050000 then some .flt
  else if off < 0x00060000 then some .hst
  else if off < 0x00070000 then some .mtr
  else if off < 0x00100000 then none
  else if off < 0x00118000 then some (.lnk ((off - 0x00100000) / 0x1000))
  else if off < 0x00120000 then none
  else if off < 0x00140000 then some .fab
  else if off < 0x00142000 then some .pst
  else if off < 0x00180000 then none
  else if off < 0x00190000 then some .col
  else if off < 0x00200000 then none
  else if off < 0x00280000 then some (.grn ((off - 0x00200000) / 0x10000))
  else if off < 0x00290000 then some .tbl
  else if off < 0x00300000 then none
  else if off < 0x00320000 then some (.gdm ((off - 0x00300000) / 0x1000))
  else if off < 0x01000000 then none
  else if off < 0x02000000 then some (.core ((off - 0x01000000) / 0x40000))
  else none

/-- The bit of GEN_EXPERT that gates the expert page of the function at an offset of a block, R385. -/
def Blk.expertBit (rel : Nat) : Blk → Nat
  | .gen => 0
  | .stg => 1
  | .mtc => 2
  | .pwr => 3
  | .flt => 4
  | .hst => 5
  | .mtr => 6
  | .lnk _ => 7
  | .fab => 8
  | .pst => 8
  | .col => 9
  | .grn _ => 10
  | .tbl => 10
  | .gdm _ => 11
  | .core _ => if rel < 0x4000 then 12 else if rel < 0x8000 then 13 else if rel < 0xC000 then 14 else 15

/-- A field of a word with its access type and page. -/
structure FldAt where
  fld : Fld
  acc : Acc
  expert : Bool
  deriving DecidableEq, Repr

/-- The field a row gives at a word of its block, if the row covers that word. -/
def Row.at (base rel : Nat) (r : Row) : Option FldAt :=
  let d := rel - r.rel
  if r.rel ≤ rel ∧ d % r.stride = 0 ∧ d / r.stride < r.count then
    let i := d / r.stride
    let reset := r.reset + (if r.rdiv = 0 then 0 else i / r.rdiv) + (if r.rmod = 0 then 0 else i % r.rmod)
    some ⟨⟨base + rel, r.lo, r.width, reset⟩, r.acc, r.expert⟩
  else none

/-- The fields of the word at an offset of control space. -/
def fieldsAt (off : Nat) : List FldAt :=
  match blkOf off with
  | none => []
  | some b => b.rows.filterMap (Row.at b.base (off - b.base))

end Sys2Proof.Machine
end

