-- ==== Sys2Proof/Machine/Store.lean ====
section
/-! DEFINITION. Sparse maps with a default value, in one canonical form: keys strictly rising and no entry
equal to the default. Registers, memories and per-unit records of the State are held in them. -/

namespace Sys2Proof.Machine

/-- A sparse map from numbers; a key that is not listed has the map's default. -/
abbrev SMap (α : Type) := List (Nat × α)

/-- The value at a key. -/
def mget {α : Type} (d : α) : SMap α → Nat → α
  | [], _ => d
  | (k', v) :: r, k => if k' = k then v else mget d r k

/-- The map without a key. -/
def mdel {α : Type} (m : SMap α) (k : Nat) : SMap α := m.filter fun p => decide (p.1 ≠ k)

/-- The map with a key at a value, whatever the default. -/
def mput {α : Type} : SMap α → Nat → α → SMap α
  | [], k, v => [(k, v)]
  | (k', v') :: r, k, v =>
    if k' = k then (k, v) :: r else if k < k' then (k, v) :: (k', v') :: r else (k', v') :: mput r k v

/-- The map with a key at a value, in canonical form. -/
def mset {α : Type} [DecidableEq α] (d : α) (m : SMap α) (k : Nat) (v : α) : SMap α :=
  if v = d then mdel m k else mput m k v

/-- Keys strictly rising, none below the bound. -/
def mrising {α : Type} : Nat → SMap α → Bool
  | _, [] => true
  | lo, (k, _) :: r => decide (lo ≤ k) && mrising (k + 1) r

/-- The canonical form of a map. -/
def mwf {α : Type} [DecidableEq α] (d : α) (m : SMap α) : Bool :=
  mrising 0 m && m.all fun p => decide (p.2 ≠ d)

/-- The keys of the map at or above `lo` and below `hi` removed. -/
def mclear {α : Type} (m : SMap α) (lo hi : Nat) : SMap α :=
  m.filter fun p => !(decide (lo ≤ p.1) && decide (p.1 < hi))

end Sys2Proof.Machine
end

