-- ==== Sys2Proof/Machine/State.lean ====
section
/-! DEFINITION. The state of the Exorn module as plain data, and its value at reset. Control-space registers are in the
field store `regs` (their names and resets: Machine/Regs.lean); everything else the spec gives the machine has a field here. -/

namespace Sys2Proof.Machine

/-! ### One core -/

/-- States of the sequencer, in the numbering of R159. -/
inductive SeqState where
  | idle | run | wait | halted | quiescing | quiesced | fault | loadchk
  deriving DecidableEq, Repr

/-- The layer command that is open or incomplete, R138. -/
structure LayerCmd where
  /-- The 256-byte snapshot of the record. -/
  record : List Byte
  /-- CLM offset of the record. -/
  recOff : Nat
  tag : Nat
  /-- The step number latched at the start. -/
  step : Nat
  /-- LEND has not issued. -/
  isOpen : Bool
  /-- Core cycles since the snapshot, not counting time quiesced. -/
  cycles : Nat
  /-- Cycles left of the 24 before the arrays start. -/
  startIn : Nat
  /-- Flags of CORE_SEQ_FPFLAGS that the command raised, CMP_FLAGS. -/
  flags : Nat
  /-- The scale scan of R63 is still to run. -/
  scanDue : Bool
  /-- INT32 accumulation (R63). -/
  intAcc : Bool
  /-- Position of the next weight tile: N-tile, pass of R64 and chunk of K. -/
  ntile : Nat
  pass : Nat
  kchunk : Nat
  /-- Rows of each array that have entered with the tile that streams (R81, R83). -/
  fed : Nat := 0
  /-- N-tiles whose sums are complete and whose write-out is still to come, oldest first. -/
  due : List Nat
  /-- Rows were spilled by the quiesce that stopped the command (R98). -/
  spilled : Bool
  /-- CMP_STATUS as the sequencer last wrote it. -/
  kept : Bool
  deriving DecidableEq, Repr

/-- A weight tile in the weight registers of the cells, R79: the position it belongs to, the cell rows loaded so far, and the element codes with
their scale codes, by 2^32 × k + column. Every array of the core holds the same tile (R81). -/
structure WTile where
  ntile : Nat
  pass : Nat
  kchunk : Nat
  rows : Nat
  cells : List (Nat × Nat × Nat)
  deriving DecidableEq, Repr

/-- What the array keeps of the previous array command for R95. -/
structure ArrayChain where
  mode : Nat
  m : Nat
  n : Nat
  afmt : Nat
  wfmt : Nat
  intAcc : Bool
  /-- K_BASE + K. -/
  kEnd : Nat
  /-- K was a multiple of D × L. -/
  kWhole : Bool
  /-- The command ended with WRITE_OUT = 0. -/
  keptOut : Bool
  deriving DecidableEq, Repr

/-- An entry of the store buffer, R119: the bytes it writes by CLM offset, and the non-finite elements among them. -/
structure SbEntry where
  bytes : List (Nat × Byte)
  scattered : Bool
  nonfinite : Nat
  deriving DecidableEq, Repr

/-- A vector load that waits for the store buffer, R120. -/
structure LoadStall where
  word : DWord
  /-- Entries, counted from the oldest, that must drain first. -/
  drains : Nat
  /-- Active elements with their CLM offsets, fixed at issue (R122). -/
  addrs : List (Nat × Nat)
  deriving DecidableEq, Repr

/-- A queued index operation, R148, R151. -/
structure IxOp where
  desc : List Byte
  scatter : Bool
  event : Nat
  acc : Bool
  done : Nat
  deriving DecidableEq, Repr

/-- A trace entry waiting in the 16-entry queue of R156: its 32 bytes. -/
abbrev TraceEnt := List Byte

/-- The descriptor the DMA engine runs, R230, with its transfer so far. The transfer is cut into pieces, numbered in row order. -/
structure DmaRun where
  ring : Nat
  /-- Address the descriptor was read from. -/
  at_ : Nat
  /-- The 64-byte copy. -/
  desc : List Byte
  /-- Status code found so far, 0 for none. -/
  code : Nat := 0
  /-- Address concerned by that status. -/
  errAddr : Nat := 0
  /-- The next piece to start. -/
  next : Nat := 0
  /-- Pieces delivered: their bytes after conversion. -/
  parts : SMap (List Byte) := []
  /-- Bytes of remote writes that left. -/
  sent : SMap (List Byte) := []
  /-- Bytes of remote reads that have come in part. -/
  come : SMap (List Byte) := []
  /-- Outstanding remote requests: TXID and piece. -/
  txids : List (Nat × Nat) := []
  /-- Pieces whose host read is outstanding, oldest first. -/
  host : List Nat := []
  /-- The zero-length read of R233: asked for, and completed. -/
  fence : Bool := false
  fenced : Bool := false
  /-- DONE and PARTIAL, fixed when the transfer was cut short. -/
  ended : Option (Nat × Bool) := none
  /-- The ring halted while the descriptor ran: its head and its chain stay as they are (R236). -/
  halted : Bool := false
  /-- ABORT ends the transfer at this offset in the destination order, a 4 KiB destination boundary (R240). -/
  limit : Option Nat := none
  deriving DecidableEq, Repr

/-- What one DMA engine remembers of a ring besides its registers: the address of the next chained descriptor
and the descriptors completed in the run (R227, R228). -/
structure RingChain where
  next : Nat
  count : Nat
  deriving DecidableEq, Repr

/-- One core: sequencer, arrays, vector engine, index unit and DMA engine. -/
structure Core where
  seq : SeqState := .idle
  /-- The active instruction bank. -/
  bank : Bool := false
  pc : Nat := 0
  /-- The state a failed start check returns to, R130. -/
  prev : SeqState := .idle
  /-- The two instruction banks, word by word. -/
  imem0 : SMap Nat := []
  imem1 : SMap Nat := []
  /-- Instruction words that read with an error: 1 corrected, 2 uncorrectable; key 4096 × bank + word (R127). -/
  imemEcc : SMap Nat := []
  sreg : SMap Nat := []
  loops : SMap Nat := []
  cmd : Option LayerCmd := none
  /-- An LSTART is stalled (R138, R147). -/
  lstartWait : Bool := false
  /-- Script entries for which COLGO has issued and that have not completed for this core (R147). -/
  colgo : List Nat := []
  /-- A quiesce was accepted and its drain is going on; it is acknowledged by QUIESCE_DONE. -/
  draining : Bool := false
  /-- The weight tile that was streaming when the quiesce came is still to complete (R152, R98). -/
  tileOwed : Bool := false
  /-- The sequencer was at a wait when the quiesce stopped it, RR_FLAGS.WAIT. -/
  inWait : Bool := false
  /-- Accumulator entries by array × 65536 + row × columns + column. -/
  acc : SMap Nat := []
  /-- The active and the shadow weight registers, R79. -/
  wActive : Option WTile := none
  wShadow : Option WTile := none
  /-- Accumulator entries that read with an error: 1 corrected, 2 uncorrectable (R97). -/
  accEcc : SMap Nat := []
  chain : Option ArrayChain := none
  /-- Vector registers by 4096 × register + byte. -/
  vreg : SMap Nat := []
  /-- Mask registers, 1,024 bits each. -/
  vmask : SMap Nat := []
  /-- Register-file errors: key 1024 × register + element, mask groups from 32768 (R125). -/
  rfEcc : SMap Nat := []
  /-- VL, at most 1,024. -/
  vl : Fin 1025 := 1024
  srTid : Nat := 0
  srBase : Nat := 0
  srStep : Nat := 0
  /-- Role of pipe B, R115. -/
  cu : Bool := false
  /-- Core cycles left of the 32 of a change of role (R115). -/
  cuSwitch : Nat := 0
  /-- Core cycles for which a pipe or port is still occupied (R117): 0 pipe A, 1 pipe B, 2 mask unit, 3 load port, 4 store port. -/
  vpipe : SMap Nat := []
  /-- Core cycles until the last element of a register is written (R116, R117): vector register r at r, mask register m at 32 + m, S register s
  at 64 + s. -/
  vlate : SMap Nat := []
  /-- The issue queue, oldest first. -/
  vq : List DWord := []
  /-- The store buffer, oldest first. -/
  sb : List SbEntry := []
  /-- Entries of the store now holding the store port that still wait for room. -/
  sbWait : List SbEntry := []
  /-- Store-buffer entries, counted from the oldest, of a command that has ended with a fault: they drain before a later command's words issue
  (R124). -/
  sbOld : Nat := 0
  loadStall : Option LoadStall := none
  ixq : List IxOp := []
  traceQ : List TraceEnt := []
  /-- Trace entries made since trace was enabled, dropped ones included. -/
  traceSeq : Nat := 0
  dma : Option DmaRun := none
  /-- A descriptor read from host memory is outstanding: the ring and the descriptor's address. -/
  dmaFetch : Option (Nat × Nat) := none
  /-- The last ring that had a turn. -/
  lastRing : Nat := 127
  /-- Rings partway through a chain run. -/
  chains : SMap RingChain := []
  /-- The ring whose descriptor runs or is being fetched was asked to STOP (1), or to ABORT before its descriptor came (2). -/
  stopReq : SMap Nat := []
  /-- Bytes the program digest of R221 has taken in since its last reset. -/
  progMsg : List Byte := []
  deriving DecidableEq, Repr

/-- A core after a CORE reset. -/
def Core.reset : Core := {}

/-! ### Faults -/

/-- A Gleaner record, R371. -/
structure GlnRec where
  first : Nat
  last : Nat
  code : Nat
  count : Nat
  seq : Nat
  source : Nat
  rflags : Nat
  tag : Nat
  arg0 : Nat
  arg1 : Nat
  arg2 : Nat
  deriving DecidableEq, Repr

/-- An empty slot of the ring. -/
def GlnRec.zero : GlnRec := ⟨0, 0, 0, 0, 0, 0, 0, 0, 0, 0, 0⟩

/-- What the module drives towards the outside world, in order. -/
inductive Emit where
  /-- An MSI-X message of a vector (R440). -/
  | msix (vector : Nat)
  /-- Posted writes to host memory: bus address and bytes. -/
  | hostWrite (addr : Nat) (bytes : List Byte)
  /-- A read of host memory that was issued, and whether it sets No Snoop (R442, R443). -/
  | hostRead (addr len : Nat) (noSnoop : Bool)
  /-- Data returned to the host for a BAR read; none is a completion without data or a poisoned one. -/
  | hostData (bytes : List Byte) (poisoned : Bool)
  /-- A refused or unsupported host access. -/
  | hostAbort
  /-- The response of an I2C command: status byte and data. -/
  | i2c (bytes : List Byte)
  /-- A frame put on a link. -/
  | frame (link : Nat) (f : Frame)
  /-- The value a register read returned. -/
  | regRead (value : Nat)
  /-- A response of the meter's read-out port. -/
  | meter (bytes : List Byte)
  /-- A tag sent to the meter (R455). -/
  | tag (bytes : List Byte)
  /-- A map marker put into a link's stream (R263). -/
  | marker (link : Nat)
  /-- Bits shifted out of the test port. -/
  | tdo (bits : List Bool)
  deriving DecidableEq, Repr

/-- The Gleaner and the other parts of the fault unit that no register holds. -/
structure FaultUnit where
  /-- Pending records, oldest first (R372). -/
  pend : List GlnRec := []
  ring : SMap GlnRec := []
  lrl : List GlnRec := []
  /-- Gleaner HEAD at the move to the last-resort log (R373). -/
  lrlBase : Nat := 0
  /-- A GLN_LOST record is owed. -/
  lostOwed : Bool := false
  /-- Machine time plus one of the last warning of a rate-limited monitor, by code × 65536 + source (R367). -/
  rate : SMap Nat := []
  /-- Weights by hour, newest first (R369). -/
  buckets : List Nat := []
  /-- The module is withdrawn: its first module-fatal code and its machine time (R352, R375). -/
  fatal : Option (Nat × Nat) := none
  /-- A dump is being written. -/
  dumping : Bool := false
  /-- The reduced dump readable over I2C. -/
  sideDump : List Byte := []
  /-- Spans of places, first and past the last, of the region that holds a dump (R377). -/
  held : List (Nat × Nat) := []
  /-- Sources that hold ALERT_N besides the registers of R374: throttle. -/
  alertThrottle : Bool := false
  /-- Sideband event word of R450, the bits not yet returned. -/
  events : Nat := 0
  deriving DecidableEq, Repr

/-- The host interface's parts that no register holds. -/
structure HostIf where
  /-- The level of PERST# is low. -/
  perstLow : Bool := true
  /-- The function is in D3hot (R434). -/
  d3hot : Bool := false
  /-- MSI-X vectors that are unmasked. -/
  unmasked : SMap Bool := []
  /-- The Pending Bit Array. -/
  msixPend : SMap Bool := []
  deriving DecidableEq, Repr

/-! ### Memory units -/

/-- A Granary stack: its lanes replaced by spares and those marked as erasures, as channel and lane (R174), and its corrected errors. -/
structure Granary where
  spared : List (Nat × Nat) := []
  erased : List (Nat × Nat) := []
  /-- Local address of the latest corrected error, which GRN_ERRADDR shows while UE = 0 (R190). -/
  ceAddr : Nat := 0
  /-- Corrected errors of each row in the last 24 hours: their distinct addresses, each with the machine time of its latest one (R175). -/
  rowCe : SMap (List (Nat × Nat)) := []
  deriving DecidableEq, Repr

/-- An addend in a stack's accumulate queue, R196: its table entry, the place and the local address of its element, its bits and the
requester of the write. -/
structure Addend where
  rbt : Nat
  place : Nat
  addr : Nat
  bits : Nat
  q : MemRequester
  deriving DecidableEq, Repr

/-! ### Links and the router -/

/-- A DATA frame that waits for a link: the link and virtual channel whose receive buffer it still holds, and the staging buffer of the
collective unit it came from, if any. -/
structure TxItem where
  f : Frame
  hold : Option (Nat × Nat) := none
  buf : Option (Nat × Nat) := none
  /-- Its number among the frames that were queued, in order of arrival (R285). -/
  arr : Nat := 0
  deriving DecidableEq, Repr

/-- One end of a Twivin link, besides its registers. -/
structure Link where
  /-- Failed attempts of the current training, and the 100 ms in DARK after one (R249). -/
  attempts : Nat := 0
  backoff : Bool := false
  /-- The link has gone down by R265 and not been reset or admitted since. -/
  downed : Bool := false
  /-- Next SEQ expected, oldest unacknowledged SEQ and next new SEQ (R256, R257). -/
  expected : Nat := 0
  una : Nat := 0
  next : Nat := 0
  /-- Frames sent and not acknowledged, oldest first. -/
  replay : List Frame := []
  /-- The next SEQ of a replay in progress. -/
  resend : Option Nat := none
  /-- Credits held for each virtual channel, and buffers freed that no header has returned yet. -/
  credits : SMap Nat := []
  owed : SMap Nat := []
  /-- A header carrying the new `expected` is due. -/
  ackOwed : Bool := false
  rreqOwed : Bool := false
  /-- Machine time plus one of the last RREQ for a gap. -/
  rreqAt : Nat := 0
  /-- LMAP frames still to send (R263). -/
  lmapOwed : Nat := 0
  /-- Physical lane of each logical lane received, or 9 for a dropped one: the map in use, and those announced whose marker has not come, oldest
  first; and the map sent with. -/
  rxMap : List Nat := [0, 1, 2, 3, 4, 5, 6, 7]
  maps : List (List Nat) := []
  txMap : List Nat := [0, 1, 2, 3, 4, 5, 6, 7]
  /-- The bytes received of a frame that is not complete (R255, R260). -/
  part : List Byte := []
  /-- Corrected symbols of each physical lane in the second that is running (R268, R269). -/
  symErrs : SMap Nat := []
  /-- Bodies of CTRL frames that wait, oldest first. -/
  ctl : List (List Byte) := []
  /-- DATA frames that wait, oldest first. -/
  txq : List TxItem := []
  /-- Slot position of the next frame, R288. -/
  pos : Nat := 0
  /-- The next unreserved position goes to a piste before other traffic (R291). -/
  pisteTurn : Bool := false
  /-- The state that HOLD interrupted. -/
  heldFrom : Nat := 0
  /-- Machine time plus one of the last heartbeat, its HSTATE, and whether the link's silence has been handled. -/
  hbAt : Nat := 0
  hbState : Nat := 0
  deriving DecidableEq, Repr

/-- What a remote request waits for, R238. -/
structure TxRec where
  /-- The DMA engine that made it; 64 and above are thresher groups. -/
  owner : Nat
  /-- Abandoned: only held so that its number is not reused. -/
  abandoned : Bool
  deriving DecidableEq, Repr

/-- The router's queues: frames delivered to this module that a unit has still to handle. -/
structure Fabric where
  /-- CTRL frames by their link. -/
  ctlQ : List (Nat × Frame) := []
  /-- Time frames by their link, with the machine time at which each arrived (R331). -/
  timeQ : List (Nat × Nat × Frame) := []
  tgtQ : List Frame := []
  readQ : List Frame := []
  rspQ : List Frame := []
  colQ : List Frame := []
  /-- The tracker of outstanding remote requests, by TXID. -/
  txids : SMap (Option TxRec) := []
  /-- DATA frames queued for links so far (R285). -/
  arrivals : Nat := 0
  deriving DecidableEq, Repr

/-! ### The headland protocol -/

/-- A notice, R354. -/
structure Notice where
  kind : Nat
  dir : Nat
  flags : Nat
  subject : Nat
  blk : Nat
  stamp : Nat
  round : Nat
  code : Nat
  plan : Nat
  step : Nat
  cut : Nat
  deriving DecidableEq, Repr

/-- The headland round. -/
structure Headland where
  /-- Full round number; FLT_STATUS.ROUND shows its low bits. -/
  round : Nat := 0
  notices : List Notice := []
  /-- Notices for the next round, R363. -/
  held : List Notice := []
  /-- t_min of the round, once evidence is stored. -/
  tmin : Option Nat := none
  /-- P of the round before: t_min does not lie before it (R363). -/
  floor : Nat := 0
  /-- Failed modules, cut mask and plan of the decision; no plan is HL_NO_PLAN. -/
  failed : List Nat := []
  cut : Nat := 0
  plan : Option Nat := none
  /-- The plan image has passed the checks of R361 so far, and lost no write (R388). -/
  imageOk : Bool := false
  /-- Programs of the image: core and address. -/
  progs : List (Nat × Nat) := []
  /-- Register writes to core blocks whose core has still to acknowledge its quiesce: offset and value. -/
  writes : List (Nat × Nat) := []
  /-- Groups that are still to get the plan loader's CLEAR. -/
  clears : List Nat := []
  deriving DecidableEq, Repr

/-! ### The collective unit -/

/-- A data record that the unit has still to send: the destination node, the local source address, the address at the destination, its
bytes, its operation, the first piste entry of its step with its number among the records (R311), its multicast leg (direction and receivers), and
whether its source is read and zeroed (R306). -/
structure ColRec where
  node : Nat
  src : Nat
  addr : Nat
  len : Nat
  op : Nat
  piste : Option (Nat × Nat)
  mc : Option (Nat × Nat)
  zero : Bool
  deriving DecidableEq, Repr

/-- A partner of a step: the BYTES of the count record to it, the runs it is given (source address, destination address and bytes), and
whether its own record is ignored (0), combined (1) or taken in place of what was known (2). -/
structure ColPeer where
  node : Nat
  bytes : Nat
  runs : List (Nat × Nat × Nat)
  take : Nat
  deriving DecidableEq, Repr

/-- A step of an entry's schedule, R309. A broadcast's legs: direction, receivers and last receiver, and the run that they carry. -/
structure ColStep where
  num : Nat
  peers : List ColPeer
  legs : List (Nat × Nat × Nat) := []
  legRun : Nat × Nat × Nat := (0, 0, 0)
  /-- Data goes only once every partner's count record has arrived. -/
  together : Bool := false
  deriving DecidableEq, Repr

/-- A count record received for the current entry. -/
structure ColCount where
  node : Nat
  step : Nat
  flags : Nat
  bytes : Nat
  off : Nat
  vals : List Nat
  deriving DecidableEq, Repr

/-- A launched entry, R302. -/
structure ColEntry where
  idx : Nat
  raw : List Byte
  seq : Nat
  /-- The schedule from the current step on. -/
  steps : List ColStep
  /-- The count records of the current step have been made; those that no link has taken yet. -/
  counted : Bool := false
  unsent : List Frame := []
  /-- Partners of the current step whose data has been queued. -/
  queued : List Nat := []
  counts : List ColCount := []
  /-- Data bytes received from each node for this entry. -/
  rx : SMap Nat := []
  /-- A permute whose counts are read at launch (R308): the places of the sources are known, records that wait for them, and a run that
  this member gives itself. -/
  placed : Bool := true
  parked : List Frame := []
  own : Option (Nat × Nat) := none
  /-- Decision: the flags and maxima combined so far. -/
  skip : Bool := false
  range : Bool := false
  maxima : List Nat := []
  /-- Audit: the sums combined so far, and whether the result has been written. -/
  sums : List Nat := []
  audited : Bool := false
  /-- The decision has acted on the threshers. -/
  decided : Bool := false
  deriving DecidableEq, Repr

/-- A staging pool, R320: the buffers in use, and the queues that wait. -/
structure Pool where
  used : List Nat := []
  waiting : List Nat := []
  deriving DecidableEq, Repr

structure Collective where
  entry : Option ColEntry := none
  pass : Nat := 0
  seqs : SMap Nat := []
  /-- Held records, oldest first (R315). -/
  held : List Frame := []
  sendq : List ColRec := []
  /-- Staging buffers that a send queue holds: pool 0 buffer, its link, and the piste that it is for, if any. -/
  bufs : List (Nat × Nat × Option Nat) := []
  pools : SMap Pool := []
  /-- The requester that won last at the allocator, which the sixteen pools share (R321). -/
  last : Nat := 24
  /-- Machine time of the launch or of the last record. -/
  lastAt : Nat := 0
  /-- Machine time plus one at which the next entry became ready but for its instant. -/
  readyAt : Nat := 0
  /-- Step number of the latest completed decision entry (R352), and whether that step was skipped (R347). -/
  decStep : Nat := 0
  decSkip : Bool := false
  /-- Groups that the previous entry, a decision, named (R302). -/
  decGroups : Nat := 0
  deriving DecidableEq, Repr

/-! ### The threshers -/

/-- A pass of a group that a decision ordered, R202 to R211. -/
structure Pass where
  group : Nat
  skip : Bool
  step : Nat
  /-- LS_EXP as it stood before the decision. -/
  lsExp : Nat
  params : List Byte
  custom : List Byte
  /-- GRIDE of each grid-sum entry of the group for the step that is applied. -/
  gride : List (Nat × Nat)
  /-- The optimiser descriptors that the pass has read, in list order (R205). -/
  list : List (List Byte) := []
  deriving DecidableEq, Repr

/-- A mirror refresh, R214. -/
structure Mirror where
  step : Nat
  /-- Writes still to send: address at the buddy and bytes. -/
  todo : List (Nat × List Byte)
  /-- TXIDs of the writes sent and not acknowledged. -/
  wait : List Nat
  failed : Bool := false
  /-- The final header writes are under way. -/
  closing : Bool := false
  deriving DecidableEq, Repr

structure Thresher where
  passQ : List Pass := []
  /-- The first pass of the queue has begun. -/
  running : Bool := false
  mirs : SMap (Option Mirror) := []
  /-- Step number plus one of the weight digest that a group still owes (R219). -/
  digDue : SMap Nat := []
  /-- The latest sum of weight leaves of each group, and the step number of its state. -/
  digSum : SMap Nat := []
  steps : SMap Nat := []
  /-- Command of GRN_THR_CMD in progress: operation and group. -/
  cmd : Option (Nat × Nat) := none
  deriving DecidableEq, Repr

/-! ### Machine time -/

/-- The latest time frame of a link, R331: its arrival and its fields. -/
structure TimeInfo where
  at_ : Nat
  sync : Bool
  sel : Nat
  hops : Nat
  root : Nat
  deriving DecidableEq, Repr

structure TimeUnit where
  /-- Time distribution has started (R333). -/
  started : Bool := false
  frames : SMap (Option TimeInfo) := []
  parent : Option Nat := none
  /-- The last parent, whose change MTC_ERR.PARENT tells. -/
  last : Option Nat := none
  /-- ROOTNODE of the root that is followed. -/
  rootNode : Nat := 0
  /-- The first parent sample since the reset has been taken (R334). -/
  sampled : Bool := false
  /-- Machine time at which HOLD was set, and whether its limit has passed (R335). -/
  holdAt : Nat := 0
  limitPast : Bool := false
  /-- Machine-time cycles since the last one of 15 or 17 ticks, at most 625 (R334). -/
  steady : Nat := 625
  deriving DecidableEq, Repr

/-! ### Resets -/

/-- A requested reset that is running, R415 and R416: its domain, index and FORCE. -/
structure ResetRun where
  domain : Nat
  index : Nat
  force : Bool
  deriving DecidableEq, Repr

/-! ### Staging -/

/-- The STG block besides its registers. -/
structure Staging where
  /-- STG_CTL.VIEW of each requester, by its number (R398). -/
  view : SMap Bool := []
  /-- The plan loader holds STG (R394). -/
  hold : Bool := false
  /-- The rounded target of an armed commit; none is the next machine-time cycle (R391). -/
  target : Option Nat := none
  /-- The target had passed at ARM. -/
  late : Bool := false
  /-- The two GDDR dump regions, once HIDE has fixed them (R167). -/
  dump : List Nat := []
  deriving DecidableEq, Repr

/-! ### Power, pins and sensors -/

/-- Connectors, rails, the ladder and the thermal limits, besides the PWR registers. -/
structure Power where
  /-- PRSNT_N is low: the module is fully mated. -/
  seated : Bool := true
  /-- The power stages run; `overV`: stopped by overvoltage; `fuse`: the electronic fuse is open (R40). -/
  stages : Bool := true
  overV : Bool := false
  fuse : Bool := false
  pwrOk : Bool := true
  /-- RESET_N is high. -/
  resetN : Bool := true
  /-- TRST_N is high, as a test port command last found it. -/
  trstN : Bool := false
  /-- The internal reset of R42 is active. -/
  held : Bool := false
  /-- The ROM check failed: the steward stands in reset (R414). -/
  romBad : Bool := false
  /-- The steward has booted: PCIe and I2C answer (R408). -/
  booted : Bool := false
  /-- GA3 to GA0 as latched at the rising edge of PWR_OK (R37). -/
  ga : Nat := 15
  /-- The input voltage in units of 10 mV, as it was last told. -/
  mv10 : Nat := 5400
  /-- The input lies in the band between 43.0 V and 48 V. -/
  inputLow : Bool := false
  /-- That entry into the band still has to be warned of: it came while the module was in reset. -/
  lowOwed : Bool := false
  /-- The sprint credit in mJ (R426). -/
  credit : Nat := 0
  /-- Readings that the two curves go by, with the 2 degrees of R429. -/
  effJ : Nat := 0
  effG : Nat := 0
  /-- The latest reading of each sensor plus one, by kind × 64 + index. -/
  sensors : SMap Nat := []
  /-- MHz that the power limiter takes off the base clock (R430). -/
  limCut : Nat := 0
  /-- Target of the ladder move in progress. -/
  moveTo : Nat := 0
  /-- A trip came before the last MODULE reset: bring-up waits in STEWARD for cool readings (R431). -/
  afterTrip : Bool := false
  deriving DecidableEq, Repr

/-! ### Configuration image -/

/-- A defect that bring-up treats as present, R404. -/
structure Defect where
  typ : Nat
  unit : Nat
  index : Nat
  detail : Nat
  deriving DecidableEq, Repr

/-- The flash, the key slot, and what the steward took from the image. -/
structure Image where
  /-- Flash bytes; an unlisted one reads as erased. -/
  flash : SMap Byte := []
  /-- The slot that is being erased (R449). -/
  erasing : Option Nat := none
  /-- The one-time key slot (R407). -/
  key : Option (List Byte) := none
  defects : List Defect := []
  /-- Settings entries: offset and value (R405). -/
  settings : List (Nat × Nat) := []
  /-- FAB_GEOM, FAB_COORD, used links and the word of roots of the link plan (R402). -/
  plan : Nat × Nat × Nat × Nat := (0x041041, 0, 0, 0)
  expert : Nat := 0
  mode : Nat := 0
  minPorts : Nat := 1
  schema : Nat := 0
  crc : Nat := 0
  signed : Bool := false
  verified : Bool := false
  /-- Clusters whose spare core replaces a defective core (R396). -/
  spared : Nat := 0
  /-- The rest of the capability list as HIDE built it: lanes replaced by spares, lanes marked as erasures, ports present. -/
  caps : Option (Nat × Nat × Nat) := none
  deriving DecidableEq, Repr

/-! ### The meter -/

/-- The cumulative counters of R453 with PLOSS and TAGLOST. -/
structure MeterCount where
  eTotal : Nat := 0
  eUntag : Nat := 0
  eBlk : SMap Nat := []
  wBlk : SMap Nat := []
  ploss : Nat := 0
  tagLost : Nat := 0
  deriving DecidableEq, Repr

/-- A 1 ms interval: the sum of its voltage samples in mV, their number, and its energy in mJ. -/
structure MeterIv where
  mv : Nat
  n : Nat
  mj : Nat
  deriving DecidableEq, Repr

structure Meter where
  /-- The input is above 20 V. -/
  on : Bool := true
  now : MeterCount := {}
  /-- The counters in non-volatile memory. -/
  nv : MeterCount := {}
  /-- The interval that is running, and the last second of intervals, newest first. -/
  cur : MeterIv := ⟨0, 0, 0⟩
  past : List MeterIv := []
  /-- Block identifier of the latest good tag, and the intervals ended since it came. -/
  tag : Option (Nat × Nat) := none
  /-- Work of the good tags of the running interval, by block identifier. -/
  work : List (Nat × Nat) := []
  lastMt : Nat := 0
  rseq : Nat := 0
  /-- Intervals counted since the machine was reset, the meter's own clock. -/
  ms : Nat := 0
  tamper : Bool := false
  deriving DecidableEq, Repr

/-! ### The module -/

/-- Everything the module holds but the queue of waiting commands. -/
structure Dev where
  /-- Register fields, each as the bitwise difference from its reset value. -/
  regs : SMap Nat := []
  /-- Shadows of the staged fields that are dirty (R389). -/
  shadow : SMap (Option Nat) := []
  cores : SMap Core := []
  /-- Bytes of Granary, GDDR, CSM and CLM by physical place. -/
  mem : List Host.Cell := []
  /-- CLM and CSM words of 64 bits that read with an error: 1 corrected, 2 uncorrectable (R186); key place / 8. -/
  sramEcc : SMap Nat := []
  /-- Granary codewords of 64 bytes that cannot be corrected (R176); key place / 64. -/
  grnBad : SMap Nat := []
  grn : SMap Granary := []
  /-- GDDR ports that became unusable in service (R181). -/
  gdmDead : SMap Bool := []
  /-- Local address of the latest corrected or retried access of a port, which GDM_ERRADDR shows while UE = 0 (R191). -/
  gdmCe : SMap Nat := []
  /-- Addends accepted and not yet added, in order of arrival. -/
  accq : List Addend := []
  /-- Machine time in ticks, R329. -/
  mt : Nat := 0
  time : TimeUnit := {}
  links : SMap Link := []
  fab : Fabric := {}
  /-- Links that the link plan names as used, R406. -/
  usedLinks : Nat := 0
  hl : Headland := {}
  col : Collective := {}
  rst : Option ResetRun := none
  thr : Thresher := {}
  flt : FaultUnit := {}
  host : HostIf := {}
  stg : Staging := {}
  pwr : Power := {}
  img : Image := {}
  meter : Meter := {}
  /-- Tags sent, modulo 256, and the block identifier of the latest one (R455, R462). -/
  tagSeq : Nat := 0
  tagBlk : Nat := 0
  /-- Cell-cycles of the work counter that no tag has carried (R455). -/
  work : Nat := 0
  /-- Machine time of the latest status frame of the meter (R462). -/
  mtrAt : Nat := 0
  /-- Latched _HI halves by requester × 2^28 + offset (R381). -/
  latch : SMap (Option Nat) := []
  /-- The boundary-scan register of the test port (R451). -/
  scan : List Bool := []
  /-- The next free value (log entry 1): the model's own field. -/
  freeIdx : Nat := 0
  /-- What the module has driven outwards, oldest first. -/
  out : List Emit := []
  deriving DecidableEq, Repr

/-- The state: the module and the commands that wait, first in, first out. -/
structure State where
  dev : Dev
  pending : List Instr
  deriving DecidableEq, Repr

/-- Why a command stops the machine. -/
inductive Fault where
  /-- Raised by MODULE_REMOVAL alone, when the power blades part under more than 1 A: R27 places that outside the manual's conditions. Safe. -/
  | brokenUnderLoad
  deriving DecidableEq, Repr

/-- Why a command has no meaning in the model. -/
inductive Refusal where
  /-- Raised by exec's arms for a command whose meaning is not written. Safe. -/
  | notModelled (mnemonic : String)
  deriving DecidableEq, Repr

/-- The outcome of a command. -/
abbrev Out := Host.Outcome State Fault Refusal

/-- The next state in which the module has changed by `f`, the queue untouched. -/
def State.on (s : State) (f : Dev → Dev) : State := { s with dev := f s.dev }

/-- The outcome of a command that changes the module by `f`. -/
def State.does (s : State) (f : Dev → Dev) : Out := .next (s.on f)

/-- The module right after reset. -/
def Dev.reset : Dev := {}

/-- The machine right after reset, with no command waiting. -/
def State.reset : State := ⟨Dev.reset, []⟩

end Sys2Proof.Machine
end

