-- ==== Sys2Proof/Machine/Ops.lean ====
section
/-! DEFINITION. The named operations every meaning is built from: register fields, cores, memory by place, the address
maps of R160 to R165, machine-time helpers and free values. -/

namespace Sys2Proof.Machine

/-! ### Register fields -/

/-- The value of a field, within its width. -/
def Dev.get (d : Dev) (f : Fld) : Nat := (mget 0 d.regs f.key ^^^ f.reset) % 2 ^ f.width

/-- A hardware update of a field: the value cut to its width. A shadow that is not dirty follows by itself (R383). -/
def Dev.set (f : Fld) (v : Nat) (d : Dev) : Dev :=
  { d with regs := mset 0 d.regs f.key ((v % 2 ^ f.width) ^^^ f.reset) }

/-- A one-bit field as a Bool. -/
def Dev.bit (d : Dev) (f : Fld) : Bool := decide (d.get f % 2 = 1)

def Dev.setBit (f : Fld) (b : Bool) (d : Dev) : Dev := d.set f (if b then 1 else 0)

/-- A _LO and _HI pair. -/
def Dev.get64 (d : Dev) (lo : Fld) : Nat := d.get lo + 2 ^ 32 * d.get lo.hi

def Dev.set64 (lo : Fld) (v : Nat) (d : Dev) : Dev := (d.set lo (v % 2 ^ 32)).set lo.hi (v / 2 ^ 32)

/-- Add to a pair, wrapping at 2^64. -/
def Dev.add64 (lo : Fld) (n : Nat) (d : Dev) : Dev := d.set64 lo ((d.get64 lo + n) % 2 ^ 64)

/-- Add to a field, saturating at its largest value. -/
def Dev.addSat (f : Fld) (n : Nat) (d : Dev) : Dev := d.set f (min (d.get f + n) (2 ^ f.width - 1))

/-- A hardware set of a W1C flag with its companion count (R382). -/
def Dev.flag (f cnt : Fld) (d : Dev) : Dev := (d.setBit f true).addSat cnt 1

/-! ### Cores -/

def Dev.core (d : Dev) (c : Nat) : Core := mget Core.reset d.cores c

def Dev.setCore (c : Nat) (k : Core) (d : Dev) : Dev := { d with cores := mset Core.reset d.cores c k }

def Dev.modCore (c : Nat) (f : Core → Core) (d : Dev) : Dev := d.setCore c (f (d.core c))

/-- The instruction word of a bank, R127. -/
def Core.imem (k : Core) (bank : Bool) (w : Nat) : Nat := mget 0 (if bank then k.imem1 else k.imem0) w

def Core.setImem (k : Core) (bank : Bool) (w v : Nat) : Core :=
  let e := mset 0 k.imemEcc ((if bank then 4096 else 0) + w) 0
  if bank then { k with imem1 := mset 0 k.imem1 w (v % 2 ^ 64), imemEcc := e }
  else { k with imem0 := mset 0 k.imem0 w (v % 2 ^ 64), imemEcc := e }

/-- PROG_ID of a bank's header, R129. -/
def Core.progId (k : Core) (bank : Bool) : Nat := k.imem bank 0 % 4096

/-- LENGTH of a bank's header. -/
def Core.progLen (k : Core) (bank : Bool) : Nat := k.imem bank 0 / 4096 % 4096

/-- S registers: S0 reads as 0 and discards writes (R135). -/
def Core.s (k : Core) (n : Nat) : Nat := if n = 0 then 0 else mget 0 k.sreg n % 2 ^ 64

def Core.setS (k : Core) (n v : Nat) : Core :=
  if n = 0 then k else { k with sreg := mset 0 k.sreg n (v % 2 ^ 64) }

/-! ### Free values -/

/-- A free bit, and the state with the counter advanced. -/
def Dev.freeBit (d : Dev) : Bool × Dev := (Config.freeBit d.freeIdx, { d with freeIdx := d.freeIdx + 1 })

def Dev.freeNat (d : Dev) : Nat × Dev := (Config.freeNat d.freeIdx, { d with freeIdx := d.freeIdx + 1 })

/-- `n` free bytes. -/
def Dev.freeBytes (n : Nat) (d : Dev) : List Byte × Dev :=
  ((List.range n).map (Config.freeByte d.freeIdx), { d with freeIdx := d.freeIdx + 1 })

/-! ### Output -/

/-- Something the module drives outwards. -/
def Dev.emit (e : Emit) (d : Dev) : Dev := { d with out := d.out ++ [e] }

/-! ### Memory by place

A place is where a byte physically is: Granary stack k at offset o is 2^36 × k + o, GDDR port p is 2^40 + 2^33 × p + o, CSM of
cluster x is 2^41 + 2^24 × x + o, CLM of core c is 2^42 + 2^22 × c + o. -/

def grnPlace (k o : Nat) : Nat := 2 ^ 36 * k + o
def gdmPlace (p o : Nat) : Nat := 2 ^ 40 + 2 ^ 33 * p + o
def csmPlace (x o : Nat) : Nat := 2 ^ 41 + 2 ^ 24 * x + o
def clmPlace (c o : Nat) : Nat := 2 ^ 42 + 2 ^ 22 * c + o

/-- Bytes of CLM that are backed: 3 MiB (R160). -/
def clmSize : Nat := 3 * 2 ^ 20

/-- What an unlisted byte reads as: zero, the contents R409 leaves at READY (log entry 3). -/
def memDefault : Byte := 0#8

/-- The canonical form of memory: places strictly rising, no entry equal to the default. -/
def Memory.wf (m : List Host.Cell) : Bool := mwf memDefault m

/-- The byte at a place. -/
def Dev.byte (d : Dev) (p : Nat) : Byte := mget memDefault d.mem p

/-- Store one byte. -/
def Dev.setByte (p : Nat) (b : Byte) (d : Dev) : Dev := { d with mem := mset memDefault d.mem p b }

/-- Bytes at consecutive places. -/
def Dev.bytes (d : Dev) (p n : Nat) : List Byte := (List.range n).map fun i => d.byte (p + i)

/-- Store bytes at consecutive places. -/
def Dev.setBytes (p : Nat) : List Byte → Dev → Dev
  | [], d => d
  | b :: r, d => Dev.setBytes (p + 1) r (d.setByte p b)

/-- Memory cleared between two places. -/
def Dev.clearPlaces (lo hi : Nat) (d : Dev) : Dev := { d with mem := mclear d.mem lo hi }

/-- A write of a whole SRAM word or Granary codeword leaves it good (R176, R186): marks wholly inside the range go. -/
def Dev.goodWrite (p n : Nat) (d : Dev) : Dev :=
  { d with
    sramEcc := d.sramEcc.filter fun q => !(decide (p ≤ q.1 * 8) && decide (q.1 * 8 + 8 ≤ p + n)),
    grnBad := d.grnBad.filter fun q => !(decide (p ≤ q.1 * 64) && decide (q.1 * 64 + 64 ≤ p + n)) }

/-- A write of some bytes leaves good every SRAM word of which it writes every byte (R186). -/
def Dev.goodPlaces (ps : List Nat) (d : Dev) : Dev :=
  { d with sramEcc := d.sramEcc.filter fun q => !(List.range 8).all fun i => ps.contains (8 * q.1 + i) }

/-- Bytes stored one after another, the last at a place winning. -/
def Dev.setCells (bs : List (Nat × Byte)) (d : Dev) : Dev := bs.foldl (fun d b => d.setByte b.1 b.2) d

/-- The worst mark of the SRAM words a range touches: 0 none, 1 corrected, 2 uncorrectable. -/
def Dev.sramMark (d : Dev) (p n : Nat) : Nat :=
  d.sramEcc.foldl (fun a q => if q.1 * 8 < p + n ∧ p < q.1 * 8 + 8 then max a q.2 else a) 0

/-! ### The core's own CLM -/

/-- Bytes of a core's CLM by offset. -/
def Dev.clm (d : Dev) (c off n : Nat) : List Byte := d.bytes (clmPlace c off) n

/-- A little-endian number in a core's CLM. -/
def Dev.clmNat (d : Dev) (c off n : Nat) : Nat := leNat (d.clm c off n)

/-- A write into a core's CLM. -/
def Dev.setClm (c off : Nat) (bs : List Byte) (d : Dev) : Dev :=
  (d.goodWrite (clmPlace c off) bs.length).setBytes (clmPlace c off) bs

/-! ### The local address map, R160 to R165 -/

/-- Where a local address leads. -/
inductive Loc where
  /-- Granary, GDDR, CSM or CLM at a place. -/
  | mem (place : Nat)
  /-- The host window, at an offset of it. -/
  | host (off : Nat)
  /-- Control space, at an offset of it. -/
  | ctl (off : Nat)
  | unbacked
  deriving DecidableEq, Repr

/-- Translation of a Granary address, R164: the stack and the offset in it. -/
def Dev.grnLoc (d : Dev) (a : Nat) : Option (Nat × Nat) :=
  let g := a / 2 ^ 30
  let o := a % 2 ^ 30
  let j := o / 4096
  let slot := d.get (Reg.GRN_IAT.SLOT g)
  let part := d.get (Reg.GRN_IAT.PART g)
  match d.get (Reg.GRN_IAT.MODE g) with
  | 1 => some (d.get (Reg.GRN_IAT.HOME g), slot * 2 ^ 30 + o)
  | 2 => some ((j + part) % 8, slot * 2 ^ 30 + part * 2 ^ 27 + j / 8 * 4096 + o % 4096)
  | _ => none

/-- Translation of a GDDR address, R165, given its distance from the range's start. -/
def Dev.gdmLoc (d : Dev) (a : Nat) : Option (Nat × Nat) :=
  let r := a / 2 ^ 30
  let o := a % 2 ^ 30
  let j := o / 4096
  let home := d.get (Reg.GDM_IAT.HOME r)
  let slot := d.get (Reg.GDM_IAT.SLOT r)
  let part := d.get (Reg.GDM_IAT.PART r)
  match d.get (Reg.GDM_IAT.MODE r) with
  | 1 => some (4 * home + j % 4, slot * 2 ^ 28 + j / 4 * 4096 + o % 4096)
  | 2 => some ((j + part) % 32, slot * 2 ^ 28 + part * 2 ^ 25 + j / 32 * 4096 + o % 4096)
  | 3 => some (home, slot * 2 ^ 30 + o)
  | _ => none

def gdmBase : Nat := 0x008000000000
def csmBase : Nat := 0x010000000000
def clmBase : Nat := 0x010100000000
def hostBase : Nat := 0x020000000000
def ctlBase : Nat := 0x030000000000

/-- The local address of a byte of a core's CLM. -/
def clmAddr (c off : Nat) : Nat := clmBase + c * 2 ^ 22 + off

/-- Where a local address leads, R160 and R161. -/
def Dev.loc (d : Dev) (a : Nat) : Loc :=
  if a < 0x006000000000 then
    match d.grnLoc a with
    | some (k, o) => .mem (grnPlace k o)
    | none => .unbacked
  else if a < gdmBase then .unbacked
  else if a < 0x00C000000000 then
    match d.gdmLoc (a - gdmBase) with
    | some (p, o) => .mem (gdmPlace p o)
    | none => .unbacked
  else if a < csmBase then .unbacked
  else if a < csmBase + 8 * 2 ^ 24 then
    let o := (a - csmBase) % 2 ^ 24
    if o < 2 ^ 23 then .mem (csmPlace ((a - csmBase) / 2 ^ 24) o) else .unbacked
  else if a < clmBase then .unbacked
  else if a < clmBase + 64 * 2 ^ 22 then
    let o := (a - clmBase) % 2 ^ 22
    if o < clmSize then .mem (clmPlace ((a - clmBase) / 2 ^ 22) o) else .unbacked
  else if a < hostBase then .unbacked
  else if a < 0x030000000000 then
    let o := a - hostBase
    if o < d.get Reg.HST_HWIN_SIZE * 2 ^ 30 then .host o else .unbacked
  else if a < ctlBase + 2 ^ 28 then .ctl (a - ctlBase)
  else .unbacked

/-- A Granary address (R160). -/
def isGranary (a : Nat) : Bool := decide (a < 0x006000000000)

def isGddr (a : Nat) : Bool := decide (gdmBase ≤ a) && decide (a < 0x00C000000000)

/-- The place of a local memory address, or none where it is no memory. -/
def Dev.place (d : Dev) (a : Nat) : Option Nat :=
  match d.loc a with
  | .mem p => some p
  | _ => none

/-- Whether every byte of a range is memory. -/
def Dev.memRange (d : Dev) (a n : Nat) : Bool := (List.range n).all fun i => (d.place (a + i)).isSome

/-- The byte at a local memory address. -/
def Dev.rd (d : Dev) (a : Nat) : Byte :=
  match d.place a with
  | some p => d.byte p
  | none => 0#8

def Dev.rdBytes (d : Dev) (a n : Nat) : List Byte := (List.range n).map fun i => d.rd (a + i)

def Dev.rdNat (d : Dev) (a n : Nat) : Nat := leNat (d.rdBytes a n)

/-- A write of one byte to a local memory address; nothing where it is no memory. -/
def Dev.wr (a : Nat) (b : Byte) (d : Dev) : Dev :=
  match d.place a with
  | some p => d.setByte p b
  | none => d

/-- A write to local memory addresses, byte by byte (R164, R165). -/
def Dev.wrBytes (a : Nat) : List Byte → Dev → Dev
  | [], d => d
  | b :: r, d => Dev.wrBytes (a + 1) r (d.wr a b)

/-- Whether a range of a local address touches a codeword or SRAM word that cannot be corrected: its first such byte address. -/
def Dev.firstUe (d : Dev) (a n : Nat) : Option Nat :=
  if d.grnBad = [] ∧ d.sramEcc = [] then none
  else ((List.range n).map (a + ·)).find? fun x =>
    match d.place x with
    | some p => decide (mget 0 d.grnBad (p / 64) ≠ 0) || decide (mget 0 d.sramEcc (p / 8) = 2)
    | none => false

/-! ### Times -/

/-- Ticks of machine time in a microsecond (a tick is 0.25 ns, R329). -/
def ticksPerUs : Nat := 4000

/-- Whether machine time `a` is at or past `b`, as 64-bit counters. -/
def mtReached (now target : Nat) : Bool := decide (target ≤ now)

end Sys2Proof.Machine
end

