-- ==== Sys2Proof/Machine/Layer.lean ====
section
/-! DEFINITION. Layer records: the fields of R102 and R139, the geometry of R84 and R92, the address generator of R99 and the
checks by which a record is malformed (R85, R93, R95, R98, R101, R102, R141). -/

namespace Sys2Proof.Machine

/-! ### Fields -/

/-- A field of a record: `n` bytes at an offset, little-endian. -/
def recField (r : List Byte) (off n : Nat) : Nat := leNat ((r.drop off).take n)

/-- Bits `lo` upwards, `w` of them. -/
def bitsOf (v lo w : Nat) : Nat := v / 2 ^ lo % 2 ^ w

def recHdr (r : List Byte) : Nat := recField r 0x00 4
def recUseMxa (r : List Byte) : Bool := (recHdr r).testBit 8
def recUseVec (r : List Byte) : Bool := (recHdr r).testBit 9
def recTraceTile (r : List Byte) : Bool := (recHdr r).testBit 10
def recEvtDone (r : List Byte) : Nat := bitsOf (recField r 0x08 4) 0 7
def recEvtTile (r : List Byte) : Nat := bitsOf (recField r 0x08 4) 8 7
def recWdog (r : List Byte) : Nat := recField r 0x0C 4
def recVecCtl (r : List Byte) : Nat := recField r 0xE0 4

/-- The array fields of a record, R102. -/
structure ArrRec where
  mode : Nat
  afmt : Nat
  wfmt : Nat
  split : Bool
  accLoad : Nat
  dbuf : Bool
  writeOut : Bool
  ofmt : Nat
  ornd : Nat
  osat : Bool
  wT : Bool
  conv : Bool
  amask : Nat
  m : Nat
  k : Nat
  n : Nat
  kBase : Nat
  outTid : Nat
  aAddr : Nat
  wAddr : Nat
  oAddr : Nat
  cAddr : Nat
  aScale : Nat
  wScale : Nat
  aStride : Nat
  wStride : Nat
  oStride : Nat
  cStride : Nat
  asStride : Nat
  wsStride : Nat
  idxBase : Nat
  idxM : Nat
  idxN : Nat
  spill : Nat
  dims : Nat
  inW : Nat
  inH : Nat
  inD : Nat
  cIn : Nat
  outW : Nat
  outH : Nat
  outD : Nat
  batch : Nat
  kerW : Nat
  kerH : Nat
  kerD : Nat
  strW : Nat
  strH : Nat
  strD : Nat
  dilW : Nat
  dilH : Nat
  dilD : Nat
  padW : Nat
  padH : Nat
  padD : Nat
  pix : Nat
  img : Nat
  deriving DecidableEq, Repr

/-- The array fields read from a record. -/
def arrRec (r : List Byte) : ArrRec :=
  let c := recField r 0x20 4
  let f := recField r
  { mode := bitsOf c 0 2, afmt := bitsOf c 2 4, wfmt := bitsOf c 6 4, split := c.testBit 10, accLoad := bitsOf c 11 2,
    dbuf := c.testBit 13, writeOut := c.testBit 14, ofmt := bitsOf c 15 4, ornd := bitsOf c 19 2, osat := c.testBit 21,
    wT := c.testBit 22, conv := c.testBit 23, amask := bitsOf c 24 4,
    m := f 0x24 4, k := f 0x28 4, n := f 0x2C 4, kBase := f 0x30 4, outTid := f 0x34 4,
    aAddr := f 0x38 8, wAddr := f 0x40 8, oAddr := f 0x48 8, cAddr := f 0x50 8, aScale := f 0x58 8, wScale := f 0x60 8,
    aStride := f 0x68 4, wStride := f 0x6C 4, oStride := f 0x70 4, cStride := f 0x74 4, asStride := f 0x78 4,
    wsStride := f 0x7C 4, idxBase := f 0x80 8, idxM := f 0x88 8, idxN := f 0x90 8, spill := f 0x98 4,
    dims := bitsOf (f 0xA0 4) 0 2, inW := f 0xA4 2, inH := f 0xA6 2, inD := f 0xA8 2, cIn := f 0xAA 2, outW := f 0xAC 2,
    outH := f 0xAE 2, outD := f 0xB0 2, batch := f 0xB2 2, kerW := f 0xB4 1, kerH := f 0xB5 1, kerD := f 0xB6 1,
    strW := f 0xB8 1, strH := f 0xB9 1, strD := f 0xBA 1, dilW := f 0xBC 1, dilH := f 0xBD 1, dilD := f 0xBE 1,
    padW := f 0xC0 1, padH := f 0xC1 1, padD := f 0xC2 1, pix := f 0xC4 4, img := f 0xC8 4 }

/-! ### Geometry, R61, R84, R92 -/

/-- Rounding up a quotient. -/
def ceilDiv (a b : Nat) : Nat := (a + b - 1) / b

/-- D, the depth of the mode. -/
def ArrRec.depth (a : ArrRec) : Nat := 128 / 2 ^ a.mode

/-- N_m, the width of the mode. -/
def ArrRec.width (a : ArrRec) : Nat := 128 * 2 ^ a.mode

/-- L, the values of K a cell takes at once (R61, R85). -/
def ArrRec.lanes (a : ArrRec) : Nat :=
  if a.afmt = 9 then 4 else if a.afmt = 0 ∨ a.afmt = 1 ∨ a.afmt = 2 then 1 else 2

/-- Integer operands on both sides, R63. -/
def ArrRec.isInt (a : ArrRec) : Bool := decide (10 ≤ a.afmt ∧ a.afmt ≤ 11 ∧ 10 ≤ a.wfmt ∧ a.wfmt ≤ 11)

/-- Some operand is MX. -/
def ArrRec.hasMx (a : ArrRec) : Bool := isMx a.afmt || isMx a.wfmt

/-- Enabled arrays, in ascending order. -/
def ArrRec.arrays (a : ArrRec) : List Nat := (List.range 4).filter fun i => a.amask.testBit i

/-- Ma, the activation rows of one array. -/
def ArrRec.ma (a : ArrRec) : Nat := ceilDiv a.m a.arrays.length

def ArrRec.kt (a : ArrRec) : Nat := ceilDiv a.k (a.depth * a.lanes)

def ArrRec.nt (a : ArrRec) : Nat := ceilDiv a.n a.width

/-- Passes of R64. -/
def ArrRec.passes (a : ArrRec) : Nat := if a.split then 3 else 1

/-- Accumulator rows per column, R84. -/
def ArrRec.rowsPer (a : ArrRec) (dbuf : Bool) : Nat := 65536 / a.width / (if dbuf then 2 else 1)

/-- Columns that N-tile `j` uses. -/
def ArrRec.cols (a : ArrRec) (j : Nat) : Nat := min a.width (a.n - j * a.width)

/-- First accumulator row of N-tile `j`, R92: rows kept between records lie one N-tile after another; otherwise N-tiles alternate
between the halves that ACC_DBUF makes. -/
def ArrRec.rowBase (a : ArrRec) (j : Nat) : Nat :=
  if !a.writeOut || decide (a.accLoad = 1) then j * a.ma
  else if a.dbuf then j % 2 * a.rowsPer true
  else 0

/-- Rows in use per array, r_u of R98. -/
def ArrRec.rowsUsed (a : ArrRec) : Nat := if a.writeOut then a.ma else a.nt * a.ma

/-- Bytes of the spill area, R98. -/
def ArrRec.spillBytes (a : ArrRec) : Nat := a.arrays.length * a.rowsUsed * a.width * 4

/-- The array and the row in it that take activation row `m`, R81: the array's number, its place among the enabled ones and the row. -/
def ArrRec.rowAt (a : ArrRec) (m : Nat) : Nat × Nat × Nat :=
  let p := m / a.ma
  (a.arrays.getD p 0, p, m % a.ma)

/-- The accumulator entry of output element (m, n). -/
def ArrRec.entry (a : ArrRec) (m n : Nat) : Nat :=
  let (arr, _, r) := a.rowAt m
  let j := n / a.width
  arr * 65536 + (a.rowBase j + r) * a.width + n % a.width

/-! ### Element addresses -/

/-- Bytes that `n` elements of a format take, R53. -/
def fmtBytes (code n : Nat) : Nat := ceilDiv (n * elemBitsOf code) 8

/-- An element of a packed row in memory: element `i` from a byte address. -/
def Dev.elemAt (d : Dev) (code addr i : Nat) : Nat :=
  let w := elemBitsOf code
  let bit := i * w
  if w % 8 = 0 then d.rdNat (addr + bit / 8) (w / 8)
  else bitsOf (d.rdNat (addr + bit / 8) 2) (bit % 8) w

/-- Input coordinate of a dimension, R99. -/
def convCoord (o str pad ker dil : Nat) : Int := (o * str : Nat) - (pad : Int) + (ker * dil : Nat)

/-- Where activation element (m, k) of a convolution lies: the pixel's image, z, y, x and channel, or none in the padding (R99). -/
def ArrRec.convAt (a : ArrRec) (m k : Nat) : Option (Nat × Nat × Nat × Nat × Nat) :=
  let ox := m % a.outW
  let oy := m / a.outW % a.outH
  let oz := m / a.outW / a.outH % a.outD
  let b := m / a.outW / a.outH / a.outD
  let c := k % a.cIn
  let kx := k / a.cIn % a.kerW
  let ky := k / a.cIn / a.kerW % a.kerH
  let kz := k / a.cIn / a.kerW / a.kerH
  let x := convCoord ox a.strW a.padW kx a.dilW
  let y := convCoord oy a.strH a.padH ky a.dilH
  let z := convCoord oz a.strD a.padD kz a.dilD
  if 0 ≤ x ∧ x < a.inW ∧ 0 ≤ y ∧ y < a.inH ∧ 0 ≤ z ∧ z < a.inD then
    some (b, z.toNat, y.toNat, x.toNat, c)
  else none

/-- The pixel number that A_SCALE_STRIDE multiplies, R99. -/
def ArrRec.pixel (a : ArrRec) (b z y x : Nat) : Nat := ((b * a.inD + z) * a.inH + y) * a.inW + x

/-- Address of a pixel, R99. -/
def ArrRec.pixAddr (a : ArrRec) (b z y x : Nat) : Nat := a.aAddr + b * a.img + ((z * a.inH + y) * a.inW + x) * a.pix

/-- The activation value (m, k), with its scale; a padded element is +0. -/
def Dev.actVal (d : Dev) (a : ArrRec) (m k : Nat) : Val :=
  if a.conv then
    match a.convAt m k with
    | none => Val.zero
    | some (b, z, y, x, c) =>
      let sc := if isMx a.afmt then (d.rd (a.aScale + a.pixel b z y x * a.asStride + c / 32)).toNat else 0x7F
      elemVal a.afmt sc (d.elemAt a.afmt (a.pixAddr b z y x) c)
  else
    let sc := if isMx a.afmt then (d.rd (a.aScale + m * a.asStride + k / 32)).toNat else 0x7F
    elemVal a.afmt sc (d.elemAt a.afmt (a.aAddr + m * a.aStride) k)

/-- The stored integer of an integer activation, without the factor of R49 (R63); a padded element is 0. -/
def Dev.actInt (d : Dev) (a : ArrRec) (m k : Nat) : Int :=
  if a.conv then
    match a.convAt m k with
    | none => 0
    | some (b, z, y, x, c) => bitsInt 8 (d.elemAt a.afmt (a.pixAddr b z y x) c)
  else bitsInt 8 (d.elemAt a.afmt (a.aAddr + m * a.aStride) k)

/-- The element of the weights (k, n). -/
def Dev.wElem (d : Dev) (a : ArrRec) (k n : Nat) : Nat :=
  if a.wT then d.elemAt a.wfmt (a.wAddr + n * a.wStride) k else d.elemAt a.wfmt (a.wAddr + k * a.wStride) n

/-- The scale code of the weights (k, n); an operand that is not MX takes 0x7F (R85). -/
def Dev.wScaleCode (d : Dev) (a : ArrRec) (k n : Nat) : Nat :=
  if isMx a.wfmt then (d.rd (a.wScale + k / 32 * a.wsStride + n)).toNat else 0x7F

/-- The scale bytes a record reads, R63: every one of them 0x7F or not. A convolution reads the scales of unpadded elements. -/
def Dev.scalesAllOne (d : Dev) (a : ArrRec) : Bool :=
  let act := !isMx a.afmt || (List.range a.m).all fun m => (List.range a.k).all fun k =>
    if a.conv then
      match a.convAt m k with
      | none => true
      | some (b, z, y, x, c) => d.rd (a.aScale + a.pixel b z y x * a.asStride + c / 32) = 0x7F#8
    else d.rd (a.aScale + m * a.asStride + k / 32) = 0x7F#8
  let wgt := !isMx a.wfmt || (List.range (ceilDiv a.k 32)).all fun b => (List.range a.n).all fun n =>
    d.rd (a.wScale + b * a.wsStride + n) = 0x7F#8
  act && wgt

/-! ### Malformed records -/

/-- R85: the formats may be combined. -/
def ArrRec.fmtsOk (a : ArrRec) : Bool :=
  let grp (f : Nat) : Nat := if f = 0 then 1 else if f ≤ 2 then 2 else if f ≤ 8 then 3 else if f = 9 then 4
    else if f ≤ 11 then 5 else 0
  decide (grp a.afmt = grp a.wfmt) && decide (grp a.afmt ≠ 0) && (a.split == decide (grp a.afmt = 1))

/-- A range of the core's own CLM, aligned to 32 bytes, whose last byte read or written is below 3 MiB (R102). -/
def clmRangeOk (c addr len : Nat) : Bool :=
  decide (addr % 32 = 0) && decide (clmAddr c 0 ≤ addr) && decide (addr + len ≤ clmAddr c clmSize)
    && decide (addr < clmAddr c clmSize)

/-- The largest input coordinate a dimension reads, R99. -/
def maxCoord (out str pad ker dil inn : Nat) : Option Nat :=
  (List.range out).foldl (fun best o => (List.range ker).foldl (fun best k =>
    let x := convCoord o str pad k dil
    if 0 ≤ x ∧ x < inn then some (max x.toNat (best.getD 0)) else best) best) none

/-- Bytes from A_ADDR that the activations of a record reach. -/
def ArrRec.actSpan (a : ArrRec) : Nat :=
  if a.conv then
    match maxCoord a.outW a.strW a.padW a.kerW a.dilW a.inW, maxCoord a.outH a.strH a.padH a.kerH a.dilH a.inH,
      maxCoord a.outD a.strD a.padD a.kerD a.dilD a.inD with
    | some x, some y, some z => (a.batch - 1) * a.img + ((z * a.inH + y) * a.inW + x) * a.pix + fmtBytes a.afmt a.cIn
    | _, _, _ => 0
  else (a.m - 1) * a.aStride + fmtBytes a.afmt a.k

/-- Bytes from A_SCALE_ADDR that the scales of a record reach. -/
def ArrRec.actScaleSpan (a : ArrRec) : Nat :=
  if a.conv then
    match maxCoord a.outW a.strW a.padW a.kerW a.dilW a.inW, maxCoord a.outH a.strH a.padH a.kerH a.dilH a.inH,
      maxCoord a.outD a.strD a.padD a.kerD a.dilD a.inD with
    | some x, some y, some z => a.pixel (a.batch - 1) z y x * a.asStride + ceilDiv a.cIn 32
    | _, _, _ => 0
  else (a.m - 1) * a.asStride + ceilDiv a.k 32

/-- R101. DESIGN CHOICE (log entry 41): the field table gives IN_W and IN_H the range 1 to 65,535 and gives IN_D, C_IN, the OUT fields and BATCH none;
a 0 in any of them makes the record malformed here, IN_D = 0 with DIMS = 3 included. -/
def ArrRec.convOk (a : ArrRec) : Bool :=
  decide (1 ≤ a.dims) && decide (a.m = a.batch * a.outD * a.outH * a.outW)
    && decide (a.k = a.kerD * a.kerH * a.kerW * a.cIn) && decide (a.cIn % a.lanes = 0)
    && (!isMx a.afmt || decide (a.cIn % 32 = 0))
    && [a.kerW, a.kerH, a.kerD, a.strW, a.strH, a.strD, a.dilW, a.dilH, a.dilD].all (fun x => decide (1 ≤ x))
    && [a.inW, a.inH, a.inD, a.cIn, a.outW, a.outH, a.outD, a.batch].all (fun x => decide (1 ≤ x))
    && (decide (3 ≤ a.dims) || (decide (a.inD = 1 ∧ a.outD = 1 ∧ a.kerD = 1 ∧ a.strD = 1 ∧ a.dilD = 1 ∧ a.padD = 0)))
    && (decide (2 ≤ a.dims) || (decide (a.inH = 1 ∧ a.outH = 1 ∧ a.kerH = 1 ∧ a.strH = 1 ∧ a.dilH = 1 ∧ a.padH = 0)))

/-- R98: the spill area. -/
def ArrRec.spillOk (a : ArrRec) : Bool :=
  if a.spill = 0xFFFFFFFF then a.writeOut
  else decide (a.spill % 32 = 0) && decide (a.spill + a.spillBytes ≤ clmSize)

/-- R95: the conditions of ACC_LOAD = 1; the accumulation kind is compared where it is known before the scan. -/
def chainOk (ch : Option ArrayChain) (a : ArrRec) : Bool :=
  match ch with
  | none => false
  | some p => p.keptOut && decide (p.mode = a.mode) && decide (p.m = a.m) && decide (p.n = a.n)
      && decide (p.afmt = a.afmt) && decide (p.wfmt = a.wfmt) && p.kWhole && decide (p.kEnd = a.kBase)
      && (a.isInt && a.hasMx || (p.intAcc == a.isInt))

/-- Bytes of an output element, R96. -/
def outBytes (ofmt : Nat) : Nat := elemBitsOf ofmt / 8

/-- The array fields of a record pass R48, R57, R85, R93 to R96, R98, R101 and R102. OFMT is no unused field of R102: it is checked whatever
WRITE_OUT holds (R141). DESIGN CHOICE (log entry 41): with CONV = 1, A_SCALE_STRIDE is the distance between the scale groups of neighbouring
pixels and no row stride, so it need not be a multiple of 32. -/
def arrOk (c : Nat) (ch : Option ArrayChain) (a : ArrRec) : Bool :=
  decide (1 ≤ a.m) && decide (1 ≤ a.k) && decide (1 ≤ a.n) && decide (a.amask ≠ 0)
    && a.fmtsOk && decide (a.ornd ≠ 3) && decide (a.accLoad ≠ 3)
    && decide (a.kBase % (a.depth * a.lanes) = 0)
    && decide (a.ma ≤ a.rowsPer (a.dbuf && a.writeOut))
    && (a.writeOut || decide (a.nt * a.ma ≤ a.rowsPer false))
    && [0, 1, 2, 3, 4, 11, 12].contains a.ofmt && (!decide (11 ≤ a.ofmt) || a.isInt)
    && !(a.wT && isMx a.wfmt)
    && (decide (a.accLoad ≠ 1) || chainOk ch a)
    && a.spillOk
    && (!a.conv || a.convOk)
    && clmRangeOk c a.aAddr a.actSpan && (a.conv || decide (a.aStride % 32 = 0))
    && clmRangeOk c a.wAddr (if a.wT then (a.n - 1) * a.wStride + fmtBytes a.wfmt a.k
        else (a.k - 1) * a.wStride + fmtBytes a.wfmt a.n) && decide (a.wStride % 32 = 0)
    && (!a.writeOut || (clmRangeOk c a.oAddr ((a.m - 1) * a.oStride + a.n * outBytes a.ofmt) && decide (a.oStride % 32 = 0)))
    && (decide (a.accLoad ≠ 2) || (clmRangeOk c a.cAddr ((a.m - 1) * a.cStride + a.n * 4) && decide (a.cStride % 32 = 0)))
    && (!isMx a.afmt || (clmRangeOk c a.aScale a.actScaleSpan && (a.conv || decide (a.asStride % 32 = 0))))
    && (!isMx a.wfmt || (clmRangeOk c a.wScale ((ceilDiv a.k 32 - 1) * a.wsStride + a.n) && decide (a.wsStride % 32 = 0)))

/-- An event field of R139: 0 to 63, or 127 for none. -/
def evtOk (e : Nat) : Bool := decide (e < 64) || decide (e = 127)

/-- A record at a CLM offset is well formed, R141. -/
def recOk (c : Nat) (ch : Option ArrayChain) (off : Nat) (r : List Byte) : Bool :=
  let h := recHdr r
  let e := recField r 0x08 4
  decide (off % 64 = 0) && decide (h % 256 = 0x02) && decide (h < 2 ^ 11) && decide (bitsOf e 7 1 = 0)
    && decide (e < 2 ^ 15) && (recUseMxa r || recUseVec r) && evtOk (recEvtDone r) && evtOk (recEvtTile r)
    && (!recUseMxa r || arrOk c ch (arrRec r)) && (!recUseVec r || decide (recVecCtl r < 2))

end Sys2Proof.Machine
end

