-- ==== Sys2Proof/Machine/Flags.lean ====
section
/-! DEFINITION. Every flag computation: the arithmetic flags of a core (R67 to R69) and the non-finite count (R68, R123). -/

namespace Sys2Proof.Machine

/-- CMP_FLAGS bits of raised flags, in the order of CORE_SEQ_FPFLAGS. -/
def Flags.toNat (f : Flags) : Nat :=
  (if f.invalid then 1 else 0) + (if f.divzero then 2 else 0) + (if f.overflow then 4 else 0)
    + (if f.underflow then 8 else 0) + (if f.inexact then 16 else 0)

/-- The flags that the open command raised, kept for CMP_FLAGS. -/
def Core.noteFlags (bits : Nat) (k : Core) : Core :=
  { k with cmd := k.cmd.map fun m => { m with flags := m.flags ||| bits } }

/-- One arithmetic flag of a core raised in a cycle: the sticky bit and its counter (R68). -/
def Dev.fpFlag (b : Bool) (f cnt : Fld) (d : Dev) : Dev := if b then d.flag f cnt else d

/-- Flags raised by an engine of a core in one cycle, R67 and R68: inexact has no counter. -/
def Dev.fpRaise (c : Nat) (f : Flags) (d : Dev) : Dev :=
  let d := d.fpFlag f.invalid (Reg.CORE_SEQ_FPFLAGS.INVALID c) (Reg.CORE_SEQ_FPEVENTS.INVALID_CNT c)
  let d := d.fpFlag f.divzero (Reg.CORE_SEQ_FPFLAGS.DIVZERO c) (Reg.CORE_SEQ_FPEVENTS.DIVZERO_CNT c)
  let d := d.fpFlag f.overflow (Reg.CORE_SEQ_FPFLAGS.OVERFLOW c) (Reg.CORE_SEQ_FPEVENTS.OVERFLOW_CNT c)
  let d := d.fpFlag f.underflow (Reg.CORE_SEQ_FPFLAGS.UNDERFLOW c) (Reg.CORE_SEQ_FPEVENTS.UNDERFLOW_CNT c)
  if f.inexact then d.setBit (Reg.CORE_SEQ_FPFLAGS.INEXACT c) true else d

/-- Flags raised by the arrays or the vector engine: they also belong to the layer command (CMP_FLAGS). -/
def Dev.fpRaiseCmd (c : Nat) (f : Flags) (d : Dev) : Dev :=
  (d.fpRaise c f).modCore c (Core.noteFlags f.toNat)

/-- Non-finite elements that an engine of a core wrote to memory, R68: the flag and its counter. -/
def Dev.nonFiniteSeen (c n : Nat) (d : Dev) : Dev :=
  if n = 0 then d else d.flag (Reg.CORE_SEQ_FPFLAGS.NONFINITE c) (Reg.CORE_SEQ_FPEVENTS.NONFINITE_CNT c)

/-- Non-finite elements that the arrays or the vector engine wrote to memory, R68 and R123: NFCOUNT and the command count them too. -/
def Dev.nonFinite (c n : Nat) (d : Dev) : Dev :=
  if n = 0 then d
  else
    let d := d.nonFiniteSeen c n
    (d.addSat (Reg.CORE_SEQ_NFCOUNT.COUNT c) n).modCore c (Core.noteFlags 32)

/-- A software clear of flags and what hardware sets in the same cycle, R69: a flag that is set in that cycle stays 1 and its
counter becomes 1. `cnt` is none for inexact. -/
def Dev.fpClear (clear hw : Bool) (f : Fld) (cnt : Option Fld) (d : Dev) : Dev :=
  let d := if clear then (match cnt with | some k => (d.setBit f false).set k 0 | none => d.setBit f false) else d
  if hw then (match cnt with | some k => d.flag f k | none => d.setBit f true) else d

end Sys2Proof.Machine
end

