-- ==== Sys2Proof/Machine/CoreOps.lean ====
section
/-! DEFINITION. Shared operations of one core: tags and trace (R144, R156, R157), events (R145), the completion area (R139, R142),
the resume record (R153) and the quiesce request (R152). -/

namespace Sys2Proof.Machine

/-! ### Tag and trace -/

/-- The tag of the open or incomplete command, or 0 outside one (R157). -/
def Core.tagNow (k : Core) : Nat := (k.cmd.map LayerCmd.tag).getD 0

/-- A trace entry offered to the queue, R156 and R157: dropped and counted when the queue is full or STOP refuses it. -/
def Dev.trace (c typ tag a0 a1 : Nat) (d : Dev) : Dev :=
  if d.bit (Reg.CORE_SEQ_TRACE_CTL.EN c) then
    let k := d.core c
    let ent := leBytes 8 d.mt ++ leBytes 4 tag ++ leBytes 1 typ ++ leBytes 1 c ++ leBytes 2 k.traceSeq ++ leBytes 8 a0 ++ leBytes 8 a1
    let size := 2 ^ d.get (Reg.CORE_SEQ_TRACE_CTL.LOG2SIZE c)
    let room := decide (k.traceQ.length < 16)
      && (!d.bit (Reg.CORE_SEQ_TRACE_CTL.STOP c) || decide (d.get (Reg.CORE_SEQ_TRACE_HEAD.HEAD c) + k.traceQ.length < size))
    let d := d.setCore c { k with traceSeq := k.traceSeq + 1, traceQ := if room then k.traceQ ++ [ent] else k.traceQ }
    if room then d else d.addSat (Reg.CORE_SEQ_TRACE_DROP.COUNT c) 1
  else d

/-- A trace entry of the command in progress. -/
def Dev.traceCmd (c typ a0 a1 : Nat) (d : Dev) : Dev := d.trace c typ (d.core c).tagNow a0 a1

/-- The cores take steps: the module is in G0 and its compute clocks run (R375, R424). -/
def Dev.coreOn (d : Dev) : Bool := decide (d.get Reg.PWR_STATUS.STATE = 0) && d.flt.fatal.isNone && !d.pwr.held

/-- A wake from G1 (R423): the module is in G0, and TARGET says so (log entry 28). -/
def Dev.wake (d : Dev) : Dev := ((d.set Reg.PWR_STATUS.STATE 0).setBit Reg.PWR_STATUS.MOVING false).set Reg.PWR_LADDER.TARGET 0

/-- The module is in G1, or on its way there. -/
def Dev.gliding (d : Dev) : Bool :=
  decide (d.get Reg.PWR_STATUS.STATE = 1)
    || (decide (d.get Reg.PWR_STATUS.STATE = 0) && d.bit Reg.PWR_STATUS.MOVING && decide (d.pwr.moveTo = 1))

/-- A write that reaches a core block: in G1 it first wakes the module (R423); deeper it is ignored (R445), as it is while the compute
clocks are stopped for good. -/
def Dev.coreWrite (f : Dev → Dev) (d : Dev) : Dev :=
  if d.flt.fatal.isSome || d.pwr.held then d
  else if d.gliding then f d.wake
  else if d.get Reg.PWR_STATUS.STATE = 0 then f d
  else d

/-! ### Events -/

def eventFld (c e : Nat) : Fld :=
  if e < 32 then Reg.CORE_SEQ_EVT_LO.EVT c else Reg.CORE_SEQ_EVT_HI.EVT c

/-- Whether event `e` is set, R145. -/
def Dev.event (d : Dev) (c e : Nat) : Bool := (d.get (eventFld c e)).testBit (e % 32)

/-- Set event `e`; 127 names none. -/
def Dev.setEvent (c e : Nat) (d : Dev) : Dev :=
  if e < 64 then d.set (eventFld c e) (d.get (eventFld c e) ||| 2 ^ (e % 32)) else d

def Dev.clearEvent (c e : Nat) (d : Dev) : Dev :=
  if d.event c e then d.set (eventFld c e) (d.get (eventFld c e) - 2 ^ (e % 32)) else d

/-! ### The completion area, R139 to R143 -/

/-- CMP_STATUS of the record at an offset: the status, KEPT and a fault code. A record that does not lie wholly in the backed CLM
has no completion area there. -/
def Dev.cmpStatus (c off status : Nat) (kept : Bool) (code : Nat) (d : Dev) : Dev :=
  if off + 256 ≤ clmSize then d.setClm c (off + 0xE8) (leBytes 4 (status + (if kept then 256 else 0) + 65536 * code)) else d

/-- CMP_NFCOUNT, CMP_CYCLES, CMP_FLAGS and CMP_MT of the command. -/
def Dev.cmpArea (c : Nat) (m : LayerCmd) (d : Dev) : Dev :=
  d.setClm c (m.recOff + 0xEC)
    (leBytes 4 (d.get (Reg.CORE_SEQ_NFCOUNT.COUNT c)) ++ leBytes 4 (min m.cycles 0xFFFFFFFF) ++ leBytes 4 m.flags ++ leBytes 8 d.mt)

/-! ### The resume record, R153 -/

/-- The CLM offset of the resume record. -/
def Dev.resumeOff (d : Dev) (c : Nat) : Nat := d.get (Reg.CORE_SEQ_RESUME_ADDR.ADDR c) * 64

/-- RR_FLAGS. -/
def Core.rrFlags (k : Core) : Nat :=
  (if k.cmd.isSome then 1 else 0) + (if k.ixq = [] then 0 else 2) + (if k.inWait then 4 else 0) + (if k.bank then 8 else 0)
    + (if (k.cmd.map LayerCmd.spilled).getD false then 16 else 0) + (if (k.cmd.map LayerCmd.isOpen).getD false then 32 else 0)

/-- The 64 bytes of the resume record. -/
def Dev.resumeBytes (d : Dev) (c : Nat) : List Byte :=
  let k := d.core c
  let tag := d.get (Reg.CORE_SEQ_TAG.TAG c)
  let ixDone := (k.ixq.head?.map IxOp.done).getD 0
  let body := leBytes 4 tag ++ leBytes 4 k.rrFlags ++ leBytes 4 k.pc ++
    (match k.cmd with
     | some m => leBytes 4 m.recOff ++ leBytes 4 m.ntile ++ leBytes 4 m.kchunk ++ leBytes 4 m.pass ++ leBytes 4 ixDone
        ++ leBytes 4 (d.get (Reg.CORE_SEQ_NFCOUNT.COUNT c)) ++ leBytes 4 (min m.cycles 0xFFFFFFFF) ++ leBytes 4 m.flags
        ++ leBytes 4 (crc32 (m.record.take 0xE8)).toNat ++ leBytes 8 m.step
     | none => leBytes 16 0 ++ leBytes 4 ixDone ++ leBytes 16 0 ++ leBytes 8 0)
    ++ leBytes 4 0
  body ++ leBytes 4 (crc32 body).toNat

/-- The sequencer writes the resume record. -/
def Dev.writeResume (c : Nat) (d : Dev) : Dev := d.setClm c (d.resumeOff c) (d.resumeBytes c)

/-! ### Quiesce requests -/

/-- The arrays are streaming: a command with an array part has tiles left and no scan before them. -/
def LayerCmd.tilesLeft (m : LayerCmd) : Bool :=
  recUseMxa m.record && decide (m.ntile < (arrRec m.record).nt)

/-- The next tile may stream: no scan is owed, and the rows it adds into have been written out (R92). -/
def LayerCmd.tileReady (m : LayerCmd) : Bool :=
  let a := arrRec m.record
  m.tilesLeft && !m.scanDue && m.due.all fun t => a.dbuf && decide (t + 1 = m.ntile)

/-- The array part of a command is done, R142. -/
def LayerCmd.arraysDone (m : LayerCmd) : Bool :=
  !recUseMxa m.record || (!m.scanDue && decide ((arrRec m.record).nt ≤ m.ntile) && decide (m.due = []))

/-- Arrays that take rows, as a mask (R103). -/
def ArrRec.activeMask (a : ArrRec) : Nat :=
  (a.arrays.zipIdx.filter fun p => decide (p.2 * a.ma < a.m)).foldl (fun acc p => acc + 2 ^ p.1) 0

/-- A layer command occupies the arrays: from its start, 24 cycles after the snapshot, to the end of its array part, but not while QUIESCED
(R86, R103, R138). -/
def Core.occupies (k : Core) : Bool :=
  decide (k.seq ≠ .quiesced) && (k.cmd.map fun m => recUseMxa m.record && !m.arraysDone && decide (m.startIn = 0)).getD false

/-- Arrays taking rows in the current tile. -/
def Core.rowsMask (k : Core) : Nat :=
  match k.cmd with
  | some m => if k.occupies && m.tileReady then (arrRec m.record).activeMask else 0
  | none => 0

/-- CORE_MXA_STATUS shows what occupies the arrays (R103). -/
def Dev.mxaShow (c : Nat) (d : Dev) : Dev :=
  (d.setBit (Reg.CORE_MXA_STATUS.BUSY c) (d.core c).occupies).set (Reg.CORE_MXA_STATUS.ACTIVE c) (d.core c).rowsMask

/-- A quiesce request reaches a core, R152. IDLE, HALTED and FAULT write the resume record and acknowledge at once; RUN and WAIT
stop issuing and drain; further requests merge. A core in LOADCHK or QUIESCED: the request waits for RUN, or is acknowledged at once. -/
def Dev.quiesceCore (c : Nat) (d : Dev) : Dev :=
  let k := d.core c
  match k.seq with
  | .idle | .halted | .fault => d.writeResume c
  | .quiesced => d
  | .quiescing | .loadchk => d.setBit (Reg.CORE_SEQ_CTRL.QREQ c) true
  | .run | .wait =>
    (d.setBit (Reg.CORE_SEQ_CTRL.QREQ c) true).setCore c
      { k with
        seq := .quiescing, draining := true, inWait := decide (k.seq = .wait), lstartWait := false,
        tileOwed := k.wActive.isSome && (k.cmd.map LayerCmd.tileReady).getD false,
        cmd := k.cmd.map fun m => { m with spilled := false } }

end Sys2Proof.Machine
end

