-- ==== Sys2Proof/Machine/Frames.lean ====
section
/-! DEFINITION. Frames (R253, R277), the torus geometry (R270 to R273, R299) and the queues of a link. -/

namespace Sys2Proof.Machine

/-! ### Geometry -/

/-- Length of axis `k`, own coordinate on it, and the block's origin and length. -/
def Dev.axisLen (d : Dev) (k : Nat) : Nat := d.get Reg.FAB_GEOM / 2 ^ (6 * k) % 64
def Dev.coord (d : Dev) (k : Nat) : Nat := d.get Reg.FAB_COORD / 2 ^ (5 * k) % 32
def Dev.blkOrg (d : Dev) (k : Nat) : Nat := d.get Reg.FAB_BLOCK_ORG / 2 ^ (5 * k) % 32
def Dev.blkLen (d : Dev) (k : Nat) : Nat := d.get Reg.FAB_BLOCK_LEN / 2 ^ (6 * k) % 64

/-- Modules of the field. -/
def Dev.fieldSize (d : Dev) : Nat := d.axisLen 0 * d.axisLen 1 * d.axisLen 2 * d.axisLen 3

/-- The weight of axis `k` in a node identifier, R271. -/
def Dev.axisWeight (d : Dev) (k : Nat) : Nat := ((List.range k).map d.axisLen).foldl (· * ·) 1

/-- The coordinate of a node on axis `k`. -/
def Dev.nodeCoord (d : Dev) (n k : Nat) : Nat := n / d.axisWeight k % d.axisLen k

/-- The node with some coordinates. -/
def Dev.nodeOf (d : Dev) (at_ : Nat → Nat) : Nat := ((List.range 4).map fun k => at_ k * d.axisWeight k).foldl (· + ·) 0

/-- The module's own node identifier. -/
def Dev.node (d : Dev) : Nat := d.nodeOf d.coord

/-- The neighbour of a node in a direction, R272. -/
def Dev.neighbour (d : Dev) (n dir : Nat) : Nat :=
  let k := dir / 2
  let l := d.axisLen k
  d.nodeOf fun j =>
    if j = k then (if dir % 2 = 0 then (d.nodeCoord n j + 1) % l else (d.nodeCoord n j + l - 1) % l) else d.nodeCoord n j

/-- The block position of a coordinate on axis `k`, R299. -/
def Dev.blkPos (d : Dev) (k c : Nat) : Nat := (c + d.axisLen k - d.blkOrg k % d.axisLen k) % d.axisLen k

/-- A node lies in the module's block, R273. -/
def Dev.inBlock (d : Dev) (n : Nat) : Bool :=
  decide (n < d.fieldSize) && decide (d.get Reg.FAB_BLOCK_ID ≠ 0)
    && (List.range 4).all fun k => decide (d.blkPos k (d.nodeCoord n k) < d.blkLen k)

def Dev.spans (d : Dev) (k : Nat) : Bool := decide (d.blkLen k = d.axisLen k)

/-- The nodes of the block. -/
def Dev.blockNodes (d : Dev) : List Nat := (List.range d.fieldSize).filter d.inBlock

end Sys2Proof.Machine

namespace Sys2Proof

open Sys2Proof.Machine

/-! ### Fields of a frame -/

def Frame.dst (f : Frame) : Nat := f.rh0.toNat % 2 ^ 14
def Frame.src (f : Frame) : Nat := f.rh0.toNat / 2 ^ 14 % 2 ^ 14
def Frame.nest (f : Frame) : Nat := f.rh0.toNat / 2 ^ 28 % 4
def Frame.mc (f : Frame) : Bool := f.rh0.getLsbD 30
def Frame.blk (f : Frame) : Nat := f.rh1.toNat % 2 ^ 10
def Frame.px (f : Frame) : Nat := f.rh1.toNat / 2 ^ 10 % 2 ^ 9
def Frame.mcDir (f : Frame) : Nat := f.px % 8
def Frame.mcCnt (f : Frame) : Nat := f.px / 8 % 32
def Frame.op (f : Frame) : Nat := f.rh1.toNat / 2 ^ 19 % 16
def Frame.plen (f : Frame) : Nat := f.rh1.toNat / 2 ^ 23 % 2 ^ 8
def Frame.txid (f : Frame) : Nat := f.rh2.toNat % 2 ^ 16
def Frame.addr (f : Frame) : Nat := f.rh2.toNat / 2 ^ 16 + f.rh3.toNat * 2 ^ 16

/-- The payload of a frame with no tunnel headers left. -/
def Frame.payload (f : Frame) : List Byte := (f.body.drop (16 * f.nest)).take f.plen

def frameIdle : Nat := 0
def frameData : Nat := 1
def frameCtrl : Nat := 2
def frameRreq : Nat := 3
def frameTrain : Nat := 4
def frameLmap : Nat := 5

/-- A body: the bytes in use, then 0. -/
def pad224 (b : List Byte) : List Byte := (b ++ List.replicate 224 0#8).take 224

/-- The 252 bytes that the CRC covers, R253. -/
def Frame.covered (f : Frame) : List Byte :=
  let lhdr := f.typ.toNat + 16 * f.vc.toNat + (if f.ackv then 64 else 0) + (if f.piste then 128 else 0) + 256 * f.blen.toNat
    + 65536 * f.seq.toNat
  let lack := f.ack.toNat + 65536 * f.crdVc.toNat + 2 ^ 18 * f.crdCnt.toNat
  leBytes 4 lhdr ++ leBytes 4 lack ++ leBytes 4 f.lslot.toNat ++ leBytes 4 f.rh0.toNat ++ leBytes 4 f.rh1.toNat
    ++ leBytes 4 f.rh2.toNat ++ leBytes 4 f.rh3.toNat ++ f.body

/-- The frame that 256 bytes spell, R253. -/
def Frame.ofBytes (b : List Byte) : Frame :=
  let w (o : Nat) : Nat := leNat ((b.drop o).take 4)
  let h := w 0
  let a := w 4
  ⟨BitVec.ofNat 4 h, BitVec.ofNat 2 (h / 16), h.testBit 6, h.testBit 7, BitVec.ofNat 8 (h / 256), BitVec.ofNat 16 (h / 65536),
   BitVec.ofNat 16 a, BitVec.ofNat 2 (a / 65536), BitVec.ofNat 8 (a / 2 ^ 18), BitVec.ofNat 6 (w 8), BitVec.ofNat 32 (w 0xC),
   BitVec.ofNat 32 (w 0x10), BitVec.ofNat 32 (w 0x14), BitVec.ofNat 32 (w 0x18), BitVec.ofNat 32 (w 0x1C), pad224 (b.drop 0x20)⟩

def Frame.seal (f : Frame) : Frame := { f with crc := crc32 f.covered }

/-- The checks of R254 and R255 on a decoded frame. -/
def Frame.ok (f : Frame) : Bool :=
  decide (f.typ.toNat ≤ 5) && decide (f.blen.toNat ≤ 224) && decide (f.crc = crc32 f.covered)

/-- A frame of a type with a body and no route. -/
def plainFrame (typ : Nat) (body : List Byte) : Frame :=
  ⟨BitVec.ofNat 4 typ, 0, true, false, BitVec.ofNat 8 body.length, 0, 0, 0, 0, 0, 0, 0, 0, 0, 0, pad224 body⟩

/-- The route header of a DATA frame. -/
structure Route where
  dst : Nat
  src : Nat
  blk : Nat
  op : Nat
  txid : Nat
  addr : Nat
  mc : Option (Nat × Nat) := none
  piste : Option Nat := none
  deriving DecidableEq, Repr

/-- The class of an operation, R278: 0 request, 1 response. -/
def opClass (op : Nat) : Nat := if 2 ≤ op ∧ op ≤ 4 then 1 else 0

def frameRh0 (dst src nest : Nat) (mc : Bool) : Word :=
  BitVec.ofNat 32 (dst + 2 ^ 14 * src + 2 ^ 28 * nest + (if mc then 2 ^ 30 else 0))

/-- A DATA frame. -/
def dataFrame (r : Route) (payload : List Byte) : Frame :=
  let px := match r.mc with
    | some (dir, cnt) => dir + 8 * cnt
    | none => r.piste.getD 0
  { plainFrame frameData payload with
    vc := BitVec.ofNat 2 (2 * opClass r.op),
    piste := r.piste.isSome,
    rh0 := frameRh0 r.dst r.src 0 r.mc.isSome,
    rh1 := BitVec.ofNat 32 (r.blk + 2 ^ 10 * px + 2 ^ 19 * r.op + 2 ^ 23 * payload.length),
    rh2 := BitVec.ofNat 32 (r.txid + 2 ^ 16 * (r.addr % 2 ^ 16)),
    rh3 := BitVec.ofNat 32 (r.addr / 2 ^ 16) }

/-- The frame aimed at another node. -/
def Frame.setDst (f : Frame) (n : Nat) : Frame := { f with rh0 := frameRh0 n f.src f.nest f.mc }

/-- The frame with its multicast count changed. -/
def Frame.setCnt (f : Frame) (n : Nat) : Frame :=
  { f with rh1 := BitVec.ofNat 32 (f.blk + 2 ^ 10 * (f.mcDir + 8 * n) + 2 ^ 19 * f.op + 2 ^ 23 * f.plen) }

/-- A tunnel header is put in front of the body, R296. -/
def Frame.push (f : Frame) (way : Nat) : Frame :=
  { f with
    rh0 := frameRh0 way f.src (f.nest + 1) f.mc,
    blen := BitVec.ofNat 8 (f.blen.toNat + 16),
    body := pad224 (leBytes 16 f.dst ++ f.body) }

/-- The first tunnel header is taken off, R297. -/
def Frame.pop (f : Frame) : Frame :=
  { f with
    rh0 := frameRh0 (leNat (f.body.take 2) % 2 ^ 14) f.src (f.nest - 1) f.mc,
    blen := BitVec.ofNat 8 (f.blen.toNat - 16),
    body := pad224 (f.body.drop 16) }

/-- The node a frame is finally for: the innermost DST. -/
def Frame.finalDst (f : Frame) : Nat :=
  if f.nest = 0 then f.dst else leNat ((f.body.drop (16 * (f.nest - 1))).take 2) % 2 ^ 14

end Sys2Proof

namespace Sys2Proof.Machine

/-! ### Links -/

def lDark : Nat := 0
def lLight : Nat := 1
def lSpeak : Nat := 2
def lLock : Nat := 3
def lEqualise : Nat := 4
def lAlign : Nat := 5
def lIdent : Nat := 6
def lLatency : Nat := 7
def lUp : Nat := 8
def lUpHeld : Nat := 9
def lDown : Nat := 10
def lL1 : Nat := 11
def lL2 : Nat := 12
def lHold : Nat := 13

def Dev.link (d : Dev) (l : Nat) : Link := mget {} d.links l
def Dev.setLink (l : Nat) (k : Link) (d : Dev) : Dev := { d with links := mset {} d.links l k }
def Dev.modLink (l : Nat) (f : Link → Link) (d : Dev) : Dev := d.setLink l (f (d.link l))

def Dev.lnkState (d : Dev) (l : Nat) : Nat := d.get (Reg.LNK_STATUS.STATE l)

/-- A link changes state; FAB_STATUS.LINKS follows (R298). -/
def Dev.setLnkState (l st : Nat) (d : Dev) : Dev :=
  let d := d.set (Reg.LNK_STATUS.STATE l) st
  let m := d.get Reg.FAB_STATUS.LINKS
  d.set Reg.FAB_STATUS.LINKS (if st = lUp then m ||| 2 ^ l else m - (if m.testBit l then 2 ^ l else 0))

/-- The state of a link's sender: HOLD is the receiver's, and the sender goes on as before (R260). -/
def Dev.sendState (d : Dev) (l : Nat) : Nat := if d.lnkState l = lHold then (d.link l).heldFrom else d.lnkState l

/-- The link sends frames: its sender is in UP, UP_HELD or L1. -/
def Dev.linkSends (d : Dev) (l : Nat) : Bool :=
  let s := d.sendState l
  decide (s = lUp) || decide (s = lUpHeld) || decide (s = lL1)

def Dev.linkUsed (d : Dev) (l : Nat) : Bool := d.usedLinks.testBit l

/-- The link carries CTRL frames: UP, UP_HELD or L1. -/
def Dev.linkCarries (d : Dev) (l : Nat) : Bool :=
  let s := d.lnkState l
  decide (s = lUp) || decide (s = lUpHeld) || decide (s = lL1)

/-- The node at the other end of a link by the link plan, R32 and R272. -/
def Dev.linkPeer (d : Dev) (l : Nat) : Nat := d.neighbour d.node (l / 3)

/-- A CTRL frame's body waits for a link. -/
def Dev.sendCtrl (l : Nat) (body : List Byte) (d : Dev) : Dev := d.modLink l fun k => { k with ctl := k.ctl ++ [body] }

/-- The body of a notice, R354. -/
def Notice.body (n : Notice) : List Byte :=
  leBytes 1 3 ++ leBytes 1 n.kind ++ leBytes 1 n.dir ++ leBytes 1 n.flags ++ leBytes 2 n.subject ++ leBytes 2 n.blk ++ leBytes 8 n.stamp
    ++ leBytes 4 n.round ++ leBytes 2 n.code ++ leBytes 2 n.plan ++ leBytes 8 n.step ++ leBytes 4 n.cut ++ leBytes 12 0

/-- A notice goes out on every link to a peer of the block but the one it came from, R355. -/
def Dev.flood (n : Notice) (arrival : Option Nat) (d : Dev) : Dev :=
  (List.range 24).foldl (fun d l =>
    if d.linkCarries l && d.inBlock (d.linkPeer l) && decide (arrival ≠ some l) then d.sendCtrl l n.body else d) d

end Sys2Proof.Machine
end

