-- ==== Sys2Proof/Machine/Faults.lean ====
section
/-! DEFINITION. Faults: the codes of R351, the Gleaner queue (R372), the drain score (R369) and raising a fault of any class (R350). -/

namespace Sys2Proof.Machine

/-! ### Codes, R351 -/

def Flt.GEN_STG_REJECT : Nat := 0x0001
def Flt.GEN_LIVE_WRITE : Nat := 0x0002
def Flt.GEN_IMG_BAD : Nat := 0x5003
def Flt.GEN_SELFTEST : Nat := 0x5004
def Flt.GEN_MEMTEST : Nat := 0x5005
def Flt.PWR_INPUT_LOW : Nat := 0x2101
def Flt.PWR_THROTTLE : Nat := 0x0102
def Flt.PWR_RAIL : Nat := 0x5103
def Flt.PWR_TRIP : Nat := 0x5104
def Flt.SEQ_IMEM_CE : Nat := 0x1201
def Flt.SEQ_IMEM_UE : Nat := 0x4202
def Flt.SEQ_IMEM_CRC : Nat := 0x4203
def Flt.SEQ_ILLEGAL : Nat := 0x4204
def Flt.SEQ_ADDR : Nat := 0x4205
def Flt.LREC_MALFORMED : Nat := 0x4206
def Flt.SEQ_WDOG : Nat := 0x4207
def Flt.SEQ_WAIT_TIMEOUT : Nat := 0x4208
def Flt.IDX_MALFORMED : Nat := 0x4209
def Flt.SEQ_RESUME_BAD : Nat := 0x420A
def Flt.MXA_ACC_CE : Nat := 0x1301
def Flt.MXA_ACC_UE : Nat := 0x4302
def Flt.VEC_RF_CE : Nat := 0x1401
def Flt.VEC_RF_UE : Nat := 0x4402
def Flt.VEC_ADDR : Nat := 0x4403
def Flt.VEC_UNIT : Nat := 0x4404
def Flt.VEC_ILLEGAL : Nat := 0x4405
def Flt.DMA_XFER : Nat := 0x3501
def Flt.DMA_RING_HALT : Nat := 0x3502
def Flt.MEM_UNMAPPED : Nat := 0x4601
def Flt.CLM_CE : Nat := 0x1602
def Flt.CLM_UE : Nat := 0x4603
def Flt.CSM_CE : Nat := 0x1604
def Flt.CSM_UE : Nat := 0x4605
def Flt.GRN_CE : Nat := 0x1701
def Flt.GRN_LANE : Nat := 0x2702
def Flt.GRN_ROW : Nat := 0x2703
def Flt.GRN_UE : Nat := 0x4704
def Flt.RB_PARTIAL : Nat := 0x4801
def Flt.RB_LATE : Nat := 0x4802
def Flt.THR_GROUP_STATE : Nat := 0x4803
def Flt.THR_PARAM_BAD : Nat := 0x4804
def Flt.THR_DESC_BAD : Nat := 0x4805
def Flt.THR_UPD_NONFIN : Nat := 0x0806
def Flt.THR_MIR_FAIL : Nat := 0x4807
def Flt.THR_EXPORT_BAD : Nat := 0x4808
def Flt.THR_IMPORT_DIGEST : Nat := 0x4809
def Flt.THR_DIG_SPLIT : Nat := 0x480A
def Flt.GDM_CRC : Nat := 0x1901
def Flt.GDM_CE : Nat := 0x1902
def Flt.GDM_MARGIN : Nat := 0x2903
def Flt.GDM_UE : Nat := 0x4904
def Flt.LNK_SPARED : Nat := 0x1A01
def Flt.LNK_NARROW : Nat := 0x2A02
def Flt.LNK_STALL : Nat := 0x1A03
def Flt.LNK_MARGIN : Nat := 0x2A04
def Flt.LNK_DOWN : Nat := 0x3A05
def Flt.LNK_TRAIN_FAIL : Nat := 0x3A06
def Flt.LNK_WIRING : Nat := 0x3A07
def Flt.FAB_BLOCK_REJ : Nat := 0x3B01
def Flt.FAB_HDR_DROP : Nat := 0x3B02
def Flt.FAB_NEST_DROP : Nat := 0x3B03
def Flt.FAB_NOROUTE : Nat := 0x3B04
def Flt.FAB_REMOTE_DENIED : Nat := 0x3B05
def Flt.COL_ENTRY_BAD : Nat := 0x4C01
def Flt.GRID_E_MISMATCH : Nat := 0x4C02
def Flt.COL_STEP_MISMATCH : Nat := 0x4C03
def Flt.COL_OVERRUN : Nat := 0x4C04
def Flt.COL_STRAY : Nat := 0x4C05
def Flt.COL_HOLD_FULL : Nat := 0x4C06
def Flt.ORDER_CROSS : Nat := 0x4C07
def Flt.ORDER_STALL : Nat := 0x4C08
def Flt.COL_ABORTED : Nat := 0x4C09
def Flt.MTC_ROOT_TAKEOVER : Nat := 0x0D01
def Flt.MTC_OFFSET : Nat := 0x2D02
def Flt.MTC_HOLDOVER : Nat := 0x2D03
def Flt.MTC_UNSYNC : Nat := 0x4D04
def Flt.HB_LOST : Nat := 0x2E01
def Flt.HL_CUT : Nat := 0x3E02
def Flt.HL_NO_PLAN : Nat := 0x4E03
def Flt.HL_NO_MIRROR : Nat := 0x4E04
def Flt.HL_SPLIT : Nat := 0x4E05
def Flt.HL_STOP : Nat := 0x4E06
def Flt.FLT_HOST_DECIDES : Nat := 0x3E07
def Flt.GLN_LOST : Nat := 0x0E08
def Flt.FLT_DRAIN : Nat := 0x2E09
def Flt.GLN_SRAM : Nat := 0x2E0A
def Flt.FLT_VMARGIN : Nat := 0x2E0B
def Flt.FLT_TMARGIN : Nat := 0x2E0C
def Flt.FLT_DUMP_DONE : Nat := 0x0E0D
def Flt.HST_LINK_DOWN : Nat := 0x3F01
def Flt.HST_WIDTH : Nat := 0x2F02
def Flt.HST_CORR : Nat := 0x1F03
def Flt.HST_MEM_UE : Nat := 0x3F04

/-- Class of a fault code, R350. -/
def faultClass (code : Nat) : Nat := code / 4096

/-! ### MSI-X, R436 and R440 -/

/-- A vector is raised: sent, held pending while masked (or in D3hot: log entry 4), or lost while the link is not in L0. -/
def Dev.msix (v : Nat) (d : Dev) : Dev :=
  if !d.bit Reg.HST_STATUS.LINK_UP then d
  else if d.host.d3hot || !mget false d.host.unmasked v then
    { d with host := { d.host with msixPend := mset false d.host.msixPend v true } }
  else d.emit (.msix v)

/-- The FLT block's vector. -/
def Dev.fltMsix (d : Dev) : Dev := d.msix (d.get Reg.FLT_CTL.VEC)

/-- The HST block's vector, for an HST_ERR event. -/
def Dev.hstMsix (d : Dev) : Dev := d.msix (d.get Reg.HST_CTL.VEC)

/-- An event of the sideband event word, R450. -/
def Dev.sideEvent (b : Nat) (d : Dev) : Dev := { d with flt := { d.flt with events := d.flt.events ||| 2 ^ b } }

/-! ### The Gleaner queue, R371 and R372 -/

/-- An event, before it is recorded. -/
structure Ev where
  code : Nat
  source : Nat := 0
  tag : Nat := 0
  arg0 : Nat := 0
  arg1 : Nat := 0
  arg2 : Nat := 0
  deriving DecidableEq, Repr

/-- Two events are identical when CODE, SOURCE, TAG and ARG0 are equal. -/
def Ev.same (e : Ev) (r : GlnRec) : Bool :=
  decide (e.code = r.code) && decide (e.source = r.source) && decide (e.tag = r.tag) && decide (e.arg0 = r.arg0)

/-- The pending record with one event more: COUNT saturates. -/
def GlnRec.again (mt : Nat) (r : GlnRec) : GlnRec :=
  if r.count < 65535 then { r with count := r.count + 1, last := mt } else { r with rflags := r.rflags ||| 1, last := mt }

/-- The first matching pending record coalesces the event. -/
def coalesce (mt : Nat) (e : Ev) : List GlnRec → Option (List GlnRec)
  | [] => none
  | r :: rs => if e.same r then some (r.again mt :: rs) else (coalesce mt e rs).map (r :: ·)

/-- A record of one event. -/
def Ev.record (mt : Nat) (e : Ev) : GlnRec :=
  ⟨mt, mt, e.code, 1, 0, e.source, 0, e.tag, e.arg0, e.arg1, e.arg2⟩

/-- A lost event, R372. -/
def Dev.glnLost (code : Nat) (d : Dev) : Dev :=
  let d := if d.get Reg.FLT_GLN_LOST.COUNT = 0 then d.set Reg.FLT_GLN_LOST.CODE code else d
  let d := (d.addSat Reg.FLT_GLN_LOST.COUNT 1).setBit Reg.FLT_ERR.LOST true
  { d with flt := { d.flt with lostOwed := true } }

/-- Record an event: whether it opened a record or was lost (and not coalesced), and the state. -/
def Dev.logOpen (e : Ev) (d : Dev) : Bool × Dev :=
  match coalesce d.mt e d.flt.pend with
  | some p => (false, { d with flt := { d.flt with pend := p } })
  | none =>
    if d.flt.pend.length < 32 then (true, { d with flt := { d.flt with pend := d.flt.pend ++ [e.record d.mt] } })
    else (true, d.glnLost e.code)

/-- Record an event. -/
def Dev.log (e : Ev) (d : Dev) : Dev := (d.logOpen e).2

/-! ### The drain score, R369 -/

/-- Weight of a margin warning. -/
def drainWeight (code : Nat) : Nat :=
  if code = Flt.GRN_LANE then 50 else if code = Flt.GRN_ROW then 10 else if code = Flt.GDM_MARGIN then 20
  else if code = Flt.LNK_MARGIN then 10 else if code = Flt.LNK_NARROW then 40 else if code = Flt.PWR_INPUT_LOW then 5
  else if code = Flt.MTC_OFFSET then 20 else if code = Flt.MTC_HOLDOVER then 5
  else if code = Flt.FLT_VMARGIN ∨ code = Flt.FLT_TMARGIN then 30 else if code = Flt.HB_LOST then 20
  else if code = Flt.GLN_SRAM then 100 else if code = Flt.HST_WIDTH then 20 else 0

/-- The score from the hourly buckets. -/
def bucketSum (b : List Nat) : Nat := b.foldl (· + ·) 0

/-- DRAIN follows the score: set with its record and interrupt when the score reaches the limit, cleared below it. -/
def Dev.drainUpdate (d : Dev) : Dev :=
  let score := bucketSum d.flt.buckets
  let d := d.set Reg.FLT_DRAIN.SCORE (min score 65535)
  if d.get Reg.FLT_DRAIN.LIMIT ≤ score then
    if d.bit Reg.FLT_STATUS.DRAIN then d
    else (((d.setBit Reg.FLT_STATUS.DRAIN true).log { code := Flt.FLT_DRAIN }).fltMsix).sideEvent 2
  else d.setBit Reg.FLT_STATUS.DRAIN false

/-- A margin warning adds its weight to the current hour. -/
def Dev.addWeight (w : Nat) (d : Dev) : Dev :=
  let b := match d.flt.buckets with
    | [] => [w]
    | h :: r => (h + w) :: r
  Dev.drainUpdate { d with flt := { d.flt with buckets := b } }

/-! ### Raising a fault, R350 -/

/-- The collective unit stops its script (R319 step 1): the current entry and the held records go. -/
def Dev.colStop (d : Dev) : Dev :=
  let d := { d with col := { d.col with entry := none, held := [], sendq := [] } }
  ((d.setBit Reg.COL_STATUS.BUSY false).setBit Reg.COL_STATUS.STOPPED true).set Reg.COL_STATUS.HELD 0

/-- HL states, R356. -/
def hlIdle : Nat := 0
def hlCollect : Nat := 1
def hlSettle : Nat := 2
def hlConfirm : Nat := 3
def hlStopped : Nat := 4

/-- The round is abandoned (R362): what the plan loader staged is given up with it. -/
def Dev.roundDrop (d : Dev) : Dev :=
  let d : Dev := { d with hl := { d.hl with
    notices := d.hl.notices.filter fun n => decide (3 ≤ n.kind), held := [], tmin := none, failed := [], plan := none, imageOk := false,
    progs := [], writes := [], clears := [] } }
  if d.stg.hold then
    Dev.set Reg.STG_STATUS.STATE 0 { d with shadow := [], stg := { d.stg with hold := false, target := none, late := false } }
  else d

/-- What a module does on any STOP, R362: the round abandoned, the script stopped, every core quiesced (in G1 the request
wakes the module, R423), STOPPED, the record and the interrupt; the plan loader gives STG back (R394). -/
def Dev.enterStopped (record : Ev) (d : Dev) : Dev :=
  let d := if d.gliding then d.wake else d
  let d := d.roundDrop.colStop
  let d := (List.range 64).foldl (fun d c => d.quiesceCore c) d
  (((d.set Reg.FLT_STATUS.HL hlStopped).setBit Reg.FLT_ERR.STOP true).log record).fltMsix

/-- STOP for a fault that this module raised (R362): flooded and acted on, unless the module is already STOPPED. -/
def Dev.stopJob (e : Ev) (d : Dev) : Dev :=
  if d.get Reg.FLT_STATUS.HL = hlStopped then d
  else
    let n : Notice := ⟨3, 0, if d.bit Reg.FLT_CTL.POLICY then 2 else 0, d.node, d.get Reg.FAB_BLOCK_ID, d.mt, d.hl.round, e.code, 0, 0, 0⟩
    let d := Dev.flood n none { d with hl := { d.hl with notices := d.hl.notices ++ [n] } }
    d.enterStopped { code := Flt.HL_STOP, arg0 := e.code, arg1 := d.node }

/-- Withdrawal on a module-fatal fault (R352, R375): HSTATE becomes 1 and the steward begins the dump; a second one changes nothing. -/
def Dev.withdraw (code : Nat) (d : Dev) : Dev :=
  match d.flt.fatal with
  | some _ => d
  | none => { d with flt := { d.flt with fatal := some (code, d.mt), dumping := true } }

/-- Raise a fault: what its class makes the module do, besides the record. -/
def Dev.raise (e : Ev) (d : Dev) : Dev :=
  let (opened, d) := d.logOpen e
  match faultClass e.code with
  | 2 => if opened then d.addWeight (drainWeight e.code) else d
  | 3 => if d.bit Reg.FLT_CTL.INT3 then d.fltMsix else d
  | 4 => d.stopJob e
  | 5 => d.withdraw e.code
  | _ => d

/-- The last warning of a monitor lies an hour back, or there was none. -/
def Dev.warnDue (d : Dev) (mon code : Nat) : Bool :=
  let last := mget 0 d.flt.rate (mon * 65536 + code)
  decide (last = 0) || decide (last - 1 + 3600000000 * ticksPerUs ≤ d.mt)

/-- A margin warning limited to one per monitor per hour, R367. `mon` tells the monitors of one code apart. -/
def Dev.warnHourly (mon : Nat) (e : Ev) (d : Dev) : Dev :=
  if !d.warnDue mon e.code then d
  else Dev.raise e { d with flt := { d.flt with rate := mset 0 d.flt.rate (mon * 65536 + e.code) (d.mt + 1) } }

end Sys2Proof.Machine
end

