-- ==== Sys2Proof/Machine/Operands.lean ====
section
/-! DEFINITION. Operand forms: the fields of a sequencer word (R132), the S registers it names and the hazards of R122, the fields
of a vector word (R108), and the checked accesses of a core to its own CLM (R136, R186). -/

namespace Sys2Proof.Machine

/-! ### Sequencer words, R132 -/

def wClass (w : Nat) : Nat := bitsOf w 62 2
def wOp (w : Nat) : Nat := bitsOf w 56 6
def wRd (w : Nat) : Nat := bitsOf w 51 5
def wRa (w : Nat) : Nat := bitsOf w 46 5
def wRb (w : Nat) : Nat := bitsOf w 41 5
def wLc (w : Nat) : Nat := bitsOf w 38 3
def wRes (w : Nat) : Nat := bitsOf w 32 6
def wImm (w : Nat) : Nat := bitsOf w 0 32
/-- The branch target. -/
def wTarget (w : Nat) : Nat := bitsOf w 0 12

/-- A field of `n` bits sign-extended to 64 bits. -/
def sext64 (n v : Nat) : Nat := intBits 64 (bitsInt n v)

/-- Operation codes of R133 that the table lists. -/
def seqOps : List Nat :=
  [0x01, 0x02, 0x03, 0x04, 0x05, 0x06, 0x07, 0x08, 0x09, 0x0A, 0x0B, 0x10, 0x11, 0x12, 0x13, 0x18, 0x19, 0x1A, 0x1B, 0x1C, 0x1D,
   0x1E, 0x1F, 0x20, 0x21, 0x28, 0x29, 0x2A, 0x2C, 0x2D, 0x2E, 0x2F, 0x30, 0x31, 0x32, 0x34, 0x35, 0x36, 0x38, 0x39, 0x3A, 0x3B, 0x3C]

def opNop : Nat := 0x3B

/-! ### Vector words, R108 -/

def vOp (w : Nat) : Nat := bitsOf w 56 6
def vVd (w : Nat) : Nat := bitsOf w 51 5
def vVa (w : Nat) : Nat := bitsOf w 46 5
def vVb (w : Nat) : Nat := bitsOf w 41 5
def vVc (w : Nat) : Nat := bitsOf w 36 5
def vMsk (w : Nat) : Nat := bitsOf w 33 3
def vMen (w : Nat) : Bool := w.testBit 32
def vZm (w : Nat) : Bool := w.testBit 31
def vTyp (w : Nat) : Nat := bitsOf w 28 3
def vRnd (w : Nat) : Nat := bitsOf w 26 2
def vSat (w : Nat) : Bool := w.testBit 25
def vSa (w : Nat) : Nat := bitsOf w 20 5
def vBs (w : Nat) : Bool := w.testBit 19
def vImm (w : Nat) : Nat := bitsOf w 0 19

/-- The S register that a queued vector word will write, if any (R109, R122). -/
def vWritesS (w : Nat) : Option Nat :=
  if vOp w = 0x23 ∨ vOp w = 0x38 ∨ vOp w = 0x39 ∨ vOp w = 0x3A ∨ vOp w = 0x3B ∨ vOp w = 0x3C then some (vVd w)
  else if vOp w = 0x32 then some (vSa w) else none

/-- An S register has a vector result outstanding, R122. -/
def Core.outstanding (k : Core) (n : Nat) : Bool := k.vq.any fun w => vWritesS w.toNat == some n

/-! ### Faults of a core -/

/-- The sequencer enters FAULT: a command in progress ends with CMP_STATUS = 3 and the code, and queued vector words are discarded (R133, R143).
A quiesce that was being served is acknowledged by R152. -/
def Dev.seqEnd (c code tag : Nat) (d : Dev) : Dev :=
  let k := d.core c
  let d := d.trace c 11 tag code k.pc
  let d := match k.cmd with
    | some m => d.cmpStatus c m.recOff 3 false code
    | none => d
  let hadArrays := (k.cmd.map fun m => recUseMxa m.record).getD false
  let d := d.modCore c fun k =>
    { k with seq := .fault, cmd := none, vq := [], lstartWait := false, draining := false, tileOwed := false,
             wActive := none, wShadow := none, sbOld := k.sb.length + k.sbWait.length,
             chain := if hadArrays then none else k.chain }
  let d := d.setBit (Reg.CORE_SEQ_ERR.FAULT c) true
  let d := if hadArrays then (d.mxaShow c).setBit (Reg.CORE_MXA_STATUS.KEPT c) false else d
  if d.bit (Reg.CORE_SEQ_CTRL.QREQ c) then (d.setBit (Reg.CORE_SEQ_CTRL.QREQ c) false).writeResume c else d

/-- The sequencer enters FAULT and the job-fatal fault is raised with a tag. -/
def Dev.seqFaultTag (c code tag arg0 : Nat) (d : Dev) : Dev :=
  (d.seqEnd c code tag).raise { code := code, source := c, tag := tag, arg0 := arg0 }

/-- The sequencer enters FAULT with the tag of the command in progress. -/
def Dev.seqFault (c code arg0 : Nat) (d : Dev) : Dev := d.seqFaultTag c code (d.core c).tagNow arg0

/-! ### CLM accesses with ECC, R186 -/

/-- A corrected word of a core's CLM is logged. -/
def Dev.clmCorrected (c off n : Nat) (d : Dev) : Dev :=
  if d.sramMark (clmPlace c off) n = 1 then
    d.raise { code := Flt.CLM_CE, source := c, tag := (d.core c).tagNow, arg0 := clmAddr c off } else d

/-- Whether a range of a core's CLM holds an uncorrectable word. -/
def Dev.clmUe (d : Dev) (c off n : Nat) : Bool := decide (d.sramMark (clmPlace c off) n = 2)

/-- Reads of several spans (offset and length) of a core's CLM by one of its engines: an uncorrectable word raises CLM_UE in their
place, a corrected one is logged. -/
def Dev.clmReads (c : Nat) (spans : Dev → List (Nat × Nat)) (body : Dev → Dev) (d : Dev) : Dev :=
  if d.sramEcc = [] then body d
  else match (spans d).find? fun p => d.clmUe c p.1 p.2 with
    | some p => d.seqFault c Flt.CLM_UE (clmAddr c p.1)
    | none => body ((spans d).foldl (fun d p => d.clmCorrected c p.1 p.2) d)

end Sys2Proof.Machine
end

