-- ==== Sys2Proof/Machine/Seq.lean ====
section
/-! DEFINITION. The core sequencer: issue of a word (R127, R131 to R136), layer commands (R137 to R144), events and waits (R145 to
R147), start, quiesce and resume (R128 to R130, R152 to R155), and the trace and counter commands. -/

namespace Sys2Proof.Machine

/-! ### Issue -/

/-- Next word. -/
def Core.next (k : Core) : Core := { k with pc := (k.pc + 1) % 4096 }

def Dev.nextPc (c : Nat) (d : Dev) : Dev := d.modCore c Core.next

/-- The word at the program counter lies in the program, R131. -/
def Core.inProg (k : Core) : Bool := decide (1 ≤ k.pc) && decide (k.pc ≤ k.progLen k.bank)

/-- The word at the program counter. -/
def Core.word (k : Core) : Nat := k.imem k.bank k.pc

/-- The sequencer may issue: RUN, with no LSTART stalled. -/
def Core.issuing (k : Core) : Bool := decide (k.seq = .run) && !k.lstartWait

/-- The word at the program counter is a row's: a scalar word of its operation. NOP's row also stands for every word that
is no row's and for a fetch outside the program, which are illegal (R131, R132; log entry 5). -/
def Core.atOp (k : Core) (op : Nat) : Bool :=
  let w := k.word
  if k.inProg then
    (decide (wClass w = 0) && decide (wOp w = op))
      || (decide (op = opNop) && (decide (wClass w = 1) || decide (wClass w = 2) || (decide (wClass w = 0) && !seqOps.contains (wOp w))))
  else decide (op = opNop)

/-- What the model keeps of a word that reads with an error. -/
def eccMark (e : WordEcc) : Nat :=
  match e with
  | .good => 0
  | .corrected => 1
  | .uncorrectable => 2

/-- An error that has arisen in a word of a bank: it stays until the word is written. -/
def Core.imemUpset (bank : Bool) (w : Nat) (e : WordEcc) (k : Core) : Core :=
  let key := (if bank then 4096 else 0) + w
  { k with imemEcc := mset 0 k.imemEcc key (max (mget 0 k.imemEcc key) (eccMark e)) }

/-- The fetch's ECC, R127, with the error that has arisen in the word: the state after it and whether the word was read. -/
def Dev.fetchEcc (c : Nat) (ecc : WordEcc) (d : Dev) : Bool × Dev :=
  let d := if ecc = .good then d else d.modCore c fun k => k.imemUpset k.bank k.pc ecc
  let k := d.core c
  match mget 0 k.imemEcc ((if k.bank then 4096 else 0) + k.pc) with
  | 2 => (false, d.seqFault c Flt.SEQ_IMEM_UE k.pc)
  | 1 => (true, d.raise { code := Flt.SEQ_IMEM_CE, source := c, tag := k.tagNow, arg0 := k.pc })
  | _ => (true, d)

/-- Issue of the word at the program counter if it is the row's: a stall while an S register it names has a vector result
outstanding (R122), the ECC of the fetch, the legality of R133, then its effect. -/
def Dev.issue (c : Nat) (ecc : WordEcc) (op : Nat) (uses : Nat → List Nat) (legal : Nat → Bool) (body : Nat → Dev → Dev) (d : Dev) : Dev :=
  let k := d.core c
  let w := k.word
  if !d.coreOn || !k.issuing || !k.atOp op then d
  else if (uses w).any k.outstanding then d
  else
    let (ok, d') := d.fetchEcc c ecc
    if !ok then d'
    else if !k.inProg || decide (wClass w ≠ 0) || decide (wOp w ≠ op) || decide (wRes w ≠ 0) || !legal w then
      d'.seqFault c Flt.SEQ_ILLEGAL k.pc
    else body w d'

def anyWord (_ : Nat) : Bool := true
def usesAlu (w : Nat) : List Nat := [wRd w, wRa w, wRb w]
def usesRdRa (w : Nat) : List Nat := [wRd w, wRa w]
def usesRaRb (w : Nat) : List Nat := [wRa w, wRb w]
def usesRa (w : Nat) : List Nat := [wRa w]
def usesRd (w : Nat) : List Nat := [wRd w]
def usesNone (_ : Nat) : List Nat := []

/-! ### Arithmetic, R133 -/

/-- S[RD] = f(S[RA], S[RB]), 64-bit. -/
def Dev.alu (c : Nat) (ecc : WordEcc) (op : Nat) (f : Nat → Nat → Nat) (d : Dev) : Dev :=
  d.issue c ecc op usesAlu anyWord fun w d =>
    d.modCore c fun k => (k.setS (wRd w) (f (k.s (wRa w)) (k.s (wRb w)))).next

def sub64 (a b : Nat) : Nat := (a + 2 ^ 64 - b) % 2 ^ 64
def sar64 (a b : Nat) : Nat := intBits 64 ((bitsInt 64 a) / (2 ^ (b % 64) : Nat))

def execAdd (c : CoreId) (ecc : WordEcc) (s : State) : Out := s.does (Dev.alu c ecc 0x01 fun a b => a + b)
def execSub (c : CoreId) (ecc : WordEcc) (s : State) : Out := s.does (Dev.alu c ecc 0x02 sub64)
def execAndW (c : CoreId) (ecc : WordEcc) (s : State) : Out := s.does (Dev.alu c ecc 0x03 fun a b => a &&& b)
def execOrW (c : CoreId) (ecc : WordEcc) (s : State) : Out := s.does (Dev.alu c ecc 0x04 fun a b => a ||| b)
def execXorW (c : CoreId) (ecc : WordEcc) (s : State) : Out := s.does (Dev.alu c ecc 0x05 fun a b => a ^^^ b)
def execShl (c : CoreId) (ecc : WordEcc) (s : State) : Out := s.does (Dev.alu c ecc 0x06 fun a b => a <<< (b % 64))
def execShr (c : CoreId) (ecc : WordEcc) (s : State) : Out := s.does (Dev.alu c ecc 0x07 fun a b => a >>> (b % 64))
def execSar (c : CoreId) (ecc : WordEcc) (s : State) : Out := s.does (Dev.alu c ecc 0x08 sar64)
def execMul (c : CoreId) (ecc : WordEcc) (s : State) : Out := s.does (Dev.alu c ecc 0x09 fun a b => a * b)

def execAddi (c : CoreId) (ecc : WordEcc) (s : State) : Out :=
  s.does (Dev.issue c ecc 0x0A usesRdRa anyWord fun w d =>
    d.modCore c fun k => (k.setS (wRd w) (k.s (wRa w) + sext64 32 (wImm w))).next)

def execLdi (c : CoreId) (ecc : WordEcc) (s : State) : Out :=
  s.does (Dev.issue c ecc 0x0B usesRd anyWord fun w d =>
    d.modCore c fun k => (k.setS (wRd w) (sext64 32 (wImm w))).next)

/-! ### Scalar loads and stores, R136 -/

/-- The CLM offset of a scalar access. -/
def Core.slAddr (k : Core) (w : Nat) : Nat := (k.s (wRa w) + sext64 32 (wImm w)) % 2 ^ 64

/-- An access of `n` bytes is aligned and lies below 3 MiB. -/
def slOk (a n : Nat) : Bool := decide (a % n = 0) && decide (a + n ≤ clmSize)

def Dev.scalarLoad (c : Nat) (ecc : WordEcc) (op n : Nat) (d : Dev) : Dev :=
  d.issue c ecc op usesRdRa anyWord fun w d =>
    let a := (d.core c).slAddr w
    if !slOk a n then d.seqFault c Flt.SEQ_ADDR a
    else if d.clmUe c a n then d.seqFault c Flt.CLM_UE (clmAddr c a)
    else (d.clmCorrected c a n).modCore c fun k => (k.setS (wRd w) (d.clmNat c a n)).next

/-- The data of a store is S[RB] (log entry 6). -/
def Dev.scalarStore (c : Nat) (ecc : WordEcc) (op n : Nat) (d : Dev) : Dev :=
  d.issue c ecc op usesRaRb anyWord fun w d =>
    let k := d.core c
    let a := k.slAddr w
    if !slOk a n then d.seqFault c Flt.SEQ_ADDR a
    else (d.setClm c a (leBytes n (k.s (wRb w)))).nextPc c

def execSld (c : CoreId) (ecc : WordEcc) (s : State) : Out := s.does (Dev.scalarLoad c ecc 0x10 8)
def execSst (c : CoreId) (ecc : WordEcc) (s : State) : Out := s.does (Dev.scalarStore c ecc 0x11 8)
def execSldw (c : CoreId) (ecc : WordEcc) (s : State) : Out := s.does (Dev.scalarLoad c ecc 0x12 4)
def execSstw (c : CoreId) (ecc : WordEcc) (s : State) : Out := s.does (Dev.scalarStore c ecc 0x13 4)

/-! ### Branches and loops -/

/-- Branch if a condition on S[RA] and S[RB] holds. -/
def Dev.branch (c : Nat) (ecc : WordEcc) (op : Nat) (cond : Nat → Nat → Bool) (d : Dev) : Dev :=
  d.issue c ecc op usesRaRb anyWord fun w d =>
    d.modCore c fun k => if cond (k.s (wRa w)) (k.s (wRb w)) then { k with pc := wTarget w } else k.next

/-- Comparison of two FP32 patterns; a NaN answers false. -/
def fp32Cmp (f : Int → Bool) (a b : Nat) : Bool :=
  let x := fp32.decode (a % 2 ^ 32)
  let y := fp32.decode (b % 2 ^ 32)
  !x.isNan && !y.isNan && f (Val.cmp x y)

def execBr (c : CoreId) (ecc : WordEcc) (s : State) : Out :=
  s.does (Dev.issue c ecc 0x18 usesNone anyWord fun w d => d.modCore c fun k => { k with pc := wTarget w })
def execBeq (c : CoreId) (ecc : WordEcc) (s : State) : Out := s.does (Dev.branch c ecc 0x19 fun a b => decide (a = b))
def execBne (c : CoreId) (ecc : WordEcc) (s : State) : Out := s.does (Dev.branch c ecc 0x1A fun a b => decide (a ≠ b))
def execBlt (c : CoreId) (ecc : WordEcc) (s : State) : Out := s.does (Dev.branch c ecc 0x1B fun a b => decide (bitsInt 64 a < bitsInt 64 b))
def execBge (c : CoreId) (ecc : WordEcc) (s : State) : Out := s.does (Dev.branch c ecc 0x1C fun a b => decide (bitsInt 64 b ≤ bitsInt 64 a))
def execBltu (c : CoreId) (ecc : WordEcc) (s : State) : Out := s.does (Dev.branch c ecc 0x1D fun a b => decide (a < b))
def execFblt (c : CoreId) (ecc : WordEcc) (s : State) : Out := s.does (Dev.branch c ecc 0x1E (fp32Cmp fun x => decide (x < 0)))
def execFbge (c : CoreId) (ecc : WordEcc) (s : State) : Out := s.does (Dev.branch c ecc 0x1F (fp32Cmp fun x => decide (0 ≤ x)))

def execLoopW (c : CoreId) (ecc : WordEcc) (s : State) : Out :=
  s.does (Dev.issue c ecc 0x20 usesRa anyWord fun w d => d.modCore c fun k =>
    let n := k.s (wRa w) % 2 ^ 32
    let k := { k with loops := mset 0 k.loops (wLc w) n }
    if n = 0 then { k with pc := wTarget w } else k.next)

def execEndl (c : CoreId) (ecc : WordEcc) (s : State) : Out :=
  s.does (Dev.issue c ecc 0x21 usesNone anyWord fun w d => d.modCore c fun k =>
    let n := (mget 0 k.loops (wLc w) + 2 ^ 32 - 1) % 2 ^ 32
    let k := { k with loops := mset 0 k.loops (wLc w) n }
    if n = 0 then k.next else { k with pc := wTarget w })

/-! ### Layer commands -/

/-- Parts 2 to 4 of R138 for a record that was snapshotted. The snapshot and the check take 24 cycles for every record, after which an array part
starts; a change of pipe B's role takes 32 (R115, R158). -/
def Dev.openLayer (c off tag : Nat) (r : List Byte) (d : Dev) : Dev :=
  let d := d.modCore c fun k => { k with progMsg := k.progMsg ++ r.take 0xE8 }
  if !recOk c (d.core c).chain off r then
    (d.cmpStatus c off 3 false Flt.LREC_MALFORMED).seqFaultTag c Flt.LREC_MALFORMED tag off
  else
    let a := arrRec r
    let d := (d.set (Reg.CORE_SEQ_NFCOUNT.COUNT c) 0).cmpStatus c off 0 false 0
    let d := d.trace c 1 tag (recField r 0x04 4) off
    let d := if recUseMxa r then d.set (Reg.CORE_MXA_STATUS.MODE c) a.mode else d
    d.modCore c fun k =>
      let cu := (recVecCtl r).testBit 0
      let k := if recUseVec r then
          { k with vl := 1024, srTid := 0, srBase := 0, srStep := 0, cu := cu, cuSwitch := if cu = k.cu then 0 else 32 } else k
      { k.next with
        lstartWait := false,
        cmd := some
          { record := r, recOff := off, tag := tag, step := d.get64 (Reg.CORE_SEQ_STEP_LO.STEP c), isOpen := true, cycles := 0,
            startIn := 24, flags := 0, scanDue := recUseMxa r && a.isInt && a.hasMx,
            intAcc := recUseMxa r && a.isInt && !a.hasMx, ntile := 0, pass := 0, kchunk := 0, due := [], spilled := false,
            kept := false } }

/-- LSTART proceeds: the snapshot, the tag and the check of the record (R138, R144). -/
def Dev.lstartGo (c w : Nat) (d : Dev) : Dev :=
  let k := d.core c
  let off := k.s (wRa w) % 2 ^ 22
  let tag := k.progId k.bank * 2 ^ 20 + wImm w % 2 ^ 20
  let d := d.set (Reg.CORE_SEQ_TAG.TAG c) tag
  if clmSize < off + 256 then d.seqFaultTag c Flt.LREC_MALFORMED tag off
  else if d.clmUe c off 256 then d.seqFaultTag c Flt.CLM_UE tag (clmAddr c off)
  else (d.clmCorrected c off 256).openLayer c off tag (d.clm c off 256)

/-- The previous command has completed and no entry of COLGO holds the core, R138 and R147. -/
def Core.lstartFree (k : Core) : Bool := k.cmd.isNone && decide (k.colgo = [])

/-- A command is open: LSTART has issued and LEND has not. -/
def Core.isOpen (k : Core) : Bool := (k.cmd.map LayerCmd.isOpen).getD false

def execLstart (c : CoreId) (ecc : WordEcc) (s : State) : Out :=
  s.does (Dev.issue c ecc 0x28 usesRa anyWord fun w d =>
    let k := d.core c
    if k.isOpen || decide (wImm w % 2 ^ 20 = 0) then d.seqFault c Flt.SEQ_ILLEGAL k.pc
    else if k.lstartFree then d.lstartGo c w
    else d.modCore c fun k => { k with lstartWait := true })

def execLstartProceed (c : CoreId) (s : State) : Out :=
  s.does fun d =>
    let k := d.core c
    if d.coreOn && decide (k.seq = .run) && k.lstartWait && k.lstartFree then d.lstartGo c k.word else d

def execLend (c : CoreId) (ecc : WordEcc) (s : State) : Out :=
  s.does (Dev.issue c ecc 0x29 usesNone anyWord fun _ d =>
    let k := d.core c
    if k.isOpen then d.modCore c fun k => { k.next with cmd := k.cmd.map fun m => { m with isOpen := false } }
    else d.seqFault c Flt.SEQ_ILLEGAL k.pc)

/-- The vector side has drained, R124. -/
def Core.vecEmpty (k : Core) : Bool :=
  decide (k.vq = []) && decide (k.sb = []) && decide (k.sbWait = []) && k.loadStall.isNone

/-- A command meets every condition of R142. -/
def Core.canComplete (k : Core) (m : LayerCmd) : Bool := !m.isOpen && m.arraysDone && k.vecEmpty

/-- What the array keeps of a completed array command, R95. -/
def chainOf (m : LayerCmd) : ArrayChain :=
  let a := arrRec m.record
  ⟨a.mode, a.m, a.n, a.afmt, a.wfmt, m.intAcc, a.kBase + a.k, decide (a.k % (a.depth * a.lanes) = 0), !a.writeOut⟩

/-- Completion of a command, R142. -/
def Dev.complete (c : Nat) (m : LayerCmd) (d : Dev) : Dev :=
  let mxa := recUseMxa m.record
  let kept := mxa && !(arrRec m.record).writeOut
  let cyc := min m.cycles 0xFFFFFFFF
  let nf := d.get (Reg.CORE_SEQ_NFCOUNT.COUNT c)
  let d := (d.cmpArea c m).cmpStatus c m.recOff 1 kept 0
  let d := (d.setEvent c (recEvtDone m.record)).trace c 2 m.tag (1 + (if kept then 256 else 0)) (cyc + 2 ^ 32 * nf)
  let d := d.modCore c fun k =>
    { k with cmd := none, tileOwed := false, wActive := none, wShadow := none, chain := if mxa then some (chainOf m) else k.chain }
  if mxa then (d.mxaShow c).setBit (Reg.CORE_MXA_STATUS.KEPT c) kept else d

def execLayerComplete (c : CoreId) (s : State) : Out :=
  s.does fun d =>
    let k := d.core c
    match k.cmd with
    | some m => if d.coreOn && decide (k.seq ≠ .quiesced) && k.canComplete m then d.complete c m else d
    | none => d

def execSeqWdog (c : CoreId) (s : State) : Out :=
  s.does fun d =>
    let k := d.core c
    match k.cmd with
    | some m => if d.coreOn && decide (k.seq ≠ .quiesced) && decide (recWdog m.record ≠ 0) then d.seqFault c Flt.SEQ_WDOG m.recOff else d
    | none => d

/-! ### Waits, R146 and R147 -/

/-- Whether the condition of a waiting word holds. -/
def Dev.waitDone (d : Dev) (c w : Nat) : Bool :=
  let k := d.core c
  if wOp w = 0x2A then k.cmd.isNone
  else if wOp w = 0x2D then d.event c (wImm w % 64)
  else if wOp w = 0x36 then decide (k.ixq = [])
  else if wOp w = 0x30 then k.cmd.isNone
  else if wOp w = 0x31 then !k.colgo.contains (k.s (wRa w))
  else if wOp w = 0x3C then k.cmd.isNone && decide (k.ixq = [])
  else false

/-- A start request, R130. -/
def Dev.startReq (c : Nat) (d : Dev) : Dev :=
  let k := d.core c
  if k.seq = .idle ∨ k.seq = .halted ∨ k.seq = .quiesced then d.setCore c { k with prev := k.seq, seq := .loadchk }
  else d.setBit (Reg.CORE_SEQ_ERR.START_REJ c) true

/-- What a wait word does when its condition holds. -/
def Dev.waitEnd (c w : Nat) (d : Dev) : Dev :=
  let k := d.core c
  let run (d : Dev) : Dev := d.modCore c fun k => { k.next with seq := .run }
  if wOp w = 0x2D then run (if (wImm w).testBit 8 then d.clearEvent c (wImm w % 64) else d)
  else if wOp w = 0x30 then
    (run (d.traceCmd c 6 (k.s (wRa w)) 0)).modCore c fun k => { k with colgo := k.colgo ++ [k.s (wRa w)] }
  else if wOp w = 0x31 then run (d.traceCmd c 7 (k.s (wRa w)) 0)
  else if wOp w = 0x3C then
    let d := d.traceCmd c 13 (k.progId k.bank) k.pc
    let d := d.modCore c fun k => { k.next with seq := .halted }
    if (wImm w).testBit 0 then d.startReq c else d
  else run d

/-- The operand that trace entries 4 and 5 carry: an event number, a script entry or a target, else 0. -/
def Core.waitOperand (k : Core) (w : Nat) : Nat :=
  if wOp w = 0x2D then wImm w % 64 else if wOp w = 0x30 ∨ wOp w = 0x31 ∨ wOp w = 0x2C then k.s (wRa w) else 0

/-- A wait word issues: it ends at once, or the sequencer waits and the program counter stays. -/
def Dev.waitIssue (c : Nat) (ecc : WordEcc) (op : Nat) (uses : Nat → List Nat) (legal : Nat → Bool) (d : Dev) : Dev :=
  d.issue c ecc op uses legal fun w d =>
    if d.waitDone c w then d.waitEnd c w
    else (d.traceCmd c 4 op ((d.core c).waitOperand w)).modCore c fun k => { k with seq := .wait }

def execLwait (c : CoreId) (ecc : WordEcc) (s : State) : Out := s.does (Dev.waitIssue c ecc 0x2A usesNone anyWord)
def execWaitev (c : CoreId) (ecc : WordEcc) (s : State) : Out := s.does (Dev.waitIssue c ecc 0x2D usesNone anyWord)
def execIxwait (c : CoreId) (ecc : WordEcc) (s : State) : Out := s.does (Dev.waitIssue c ecc 0x36 usesNone anyWord)
def execColwait (c : CoreId) (ecc : WordEcc) (s : State) : Out := s.does (Dev.waitIssue c ecc 0x31 usesRa anyWord)
def execHalt (c : CoreId) (ecc : WordEcc) (s : State) : Out := s.does (Dev.waitIssue c ecc 0x3C usesNone anyWord)

/-- COLGO while a command is open is illegal, R147. -/
def execColgo (c : CoreId) (ecc : WordEcc) (s : State) : Out :=
  s.does fun d => d.waitIssue c ecc 0x30 usesRa fun _ => !(d.core c).isOpen

/-- A target rounded up to a multiple of 16 ticks, R337. -/
def roundTarget (t : Nat) : Nat := ceilDiv t 16 * 16

/-- A late wait, R146. -/
def Dev.lateWait (c : Nat) (d : Dev) : Dev := d.flag (Reg.CORE_SEQ_ERR.LATE c) (Reg.CORE_SEQ_ERR.LATE_CNT c)

def execWaitmt (c : CoreId) (ecc : WordEcc) (s : State) : Out :=
  s.does (Dev.issue c ecc 0x2C usesRa anyWord fun w d =>
    let t := roundTarget ((d.core c).s (wRa w))
    if t < d.mt then (d.lateWait c).nextPc c
    else if d.mt = t then d.nextPc c
    else (d.traceCmd c 4 0x2C ((d.core c).s (wRa w))).modCore c fun k => { k with seq := .wait })

def execWaitmtTrigger (c : CoreId) (s : State) : Out :=
  s.does fun d =>
    let k := d.core c
    if d.coreOn && decide (k.seq = .wait) && decide (wOp k.word = 0x2C) && decide (roundTarget (k.s (wRa k.word)) ≤ d.mt) then
      (d.traceCmd c 5 0x2C (k.s (wRa k.word))).modCore c fun k => { k.next with seq := .run }
    else d

def execWaitConditionMet (c : CoreId) (s : State) : Out :=
  s.does fun d =>
    let k := d.core c
    if d.coreOn && decide (k.seq = .wait) && decide (wOp k.word ≠ 0x2C) && d.waitDone c k.word then
      (d.traceCmd c 5 (wOp k.word) (k.waitOperand k.word)).waitEnd c k.word
    else d

/-- WAITEV, LWAIT and IXWAIT are bounded by CORE_SEQ_WAITLIM, where it is not 0 (R146). -/
def execSeqWaitTimeout (c : CoreId) (s : State) : Out :=
  s.does fun d =>
    let k := d.core c
    let op := wOp k.word
    if d.coreOn && decide (k.seq = .wait) && (decide (op = 0x2A) || decide (op = 0x2D) || decide (op = 0x36))
        && !d.waitDone c k.word && decide (d.get (Reg.CORE_SEQ_WAITLIM.US c) ≠ 0) then
      d.seqFault c Flt.SEQ_WAIT_TIMEOUT op
    else d

/-! ### Events, time, steps and trace -/

def execSetev (c : CoreId) (ecc : WordEcc) (s : State) : Out :=
  s.does (Dev.issue c ecc 0x2E usesNone anyWord fun w d => (d.setEvent c (wImm w % 64)).nextPc c)
def execClrev (c : CoreId) (ecc : WordEcc) (s : State) : Out :=
  s.does (Dev.issue c ecc 0x2F usesNone anyWord fun w d => (d.clearEvent c (wImm w % 64)).nextPc c)
def execRdmt (c : CoreId) (ecc : WordEcc) (s : State) : Out :=
  s.does (Dev.issue c ecc 0x38 usesRd anyWord fun w d => d.modCore c fun k => (k.setS (wRd w) d.mt).next)
def execStepset (c : CoreId) (ecc : WordEcc) (s : State) : Out :=
  s.does (Dev.issue c ecc 0x39 usesRa anyWord fun w d =>
    (d.set64 (Reg.CORE_SEQ_STEP_LO.STEP c) ((d.core c).s (wRa w))).nextPc c)
def execTraceW (c : CoreId) (ecc : WordEcc) (s : State) : Out :=
  s.does (Dev.issue c ecc 0x3A usesRaRb anyWord fun w d =>
    (d.traceCmd c 10 ((d.core c).s (wRa w)) ((d.core c).s (wRb w))).nextPc c)
def execNop (c : CoreId) (ecc : WordEcc) (s : State) : Out :=
  s.does (Dev.issue c ecc opNop usesNone anyWord fun _ d => d.nextPc c)

/-! ### Start, R128 to R130 -/

def execStart (_r : Requester) (c : CoreId) (s : State) : Out :=
  s.does (Dev.coreWrite (Dev.startReq c))

/-- The words of a program, header first, as little-endian bytes. -/
def Core.progBytes (k : Core) (bank : Bool) (lo n : Nat) : List Byte :=
  (List.range n).flatMap fun i => leBytes 8 (k.imem bank (lo + i))

/-- The check of an inactive bank, R129 and R130. -/
def Core.bankOk (k : Core) (bank : Bool) : Bool :=
  decide (1 ≤ k.progLen bank)
    && decide ((crc32 (k.progBytes bank 1 (k.progLen bank))).toNat = k.imem bank 0 / 2 ^ 32)
    && !(k.imemEcc.any fun q => decide (q.2 = 2) && decide ((if bank then 4096 else 0) ≤ q.1)
        && decide (q.1 ≤ (if bank then 4096 else 0) + k.progLen bank))

/-- A start check that passed: the banks swap and the core runs from word 1; resume state is discarded and the program digest of
R221 starts. An array command that is discarded so breaks the chain of R95. -/
def Core.startRun (k : Core) : Core :=
  { k with
    bank := !k.bank, pc := 1, seq := .run, cmd := none, ixq := [], inWait := false, draining := false, tileOwed := false,
    wActive := none, wShadow := none,
    chain := if (k.cmd.map fun m => recUseMxa m.record).getD false then none else k.chain,
    progMsg := k.progBytes (!k.bank) 0 (k.progLen (!k.bank) + 1) }

/-- A quiesce that came during the check is served now. -/
def Dev.lateQuiesce (c : Nat) (d : Dev) : Dev :=
  if d.bit (Reg.CORE_SEQ_CTRL.QREQ c) then (d.setBit (Reg.CORE_SEQ_CTRL.QREQ c) false).quiesceCore c else d

/-- The check reads every word of the bank: what has gone wrong in its words by then (R127). -/
def Core.bankUpsets (errs : List (BitVec 12 × WordEcc)) (k : Core) : Core :=
  errs.foldl (fun k e => k.imemUpset (!k.bank) e.1.toNat e.2) k

/-- The bank swap of an accepted start. -/
def Dev.startUp (c : Nat) (k : Core) (d : Dev) : Dev :=
  let d := d.setCore c k.startRun
  let d := if (k.cmd.map fun m => recUseMxa m.record).getD false then (d.mxaShow c).setBit (Reg.CORE_MXA_STATUS.KEPT c) false else d
  (d.trace c 12 0 (k.progId (!k.bank)) 1).lateQuiesce c

def execLoadchkDone (c : CoreId) (errs : List (BitVec 12 × WordEcc)) (s : State) : Out :=
  s.does fun d =>
    let k := (d.core c).bankUpsets errs
    if !d.coreOn || decide (k.seq ≠ .loadchk) then d
    else if k.bankOk (!k.bank) then d.startUp c k
    else
      let d := (d.setCore c { k with seq := k.prev }).setBit (Reg.CORE_SEQ_ERR.START_FAIL c) true
      (d.lateQuiesce c).raise { code := Flt.SEQ_IMEM_CRC, source := c, tag := (d.core c).tagNow }

/-- A write to an instruction memory bank, R128: half a word. -/
def Dev.imemWrite (c : Nat) (bank : Bool) (w : Nat) (hi : Bool) (v : Nat) (d : Dev) : Dev :=
  let k := d.core c
  if (bank == k.bank) || decide (k.seq = .loadchk) then d.setBit (Reg.CORE_SEQ_ERR.IMEM_BUSY c) true
  else
    let old := k.imem bank w
    let new := if hi then old % 2 ^ 32 + 2 ^ 32 * (v % 2 ^ 32) else old / 2 ^ 32 * 2 ^ 32 + v % 2 ^ 32
    d.setCore c (k.setImem bank w new)

def execImemWrite (c : CoreId) (bank : Bool) (word : BitVec 12) (hi : Bool) (value : Word) (s : State) : Out :=
  s.does (Dev.coreWrite (Dev.imemWrite c bank word.toNat hi value.toNat))

/-! ### Quiesce and resume, R152 to R154 -/

def execQreq (_r : Requester) (c : CoreId) (s : State) : Out :=
  s.does (Dev.coreWrite (Dev.quiesceCore c))

/-- The accumulator rows of the spill area in order: array by array, row by row, column by column (R98). -/
def ArrRec.spillEntries (a : ArrRec) (ntile : Nat) : List Nat :=
  let base := if a.writeOut then a.rowBase ntile else 0
  a.arrays.flatMap fun arr => (List.range a.rowsUsed).flatMap fun r => (List.range a.width).map fun n =>
    arr * 65536 + (base + r) * a.width + n

/-- The live accumulator rows are copied to the spill area. -/
def Dev.spillOut (c : Nat) (m : LayerCmd) (d : Dev) : Dev :=
  let a := arrRec m.record
  let k := d.core c
  d.setClm c a.spill ((a.spillEntries m.ntile).flatMap fun e => leBytes 4 (mget 0 k.acc e))

/-- The spilled rows are restored. -/
def Dev.spillIn (c : Nat) (m : LayerCmd) (d : Dev) : Dev :=
  let a := arrRec m.record
  d.modCore c fun k => { k with
    acc := (a.spillEntries m.ntile).zipIdx.foldl (fun acc p => mset 0 acc p.1 (d.clmNat c (a.spill + 4 * p.2) 4)) k.acc }

/-- The partial N-tile of a quiesced command is spilled: tiles of it are done, it is not complete, and ACC_SPILL names an area; with
WRITE_OUT = 0 every N-tile done so far is live (R98). -/
def LayerCmd.spills (m : LayerCmd) : Bool :=
  let a := arrRec m.record
  recUseMxa m.record && !m.scanDue && m.tilesLeft && decide (a.spill ≠ 0xFFFFFFFF)
    && (decide (m.kchunk ≠ 0) || decide (m.pass ≠ 0) || (!a.writeOut && decide (m.ntile ≠ 0)))

/-- The drain of R152 has ended. -/
def Core.drained (k : Core) : Bool :=
  k.draining && !k.tileOwed && k.vecEmpty && ((k.cmd.map fun m => decide (m.due = []) && !k.canComplete m).getD true)

/-- Parts 3 to 5 of R152, after any spill. -/
def Dev.quiesced (c : Nat) (d : Dev) : Dev :=
  let d := match (d.core c).cmd with
    | some m => (d.cmpArea c m).cmpStatus c m.recOff 2 false 0
    | none => d
  let d := d.writeResume c
  let k := d.core c
  let d := d.traceCmd c 8 k.pc k.rrFlags
  let d := d.setBit (Reg.CORE_SEQ_CTRL.QREQ c) false
  let d := d.modCore c fun k => { k with seq := .quiesced, draining := false, wActive := none, wShadow := none }
  if k.cmd.isSome then d.mxaShow c else d

/-- A corrected or uncorrectable accumulator error of R97. -/
def Dev.accCorrected (c : Nat) (d : Dev) : Dev :=
  (d.flag (Reg.CORE_MXA_ERR.ACC_CE c) (Reg.CORE_MXA_ERR.CE_CNT c)).raise
    { code := Flt.MXA_ACC_CE, source := c, tag := (d.core c).tagNow }

def Dev.accUncorrectable (c : Nat) (d : Dev) : Dev :=
  (d.setBit (Reg.CORE_MXA_ERR.ACC_UE c) true).seqFault c Flt.MXA_ACC_UE 0

/-- Resume, R154: the record's fields. -/
structure ResumeRec where
  tag : Nat
  flags : Nat
  pc : Nat
  recOff : Nat
  ntile : Nat
  kchunk : Nat
  pass : Nat
  nf : Nat
  cycles : Nat
  fp : Nat
  crcRec : Nat
  step : Nat
  deriving DecidableEq, Repr

def resumeRec (b : List Byte) : ResumeRec :=
  let f := recField b
  ⟨f 0 4, f 4 4, f 8 4 % 4096, f 0x0C 4, f 0x10 4, f 0x14 4, f 0x18 4 % 4, f 0x20 4, f 0x24 4, f 0x28 4, f 0x2C 4, f 0x30 8⟩

/-- The checks of R154. -/
def Dev.resumeOk (d : Dev) (c : Nat) (b : List Byte) : Bool :=
  let k := d.core c
  let r := resumeRec b
  decide ((crc32 (b.take 0x3C)).toNat = recField b 0x3C 4) && decide (r.tag / 2 ^ 20 = k.progId k.bank)
    && (r.flags.testBit 3 == k.bank)
    && (!r.flags.testBit 0 || (decide (r.recOff + 256 ≤ clmSize) && decide ((crc32 (d.clm c r.recOff 0xE8)).toNat = r.crcRec)))

/-- The command restored from the resume record and the record in CLM; what the record does not carry (the kind of accumulation
and whether the scan has run) the array kept. -/
def restoreCmd (old : Option LayerCmd) (r : ResumeRec) (rec : List Byte) : LayerCmd :=
  let a := arrRec rec
  { record := rec, recOff := r.recOff, tag := r.tag, step := r.step, isOpen := r.flags.testBit 5, cycles := r.cycles,
    startIn := 24, flags := r.fp,
    scanDue := (old.map LayerCmd.scanDue).getD (recUseMxa rec && a.isInt && a.hasMx),
    intAcc := (old.map LayerCmd.intAcc).getD (recUseMxa rec && a.isInt && !a.hasMx),
    ntile := r.ntile, pass := r.pass, kchunk := r.kchunk, due := [], spilled := r.flags.testBit 4, kept := false }

def Dev.resume (c : Nat) (d : Dev) : Dev :=
  let k := d.core c
  if k.seq ≠ .quiesced then d.setBit (Reg.CORE_SEQ_ERR.RESUME_REJ c) true
  else
    let b := d.clm c (d.resumeOff c) 64
    let r := resumeRec b
    if d.clmUe c (d.resumeOff c) 64 || (r.flags.testBit 0 && d.clmUe c r.recOff 256) then
      d.raise { code := Flt.CLM_UE, source := c, tag := k.tagNow, arg0 := clmAddr c (d.resumeOff c) }
    else if !d.resumeOk c b then
      d.raise { code := Flt.SEQ_RESUME_BAD, source := c, tag := k.tagNow, arg0 := clmAddr c (d.resumeOff c) }
    else
      let d := d.trace c 9 (if r.flags.testBit 0 then r.tag else 0) r.pc r.flags
      if r.flags.testBit 0 then
        let m := restoreCmd k.cmd r (d.clm c r.recOff 256)
        let bad := m.spilled && d.clmUe c (arrRec m.record).spill (arrRec m.record).spillBytes
        let d := if m.spilled then d.spillIn c m else d
        let d := (d.set (Reg.CORE_SEQ_NFCOUNT.COUNT c) r.nf).modCore c fun k =>
          { k with seq := .run, pc := r.pc, inWait := false, cmd := some m }
        if bad then d.seqFault c Flt.CLM_UE (clmAddr c (arrRec m.record).spill) else d
      else d.modCore c fun k => { k with seq := .run, pc := r.pc, inWait := false, cmd := none }

def execResume (_r : Requester) (c : CoreId) (s : State) : Out :=
  s.does (Dev.coreWrite (Dev.resume c))

/-! ### Register commands of a core -/

/-- The command acts on events named in a half, R145. -/
def Dev.eventSet (c : Nat) (hi : Bool) (mask : Nat) (d : Dev) : Dev :=
  let f := if hi then Reg.CORE_SEQ_EVT_HI.EVT c else Reg.CORE_SEQ_EVT_LO.EVT c
  d.set f (d.get f ||| mask)

def execEventSetWrite (_r : Requester) (c : CoreId) (hi : Bool) (mask : Word) (s : State) : Out :=
  s.does (Dev.coreWrite (Dev.eventSet c hi mask.toNat))

/-- A W1C write to CORE_SEQ_FPFLAGS with the flags that hardware raises in the same cycle, R69. -/
def Dev.fpflagsClear (c mask hw : Nat) (d : Dev) : Dev :=
  let m (i : Nat) : Bool := mask.testBit i
  let h (i : Nat) : Bool := hw.testBit i
  let d := d.fpClear (m 0) (h 0) (Reg.CORE_SEQ_FPFLAGS.INVALID c) (some (Reg.CORE_SEQ_FPEVENTS.INVALID_CNT c))
  let d := d.fpClear (m 1) (h 1) (Reg.CORE_SEQ_FPFLAGS.DIVZERO c) (some (Reg.CORE_SEQ_FPEVENTS.DIVZERO_CNT c))
  let d := d.fpClear (m 2) (h 2) (Reg.CORE_SEQ_FPFLAGS.OVERFLOW c) (some (Reg.CORE_SEQ_FPEVENTS.OVERFLOW_CNT c))
  let d := d.fpClear (m 3) (h 3) (Reg.CORE_SEQ_FPFLAGS.UNDERFLOW c) (some (Reg.CORE_SEQ_FPEVENTS.UNDERFLOW_CNT c))
  let d := d.fpClear (m 4) (h 4) (Reg.CORE_SEQ_FPFLAGS.INEXACT c) none
  d.fpClear (m 5) (h 5) (Reg.CORE_SEQ_FPFLAGS.NONFINITE c) (some (Reg.CORE_SEQ_FPEVENTS.NONFINITE_CNT c))

def execFpflagsClear (c : CoreId) (mask hw : BitVec 6) (s : State) : Out :=
  s.does (Dev.coreWrite (Dev.fpflagsClear c mask.toNat hw.toNat))

/-- Zero all eleven idle counters, R159. -/
def Dev.idleClear (c : Nat) (d : Dev) : Dev :=
  (List.range 11).foldl (fun d n => d.set64 (Reg.CORE_SEQ_IDLE_LO.COUNT c n) 0) d

def execIdleclr (_r : Requester) (c : CoreId) (s : State) : Out :=
  s.does (Dev.coreWrite (Dev.idleClear c))

end Sys2Proof.Machine
end

