-- ==== Sys2Proof/Machine/Arrays.lean ====
section
/-! DEFINITION. The matrix arrays: one weight tile of a layer command (R61 to R64, R81 to R95), the write-out of an N-tile (R96),
the scale scan (R63) and the counters of R103. -/

namespace Sys2Proof.Machine

/-! ### One cell, R61 to R64 -/

/-- The exact sum of the products of a cell, R61: a NaN among them decides; else +∞ with −∞ makes an invalid NaN. DESIGN CHOICE (log entry 41): the
spec gives an exact sum of zero no sign; the sum starts from +0, so a q of zero is +0, also where the only product is −0. -/
def cellSum (ps : List (Val × Bool)) : Val × Bool :=
  let inv := ps.any Prod.snd
  if ps.any fun p => p.1.isNan then (.nan, inv)
  else if (ps.any fun p => p.1 == Val.inf false) && (ps.any fun p => p.1 == Val.inf true) then (.nan, true)
  else (ps.foldl (fun a p => (Val.add a p.1).1) Val.zero, inv)

/-- The product of one pass of R64: pass 0 is a_lo × b_hi, pass 1 a_hi × b_lo, pass 2 a_hi × b_hi. In the first two a low half of
zero or a high half that is no finite number contributes +0. -/
def splitProduct (pass : Nat) (a b : Val) : Val × Bool :=
  let (ah, al) := split32 a
  let (bh, bl) := split32 b
  if pass = 0 then (if al.isZero || !bh.isFinite then (Val.zero, false) else Val.mul al bh)
  else if pass = 1 then (if bl.isZero || !ah.isFinite then (Val.zero, false) else Val.mul ah bl)
  else Val.mul ah bh

/-- The values of K of a chunk's cell row, those beyond the record's K left out: they read as +0 (R87, R88). -/
def ArrRec.cellKs (a : ArrRec) (chunk row : Nat) : List Nat :=
  ((List.range a.lanes).map fun l => (chunk * a.depth + row) * a.lanes + l).filter fun k => decide (k < a.k)

/-- Cell rows of a chunk that are not masked, R87. -/
def ArrRec.cellRows (a : ArrRec) (chunk : Nat) : Nat :=
  min a.depth (ceilDiv (a.k - chunk * a.depth * a.lanes) a.lanes)

/-- The key of a weight in a tile. -/
def cellKey (k n : Nat) : Nat := 2 ^ 32 * k + n

/-- The weight (k, n) that a tile holds: its element code and its scale code; a cell that has loaded none holds 0 (R87). -/
def WTile.code (t : WTile) (k n : Nat) : Nat × Nat := mget (0, 0x7F) t.cells (cellKey k n)

def WTile.val (a : ArrRec) (t : WTile) (k n : Nat) : Val := elemVal a.wfmt (t.code k n).2 (t.code k n).1

/-- The stored integer of an integer weight (R63). -/
def WTile.int (t : WTile) (k n : Nat) : Int := bitsInt 8 (t.code k n).1

/-- The result q of a cell for output element (m, n), with the weights of a tile. -/
def Dev.cell (d : Dev) (a : ArrRec) (t : WTile) (pass chunk row m n : Nat) : Val × Bool :=
  cellSum ((a.cellKs chunk row).map fun k =>
    if a.split then splitProduct pass (d.actVal a m k) (t.val a k n) else Val.mul (d.actVal a m k) (t.val a k n))

/-- The masked rows of a chunk add q = +0 to the sum, which turns a −0 into +0 (R62, R87): one addition does what all of them do. -/
def ArrRec.maskedRows (a : ArrRec) (chunk : Nat) (t : Nat × Flags) : Nat × Flags :=
  if a.cellRows chunk < a.depth then
    let (r, f) := fp32Add t.1 Val.zero
    (r, t.2.or f)
  else t

/-- The inner loop of R62 over a chunk and the addition into the accumulator, in FP32. -/
def Dev.chunkFp (d : Dev) (a : ArrRec) (wt : WTile) (pass chunk m n acc : Nat) : Nat × Flags :=
  let (t, fl) := a.maskedRows chunk ((List.range (a.cellRows chunk)).foldl (fun (t : Nat × Flags) row =>
    let (q, inv) := d.cell a wt pass chunk row m n
    let (r, f) := fp32Add t.1 q
    (r, (t.2.or f).or (Flags.inv inv))) (0, Flags.zero))
  let (r, f) := fp32Add acc (fp32.decode t)
  (r, (fl.or f).arrayOnly)

/-- A 32-bit two's-complement addition: the wrapped sum and whether it left the range (R63). -/
def addInt32 (x y : Int) : Int × Bool :=
  let z := x + y
  (bitsInt 32 (intBits 32 z), decide (z < -(2 ^ 31)) || decide (2 ^ 31 ≤ z))

/-- The same in INT32 accumulation, R63. -/
def Dev.chunkInt (d : Dev) (a : ArrRec) (wt : WTile) (chunk m n acc : Nat) : Nat × Flags :=
  let (t, ov) := (List.range (a.cellRows chunk)).foldl (fun (t : Int × Bool) row =>
    let q := (a.cellKs chunk row).foldl (fun (s : Int) k => s + d.actInt a m k * wt.int k n) 0
    let (r, o) := addInt32 t.1 q
    (r, t.2 || o)) (0, false)
  let (r, o) := addInt32 (bitsInt 32 acc) t
  (intBits 32 r, { Flags.zero with overflow := ov || o })

/-! ### One weight tile -/

/-- What an accumulator entry holds before the next chunk adds into it, R94. -/
def Dev.accBefore (d : Dev) (c : Nat) (a : ArrRec) (first : Bool) (m n : Nat) : Nat :=
  if first && decide (a.accLoad = 0) then 0
  else if first && decide (a.accLoad = 2) then d.rdNat (a.cAddr + m * a.cStride + 4 * n) 4
  else mget 0 (d.core c).acc (a.entry m n)

/-- The columns of an N-tile. -/
def ArrRec.tileCols (a : ArrRec) (j : Nat) : List Nat := (List.range (a.cols j)).map (j * a.width + ·)

/-- The outputs of an N-tile, row by row. -/
def ArrRec.tileElems (a : ArrRec) (j : Nat) : List (Nat × Nat) :=
  (List.range a.m).flatMap fun m => (a.tileCols j).map fun n => (m, n)

/-- The outputs of an N-tile whose activation rows, counted within their array, are `lo` up to `hi` (R81). -/
def ArrRec.rowElems (a : ArrRec) (j lo hi : Nat) : List (Nat × Nat) :=
  (a.tileElems j).filter fun e => decide (lo ≤ e.1 % a.ma) && decide (e.1 % a.ma < hi)

/-- The accumulator entries that rows `lo` up to `hi` of the tile that streams change: each with its new value and the flags. -/
def Dev.rowResults (d : Dev) (c : Nat) (m : LayerCmd) (t : WTile) (lo hi : Nat) : List (Nat × Nat × Flags) :=
  let a := arrRec m.record
  let first := decide (m.pass = 0) && decide (m.kchunk = 0)
  (a.rowElems m.ntile lo hi).map fun e =>
    let old := d.accBefore c a first e.1 e.2
    (a.entry e.1 e.2, if m.intAcc then d.chunkInt a t m.kchunk e.1 e.2 old else d.chunkFp a t m.pass m.kchunk e.1 e.2 old)

/-- Entries whose code rows `lo` up to `hi` check: those they read (R97). -/
def LayerCmd.rowReads (m : LayerCmd) (lo hi : Nat) : List Nat :=
  let a := arrRec m.record
  if decide (m.pass = 0) && decide (m.kchunk = 0) && decide (a.accLoad ≠ 1) then []
  else (a.rowElems m.ntile lo hi).map fun e => a.entry e.1 e.2

/-- Errors that have arisen in accumulator entries (R97): each stays until the entry is written. -/
def Core.accUpsets (us : List AccUpset) (k : Core) : Core :=
  { k with accEcc := us.foldl (fun m u =>
      let key := 65536 * u.array.val + u.entry.toNat
      mset 0 m key (max (mget 0 m key) (if u.bad then 2 else 1))) k.accEcc }

/-- The state with those errors. -/
def Dev.accUpset (c : Nat) (us : List AccUpset) (d : Dev) : Dev :=
  match us with
  | [] => d
  | us => d.modCore c (Core.accUpsets us)

/-- Reads of accumulator entries: an uncorrectable one ends the command, a corrected one is counted and logged (R97). -/
def Dev.accRead (c : Nat) (es : List Nat) (body : Dev → Dev) (d : Dev) : Dev :=
  let k := d.core c
  if k.accEcc = [] then body d
  else if es.any fun e => decide (mget 0 k.accEcc e = 2) then d.accUncorrectable c
  else body ((es.filter fun e => decide (mget 0 k.accEcc e = 1)).foldl
    (fun d e => (d.accCorrected c).modCore c fun k => { k with accEcc := mset 0 k.accEcc e 0 }) d)

/-- The position after a tile: the next chunk, pass or N-tile (R90). -/
def LayerCmd.advance (m : LayerCmd) : LayerCmd :=
  let a := arrRec m.record
  if m.kchunk + 1 < a.kt then { m with kchunk := m.kchunk + 1, startIn := 0, fed := 0 }
  else if m.pass + 1 < a.passes then { m with kchunk := 0, pass := m.pass + 1, startIn := 0, fed := 0 }
  else { m with kchunk := 0, pass := 0, ntile := m.ntile + 1, startIn := 0, fed := 0,
                due := if a.writeOut then m.due ++ [m.ntile] else m.due }

/-- Whether the array part that a quiesce still owes is over after the tile that led to `m`, R98. -/
def LayerCmd.quiesceStops (m : LayerCmd) : Bool :=
  decide ((arrRec m.record).spill ≠ 0xFFFFFFFF) || (decide (m.kchunk = 0) && decide (m.pass = 0))

/-- The engines of a core work on its command: RUN, WAIT, or while a quiesce drains. -/
def Core.engaged (k : Core) : Bool := decide (k.seq = .run) || decide (k.seq = .wait)

/-- The span of element `i` of a row, as a CLM offset and a length. -/
def elemSpan (c code addr i : Nat) : Nat × Nat := (addr - clmAddr c 0 + i * elemBitsOf code / 8, ceilDiv (elemBitsOf code) 8)

/-- Values of K of a chunk. -/
def ArrRec.chunkKs (a : ArrRec) (chunk : Nat) : List Nat := (List.range (a.cellRows chunk)).flatMap (a.cellKs chunk)

/-- The span of the scale byte at an address. -/
def scaleSpan (c addr : Nat) : Nat × Nat := (addr - clmAddr c 0, 1)

/-- What the feeders read for activation row `r` and a chunk: its elements and its scales (R83). -/
def ArrRec.actSpans (a : ArrRec) (c chunk r : Nat) : List (Nat × Nat) :=
  (a.chunkKs chunk).flatMap fun k =>
    if a.conv then
      match a.convAt r k with
      | none => []
      | some (b, z, y, x, ch) => elemSpan c a.afmt (a.pixAddr b z y x) ch ::
          (if isMx a.afmt then [scaleSpan c (a.aScale + a.pixel b z y x * a.asStride + ch / 32)] else [])
    else elemSpan c a.afmt (a.aAddr + r * a.aStride) k ::
      (if isMx a.afmt then [scaleSpan c (a.aScale + r * a.asStride + k / 32)] else [])

/-- What rows `lo` up to `hi` of the tile that streams read of CLM: their activations, and an accumulator source before the first chunk. -/
def LayerCmd.feedSpans (c : Nat) (m : LayerCmd) (lo hi : Nat) : List (Nat × Nat) :=
  let a := arrRec m.record
  (((List.range a.m).filter fun r => decide (lo ≤ r % a.ma) && decide (r % a.ma < hi)).flatMap (a.actSpans c m.kchunk))
    ++ (if decide (a.accLoad = 2) && decide (m.pass = 0) && decide (m.kchunk = 0) then
        (a.rowElems m.ntile lo hi).map fun e => (a.cAddr - clmAddr c 0 + e.1 * a.cStride + 4 * e.2, 4)
      else [])

/-- What the weight bus and the scale path read for cell row `row` of a tile. -/
def ArrRec.weightSpans (a : ArrRec) (c chunk ntile row : Nat) : List (Nat × Nat) :=
  (a.cellKs chunk row).flatMap fun k => (a.tileCols ntile).flatMap fun n =>
    (if a.wT then elemSpan c a.wfmt (a.wAddr + n * a.wStride) k else elemSpan c a.wfmt (a.wAddr + k * a.wStride) n) ::
      (if isMx a.wfmt then [scaleSpan c (a.wScale + k / 32 * a.wsStride + n)] else [])

/-! ### Loading and streaming, R79 and R83 -/

/-- An empty tile for the position of a command. -/
def LayerCmd.emptyTile (m : LayerCmd) : WTile := ⟨m.ntile, m.pass, m.kchunk, 0, []⟩

/-- Cell row `row` of a tile as CLM holds it. -/
def Dev.weightRow (d : Dev) (a : ArrRec) (t : WTile) (row : Nat) : List (Nat × Nat × Nat) :=
  (a.cellKs t.kchunk row).flatMap fun k => (a.tileCols t.ntile).map fun n => (cellKey k n, d.wElem a k n, d.wScaleCode a k n)

/-- A tile with its cell rows up to `hi` loaded; rows loaded before keep what was read then. -/
def Dev.loadRows (d : Dev) (a : ArrRec) (t : WTile) (hi : Nat) : WTile :=
  { t with
    rows := max t.rows hi,
    cells := t.cells ++ ((List.range (hi - t.rows)).map (t.rows + ·)).flatMap (d.weightRow a t) }

/-- What loading the cell rows up to `hi` reads. -/
def WTile.loadSpans (a : ArrRec) (c : Nat) (t : WTile) (hi : Nat) : List (Nat × Nat) :=
  ((List.range (hi - t.rows)).map (t.rows + ·)).flatMap (a.weightSpans c t.kchunk t.ntile)

/-- The tile that streams next: the one in the active registers, else the one that has loaded so far into the shadow registers. -/
def Core.curTile (k : Core) (m : LayerCmd) : WTile := k.wActive.getD (k.wShadow.getD m.emptyTile)

/-- Rows `lo` up to `hi` of each array enter with a tile: their sums go into the accumulator, with the flags and the cell-cycles they take
(R62, R81, R103). -/
def Dev.feedRows (c : Nat) (m : LayerCmd) (t : WTile) (lo hi : Nat) (d : Dev) : Dev :=
  d.clmReads c (fun _ => m.feedSpans c lo hi) fun d => d.accRead c (m.rowReads lo hi) fun d =>
    let a := arrRec m.record
    let es := d.rowResults c m t lo hi
    let d := d.modCore c fun k =>
      { k with
        acc := es.foldl (fun acc e => mset 0 acc e.1 e.2.1) k.acc,
        accEcc := es.foldl (fun x e => mset 0 x e.1 0) k.accEcc,
        cmd := some { m with fed := hi } }
    let d := d.fpRaiseCmd c (es.foldl (fun f e => f.or e.2.2) Flags.zero)
    let cells := es.length * a.cellRows m.kchunk
    Dev.add64 (Reg.CORE_MXA_USEFUL_LO.COUNT c) cells { d with work := d.work + cells }

/-- The rest of a tile loads. -/
def Dev.loadTile (c : Nat) (m : LayerCmd) (t : WTile) (body : WTile → Dev → Dev) (d : Dev) : Dev :=
  let a := arrRec m.record
  d.clmReads c (fun _ => t.loadSpans a c a.depth) fun d => body (d.loadRows a t a.depth) d

/-- The tiles go on after the one that led to `m`: some are left, and a quiesce has not ended them. -/
def Core.streamsOn (k : Core) (m : LayerCmd) : Bool := m.tilesLeft && (k.engaged || (k.tileOwed && !m.quiesceStops))

/-- The stream of the current tile has entered, and the next tile is swapped in when it has loaded (R79): the next tile's rows that are not yet in
the shadow registers load now. -/
def Dev.swapIn (c : Nat) (d : Dev) : Dev :=
  let k := d.core c
  match k.cmd with
  | none => d
  | some m =>
    let m' := m.advance
    let go := k.streamsOn m'
    let d := d.setCore c { k with cmd := some m', tileOwed := k.tileOwed && !m'.quiesceStops, wActive := none }
    if go then
      d.loadTile c m' (k.wShadow.getD m'.emptyTile) fun t d => d.modCore c fun k => { k with wActive := some t, wShadow := none }
    else d.modCore c fun k => { k with wShadow := none }

/-- The rest of one weight tile of a command: what is left of its load, the rows that have not entered, and the swap. -/
def Dev.tile (c : Nat) (m : LayerCmd) (d : Dev) : Dev :=
  let a := arrRec m.record
  let k := d.core c
  d.loadTile c m (k.curTile m) fun t d =>
    let d := d.modCore c fun k => { k with wActive := some t, wShadow := if k.wActive.isSome then k.wShadow else none }
    let d := d.feedRows c m t m.fed a.ma
    if (d.core c).seq = .fault then d else (d.swapIn c).mxaShow c

def execArrayTileDone (c : CoreId) (upsets : List AccUpset) (s : State) : Out :=
  s.does fun d =>
    let d := d.accUpset c upsets
    let k := d.core c
    match k.cmd with
    | some m => if d.coreOn && (k.engaged || k.tileOwed) && m.tileReady then d.tile c m else d
    | none => d

/-- The weight bus and the feeders in one cycle without a stall (R79 to R83): a row of each array enters with the tile in the active registers,
and a cell row of the next tile loads into the shadow registers. A first tile moves to the active registers when it is complete. -/
def Dev.arrayCycle (c : Nat) (d : Dev) : Dev :=
  let k := d.core c
  match k.cmd with
  | none => d
  | some m =>
    let a := arrRec m.record
    let d := match k.wActive with
      | some t => if m.tileReady && decide (m.fed < a.ma) then d.feedRows c m t m.fed (m.fed + 1) else d
      | none => d
    let m' := if k.wActive.isSome then m.advance else m
    if (d.core c).seq = .fault || m.scanDue || !k.streamsOn m' then d
    else
      let t := k.wShadow.getD m'.emptyTile
      d.clmReads c (fun _ => t.loadSpans a c (min (t.rows + 1) a.depth)) fun d =>
        let t := d.loadRows a t (min (t.rows + 1) a.depth)
        d.modCore c fun k =>
          if k.wActive.isNone && decide (a.depth ≤ t.rows) then { k with wActive := some t, wShadow := none } else { k with wShadow := some t }

/-! ### Write-out, R96 -/

/-- The exact value of an accumulator entry. -/
def accVal (a : ArrRec) (intAcc : Bool) (e : Nat) : Val :=
  if intAcc then
    (Val.ofInt (bitsInt 32 e)).scale
      (if decide (11 ≤ a.ofmt) then 0
       else -6 * ((if a.afmt = 10 then 1 else 0) + (if a.wfmt = 10 then 1 else 0)))
  else fp32.decode e

/-- The random integer of an output element, R96. -/
def ArrRec.outRandom (a : ArrRec) (step m n : Nat) : Nat :=
  srRandom (BitVec.ofNat 64 step) a.outTid (BitVec.ofNat 64 (a.idxBase + m * a.idxM + n * a.idxN))

/-- One converted output element and its flags. -/
def Dev.outElem (d : Dev) (c : Nat) (m : LayerCmd) (row col : Nat) : Nat × Flags :=
  let a := arrRec m.record
  convertTo a.ofmt (rndOf a.ornd (a.outRandom m.step row col)) a.osat
    (accVal a m.intAcc (mget 0 (d.core c).acc (a.entry row col)))

/-- A stored element of an output format is NaN or infinite. -/
def elemNonFinite (code w : Nat) : Bool :=
  match fmtOfCode code with
  | some f => !(f.decode w).isFinite
  | none => false

/-- The write-out of an N-tile that is due. -/
def Dev.ntileOut (c : Nat) (m : LayerCmd) (j : Nat) (rest : List Nat) (d : Dev) : Dev :=
  let a := arrRec m.record
  let es := a.tileElems j
  d.accRead c (es.map fun e => a.entry e.1 e.2) fun d =>
    let os := es.map fun e => (e, d.outElem c m e.1 e.2)
    let d := os.foldl (fun d o =>
      d.setClm c (a.oAddr - clmAddr c 0 + o.1.1 * a.oStride + o.1.2 * outBytes a.ofmt) (leBytes (outBytes a.ofmt) o.2.1)) d
    let d := d.fpRaiseCmd c (os.foldl (fun f o => f.or o.2.2) Flags.zero)
    let d := d.nonFinite c (os.filter fun o => elemNonFinite a.ofmt o.2.1).length
    let d := d.modCore c fun k => { k with cmd := k.cmd.map fun m => { m with due := rest } }
    let d := (d.setEvent c (recEvtTile m.record)).mxaShow c
    if recTraceTile m.record then d.trace c 3 m.tag j m.cycles else d

def execNtileWrittenOut (c : CoreId) (upsets : List AccUpset) (s : State) : Out :=
  s.does fun d =>
    let d := d.accUpset c upsets
    let k := d.core c
    match k.cmd with
    | some m =>
      match m.due with
      | j :: rest => if d.coreOn && (k.engaged || decide (k.seq = .quiescing)) then d.ntileOut c m j rest else d
      | [] => d
    | none => d

/-! ### The scale scan, R63 -/

/-- The scan's choice conflicts with the record: FP32 while OFMT is INT8 or INT32, or a kind other than the chain's (R63, R95). -/
def scanConflict (ch : Option ArrayChain) (a : ArrRec) (int : Bool) : Bool :=
  (!int && decide (11 ≤ a.ofmt))
    || (decide (a.accLoad = 1) && !(decide ((ch.map ArrayChain.intAcc) = some int)))

/-- What the scan reads: every scale byte of the record (R63, R83). -/
def ArrRec.scanSpans (a : ArrRec) (c : Nat) : List (Nat × Nat) :=
  (if isMx a.afmt then (List.range a.m).flatMap fun r => (List.range a.k).flatMap fun k =>
      if a.conv then
        match a.convAt r k with
        | none => []
        | some (b, z, y, x, ch) => [scaleSpan c (a.aScale + a.pixel b z y x * a.asStride + ch / 32)]
      else [scaleSpan c (a.aScale + r * a.asStride + k / 32)]
    else [])
  ++ (if isMx a.wfmt then (List.range (ceilDiv a.k 32)).flatMap fun b => (List.range a.n).map fun n =>
      scaleSpan c (a.wScale + b * a.wsStride + n) else [])

def execScaleScanDone (c : CoreId) (s : State) : Out :=
  s.does fun d =>
    let k := d.core c
    match k.cmd with
    | some m =>
      if d.coreOn && k.engaged && m.scanDue then
        let a := arrRec m.record
        d.clmReads c (fun _ => a.scanSpans c) fun d =>
          let int := d.scalesAllOne a
          if scanConflict k.chain a int then d.seqFault c Flt.LREC_MALFORMED m.recOff
          else d.modCore c fun k => { k with cmd := some { m with scanDue := false, intAcc := int } }
      else d
    | none => d

/-! ### Counters, R103 -/

/-- Both MXA counters are zeroed. -/
def Dev.mxaClear (c : Nat) (d : Dev) : Dev := (d.set64 (Reg.CORE_MXA_USEFUL_LO.COUNT c) 0).set64 (Reg.CORE_MXA_BUSY_LO.COUNT c) 0

def execMxaCtrclr (c : CoreId) (s : State) : Out := s.does (Dev.coreWrite (Dev.mxaClear c))

end Sys2Proof.Machine
end

