-- ==== Sys2Proof/Machine/Vec.lean ====
section
/-! DEFINITION. The vector engine: registers and lanes (R104 to R107), legality (R109), the operations (R109 to R114, R121), loads,
stores and the store buffer (R118 to R120), and the passing and issue of vector words (R108, R116, R122 to R125). -/

namespace Sys2Proof.Machine

/-! ### Registers and lanes -/

/-- Bytes of an element of a TYPE, R105. -/
def laneSize (t : Nat) : Nat := if t ≤ 1 then 4 else 2

/-- The floating-point format of a TYPE; INT32 has none. -/
def laneFmt (t : Nat) : FpFmt := if t = 2 then bf16 else if t = 3 then fp16 else fp32

def laneInt (t : Nat) : Bool := decide (t = 1)

/-- Byte `i` of a vector register. -/
def Core.vByte (k : Core) (r i : Nat) : Byte := BitVec.ofNat 8 (mget 0 k.vreg (4096 * r + i))

/-- Element `i` of a vector register, of `size` bytes. -/
def Core.vElem (k : Core) (size r i : Nat) : Nat := leNat ((List.range size).map fun b => k.vByte r (size * i + b))

/-- Bytes written into a vector register; a 32-bit group written whole is good again (R125). -/
def Core.setVBytes (r : Nat) (bs : List (Nat × Byte)) (k : Core) : Core :=
  { k with
    vreg := bs.foldl (fun m b => mset 0 m (4096 * r + b.1) b.2.toNat) k.vreg,
    rfEcc := k.rfEcc.filter fun q => !(decide (q.1 / 1024 = r) &&
      (List.range 4).all fun i => bs.any fun b => decide (b.1 = 4 * (q.1 % 1024) + i)) }

/-- Elements written into a vector register. -/
def Core.setVElems (size r : Nat) (es : List (Nat × Nat)) (k : Core) : Core :=
  k.setVBytes r (es.flatMap fun e => (leBytes size e.2).zipIdx.map fun b => (size * e.1 + b.2, b.1))

/-- A mask register as a number of 1,024 bits. -/
def Core.mask (k : Core) (m : Nat) : Nat := mget 0 k.vmask m

def Core.maskBit (k : Core) (m i : Nat) : Bool := (k.mask m).testBit i

/-- Bits written into a mask register; a 32-bit group of which every bit is written is good again (R125). -/
def Core.setMask (m v : Nat) (written : Nat → Bool) (k : Core) : Core :=
  { k with
    vmask := mset 0 k.vmask m (v % 2 ^ 1024),
    rfEcc := k.rfEcc.filter fun q => !(decide (q.1 / 32 = 1024 + m) && (List.range 32).all fun i => written (q.1 % 32 * 32 + i)) }

/-- Whether element `i` is active, R106 and R107. -/
def Core.isActive (k : Core) (w i : Nat) : Bool := decide (i < k.vl.val) && (!vMen w || k.maskBit (vMsk w) i)

/-- The active elements in ascending order. -/
def Core.active (k : Core) (w : Nat) : List Nat := (List.range k.vl.val).filter (k.isActive w)

/-- Masked-off elements that ZM makes zero. -/
def Core.zeroed (k : Core) (w : Nat) : List Nat :=
  if vMen w && vZm w then (List.range k.vl.val).filter fun i => !k.isActive w i else []

/-- Elements of a destination: the active ones take their results, those ZM names become zero, the others keep theirs (R107). -/
def Core.writeBack (k : Core) (w size : Nat) (rs : List (Nat × Nat)) : Core :=
  k.setVElems size (vVd w) (rs ++ (k.zeroed w).map fun i => (i, 0))

/-- The value of an S register as vector words take it: its low 32 bits (R108, R135). -/
def Core.s32 (k : Core) (n : Nat) : Nat := k.s n % 2 ^ 32

/-- A 32-bit result in an S register clears its upper half (R135). -/
def Core.setS32 (k : Core) (n v : Nat) : Core := k.setS n (v % 2 ^ 32)

/-! ### Stochastic rounding, R114 -/

/-- The rounding of element `i` of a word in a layer command of a step. -/
def Core.vRound (k : Core) (w step i : Nat) : Rnd :=
  rndOf (vRnd w) (srRandom (BitVec.ofNat 64 step) k.srTid (BitVec.ofNat 64 (k.srBase + i * k.srStep)))

/-- SR_BASE advances after a word that rounds stochastically. -/
def Core.srAdvance (w n : Nat) (k : Core) : Core :=
  if vRnd w = 2 then { k with srBase := (k.srBase + n * k.srStep) % 2 ^ 64 } else k

/-! ### Legality, R107 to R109 -/

/-- Operations that R109 lists. -/
def vecOps : List Nat :=
  [0x01, 0x02, 0x03, 0x04, 0x05, 0x06, 0x07, 0x10, 0x11, 0x12, 0x13, 0x14, 0x15, 0x16, 0x17, 0x18, 0x19, 0x1A, 0x1B, 0x1C, 0x1D, 0x1E,
   0x1F, 0x20, 0x21, 0x22, 0x23, 0x30, 0x31, 0x32, 0x33, 0x38, 0x39, 0x3A, 0x3B, 0x3C, 0x3D]

/-- Operations that do not use TYPE. -/
def noType : List Nat := [0x07, 0x1B, 0x1D, 0x20, 0x21, 0x22, 0x23, 0x3C, 0x3D]

def isReduction (op : Nat) : Bool := decide (0x38 ≤ op) && decide (op ≤ 0x3A)

def isPermute (op : Nat) : Bool := decide (0x30 ≤ op) && decide (op ≤ 0x33)

def isStore (op : Nat) : Bool := decide (4 ≤ op) && decide (op ≤ 6)

/-- The word uses RND. -/
def usesRnd (w : Nat) : Bool :=
  [0x10, 0x11, 0x12, 0x13, 0x18, 0x19, 0x1A, 0x1B, 0x1E].contains (vOp w) || (isReduction (vOp w) && (vImm w).testBit 0)

/-- Format codes that VCVT takes. -/
def cvtCode (f : Nat) : Bool := decide (f ≤ 4) || decide (f = 11) || decide (f = 12)

/-- The rules of R109, R107 and R113 by which a word is illegal. DESIGN CHOICE (log entry 40): VMXP and VMXU use TYPE and work on FP32, and the spec
does not say that another TYPE of R105 is illegal there: one of 1 to 3 is accepted and changes nothing. -/
def vIllegal (w vl : Nat) : Bool :=
  let op := vOp w
  !vecOps.contains op
    || (!noType.contains op && decide (4 ≤ vTyp w))
    || (usesRnd w && decide (vRnd w = 3))
    || (decide (op ≤ 6) && vBs w)
    || ([0x17, 0x1E, 0x32, 0x33].contains op && vMen w)
    || ([0x16, 0x20, 0x21, 0x22].contains op && decide (7 < vVd w))
    || ([0x20, 0x21, 0x22, 0x23].contains op && decide (7 < vVa w))
    || ([0x20, 0x21].contains op && decide (7 < vVb w))
    || (laneInt (vTyp w) && ([0x13, 0x18, 0x19, 0x1A].contains op || (decide (op = 0x16) && decide (6 ≤ vImm w % 8))
        || (isReduction op && (vImm w).testBit 0)))
    || (decide (op = 0x1B) && !(cvtCode (vImm w % 16) && cvtCode (vImm w / 16 % 16)))
    || ([0x1E, 0x1F].contains op && !isMx (vImm w % 16))
    || (decide (op = 0x1E) && decide (vl % 32 ≠ 0))
    || (decide (op = 0x31) && decide (6 ≤ vImm w % 8))
    || (decide (op = 0x3D) && decide (vImm w % 32 = 31))

/-! ### What a word reads, R116 and R125 -/

/-- The vector registers that a word reads. -/
def vReadsV (w : Nat) : List Nat :=
  let op := vOp w
  let b := if vBs w then [] else [vVb w]
  if op = 0x03 then [vVb w]
  else if op = 0x04 ∨ op = 0x05 then [vVd w]
  else if op = 0x06 then [vVd w, vVb w]
  else if [0x10, 0x11, 0x12, 0x14, 0x15, 0x17].contains op then vVa w :: b
  else if op = 0x16 then vVa w :: (if vImm w % 8 = 7 then [] else b)
  else if op = 0x13 then vVa w :: vVc w :: b
  else if op = 0x1F then [vVa w, vVc w]
  else if op = 0x30 then [vVa w, vVb w]
  else if op = 0x31 then vVa w :: (if 4 ≤ vImm w % 8 then [] else [vVb w])
  else if [0x18, 0x19, 0x1A, 0x1B, 0x1E, 0x32, 0x33, 0x38, 0x39, 0x3A, 0x3B].contains op then [vVa w]
  else []

/-- The mask registers that a word reads. -/
def vReadsM (w : Nat) : List Nat :=
  let op := vOp w
  (if vMen w || decide (op = 0x17) || decide (op = 0x32) || decide (op = 0x33) then [vMsk w] else [])
    ++ (if op = 0x20 ∨ op = 0x21 then [vVa w % 8, vVb w % 8] else if op = 0x22 ∨ op = 0x23 then [vVa w % 8] else [])

/-- The source of element `i` of a VSHUF: va, or vb where the Bool is true, and the index; none gives +0. -/
def shufSrc (vl pat rot i : Nat) : Option (Bool × Nat) :=
  let h := (vl + 1) / 2
  let q := vl / 2
  let r := match pat with
    | 0 => some (i % 2 == 1, i / 2)
    | 1 => some (i % 2 == 1, h + i / 2)
    | 2 => if i < h then some (false, 2 * i) else some (true, 2 * (i - h))
    | 3 => if i < q then some (false, 2 * i + 1) else if i < 2 * q then some (true, 2 * (i - q) + 1) else none
    | 4 => some (false, vl - 1 - i)
    | _ => some (false, (i + rot) % vl)
  match r with
  | some (b, j) => if j < vl then some (b, j) else none
  | none => none

/-- The elements below VL whose bit of the operand mask is set. -/
def Core.picked (k : Core) (w : Nat) : List Nat := (List.range k.vl.val).filter fun i => k.maskBit (vMsk w) i

/-- The elements that a word reads of its vector registers, by its operation (R109): a register, the bits of an element, and the elements. An
operation on the active elements reads those alone; DEDUCED (log entry 40): a masked-off element is not read. -/
def Core.elemReads (k : Core) (w : Nat) : List (Nat × Nat × List Nat) :=
  let op := vOp w
  let bits := 8 * laneSize (vTyp w)
  let act := k.active w
  let plain : List (Nat × Nat × List Nat) := (vReadsV w).map fun r => (r, bits, act)
  if op = 0x03 then [(vVb w, 32, act)]
  else if op = 0x06 then [(vVd w, bits, act), (vVb w, 32, act)]
  else if op = 0x1B then [(vVa w, elemBitsOf (vImm w % 16), act)]
  else if op = 0x1E then [(vVa w, 32, List.range k.vl.val)]
  else if op = 0x1F then [(vVa w, elemBitsOf (vImm w % 16), act), (vVc w, 8, act.map (· / 32))]
  else if op = 0x30 then [(vVb w, 32, act), (vVa w, bits, (act.map (k.vElem 4 (vVb w))).filter fun j => decide (j < 1024))]
  else if op = 0x31 then
    let src := act.filterMap (shufSrc k.vl.val (vImm w % 8) (vImm w / 256 % 2048))
    [(vVa w, bits, (src.filter fun p => !p.1).map Prod.snd), (vVb w, bits, (src.filter fun p => p.1).map Prod.snd)]
  else if op = 0x32 then [(vVa w, bits, k.picked w)]
  else if op = 0x33 then [(vVa w, bits, List.range (k.picked w).length)]
  else plain

/-- A word reads the cell of a mark: a 32-bit group of a vector register that holds a bit of an element it reads, or a group of a mask register
below VL. -/
def Core.readsCell (k : Core) (w key : Nat) : Bool :=
  if key < 32768 then
    (k.elemReads w).any fun r => decide (r.1 = key / 1024) &&
      r.2.2.any fun i => decide (i * r.2.1 / 32 ≤ key % 1024) && decide (key % 1024 ≤ (i * r.2.1 + r.2.1 - 1) / 32)
  else (vReadsM w).contains (key / 32 - 1024) && decide (key % 32 * 32 < k.vl.val)

/-- The marks of the cells that a word reads. -/
def Core.rfHits (k : Core) (w : Nat) : List Nat := (k.rfEcc.filter fun q => k.readsCell w q.1).map Prod.snd

/-- The worst of them. -/
def Core.rfMark (k : Core) (w : Nat) : Nat := (k.rfHits w).foldl max 0

/-- Errors that have arisen in cells of the register file: each stays until the cell is written. -/
def rfKey (c : RfCell) : Nat :=
  match c with
  | .elem r i => 1024 * r.val + i.val
  | .mask m g => 32768 + 32 * m.val + g.val

def Core.rfUpsets (us : List RfUpset) (k : Core) : Core :=
  { k with rfEcc := us.foldl (fun m u => mset 0 m (rfKey u.cell) (max (mget 0 m (rfKey u.cell)) (if u.bad then 2 else 1))) k.rfEcc }

/-- A corrected register-file error. -/
def Dev.rfCorrected (c : Nat) (d : Dev) : Dev :=
  (d.flag (Reg.CORE_VEC_ERR.RF_CE c) (Reg.CORE_VEC_ERR.CE_CNT c)).raise
    { code := Flt.VEC_RF_CE, source := c, tag := (d.core c).tagNow }

/-! ### Pipes and ports, R117 -/

/-- The registers that a word writes, as keys of `vlate`. -/
def vWrites (w : Nat) : List Nat :=
  let op := vOp w
  (if [0x01, 0x02, 0x03].contains op || (decide (0x10 ≤ op) && decide (op ≤ 0x1F) && decide (op ≠ 0x16)) || isPermute op then [vVd w] else [])
    ++ (if op = 0x1E then [vVc w] else [])
    ++ (if [0x16, 0x20, 0x21, 0x22].contains op then [32 + vVd w % 8] else [])
    ++ (match vWritesS w with
        | some n => [64 + n]
        | none => [])

/-- The registers that a word reads or writes, as keys of `vlate`: it issues when all are free of earlier writes (R116). -/
def vNames (w : Nat) : List Nat :=
  vReadsV w ++ (vReadsM w).map (32 + ·) ++ vWrites w ++ (if vOp w ≤ 6 || vBs w || vOp w = 0x1C then [64 + vSa w] else [])

/-- The unit that a word occupies, as a key of `vpipe`, by the role of pipe B and which pipe became free first (R109, R116). -/
def Core.vUnit (k : Core) (w : Nat) : Nat :=
  let op := vOp w
  if op ≤ 3 then 3
  else if op ≤ 6 then 4
  else if [0x20, 0x21, 0x22, 0x23, 0x3C, 0x3D].contains op then 2
  else if isPermute op then 1
  else if [0x12, 0x13, 0x18, 0x19, 0x1A, 0x1E, 0x1F].contains op || k.cu then 0
  else if mget 0 k.vpipe 0 ≤ mget 0 k.vpipe 1 then 0 else 1

/-- The cycles that a word occupies its unit, R117. -/
def Core.vOccupies (k : Core) (w : Nat) : Nat :=
  let op := vOp w
  let narrow := if op = 0x1B then decide (elemBitsOf (vImm w % 16) ≤ 16) && decide (elemBitsOf (vImm w / 16 % 16) ≤ 16)
    else decide (op ≠ 0x1D) && decide (laneSize (vTyp w) = 2)
  let twice (n : Nat) : Nat := if narrow then 2 * n else n
  let rate :=
    if op = 0x01 ∨ op = 0x04 then 1024 / laneSize (vTyp w)
    else if op ≤ 6 then 64
    else if [0x20, 0x21, 0x22, 0x23, 0x3C, 0x3D].contains op then 1024
    else if isPermute op then 128
    else if [0x18, 0x19, 0x1A].contains op then twice 32
    else if op = 0x1E ∨ op = 0x1F then 256
    else twice 256
  max 1 (ceilDiv k.vl.val rate)

/-- The latency of a word after its last occupied cycle, R117. -/
def vLatency (w : Nat) : Nat :=
  let op := vOp w
  if op = 0x01 then 12 else if op ≤ 3 then 16 else if op ≤ 6 then 0
  else if op = 0x12 ∨ op = 0x13 then 8
  else if [0x18, 0x19, 0x1A].contains op then 40
  else if op = 0x1E ∨ op = 0x1F then 12
  else if isPermute op then 10
  else if [0x38, 0x39, 0x3A, 0x3B].contains op then 20
  else if [0x20, 0x21, 0x22, 0x23, 0x3C, 0x3D].contains op then 2 else 6

/-- A word that issues takes its unit, and its results come later (R116, R117). The model uses these times for the idle counters alone (log entry 9):
its effect is there at once. -/
def Core.occupy (w : Nat) (k : Core) : Core :=
  if vOp w = 0x07 then k
  else
    let n := k.vOccupies w
    { k with
      vpipe := mset 0 k.vpipe (k.vUnit w) (max n (mget 0 k.vpipe (k.vUnit w))),
      vlate := (vWrites w).foldl (fun m r => mset 0 m r (max (n + vLatency w) (mget 0 m r))) k.vlate }

/-! ### Passing and issue -/

/-- A vector word is a row's; VADD's row also stands for the words whose VOP is no row's (log entry 5). -/
def vecRow (op w : Nat) : Bool := decide (vOp w = op) || (decide (op = 0x10) && !vecOps.contains (vOp w))

/-- The sequencer passes the word at its program counter to the issue queue, R108; it stalls while the queue is full. -/
def Dev.vecPass (c : Nat) (ecc : WordEcc) (op : Nat) (d : Dev) : Dev :=
  let k := d.core c
  let w := k.word
  if !d.coreOn || !k.issuing || !k.inProg || decide (wClass w ≠ 3) || !vecRow op w then d
  else
    let (ok, d') := d.fetchEcc c ecc
    if !ok then d'
    else if !k.isOpen || !((k.cmd.map fun m => recUseVec m.record).getD false) then d'.seqFault c Flt.SEQ_ILLEGAL k.pc
    else if 32 ≤ k.vq.length then d'
    else d'.modCore c fun k => { k.next with vq := k.vq ++ [BitVec.ofNat 64 w] }

/-- A vector word ends its layer command with a fault, R115, R118 and R125. -/
def Dev.vecFault (c : Nat) (bit : Fld) (code arg0 : Nat) (d : Dev) : Dev := (d.setBit bit true).seqFault c code arg0

/-- The engine may issue the word at the head of its queue: nothing waits for the store buffer, and no entry of a command that ended with a fault
is still in it (R124). -/
def Core.vecFree (k : Core) : Bool :=
  (k.engaged || k.draining) && k.loadStall.isNone && decide (k.sbWait = []) && decide (k.sbOld = 0)

/-- A store that finds no free entry, and a VFENCE before a full drain, stay at the head (R109, R119). -/
def Core.vecHeld (k : Core) (w : Nat) : Bool :=
  (decide (vOp w = 0x07) && decide (k.sb ≠ [])) || (isStore (vOp w) && decide (16 ≤ k.sb.length))

/-- The word at the head of the queue issues if it is the row's: legality, the role of pipe B, the register file's ECC with the errors that
have arisen by then, then its effect, which gets the word and the step number of its command. -/
def Dev.vecIssue (c op : Nat) (upsets : List RfUpset) (body : Nat → Nat → Dev → Dev) (d : Dev) : Dev :=
  let k := (d.core c).rfUpsets upsets
  match k.vq, k.cmd with
  | bw :: rest, some m =>
    let w := bw.toNat
    if !d.coreOn || !k.vecFree || !vecRow op w || k.vecHeld w then d
    else
      let d := d.setCore c k
      if vIllegal w k.vl.val then d.vecFault c (Reg.CORE_VEC_ERR.ILLEGAL c) Flt.VEC_ILLEGAL 0
      else if isPermute (vOp w) && !k.cu then d.vecFault c (Reg.CORE_VEC_ERR.UNIT c) Flt.VEC_UNIT 0
      else if k.rfMark w = 2 then d.vecFault c (Reg.CORE_VEC_ERR.RF_UE c) Flt.VEC_RF_UE 0
      else
        let d := d.setCore c (Core.occupy w { k with vq := rest })
        body w m.step ((k.rfHits w).foldl (fun d _ => d.rfCorrected c) d)
  | _, _ => d

/-- The two steps of a vector word. -/
def Dev.vec (c op : Nat) (p : VecStep) (body : Nat → Nat → Dev → Dev) (d : Dev) : Dev :=
  match p with
  | .pass ecc => d.vecPass c ecc op
  | .issue upsets => d.vecIssue c op upsets body

/-- A word that changes only the core's registers and raises flags. -/
def Dev.vecRegs (c op : Nat) (p : VecStep) (f : Core → Nat → Nat → Core × Flags) (d : Dev) : Dev :=
  d.vec c op p fun w step d =>
    let (k, fl) := f (d.core c) w step
    (d.setCore c k).fpRaiseCmd c fl

/-! ### Element operations -/

/-- The broadcast scalar of BS or VBCAST as a lane pattern, with its flags (R108). -/
def Core.scalarB (k : Core) (w : Nat) : Nat × Flags :=
  if vTyp w ≤ 1 then (k.s32 (vSa w), Flags.zero)
  else (laneFmt (vTyp w)).convert .nearest false (fp32.decode (k.s32 (vSa w)))

/-- Operand b of element `i`. -/
def Core.opB (k : Core) (w i : Nat) : Nat := if vBs w then (k.scalarB w).1 else k.vElem (laneSize (vTyp w)) (vVb w) i

/-- Flags of converting the scalar: once, and only with an active element. -/
def Core.scalarFlags (k : Core) (w : Nat) : Flags :=
  if vBs w && !(k.active w).isEmpty then (k.scalarB w).2 else Flags.zero

/-- The active elements take a result each; the flags are those of all of them. -/
def Core.elems (k : Core) (w size : Nat) (f : Nat → Nat × Flags) : Core × Flags :=
  let rs := (k.active w).map fun i => (i, f i)
  (k.writeBack w size (rs.map fun r => (r.1, r.2.1)), rs.foldl (fun a r => a.or r.2.2) Flags.zero)

/-- An element operation on va and b: the lane pattern and flags from the patterns. -/
def Core.binary (k : Core) (w : Nat) (f : Nat → Nat → Nat → Nat × Flags) : Core × Flags :=
  let size := laneSize (vTyp w)
  let (k', fl) := k.elems w size fun i => f i (k.vElem size (vVa w) i) (k.opB w i)
  (k', fl.or (k.scalarFlags w))

/-- A floating-point result of exact operands, rounded once (R65). -/
def fpResult (f : FpFmt) (rnd : Rnd) (r : Val × Bool) : Nat × Flags :=
  let (w, fl) := f.roundArith rnd r.1
  (w, fl.or (Flags.inv r.2))

/-- An arithmetic word: its integer and its floating-point meaning, with the stochastic identity advanced. DESIGN CHOICE (log entry 40): INT32 arithmetic
rounds nothing, so with RND = 2 it leaves SR_BASE as it is. -/
def Core.arith (k : Core) (w step : Nat) (fi : Nat → Nat → Nat) (ff : Val → Val → Val × Bool) : Core × Flags :=
  let t := vTyp w
  if laneInt t then k.binary w fun _ a b => (fi a b % 2 ^ 32, Flags.zero)
  else
    let f := laneFmt t
    let (k', fl) := k.binary w fun i a b => fpResult f (k.vRound w step i) (ff (f.decode a) (f.decode b))
    (k'.srAdvance w k.vl.val, fl)

/-- Exact a × b + c; a NaN operand decides and sets no flag (R51). -/
def fmaVal (a b c : Val) : Val × Bool :=
  if a.isNan || b.isNan || c.isNan then (.nan, false)
  else
    let (p, i) := Val.mul a b
    let (r, j) := Val.add p c
    (r, i || j)

def Core.fma (k : Core) (w step : Nat) : Core × Flags :=
  let f := laneFmt (vTyp w)
  let size := laneSize (vTyp w)
  let (k', fl) := k.binary w fun i a b =>
    fpResult f (k.vRound w step i) (fmaVal (f.decode a) (f.decode b) (f.decode (k.vElem size (vVc w) i)))
  (k'.srAdvance w k.vl.val, fl)

/-- The smaller of two values by R65: the one that is no NaN, and +0 of two zeros of different signs. -/
def minVal (a b : Val) : Val :=
  if a.isNan then b else if b.isNan then a
  else if a.isZero && b.isZero then .fin (a.isNeg && b.isNeg) 0 0
  else if Val.cmp a b ≤ 0 then a else b

/-- The larger of two values by R65. -/
def maxVal (a b : Val) : Val :=
  if a.isNan then b else if b.isNan then a
  else if a.isZero && b.isZero then .fin (a.isNeg && b.isNeg) 0 0
  else if Val.cmp a b ≤ 0 then b else a

def Core.minMax (k : Core) (w : Nat) (fi : Int → Int → Int) (ff : Val → Val → Val) : Core × Flags :=
  let f := laneFmt (vTyp w)
  k.binary w fun _ a b =>
    if laneInt (vTyp w) then (intBits 32 (fi (bitsInt 32 a) (bitsInt 32 b)), Flags.zero)
    else ((f.roundArith .nearest (ff (f.decode a) (f.decode b))).1, Flags.zero)

/-- The conditions of VCMP on an order: the sign of a − b. -/
def condOf (n : Nat) (x : Int) : Bool :=
  if n = 0 then decide (x = 0) else if n = 1 then decide (x ≠ 0) else if n = 2 then decide (x < 0)
  else if n = 3 then decide (x ≤ 0) else if n = 4 then decide (0 < x) else decide (0 ≤ x)

/-- The condition of VCMP for a pair of lane patterns. -/
def vcmpCond (w a b : Nat) : Bool :=
  let n := vImm w % 8
  if laneInt (vTyp w) then condOf n (bitsInt 32 a - bitsInt 32 b)
  else
    let f := laneFmt (vTyp w)
    let x := f.decode a
    let y := f.decode b
    if n = 7 then !x.isFinite
    else if n = 6 then x.isNan || y.isNan
    else if x.isNan || y.isNan then decide (n = 1)
    else condOf n (Val.cmp x y)

/-- Mask bits of a result: the active ones take theirs, those that ZM names become 0 (R106, R107). -/
def Core.maskResult (k : Core) (w : Nat) (f : Nat → Bool) : Core :=
  let old := k.mask (vVd w)
  let bit (i : Nat) : Bool :=
    if i < k.vl.val then (if k.isActive w i then f i else if vZm w then false else old.testBit i) else old.testBit i
  k.setMask (vVd w) ((List.range 1024).foldl (fun a i => if bit i then a + 2 ^ i else a) 0) fun i =>
    decide (i < k.vl.val) && (k.isActive w i || vZm w)

def Core.cmp (k : Core) (w : Nat) : Core × Flags :=
  let size := laneSize (vTyp w)
  let fl := if vImm w % 8 = 7 then Flags.zero else k.scalarFlags w
  (k.maskResult w fun i => vcmpCond w (k.vElem size (vVa w) i) (k.opB w i), fl)

def Core.sel (k : Core) (w : Nat) : Core × Flags :=
  k.binary w fun i a b => (if k.maskBit (vMsk w) i then a else b, Flags.zero)

/-! ### Approximate functions, R110 to R112 -/

/-- A value rounded to FP32, to nearest even. -/
def f32 (v : Val) : Val := fp32.decode (fp32.roundArith .nearest v).1

def fma32 (a b c : Val) : Val := f32 (fmaVal a b c).1

/-- The FP32 pattern of a value that FP32 holds exactly. -/
def bits32 (v : Val) : Nat := (fp32.roundArith .nearest v).1

/-- A positive power of two. -/
def pow2Val (e : Int) : Val := .fin false 1 e

def lessMag (v : Val) (e : Int) : Bool := decide (Val.cmp v.abs (pow2Val e) < 0)

/-- One refinement of the reciprocal. -/
def rcpStep (x y : Val) : Val := fma32 y (fma32 x.neg y Val.one) y

/-- The reciprocal before its final rounding, R110. -/
def rcpVal (x : Val) : Val × Flags :=
  match x with
  | .nan => (.nan, Flags.zero)
  | .inf n => (.fin n 0 0, Flags.zero)
  | .fin n m e =>
    if m = 0 then (.inf n, { Flags.zero with divzero := true })
    else
      let v : Val := .fin n m e
      let s : Int := if lessMag v (-125) then 24 else if Val.cmp (pow2Val 125) v.abs < 0 then -24 else 0
      let z := v.scale s
      let y := fp32.decode (0x7EF00000 - bits32 z.abs)
      let y := if n then y.neg else y
      let y := rcpStep z (rcpStep z (rcpStep z y))
      (y.scale s, Flags.zero)

/-- 0.5 and 1.5. -/
def halfVal : Val := .fin false 1 (-1)
def threeHalves : Val := .fin false 3 (-1)

/-- One refinement of the reciprocal square root. -/
def rsqStep (h y : Val) : Val := f32 (Val.mul y (fma32 h.neg (f32 (Val.mul y y).1) threeHalves)).1

/-- The reciprocal square root before its final rounding, R111. -/
def rsqVal (x : Val) : Val × Flags :=
  match x with
  | .nan => (.nan, Flags.zero)
  | .inf n => if n then (.nan, Flags.inv true) else (.fin false 0 0, Flags.zero)
  | .fin n m e =>
    if m = 0 then (.inf n, { Flags.zero with divzero := true })
    else if n then (.nan, Flags.inv true)
    else
      let v : Val := .fin n m e
      let small := lessMag v (-125)
      let z := if small then v.scale 24 else v
      let s : Int := if small then 12 else 0
      let h := (Val.mul halfVal z).1
      let y := fp32.decode (0x5F370000 - bits32 z / 2)
      let y := rsqStep h (rsqStep h (rsqStep h y))
      (y.scale s, Flags.zero)

/-- Lg and c6 to c0 of R112 as FP32 patterns. -/
def expLg : Val := fp32.decode 0x3FB8AA3B
def expCs : List Val :=
  [0x3AAEC3FF, 0x3C1D955B, 0x3D635847, 0x3E75FDF0, 0x3F317218, 0x3F800000].map fp32.decode
def expC6 : Val := fp32.decode 0x39218489

/-- A value clamped to −200 to 200. -/
def clamp200 (t : Val) : Val :=
  if Val.cmp (Val.ofInt 200) t < 0 then Val.ofInt 200 else if Val.cmp t (Val.ofInt (-200)) < 0 then Val.ofInt (-200) else t

/-- A finite value rounded to the nearest integer, ties to even. -/
def nearestInt (v : Val) : Int :=
  match v with
  | .fin n m e => let k := (roundAt .nearest m e 0).1; if n then -(k : Int) else k
  | _ => 0

/-- e^x before its final rounding, R112. -/
def expVal (x : Val) : Val × Flags :=
  match x with
  | .nan => (.nan, Flags.zero)
  | .inf n => if n then (.fin false 0 0, Flags.zero) else (.inf false, Flags.zero)
  | .fin n m e =>
    let t := clamp200 (f32 (Val.mul (.fin n m e) expLg).1)
    let k := nearestInt t
    let f := (Val.add t (Val.ofInt (-k))).1
    let p := expCs.foldl (fun p c => fma32 p f c) expC6
    (p.scale k, Flags.zero)

def Core.approx (k : Core) (w step : Nat) (g : Val → Val × Flags) : Core × Flags :=
  let f := laneFmt (vTyp w)
  let size := laneSize (vTyp w)
  let (k', fl) := k.elems w size fun i =>
    let (v, fl) := g (f.decode (k.vElem size (vVa w) i))
    let (r, fl') := f.roundArith (k.vRound w step i) v
    (r, fl.or fl')
  (k'.srAdvance w k.vl.val, fl)

/-! ### Conversion, broadcast and MX -/

/-- VCVT. DESIGN CHOICE (log entry 40): with RND = 2 every VCVT counts as a word that rounds stochastically and advances SR_BASE (R114), also
one whose conversions are exact. -/
def Core.cvt (k : Core) (w step : Nat) : Core × Flags :=
  let src := vImm w % 16
  let dst := vImm w / 16 % 16
  let (k', fl) := k.elems w (elemBitsOf dst / 8) fun i =>
    convertTo dst (k.vRound w step i) (vSat w) (elemVal src 0x7F (k.vElem (elemBitsOf src / 8) (vVa w) i))
  (k'.srAdvance w k.vl.val, fl)

def Core.bcast (k : Core) (w : Nat) : Core × Flags :=
  let (b, fl) := k.scalarB w
  let (k', _) := k.elems w (laneSize (vTyp w)) fun _ => (b, Flags.zero)
  (k', if (k.active w).isEmpty then Flags.zero else fl)

def Core.iota (k : Core) (w : Nat) : Core × Flags :=
  k.elems w 4 fun i => (intBits 32 ((i : Int) + bitsInt 19 (vImm w)), Flags.zero)

/-- Element codes of `bits` bits packed from bit 0 upwards, R53. -/
def packBits (bits : Nat) (es : List Nat) : List Byte :=
  leBytes (ceilDiv (es.length * bits) 8) (es.zipIdx.foldl (fun a e => a + e.1 * 2 ^ (bits * e.2)) 0)

/-- VMXP, R113: blocks of 32 elements, each with its scale. -/
def Core.mxPack (k : Core) (w step : Nat) : Core × Flags :=
  let code := vImm w % 16
  let blocks := (List.range (k.vl.val / 32)).map fun b =>
    mxWrite code (fun i => k.vRound w step (32 * b + i))
      ((List.range 32).map fun i => fp32.decode (k.vElem 4 (vVa w) (32 * b + i)))
  let data := packBits (elemBitsOf code) (blocks.flatMap fun b => b.2.1)
  let scales := blocks.map fun b => BitVec.ofNat 8 b.1
  let number (bs : List Byte) : List (Nat × Byte) := bs.zipIdx.map fun b => (b.2, b.1)
  let k' := (k.setVBytes (vVd w) (number data)).setVBytes (vVc w) (number scales)
  (k'.srAdvance w k.vl.val, blocks.foldl (fun f b => f.or b.2.2) Flags.zero)

/-- VMXU, R109: the FP32 value of each MX element, rounded to nearest where FP32 cannot hold it. -/
def Core.mxUnpack (k : Core) (w : Nat) : Core × Flags :=
  let code := vImm w % 16
  let bits := elemBitsOf code
  k.elems w 4 fun i =>
    let e := bitsOf (k.vElem 1 (vVa w) (i * bits / 8) + 256 * k.vElem 1 (vVa w) (i * bits / 8 + 1)) (i * bits % 8) bits
    fp32.roundArith .nearest (mxVal code (k.vElem 1 (vVc w) (i / 32)) e)

/-! ### Masks -/

def Core.maskOp (k : Core) (w : Nat) (f : Bool → Bool → Bool) : Core × Flags :=
  (k.maskResult w fun i => f (k.maskBit (vVa w) i) (k.maskBit (vVb w) i), Flags.zero)

def Core.mpop (k : Core) (w : Nat) : Core × Flags :=
  (k.setS32 (vVd w) ((k.active w).filter fun i => k.maskBit (vVa w) i).length, Flags.zero)

/-! ### Permutes, R109 -/

/-- VPERM. DESIGN CHOICE (log entry 40): the index is read as an unsigned number, so a negative INT32 index is 1,024 or more and gives +0; the spec
names only indices of 1,024 or more. -/
def Core.perm (k : Core) (w : Nat) : Core × Flags :=
  let size := laneSize (vTyp w)
  k.elems w size fun i =>
    let j := k.vElem 4 (vVb w) i
    (if j < 1024 then k.vElem size (vVa w) j else 0, Flags.zero)

def Core.shuf (k : Core) (w : Nat) : Core × Flags :=
  let size := laneSize (vTyp w)
  k.elems w size fun i =>
    match shufSrc k.vl.val (vImm w % 8) (vImm w / 256 % 2048) i with
    | some (b, j) => (k.vElem size (if b then vVb w else vVa w) j, Flags.zero)
    | none => (0, Flags.zero)

def Core.pack (k : Core) (w : Nat) : Core × Flags :=
  let size := laneSize (vTyp w)
  let vs := (k.picked w).map (k.vElem size (vVa w))
  let k' := k.setVElems size (vVd w) ((List.range k.vl.val).map fun i => (i, vs.getD i 0))
  (k'.setS32 (vSa w) vs.length, Flags.zero)

def Core.unpack (k : Core) (w : Nat) : Core × Flags :=
  let size := laneSize (vTyp w)
  let hit := (k.picked w).zipIdx.map fun p => (p.1, k.vElem size (vVa w) p.2)
  let zero := if vZm w then ((List.range k.vl.val).filter fun i => !k.maskBit (vMsk w) i).map fun i => (i, 0) else []
  (k.setVElems size (vVd w) (hit ++ zero), Flags.zero)

/-! ### Reductions, R121 -/

/-- The order of R121: 256 partial results, each over every 256th element, then halving. -/
def treeReduce {α : Type} (op : α → α → α) (ident : α) (vl : Nat) (elem : Nat → Option α) : α :=
  let part (j : Nat) : α :=
    [j, j + 256, j + 512, j + 768].foldl (fun p i => if i < vl then (match elem i with | some x => op p x | none => p) else p) ident
  let ps := (List.range 256).map part
  let ps := [128, 64, 32, 16, 8, 4, 2, 1].foldl (fun ps w => List.zipWith op (ps.take w) ((ps.drop w).take w)) ps
  ps.headD ident

/-- Element `i` of va widened to FP32, where it is active. -/
def Core.redVal (k : Core) (w i : Nat) : Option Val :=
  if k.isActive w i then some ((laneFmt (vTyp w)).decode (k.vElem (laneSize (vTyp w)) (vVa w) i)) else none

def Core.redInt (k : Core) (w i : Nat) : Option Int :=
  if k.isActive w i then some (bitsInt 32 (k.vElem 4 (vVa w) i)) else none

/-- The end of a floating-point reduction: the pattern, or its reciprocal with IMM[0]. -/
def Core.redEnd (k : Core) (w step : Nat) (v : Val) (fl : Flags) : Core × Flags :=
  if (vImm w).testBit 0 then
    let (r, f1) := rcpVal v
    let (b, f2) := fp32.roundArith (k.vRound w step 0) r
    ((k.setS32 (vVd w) b).srAdvance w 1, (fl.or f1).or f2)
  else (k.setS32 (vVd w) (bits32 v), fl)

def Core.rsum (k : Core) (w step : Nat) : Core × Flags :=
  if laneInt (vTyp w) then
    (k.setS32 (vVd w) (intBits 32 (treeReduce (fun a b => (addInt32 a b).1) 0 k.vl.val (k.redInt w))), Flags.zero)
  else
    let (v, fl) := treeReduce (fun (a b : Val × Flags) =>
      let (s, i) := Val.add a.1 b.1
      let (r, f) := fp32.roundArith .nearest s
      (fp32.decode r, ((a.2.or b.2).or f).or (Flags.inv i))) (Val.zero, Flags.zero) k.vl.val
      (fun i => (k.redVal w i).map fun x => (x, Flags.zero))
    k.redEnd w step v fl

def Core.rext (k : Core) (w step : Nat) (fi : Int → Int → Int) (ii : Int) (ff : Val → Val → Val) (iv : Val) : Core × Flags :=
  if laneInt (vTyp w) then (k.setS32 (vVd w) (intBits 32 (treeReduce fi ii k.vl.val (k.redInt w))), Flags.zero)
  else k.redEnd w step (treeReduce ff iv k.vl.val (k.redVal w)) Flags.zero

def Core.rnf (k : Core) (w : Nat) : Core × Flags :=
  let n := if laneInt (vTyp w) then 0
    else ((k.active w).filter fun i => match k.redVal w i with | some v => !v.isFinite | none => false).length
  (k.setS32 (vVd w) n, Flags.zero)

/-! ### Length and identity -/

def Core.setVl (k : Core) (w : Nat) : Core × Flags :=
  let n := vImm w % 2048
  let v : Fin 1025 := ⟨min (if n = 0 then k.s32 (vSa w) else n) 1024, by omega⟩
  ({ k with vl := v }.setS32 (vVd w) v, Flags.zero)

def Core.sri (k : Core) (w : Nat) : Core × Flags :=
  let p := vImm w % 32
  ({ k with srTid := k.s32 (vSa w), srBase := k.s32 p + 2 ^ 32 * k.s32 (p + 1),
            srStep := sext64 32 (k.s32 (vImm w / 32 % 32)) }, Flags.zero)

/-! ### Addresses, R118 -/

/-- The address of element `i`, formed exactly. -/
def Core.vAddr (k : Core) (w i : Nat) : Int :=
  let base : Int := (k.s32 (vSa w) : Int) + bitsInt 19 (vImm w)
  let size := laneSize (vTyp w)
  let op := vOp w
  base + (if op = 1 ∨ op = 4 then ((i * size : Nat) : Int)
    else if op = 2 ∨ op = 5 then (i : Int) * bitsInt 32 (k.s32 (vVc w))
    else bitsInt 32 (k.vElem 4 (vVb w) i) * (size : Int))

/-- An element's address is aligned and its bytes lie below 3 MiB. -/
def vAddrOk (a : Int) (size : Nat) : Bool :=
  decide (0 ≤ a) && decide (a + size ≤ clmSize) && decide (a % (size : Int) = 0)

/-- The active elements with their CLM offsets. -/
def Core.vAddrs (k : Core) (w : Nat) : List (Nat × Nat) := (k.active w).map fun i => (i, (k.vAddr w i).toNat)

/-- The first active element whose address breaks R118. -/
def Core.vBadAddr (k : Core) (w : Nat) : Option Nat :=
  (k.active w).find? fun i => !vAddrOk (k.vAddr w i) (laneSize (vTyp w))

/-! ### The store buffer, R119 and R120 -/

/-- The non-finite elements among some. -/
def Core.countNonFinite (k : Core) (w : Nat) (es : List Nat) : Nat :=
  if laneInt (vTyp w) then 0
  else (es.filter fun i => !((laneFmt (vTyp w)).decode (k.vElem (laneSize (vTyp w)) (vVd w) i)).isFinite).length

/-- Elements with their offsets, cut into groups that satisfy a key or, for scattered stores, that hold 64 elements. -/
def groupBy1k : List (Nat × Nat) → List (List (Nat × Nat))
  | [] => []
  | e :: r =>
    match groupBy1k r with
    | (f :: g) :: gs => if f.2 / 1024 = e.2 / 1024 then (e :: f :: g) :: gs else [e] :: (f :: g) :: gs
    | gs => [e] :: gs

/-- An entry of a group of elements. -/
def Core.sbEntry (k : Core) (w : Nat) (scattered : Bool) (g : List (Nat × Nat)) : SbEntry :=
  let size := laneSize (vTyp w)
  ⟨g.flatMap fun e => (leBytes size (k.vElem size (vVd w) e.1)).zipIdx.map fun b => (e.2 + b.2, b.1), scattered,
   k.countNonFinite w (g.map Prod.fst)⟩

/-- Entries are taken while there is room. -/
def Core.sbFill (k : Core) : Core :=
  let n := 16 - k.sb.length
  { k with sb := k.sb ++ k.sbWait.take n, sbWait := k.sbWait.drop n }

/-- A store: its address check, then its entries (R119). DESIGN CHOICE (log entry 40): a 1 KiB region of a unit-stride store in which every element is
masked off takes no entry, and a scattered entry takes the next 64 active elements in element order wherever they lie. -/
def Dev.vecStore (c op : Nat) (p : VecStep) (d : Dev) : Dev :=
  d.vec c op p fun w _ d =>
    let k := d.core c
    match k.vBadAddr w with
    | some i => d.vecFault c (Reg.CORE_VEC_ERR.ADDR c) Flt.VEC_ADDR (intBits 64 (k.vAddr w i))
    | none =>
      let es := k.vAddrs w
      let ents := if op = 4 then (groupBy1k es).map (k.sbEntry w false) else (chunks 64 es).map (k.sbEntry w true)
      d.setCore c (Core.sbFill { k with sbWait := ents })

/-- What R120 finds for a piece. -/
inductive Probe where
  | clm | forward | stall (drains : Nat)
  deriving DecidableEq, Repr

/-- The span of an entry contains a byte, R120. -/
def SbEntry.spans (e : SbEntry) (a : Nat) : Bool :=
  if e.scattered then
    (e.bytes.any fun b => decide (b.1 ≤ a)) && (e.bytes.any fun b => decide (a ≤ b.1))
  else e.bytes.any fun b => decide (b.1 = a)

/-- A piece against the entries, youngest first; an entry comes with the drains that empty it and every older one. -/
def probe (piece : List Nat) : List (SbEntry × Nat) → Probe
  | [] => .clm
  | (e, i) :: r =>
    if piece.any e.spans then
      if !e.scattered && piece.all e.spans then .forward else .stall (i + 1)
    else probe piece r

/-- The pieces of a load: its active bytes region by region, or element by element when strided or indexed. -/
def loadPieces (op size : Nat) (es : List (Nat × Nat)) : List (List Nat) :=
  let bytes (e : Nat × Nat) : List Nat := (List.range size).map (e.2 + ·)
  if op = 1 then (groupBy1k es).map fun g => g.flatMap bytes else es.map bytes

/-- A byte of CLM as a load sees it: the youngest store-buffer byte, or CLM. -/
def Dev.clmSeen (d : Dev) (c a : Nat) : Byte :=
  match ((d.core c).sb.flatMap SbEntry.bytes).reverse.find? fun b => decide (b.1 = a) with
  | some b => b.2
  | none => d.byte (clmPlace c a)

/-- The elements of a load, piece by piece. -/
def loadGroups (op : Nat) (es : List (Nat × Nat)) : List (List (Nat × Nat)) := if op = 1 then groupBy1k es else es.map fun e => [e]

/-- What a load reads of CLM: the elements of the pieces that the store buffer does not serve (R120). -/
def Core.loadSpans (k : Core) (op size : Nat) (es : List (Nat × Nat)) : List (Nat × Nat) :=
  ((loadGroups op es).filter fun g =>
    decide (probe (g.flatMap fun e => (List.range size).map (e.2 + ·)) k.sb.zipIdx.reverse ≠ .forward)).flatMap fun g =>
      g.map fun e => (e.2, size)

/-- The load reads and writes its destination. -/
def Dev.loadInto (c w : Nat) (es : List (Nat × Nat)) (d : Dev) : Dev :=
  let size := laneSize (vTyp w)
  d.clmReads c (fun d => (d.core c).loadSpans (vOp w) size es) fun d =>
    let vs := es.map fun e => (e.1, leNat ((List.range size).map fun i => d.clmSeen c (e.2 + i)))
    d.modCore c fun k => k.writeBack w size vs

/-- Drains that some pieces wait for. -/
def stallOf (ps : List Probe) : Option Nat :=
  ps.foldl (fun a p => match p with | .stall n => some (max n (a.getD 0)) | _ => a) none

/-- A load: its address check, then its pieces against the store buffer (R118, R120). -/
def Dev.vecLoad (c op : Nat) (p : VecStep) (d : Dev) : Dev :=
  d.vec c op p fun w _ d =>
    let k := d.core c
    match k.vBadAddr w with
    | some i => d.vecFault c (Reg.CORE_VEC_ERR.ADDR c) Flt.VEC_ADDR (intBits 64 (k.vAddr w i))
    | none =>
      let es := k.vAddrs w
      let ps := (loadPieces op (laneSize (vTyp w)) es).map fun q => probe q k.sb.zipIdx.reverse
      let d := d.addSat (Reg.CORE_VEC_SBFWD.COUNT c) (ps.filter fun q => decide (q = .forward)).length
      match stallOf ps with
      | some n => d.modCore c fun k => { k with loadStall := some ⟨BitVec.ofNat 64 w, n, es⟩ }
      | none => d.loadInto c w es

/-! ### The words -/

def execVld (c : CoreId) (p : VecStep) (s : State) : Out := s.does (Dev.vecLoad c 0x01 p)
def execVlds (c : CoreId) (p : VecStep) (s : State) : Out := s.does (Dev.vecLoad c 0x02 p)
def execVldx (c : CoreId) (p : VecStep) (s : State) : Out := s.does (Dev.vecLoad c 0x03 p)
def execVst (c : CoreId) (p : VecStep) (s : State) : Out := s.does (Dev.vecStore c 0x04 p)
def execVsts (c : CoreId) (p : VecStep) (s : State) : Out := s.does (Dev.vecStore c 0x05 p)
def execVstx (c : CoreId) (p : VecStep) (s : State) : Out := s.does (Dev.vecStore c 0x06 p)
def execVfence (c : CoreId) (p : VecStep) (s : State) : Out := s.does (Dev.vec c 0x07 p fun _ _ d => d)
def execVadd (c : CoreId) (p : VecStep) (s : State) : Out :=
  s.does (Dev.vecRegs c 0x10 p fun k w step => k.arith w step (· + ·) Val.add)
def execVsub (c : CoreId) (p : VecStep) (s : State) : Out :=
  s.does (Dev.vecRegs c 0x11 p fun k w step => k.arith w step (fun a b => a + 2 ^ 32 - b) fun a b => Val.add a b.neg)
def execVmul (c : CoreId) (p : VecStep) (s : State) : Out :=
  s.does (Dev.vecRegs c 0x12 p fun k w step => k.arith w step (· * ·) Val.mul)
def execVfma (c : CoreId) (p : VecStep) (s : State) : Out := s.does (Dev.vecRegs c 0x13 p Core.fma)
def execVmin (c : CoreId) (p : VecStep) (s : State) : Out :=
  s.does (Dev.vecRegs c 0x14 p fun k w _ => k.minMax w min minVal)
def execVmax (c : CoreId) (p : VecStep) (s : State) : Out :=
  s.does (Dev.vecRegs c 0x15 p fun k w _ => k.minMax w max maxVal)
def execVcmp (c : CoreId) (p : VecStep) (s : State) : Out := s.does (Dev.vecRegs c 0x16 p fun k w _ => k.cmp w)
def execVsel (c : CoreId) (p : VecStep) (s : State) : Out := s.does (Dev.vecRegs c 0x17 p fun k w _ => k.sel w)
def execVexp (c : CoreId) (p : VecStep) (s : State) : Out :=
  s.does (Dev.vecRegs c 0x18 p fun k w step => k.approx w step expVal)
def execVrcp (c : CoreId) (p : VecStep) (s : State) : Out :=
  s.does (Dev.vecRegs c 0x19 p fun k w step => k.approx w step rcpVal)
def execVrsq (c : CoreId) (p : VecStep) (s : State) : Out :=
  s.does (Dev.vecRegs c 0x1A p fun k w step => k.approx w step rsqVal)
def execVcvt (c : CoreId) (p : VecStep) (s : State) : Out := s.does (Dev.vecRegs c 0x1B p Core.cvt)
def execVbcast (c : CoreId) (p : VecStep) (s : State) : Out := s.does (Dev.vecRegs c 0x1C p fun k w _ => k.bcast w)
def execViota (c : CoreId) (p : VecStep) (s : State) : Out := s.does (Dev.vecRegs c 0x1D p fun k w _ => k.iota w)
def execVmxp (c : CoreId) (p : VecStep) (s : State) : Out := s.does (Dev.vecRegs c 0x1E p Core.mxPack)
def execVmxu (c : CoreId) (p : VecStep) (s : State) : Out := s.does (Dev.vecRegs c 0x1F p fun k w _ => k.mxUnpack w)
def execVmand (c : CoreId) (p : VecStep) (s : State) : Out :=
  s.does (Dev.vecRegs c 0x20 p fun k w _ => k.maskOp w (· && ·))
def execVmor (c : CoreId) (p : VecStep) (s : State) : Out :=
  s.does (Dev.vecRegs c 0x21 p fun k w _ => k.maskOp w (· || ·))
def execVmnot (c : CoreId) (p : VecStep) (s : State) : Out :=
  s.does (Dev.vecRegs c 0x22 p fun k w _ => k.maskOp w fun a _ => !a)
def execVmpop (c : CoreId) (p : VecStep) (s : State) : Out := s.does (Dev.vecRegs c 0x23 p fun k w _ => k.mpop w)
def execVperm (c : CoreId) (p : VecStep) (s : State) : Out := s.does (Dev.vecRegs c 0x30 p fun k w _ => k.perm w)
def execVshuf (c : CoreId) (p : VecStep) (s : State) : Out := s.does (Dev.vecRegs c 0x31 p fun k w _ => k.shuf w)
def execVpack (c : CoreId) (p : VecStep) (s : State) : Out := s.does (Dev.vecRegs c 0x32 p fun k w _ => k.pack w)
def execVunpack (c : CoreId) (p : VecStep) (s : State) : Out := s.does (Dev.vecRegs c 0x33 p fun k w _ => k.unpack w)
def execVrsum (c : CoreId) (p : VecStep) (s : State) : Out := s.does (Dev.vecRegs c 0x38 p Core.rsum)
def execVrmax (c : CoreId) (p : VecStep) (s : State) : Out :=
  s.does (Dev.vecRegs c 0x39 p fun k w step => k.rext w step max (-(2 ^ 31)) maxVal (.inf true))
def execVrmin (c : CoreId) (p : VecStep) (s : State) : Out :=
  s.does (Dev.vecRegs c 0x3A p fun k w step => k.rext w step min (2 ^ 31 - 1) minVal (.inf false))
def execVrnf (c : CoreId) (p : VecStep) (s : State) : Out := s.does (Dev.vecRegs c 0x3B p fun k w _ => k.rnf w)
def execVsetvl (c : CoreId) (p : VecStep) (s : State) : Out := s.does (Dev.vecRegs c 0x3C p fun k w _ => k.setVl w)
def execVsri (c : CoreId) (p : VecStep) (s : State) : Out := s.does (Dev.vecRegs c 0x3D p fun k w _ => k.sri w)

/-! ### Drains and counters -/

/-- The oldest entry drains to CLM, R119; non-finite elements are counted as they are written (R123). -/
def Dev.sbDrain (c : Nat) (d : Dev) : Dev :=
  let k := d.core c
  match k.sb with
  | [] => d
  | e :: r =>
    let d := (d.goodPlaces (e.bytes.map fun b => clmPlace c b.1)).setCells (e.bytes.map fun b => (clmPlace c b.1, b.2))
    let d := d.modCore c fun k => Core.sbFill
      { k with sb := r, sbOld := k.sbOld - 1, loadStall := k.loadStall.map fun l => { l with drains := l.drains - 1 } }
    d.nonFinite c e.nonfinite

def execStoreBufferDrain (c : CoreId) (s : State) : Out :=
  s.does fun d => if d.coreOn then d.sbDrain c else d

def execStalledLoadRead (c : CoreId) (s : State) : Out :=
  s.does fun d =>
    match (d.core c).loadStall with
    | some l =>
      if d.coreOn && decide (l.drains = 0) then
        (d.modCore c fun k => { k with loadStall := none }).loadInto c l.word.toNat l.addrs
      else d
    | none => d

/-- Both store-buffer counters are zeroed. -/
def Dev.vecClear (c : Nat) (d : Dev) : Dev := (d.set (Reg.CORE_VEC_SBSTALL.COUNT c) 0).set (Reg.CORE_VEC_SBFWD.COUNT c) 0

def execVecCtrclr (c : CoreId) (s : State) : Out := s.does (Dev.coreWrite (Dev.vecClear c))

end Sys2Proof.Machine
end

