-- ==== Sys2Proof/Machine/MemUnit.lean ====
section
/-! DEFINITION. Memory accesses of every requester (R161, R173 to R181, R186), accumulation into reduction buffers (R194 to R199), scrub,
refresh and ports that fail in service. -/

namespace Sys2Proof.Machine

/-! ### Error registers of the memories -/

/-- The stack and offset, or the port, that a place belongs to. -/
def stackOf (p : Nat) : Nat := p / 2 ^ 36
def portOf (p : Nat) : Nat := (p - 2 ^ 40) / 2 ^ 33
def isGrnPlace (p : Nat) : Bool := decide (p < 2 ^ 39)
def isGdmPlace (p : Nat) : Bool := decide (2 ^ 40 ≤ p) && decide (p < 2 ^ 41)
def isCsmPlace (p : Nat) : Bool := decide (2 ^ 41 ≤ p) && decide (p < 2 ^ 42)

/-- An uncorrectable access of a stack at a local address, R176 and R190: the flag, and the address of the first since the last clear. -/
def Dev.grnUe (k a : Nat) (d : Dev) : Dev :=
  let d := if d.bit (Reg.GRN_ERR.UE k) then d else d.set64 (Reg.GRN_ERRADDR_LO.ADDR k) a
  d.setBit (Reg.GRN_ERR.UE k) true

/-- A corrected access of a stack, R173: its address is what GRN_ERRADDR shows whenever UE = 0 (R190). -/
def Dev.grnCe (k a : Nat) (d : Dev) : Dev :=
  let d : Dev := { d with grn := mset {} d.grn k { mget {} d.grn k with ceAddr := a } }
  let d := if d.bit (Reg.GRN_ERR.UE k) then d else d.set64 (Reg.GRN_ERRADDR_LO.ADDR k) a
  (d.flag (Reg.GRN_ERR.CE k) (Reg.GRN_ERR.CE_CNT k)).raise { code := Flt.GRN_CE, source := k, arg0 := a }

/-- An uncorrectable access of a port, R180 and R191. -/
def Dev.gdmUe (p a : Nat) (d : Dev) : Dev :=
  let d := if d.bit (Reg.GDM_ERR.UE p) then d else d.set64 (Reg.GDM_ERRADDR_LO.ADDR p) a
  d.setBit (Reg.GDM_ERR.UE p) true

/-- The address of a corrected or retried access of a port. -/
def Dev.gdmNote (p a : Nat) (d : Dev) : Dev :=
  let d : Dev := { d with gdmCe := mset 0 d.gdmCe p a }
  if d.bit (Reg.GDM_ERR.UE p) then d else d.set64 (Reg.GDM_ERRADDR_LO.ADDR p) a

/-- The memory at a local address notes an uncorrectable access. -/
def Dev.noteUe (a : Nat) (d : Dev) : Dev :=
  match d.place a with
  | some p => if isGrnPlace p then d.grnUe (stackOf p) a else if isGdmPlace p then d.gdmUe (portOf p) a else d
  | none => d

/-! ### Why an access fails -/

inductive MemErr where
  /-- R161, at an address. -/
  | unmapped (a : Nat)
  /-- R176, R181 and R186. -/
  | ue (a : Nat)
  /-- R196. -/
  | partialRb (a : Nat)
  | lateRb (a : Nat)
  deriving DecidableEq, Repr

def MemErr.addr : MemErr → Nat
  | .unmapped a => a
  | .ue a => a
  | .partialRb a => a
  | .lateRb a => a

/-- The tag that goes with a requester's faults. -/
def Dev.tagOf (d : Dev) (q : MemRequester) : Nat :=
  match q with
  | .index c => (d.core c).tagNow
  | .trace c => (d.core c).tagNow
  | .dma c _ => (d.core c).tagNow
  | _ => 0

/-- The job-fatal code of an uncorrectable access at a local address. -/
def ueCode (a : Nat) : Nat :=
  if isGranary a then Flt.GRN_UE else if isGddr a then Flt.GDM_UE else if a < clmBase then Flt.CSM_UE else Flt.CLM_UE

/-- The instance that a memory fault names: the stack, port, cluster or core. -/
def Dev.memSource (d : Dev) (a : Nat) : Nat :=
  match d.place a with
  | some p =>
    if isGrnPlace p then stackOf p else if isGdmPlace p then portOf p
    else if isCsmPlace p then (p - 2 ^ 41) / 2 ^ 24 else (p - 2 ^ 42) / 2 ^ 22
  | none => 0

/-- A job-fatal fault of a requester. One of a core's own index unit or trace writer during a layer command ends that command with its code,
and the sequencer enters FAULT (R143). -/
def Dev.fatalOf (q : MemRequester) (e : Ev) (d : Dev) : Dev :=
  let ends (c : CoreId) : Dev := (if (d.core c).cmd.isSome then d.seqEnd c e.code e.tag else d).raise e
  match q with
  | .index c => ends c
  | .trace c => ends c
  | _ => d.raise e

/-- What a failed access does beyond the memory's own registers, by requester: a DMA descriptor carries it in its status, an uncorrectable host
access logs HST_MEM_UE, and every other failure raises the job-fatal fault (R161, R176, R438). -/
def Dev.memFault (q : MemRequester) (e : MemErr) (d : Dev) : Dev :=
  match e with
  | .unmapped a =>
    match q with
    | .dma _ _ => d
    | _ => d.fatalOf q { code := Flt.MEM_UNMAPPED, tag := d.tagOf q, arg0 := a }
  | .ue a =>
    match q with
    | .dma _ _ => d
    | .host => d.raise { code := Flt.HST_MEM_UE, arg0 := a }
    | _ => d.fatalOf q { code := ueCode a, source := d.memSource a, tag := d.tagOf q, arg0 := a }
  | _ => d

/-! ### Reads -/

/-- The first byte of a range on a port that failed in service. -/
def Dev.firstDead (d : Dev) (a n : Nat) : Option Nat :=
  if d.gdmDead = [] then none
  else ((List.range n).map (a + ·)).find? fun x =>
    match d.place x with
    | some p => isGdmPlace p && mget false d.gdmDead (portOf p)
    | none => false

/-- The first byte of a range that no memory backs. -/
def Dev.firstUnmapped (d : Dev) (a n : Nat) : Option Nat :=
  ((List.range n).map (a + ·)).find? fun x => (d.place x).isNone

/-- The first byte of a range that cannot be read. -/
def Dev.firstBad (d : Dev) (a n : Nat) : Option Nat := (d.firstUe a n).orElse fun _ => d.firstDead a n

/-- Why a read fails, if it does. -/
def Dev.readErr (d : Dev) (a n : Nat) : Option MemErr :=
  match d.firstUnmapped a n with
  | some x => some (.unmapped x)
  | none => (d.firstBad a n).map .ue

/-- A read that a requester makes: its bytes, or what the failure does. -/
def Dev.readMem (q : MemRequester) (a n : Nat) (d : Dev) : Option (List Byte) × Dev :=
  match d.readErr a n with
  | none => (some (d.rdBytes a n), d)
  | some (.ue x) => (none, (d.noteUe x).memFault q (.ue x))
  | some e => (none, d.memFault q e)

/-! ### Reduction buffers, R194 to R199 -/

def rbtElem (fmt : Nat) : Nat := if fmt = 0 then 4 else if fmt = 2 then 2 else 8
def rbtAddend (afmt : Nat) : Nat := if afmt = 1 then 2 else 4

/-- Bytes per element and per addend of an entry. -/
def Dev.rbtEs (d : Dev) (n : Nat) : Nat := rbtElem (d.get (Reg.GRN_RBT_CTL.FMT n))
def Dev.rbtAs (d : Dev) (n : Nat) : Nat := rbtAddend (d.get (Reg.GRN_RBT_CTL.AFMT n))

/-- First byte of an entry, and the byte after its last. -/
def Dev.rbtLo (d : Dev) (n : Nat) : Nat := d.get (Reg.GRN_RBT_BASE n) * 4096
def Dev.rbtHi (d : Dev) (n : Nat) : Nat := d.rbtLo n + d.get (Reg.GRN_RBT_LEN n) * d.rbtEs n

def Dev.rbtGroup (d : Dev) (n : Nat) : Nat := d.get (Reg.GRN_RBT_CTL.GROUP n)

/-- States of a group, R200. -/
def grpIdle : Nat := 0
def grpOpen : Nat := 1
def grpDeciding : Nat := 2
def grpApplying : Nat := 3
def grpClearing : Nat := 4
def grpMirroring : Nat := 5

def Dev.grpState (d : Dev) (g : Nat) : Nat := d.get (Reg.GRN_GRP_STATE.STATE g)

/-- Enabled entries of groups that are not IDLE, which a write of a range touches, in ascending order. -/
def Dev.rbtHit (d : Dev) (a n : Nat) : List Nat :=
  if !isGranary a then []
  else (List.range 256).filter fun i =>
    d.bit (Reg.GRN_RBT_CTL.EN i) && decide (a < d.rbtHi i) && decide (d.rbtLo i < a + n)
      && decide (d.grpState (d.rbtGroup i) ≠ grpIdle)

/-- The part of a range inside an entry. -/
def Dev.rbtCut (d : Dev) (i a n : Nat) : Nat × Nat := (max a (d.rbtLo i), min (a + n) (d.rbtHi i))

/-- The part covers whole addends of the entry, R196; the entry's addend i lies at its base plus i addend sizes (log entry 20). -/
def Dev.rbtWhole (d : Dev) (i a n : Nat) : Bool :=
  let (lo, hi) := d.rbtCut i a n
  let s := d.rbtAs i
  decide ((lo - d.rbtLo i) % s = 0) && decide ((hi - lo) % s = 0) && decide (hi - d.rbtLo i ≤ d.get (Reg.GRN_RBT_LEN i) * s)

/-- The group of the entry takes addends. -/
def Dev.rbtTakes (d : Dev) (i : Nat) : Bool :=
  let st := d.grpState (d.rbtGroup i)
  decide (st = grpOpen) || decide (st = grpMirroring)

/-- The addends of a write that fall into an entry. -/
def Dev.rbtAddends (d : Dev) (q : MemRequester) (i a : Nat) (bs : List Byte) : List Addend :=
  let (lo, hi) := d.rbtCut i a bs.length
  let s := d.rbtAs i
  let first := (lo - d.rbtLo i) / s
  (List.range ((hi - lo) / s)).map fun j =>
    let ea := d.rbtLo i + (first + j) * d.rbtEs i
    ⟨i, (d.place ea).getD 0, ea, leNat ((bs.drop (lo - a + j * s)).take s), q⟩

/-- The element that an addend makes of the stored one, R197: the new element, whether a non-finite event occurred, whether GRID_RANGE is set,
and the addend's exponent plus 149 where it counts towards MAXEXP. -/
def rbtUpdate (fmt afmt gride : Nat) (old x : Nat) : Nat × Bool × Bool × Option Nat :=
  let v := if afmt = 1 then bf16.decode x else fp32.decode x
  if fmt = 13 then
    let (t, out) := gridTerm ((gride : Int) - 149) v
    let (s, ov) := gridAdd (BitVec.ofNat 64 old) (BitVec.ofInt 64 t)
    (s.toNat, !v.isFinite, out || ov, if v.isFinite && !v.isZero then some (v.exponent + 149).toNat else none)
  else
    let f := if fmt = 2 then bf16 else fp32
    let b := f.decode old
    let r := (f.roundArith .nearest (Val.add b v).1).1
    (r, !v.isFinite || (b.isFinite && (f.decode r).isInf), false, none)

/-- A thresher lane adds one addend, R197 and R199. -/
def Dev.addendApply (ad : Addend) (d : Dev) : Dev :=
  let i := ad.rbt
  let fmt := d.get (Reg.GRN_RBT_CTL.FMT i)
  let es := rbtElem fmt
  if mget 0 d.grnBad (ad.place / 64) ≠ 0 then (d.grnUe (stackOf ad.place) ad.addr).memFault ad.q (.ue ad.addr)
  else
    let (v, nf, gr, me) := rbtUpdate fmt (d.get (Reg.GRN_RBT_CTL.AFMT i)) (d.get (Reg.GRN_RBS_FLAGS.GRIDE i))
      (leNat (d.bytes ad.place es)) ad.bits
    let d := d.setBytes ad.place (leBytes es v)
    let d := if nf then (d.setBit (Reg.GRN_RBS_FLAGS.NONFIN i) true).addSat (Reg.GRN_RBS_NFCNT.COUNT i) 1 else d
    let d := if gr then d.setBit (Reg.GRN_RBS_FLAGS.GRID_RANGE i) true else d
    let d := match me with
      | some e => d.set (Reg.GRN_RBS_FLAGS.MAXEXP i) (max e (d.get (Reg.GRN_RBS_FLAGS.MAXEXP i)))
      | none => d
    let k := stackOf ad.place
    (d.add64 (Reg.GRN_THR_ACC_LO k) 1).add64 (Reg.GRN_THR_BUSY_LO k) (if fmt = 13 then 4 else 1)

/-- The first addend of a stack's queue leaves it. -/
def takeAddend (k : Nat) : List Addend → Option (Addend × List Addend)
  | [] => none
  | a :: r => if stackOf a.place = k then some (a, r) else (takeAddend k r).map fun p => (p.1, a :: p.2)

/-- The oldest addend of a stack is added. -/
def Dev.addendNext (k : Nat) (d : Dev) : Dev :=
  match takeAddend k d.accq with
  | some (a, r) => Dev.addendApply a { d with accq := r }
  | none => d

/-- The queued addends that `which` names are added: what R201, R233, R303 and R306 wait for. -/
def Dev.accDrain (which : Addend → Bool) (d : Dev) : Dev :=
  (d.accq.filter which).foldl (fun d a => d.addendApply a) { d with accq := d.accq.filter fun a => !which a }

/-- Every addend that a requester has written is added, with the others of the same entries, whose order stays (R197). -/
def Dev.accArrive (q : MemRequester) (d : Dev) : Dev :=
  d.accDrain fun a => d.accq.any fun b => decide (b.q = q) && decide (b.rbt = a.rbt)

/-- Entries of a stack's accumulate queue in use. -/
def Dev.accCount (d : Dev) (k : Nat) : Nat := (d.accq.filter fun a => decide (stackOf a.place = k)).length

/-- An addend enters its stack's queue; a full queue of 128 first adds its oldest, which is what the requester waits for (R199). -/
def Dev.accPush (d : Dev) (a : Addend) : Dev :=
  let k := stackOf a.place
  let d := if 128 ≤ d.accCount k then d.addendNext k else d
  { d with accq := d.accq ++ [a] }

/-! ### Writes -/

/-- Whether a byte lies in one of some entries. -/
def Dev.inRbt (d : Dev) (hit : List Nat) (x : Nat) : Bool := hit.any fun i => decide (d.rbtLo i ≤ x) && decide (x < d.rbtHi i)

/-- A write of a range stores plainly at a byte: it lies in the range and in none of the entries that the write touches. -/
def Dev.plainAt (d : Dev) (hit : List Nat) (a n x : Nat) : Bool := decide (a ≤ x) && decide (x < a + n) && !d.inRbt hit x

/-- The first byte that a write stores plainly in a Granary codeword that cannot be corrected and that it does not store whole (R176). -/
def Dev.firstPartialUe (d : Dev) (hit : List Nat) (a n : Nat) : Option Nat :=
  if d.grnBad = [] then none
  else ((List.range n).map (a + ·)).find? fun x =>
    match d.place x with
    | some p => isGrnPlace p && decide (mget 0 d.grnBad (p / 64) ≠ 0) && d.plainAt hit a n x
        && !(decide (p % 64 ≤ x) && (List.range 64).all fun i => d.plainAt hit a n (x - p % 64 + i))
    | none => false

/-- Why a write fails, if it does: nothing is written then. -/
def Dev.writeErr (d : Dev) (a : Nat) (bs : List Byte) : Option MemErr :=
  let n := bs.length
  match d.firstUnmapped a n with
  | some x => some (.unmapped x)
  | none =>
    match d.firstDead a n with
    | some x => some (.ue x)
    | none =>
      let hit := d.rbtHit a n
      match hit.find? fun i => !d.rbtWhole i a n with
      | some i => some (.partialRb (d.rbtCut i a n).1)
      | none =>
        match hit.find? fun i => !d.rbtTakes i with
        | some i => some (.lateRb (d.rbtCut i a n).1)
        | none =>
          match (hit.flatMap fun i => d.rbtAddends .host i a bs).find? fun x => decide (mget 0 d.grnBad (x.place / 64) ≠ 0) with
          | some x => some (.ue x.addr)
          | none => (d.firstPartialUe hit a n).map .ue

/-- SRAM words and codewords that a write stores whole become good (R176, R186). -/
def Dev.heal (hit : List Nat) (a n : Nat) (d : Dev) : Dev :=
  if d.grnBad = [] ∧ d.sramEcc = [] then d
  else
    let ps := (((List.range n).map (a + ·)).filter (d.plainAt hit a n)).filterMap d.place
    { d with
      grnBad := d.grnBad.filter fun q => !((List.range 64).all fun i => ps.contains (q.1 * 64 + i)),
      sramEcc := d.sramEcc.filter fun q => !((List.range 8).all fun i => ps.contains (q.1 * 8 + i)) }

/-- Plain bytes of a write that touches entries. -/
def Dev.wrOutside (hit : List Nat) (a : Nat) (bs : List Byte) (d : Dev) : Dev :=
  bs.zipIdx.foldl (fun e b => if d.inRbt hit (a + b.2) then e else e.wr (a + b.2) b.1) d

/-- The effect of a write that does not fail: accumulation into the entries it touches, plain bytes elsewhere. -/
def Dev.writeGood (q : MemRequester) (a : Nat) (bs : List Byte) (d : Dev) : Dev :=
  match d.rbtHit a bs.length with
  | [] => (d.heal [] a bs.length).wrBytes a bs
  | hit => (hit.flatMap fun i => d.rbtAddends q i a bs).foldl Dev.accPush ((d.heal hit a bs.length).wrOutside hit a bs)

/-- A refused accumulating write, R196: the stack's flag and the job-fatal fault. -/
def Dev.rbRefuse (late : Bool) (q : MemRequester) (a : Nat) (d : Dev) : Dev :=
  let k := d.memSource a
  let d := if late then d.flag (Reg.GRN_THR_ERR.RB_LATE k) (Reg.GRN_THR_ERR.LATE_CNT k)
    else d.setBit (Reg.GRN_THR_ERR.RB_PARTIAL k) true
  d.fatalOf q { code := if late then Flt.RB_LATE else Flt.RB_PARTIAL, source := k, tag := d.tagOf q, arg0 := a }

/-- A write that a requester makes: what failed, if anything, and the state. -/
def Dev.writeMem (q : MemRequester) (a : Nat) (bs : List Byte) (d : Dev) : Option MemErr × Dev :=
  match d.writeErr a bs with
  | none => (none, d.writeGood q a bs)
  | some (.ue x) => (some (.ue x), (d.noteUe x).memFault q (.ue x))
  | some (.partialRb x) => (some (.partialRb x), d.rbRefuse false q x)
  | some (.lateRb x) => (some (.lateRb x), d.rbRefuse true q x)
  | some (.unmapped x) => (some (.unmapped x), d.memFault q (.unmapped x))

/-- A write whose failure only its fault tells. -/
def Dev.putMem (q : MemRequester) (a : Nat) (bs : List Byte) (d : Dev) : Dev := (d.writeMem q a bs).2

/-- A write made of writes of 32 bytes, each by itself: the picks of R183. -/
def Dev.putPicks (q : MemRequester) (a : Nat) (bs : List Byte) (d : Dev) : Dev :=
  (chunks 32 bs).zipIdx.foldl (fun d p => d.putMem q (a + 32 * p.2) p.1) d

/-- The sequencer writes the oldest waiting trace entry to its buffer, R156, as a requester like any other: a slot that cannot be written keeps
its bytes and raises the fault of R161, R176 or R181. -/
def Dev.traceDrain (c : CoreId) (d : Dev) : Dev :=
  match (d.core c).traceQ with
  | [] => d
  | e :: r =>
    let head := d.get (Reg.CORE_SEQ_TRACE_HEAD.HEAD c)
    let slot := head % 2 ^ d.get (Reg.CORE_SEQ_TRACE_CTL.LOG2SIZE c)
    let a := d.get64 (Reg.CORE_SEQ_TRACE_BASE_LO.BASE c) + 32 * slot
    let d := d.modCore c fun k => { k with traceQ := r }
    (d.set (Reg.CORE_SEQ_TRACE_HEAD.HEAD c) (head + 1)).putMem (.trace c) a e

/-! ### Single accesses -/

/-- A memory fault of a DMA access falls on the descriptor that the engine runs for that ring (R176, R239): status 7 MEM_UE, or 3 UNMAPPED. -/
def Dev.dmaNote (q : MemRequester) (e : MemErr) (d : Dev) : Dev :=
  match q with
  | .dma c r =>
    let code := match e with | .unmapped _ => 3 | .ue _ => 7 | _ => 11
    d.modCore c fun k => { k with dma := k.dma.map fun u =>
      if u.ring = r.val ∧ u.code = 0 ∧ code ≠ 0 then { u with code := code, errAddr := e.addr } else u }
  | _ => d

/-- An access of a requester by the rules above: the data of a read, and the state. -/
def Dev.access (q : MemRequester) (a : Nat) (how : Access) (d : Dev) : Option (List Byte) × Option MemErr × Dev :=
  match how with
  | .read n =>
    match d.readErr a n with
    | none => (some (d.rdBytes a n), none, d)
    | some e => let (_, d') := d.readMem q a n; (none, some e, d'.dmaNote q e)
  | .write bs =>
    match d.writeMem q a bs with
    | (none, d') => (none, none, d')
    | (some e, d') => (none, some e, d'.dmaNote q e)

def accessLen : Access → Nat
  | .read n => n
  | .write bs => bs.length

/-- A row of a bank as one number. -/
def RowId.num (r : RowId) : Nat := (r.channel * 256 + r.bank.toNat) * 2 ^ 24 + r.row.toNat

/-- A row that gives corrected errors at three or more distinct addresses within 24 hours is listed, R175. -/
def Dev.rowError (k row a : Nat) (d : Dev) : Dev :=
  let g := mget {} d.grn k
  let day := 24 * 3600000000 * ticksPerUs
  let old := (mget [] g.rowCe row).filter fun e => decide (e.1 ≠ a) && decide (d.mt < e.2 + day)
  let d : Dev := { d with grn := mset {} d.grn k { g with rowCe := mset [] g.rowCe row (old ++ [(a, d.mt)]) } }
  if 2 ≤ old.length then
    d.warnHourly (k * 2 ^ 40 + row) { code := Flt.GRN_ROW, source := k, arg0 := a, arg1 := row / 2 ^ 24 % 256, arg2 := row % 2 ^ 24 }
  else d

/-- A corrected error of a stack at a place: `row` is the row it lies in where the outcome tells it, and otherwise the row that the device has
there. -/
def Dev.grnCorrected (p a : Nat) (row : Option RowId) (d : Dev) : Dev :=
  (d.grnCe (stackOf p) a).rowError (stackOf p) ((row.map RowId.num).getD (Config.grnRow (stackOf p) (p % 2 ^ 36))) a

/-- A corrected error at a local address is logged by the memory it lies in. -/
def Dev.corrected (a : Nat) (row : Option RowId) (d : Dev) : Dev :=
  match d.place a with
  | some p =>
    if isGrnPlace p then d.grnCorrected p a row
    else if isGdmPlace p then
      ((d.gdmNote (portOf p) a).flag (Reg.GDM_ERR.ODE_CE (portOf p)) (Reg.GDM_ERR.ODE_CNT (portOf p))).raise
        { code := Flt.GDM_CE, source := portOf p, arg0 := a }
    else d.raise { code := if isCsmPlace p then Flt.CSM_CE else Flt.CLM_CE, source := d.memSource a, arg0 := a }
  | none => d

/-- Erasures of a channel. -/
def Granary.inChannel (g : Granary) (ch : Nat) : Nat := (g.erased.filter fun e => decide (e.1 = ch)).length

/-- A lane is identified as failing, R174: marked where its channel has room, and logged. -/
def Dev.laneFail (k ch lane : Nat) (d : Dev) : Dev :=
  let g := mget {} d.grn k
  let warn (d : Dev) : Dev :=
    d.warnHourly (k * 4096 + ch * 128 + lane) { code := Flt.GRN_LANE, source := k, arg0 := ch, arg1 := lane }
  if g.erased.contains (ch, lane) then d
  else if g.inChannel ch < 2 then
    let g := { g with erased := g.erased ++ [(ch, lane)] }
    warn ((Dev.setBit (Reg.GRN_ERR.LANE k) true { d with grn := mset {} d.grn k g }).set (Reg.GRN_STATUS.ERASED k) g.erased.length)
  else warn d

/-- The SRAM word or codeword at a local address is found uncorrectable: it stays so until it is written whole (R177). -/
def Dev.markUe (a : Nat) (d : Dev) : Dev :=
  match d.place a with
  | some p =>
    if isGrnPlace p then { d with grnBad := mset 0 d.grnBad (p / 64) 1 }
    else if isGdmPlace p then d
    else { d with sramEcc := mset 0 d.sramEcc (p / 8) 2 }
  | none => d

/-- A failed access of a port: all attempts failed, or the device reported an uncorrectable error (R179, R180). What a write left in the
memory is open. -/
def Dev.gdmFail (q : MemRequester) (a : Nat) (how : Access) (d : Dev) : Option (List Byte) × Option MemErr × Dev :=
  let d := match how with
    | .write bs => let (b, d) := d.freeBit; if b then d.writeGood q a bs else d
    | .read _ => d
  (none, some (.ue a), ((d.noteUe a).memFault q (.ue a)).dmaNote q (.ue a))

/-- An access with what its codewords turn out to hold (R173 to R176, R186). A range that no memory backs makes no access. -/
def Dev.eccAccess (q : MemRequester) (a : Nat) (how : Access) (o : EccOutcome) (d : Dev) : Option (List Byte) × Option MemErr × Dev :=
  if (d.firstUnmapped a (accessLen how)).isSome then d.access q a how
  else match o with
    | .good => d.access q a how
    | .corrected => (d.corrected a none).access q a how
    | .lane id =>
      let d := d.corrected a none
      (if isGranary a then d.laneFail (d.memSource a) id.channel id.lane else d).access q a how
    | .row id => (d.corrected a (some id)).access q a how
    | .uncorrectable => if isGddr a then d.gdmFail q a how else (d.markUe a).access q a how

/-- Whether the memories can be accessed: from G2 down and on the way there they refresh themselves (R188, R420), and after a trip they have no
power (R431). -/
def Dev.memOn (d : Dev) : Bool :=
  decide (d.get Reg.PWR_STATUS.STATE ≤ 1) && !(d.bit Reg.PWR_STATUS.MOVING && decide (2 ≤ d.pwr.moveTo)) && !d.bit Reg.PWR_STATUS.TRIPPED
    && !d.pwr.held

/-- The host gets the data of its read, or a poisoned completion (R176, R438). -/
def Dev.hostReply (q : MemRequester) (how : Access) (r : Option (List Byte) × Option MemErr × Dev) : Dev :=
  match q, how, r with
  | .host, .read _, (some bs, _, d) => d.emit (.hostData bs false)
  | .host, .read _, (none, some (.unmapped _), d) => d.emit .hostAbort
  | .host, .read _, (none, _, d) => d.emit (.hostData [] true)
  | _, _, (_, _, d) => d

def execGranaryAccess (q : MemRequester) (addr : DWord) (how : Access) (outcome : EccOutcome) (s : State) : Out :=
  s.does fun d => if d.memOn && !isGddr addr.toNat then Dev.hostReply q how (d.eccAccess q addr.toNat how outcome) else d

/-- Retries of a port: counted, and logged when the access then succeeded (R179). -/
def Dev.gdmRetries (a n : Nat) (ok : Bool) (d : Dev) : Dev :=
  match d.place a with
  | some p =>
    if n = 0 then d
    else
      let p := portOf p
      let d := ((d.gdmNote p a).setBit (Reg.GDM_ERR.CRC p) true).addSat (Reg.GDM_ERR.CRC_CNT p) n
      if ok then d.raise { code := Flt.GDM_CRC, source := p, arg0 := a } else d
  | none => d

def execGddrAccess (q : MemRequester) (addr : DWord) (how : Access) (retries : BitVec 2) (outcome : EccOutcome) (s : State) : Out :=
  s.does fun d =>
    if d.memOn && isGddr addr.toNat then
      Dev.hostReply q how
        ((d.gdmRetries addr.toNat retries.toNat (decide (outcome ≠ .uncorrectable))).eccAccess q addr.toNat how outcome)
    else d

def execGdmMargin (p : PortId) (s : State) : Out :=
  s.does fun d => if d.memOn then d.warnHourly p { code := Flt.GDM_MARGIN, source := p } else d

def execGddrPortFail (p : PortId) (s : State) : Out :=
  s.does fun d => { d with gdmDead := mset false d.gdmDead p true }

/-! ### Scrub and refresh -/

/-- A local address that R164 sends to an offset of a stack, if there is one. -/
def Dev.grnInverse (d : Dev) (k o : Nat) : Option Nat :=
  (List.range 384).findSome? fun g =>
    let slot := d.get (Reg.GRN_IAT.SLOT g)
    let part := d.get (Reg.GRN_IAT.PART g)
    match d.get (Reg.GRN_IAT.MODE g) with
    | 1 => if d.get (Reg.GRN_IAT.HOME g) = k ∧ slot = o / 2 ^ 30 then some (g * 2 ^ 30 + o % 2 ^ 30) else none
    | 2 =>
      if slot = o / 2 ^ 30 ∧ part = o % 2 ^ 30 / 2 ^ 27 then
        some (g * 2 ^ 30 + (o % 2 ^ 27 / 4096 * 8 + (k + 8 - part) % 8) * 4096 + o % 4096)
      else none
    | _ => none

/-- The address that a scrubbed codeword is reported under: open where no region claims it (log entry 1). -/
def Dev.scrubAddr (k o : Nat) (d : Dev) : Nat × Dev :=
  match d.grnInverse k o with
  | some a => (a, d)
  | none => d.freeNat

/-- A scrub of one codeword, R177. -/
def Dev.scrub (k o : Nat) (out : EccOutcome) (d : Dev) : Dev :=
  let p := grnPlace k o / 64
  let out := if mget 0 d.grnBad p ≠ 0 then .uncorrectable else out
  let (a, d) := d.scrubAddr k (o / 64 * 64)
  match out with
  | .good => d
  | .uncorrectable =>
    (Dev.grnUe k a { d with grnBad := mset 0 d.grnBad p 1 }).log { code := Flt.GRN_UE, source := k, arg0 := a }
  | .lane id => (d.grnCorrected (p * 64) a none).laneFail k id.channel id.lane
  | .row id => d.grnCorrected (p * 64) a (some id)
  | .corrected => d.grnCorrected (p * 64) a none

def execScrub (k : StackId) (offset : BitVec 36) (outcome : EccOutcome) (s : State) : Out :=
  s.does fun d => if d.memOn && d.bit (Reg.GRN_SCRUB.EN k) then d.scrub k offset.toNat outcome else d

/-- A refresh takes bandwidth and changes nothing (R187). -/
def execRefresh (_u : MemUnit) (_bank : BitVec 8) (s : State) : Out := s.does id

/-! ### Accumulation -/

def execAccumulateWrite (q : MemRequester) (addr : DWord) (data : List Byte) (s : State) : Out :=
  s.does fun d => if d.memOn && !(d.rbtHit addr.toNat data.length).isEmpty then
    Dev.hostReply q (.write data) (d.access q addr.toNat (.write data)) else d

def execAddendAccumulate (k : StackId) (s : State) : Out :=
  s.does fun d => if d.memOn then d.addendNext k else d

end Sys2Proof.Machine
end

