-- ==== Sys2Proof/Machine/Index.lean ====
section
/-! DEFINITION. The index unit (R148 to R151, R183, R184) and the end of a quiesce (R152). -/

namespace Sys2Proof.Machine

/-! ### Descriptors, R148 -/

/-- The fields of an index descriptor. -/
structure IxDesc where
  table : Nat
  idxAddr : Nat
  count : Nat
  rowBytes : Nat
  rowStride : Nat
  clmAddr : Nat
  bound : Nat
  deriving DecidableEq, Repr

def ixDesc (b : List Byte) : IxDesc :=
  let f := recField b
  ⟨f 0 8, f 8 4, f 0x0C 4, f 0x10 4, f 0x14 4, f 0x18 4, f 0x1C 4⟩

/-- A descriptor is well formed, R148, R150 and R184. -/
def IxOp.ok (o : IxOp) : Bool :=
  let x := ixDesc o.desc
  let last := x.table + x.bound * x.rowStride
  decide (o.desc.length = 32)
    && ((isGranary x.table && decide (last ≤ 0x006000000000)) || (isGddr x.table && decide (last ≤ 0x00C000000000) && !o.acc))
    && decide (x.idxAddr % 4 = 0) && decide (1 ≤ x.count) && decide (x.count ≤ 65536)
    && decide (x.rowBytes % 32 = 0) && decide (32 ≤ x.rowBytes) && decide (x.rowBytes ≤ 4096)
    && decide (x.rowStride % 32 = 0) && decide (x.clmAddr % 32 = 0)
    && decide (x.idxAddr + 4 * x.count ≤ clmSize) && decide (x.clmAddr + x.count * x.rowBytes ≤ clmSize)

/-! ### Queueing -/

/-- IXG and IXS: the descriptor is copied into the queue of four; one that does not lie in CLM at a multiple of 32 is malformed when its
turn comes. -/
def Dev.ixQueue (c : Nat) (ecc : WordEcc) (op : Nat) (scatter : Bool) (d : Dev) : Dev :=
  d.issue c ecc op usesRa (fun w => scatter || !(wImm w).testBit 8) fun w d =>
    let k := d.core c
    let a := k.s (wRa w)
    let inClm := decide (a % 32 = 0) && decide (a + 32 ≤ clmSize)
    if 4 ≤ k.ixq.length then d
    else if inClm && d.clmUe c a 32 then d.seqFault c Flt.CLM_UE (clmAddr c a)
    else
      let d := if inClm then d.clmCorrected c a 32 else d
      d.modCore c fun k => { k.next with
        ixq := k.ixq ++ [⟨if inClm then d.clm c a 32 else [], scatter, wImm w % 128, (wImm w).testBit 8, 0⟩] }

def execIxg (c : CoreId) (ecc : WordEcc) (s : State) : Out := s.does (Dev.ixQueue c ecc 0x34 false)
def execIxs (c : CoreId) (ecc : WordEcc) (s : State) : Out := s.does (Dev.ixQueue c ecc 0x35 true)

/-! ### Rows, R149 -/

/-- A read of the core's own CLM by its index unit. -/
def Dev.ixRead (c : CoreId) (off n : Nat) (d : Dev) : Option (List Byte) × Dev := d.readMem (.index c) (clmAddr c off) n

/-- An index outside the table: the flag and its count, and a gather's row of zeros. -/
def Dev.ixSkip (c : CoreId) (o : IxOp) (i row : Nat) (d : Dev) : Dev :=
  let d := if i = 0xFFFFFFFF then d else d.flag (Reg.CORE_SEQ_ERR.IDX_OOB c) (Reg.CORE_SEQ_ERR.OOB_CNT c)
  if o.scatter then d else d.setClm c row (List.replicate (ixDesc o.desc).rowBytes 0#8)

/-- A gathered row as picks of 32 bytes, R149: one that cannot be read writes nothing (log entry 21). -/
def Dev.ixPicks (c : CoreId) (a row n : Nat) (d : Dev) : Dev :=
  (List.range n).foldl (fun d i =>
    match d.readMem (.index c) (a + 32 * i) 32 with
    | (some bs, d) => d.setClm c (row + 32 * i) bs
    | (none, d) => d) d

/-- One row. What cannot be read is not written (log entry 21). -/
def Dev.ixRow (c : CoreId) (o : IxOp) (d : Dev) (j : Nat) : Dev :=
  let x := ixDesc o.desc
  let row := x.clmAddr + j * x.rowBytes
  match d.ixRead c (x.idxAddr + 4 * j) 4 with
  | (none, d) => d
  | (some ib, d) =>
    let i := leNat ib
    if i = 0xFFFFFFFF ∨ x.bound ≤ i then d.ixSkip c o i row
    else
      let a := x.table + i * x.rowStride
      if o.scatter then
        match d.ixRead c row x.rowBytes with
        | (some bs, d) => d.putPicks (.index c) a bs
        | (none, d) => d
      else
        d.ixPicks c a row (x.rowBytes / 32)

/-- Rows `lo` up to `hi` of an operation. -/
def Dev.ixRows (c : CoreId) (o : IxOp) (lo hi : Nat) (d : Dev) : Dev :=
  ((List.range (hi - lo)).map (lo + ·)).foldl (Dev.ixRow c o) d

/-- The oldest operation is malformed, R150. -/
def Dev.ixMalformed (c : CoreId) (rest : List IxOp) (d : Dev) : Dev :=
  (d.modCore c fun k => { k with ixq := rest }).seqFault c Flt.IDX_MALFORMED 0

/-- The oldest operation ends: its event is set. -/
def Dev.ixEnd (c : CoreId) (o : IxOp) (rest : List IxOp) (d : Dev) : Dev :=
  (d.modCore c fun k => { k with ixq := rest }).setEvent c o.event

def execIndexOpDone (c : CoreId) (s : State) : Out :=
  s.does fun d =>
    let k := d.core c
    match k.ixq with
    | o :: rest =>
      if !d.coreOn || k.draining || decide (k.seq = .quiesced) || decide (k.seq = .loadchk) then d
      else if !o.ok then d.ixMalformed c rest
      else (d.ixRows c o o.done (ixDesc o.desc).count).ixEnd c o rest
    | [] => d

/-! ### The end of a quiesce, R152 -/

/-- The index unit finishes its current group of 32: how many groups it has done by then is open (log entry 1). -/
def Dev.ixQuiesce (c : CoreId) (d : Dev) : Dev :=
  match (d.core c).ixq with
  | [] => d
  | o :: rest =>
    if !o.ok then d
    else
      let count := (ixDesc o.desc).count
      let (n, d) := d.freeNat
      let hi := min count (o.done + 32 * (n % ((count - o.done + 31) / 32 + 1)))
      let d := d.ixRows c o o.done hi
      if hi = count then d.ixEnd c o rest else d.modCore c fun k => { k with ixq := { o with done := hi } :: rest }

/-- The spill of a quiesced command, whose reads check the entries' codes (R97), then its completion area, the resume record and QUIESCED (R98, R152). -/
def Dev.quiesceEnd (c : CoreId) (d : Dev) : Dev :=
  let k := d.core c
  match k.cmd with
  | some m =>
    if m.spills then
      d.accRead c ((arrRec m.record).spillEntries m.ntile) fun d =>
        ((d.spillOut c m).modCore c fun k => { k with cmd := some { m with spilled := true } }).quiesced c
    else d.quiesced c
  | none => d.quiesced c

def execQuiesceDone (c : CoreId) (upsets : List AccUpset) (s : State) : Out :=
  s.does fun d =>
    let d := d.accUpset c upsets
    let k := d.core c
    if d.coreOn && decide (k.seq = .quiescing) && k.drained then (d.ixQuiesce c).quiesceEnd c else d

end Sys2Proof.Machine
end

