-- ==== Sys2Proof/Machine/Notices.lean ====
section
/-! DEFINITION. Heartbeats (R352, R353) and headland notices (R354 to R356, R363). -/

namespace Sys2Proof.Machine

/-! ### Instants of a round, R356 -/

def Dev.hlC (d : Dev) (tmin : Nat) : Nat := tmin + d.get Reg.FLT_HL_CFG.WINDOW_US * ticksPerUs
def Dev.hlD (d : Dev) (tmin : Nat) : Nat := roundTarget (d.hlC tmin + d.get Reg.FLT_HL_CFG.SETTLE_US * ticksPerUs)
def Dev.hlP (d : Dev) (tmin : Nat) : Nat := roundTarget (d.hlD tmin + d.get Reg.FLT_HL_CFG.SETTLE_US * ticksPerUs)

/-! ### Notices -/

/-- The notice in a frame's body. -/
def noticeOf (b : List Byte) : Notice :=
  let f (o n : Nat) : Nat := recField b o n
  ⟨f 1 1, f 2 1, f 3 1, f 4 2, f 6 2, f 8 8, f 0x10 4, f 0x14 2, f 0x16 2, f 0x18 8, f 0x20 4⟩

/-- Two notices have one key, R355. -/
def Notice.sameKey (a b : Notice) : Bool :=
  decide (a.kind = b.kind) && decide (a.subject = b.subject) && (decide (3 ≤ a.kind) || decide (a.dir = b.dir))

/-- MODULE and SHEAF notices open and feed a round. -/
def Notice.evidence (n : Notice) : Bool := decide (n.kind = 1) || decide (n.kind = 2)

/-- The list with a notice stored, if it is to be stored: its key is new, or it is evidence with an earlier STAMP. -/
def noticeStore (n : Notice) (l : List Notice) : Option (List Notice) :=
  match l.find? n.sameKey with
  | none => some (l ++ [n])
  | some o => if n.evidence && decide (n.stamp < o.stamp) then some (l.map fun x => if n.sameKey x then n else x) else none

/-- The round's t_min becomes the earliest STAMP given, or the floor where that is later (R356, R363); stored evidence with a STAMP from the new C on
waits for the next round. -/
def Dev.setTmin (t : Nat) (d : Dev) : Dev :=
  let t := max d.hl.floor t
  let late (n : Notice) : Bool := n.evidence && decide (d.hlC t ≤ n.stamp)
  let held := (d.hl.notices.filter late).foldl (fun l n => (noticeStore n l).getD l) d.hl.held
  Dev.set64 Reg.FLT_HL_TMIN_LO t { d with hl := { d.hl with
    tmin := some t, notices := d.hl.notices.filter fun n => !late n, held := held } }

/-- A notice of the current round that is to take part. -/
def Dev.noticeTake (n : Notice) (d : Dev) : Dev :=
  if n.kind = 3 then
    if d.get Reg.FLT_STATUS.HL = hlStopped then d
    else d.enterStopped { code := Flt.HL_STOP, arg0 := n.code, arg1 := n.subject }
  else if n.evidence && decide (d.get Reg.FLT_STATUS.HL < hlStopped) then
    let d := d.setTmin (match d.hl.tmin with
      | some t => min t n.stamp
      | none => n.stamp)
    if d.get Reg.FLT_STATUS.HL = hlIdle then d.set Reg.FLT_STATUS.HL hlCollect else d
  else d

/-- The notice comes too late for the round that is going on: its STAMP lies from C on (R356), or the round has been decided. -/
def Dev.noticeLate (d : Dev) (n : Notice) : Bool :=
  n.evidence && (decide (d.get Reg.FLT_STATUS.HL = hlConfirm) || (d.hl.tmin.map fun t => decide (d.hlC t ≤ n.stamp)).getD false)

/-- A notice arrives, or is raised by the module itself (R355): accepted, held or discarded by its round, then stored and forwarded. -/
def Dev.noticeIn (arrival : Option Nat) (n : Notice) (d : Dev) : Dev :=
  if n.blk ≠ d.get Reg.FAB_BLOCK_ID ∨ n.blk = 0 then d
  else if n.round = d.hl.round ∧ (noticeStore n d.hl.notices).isNone then d
  else if n.round = (d.hl.round + 1) % 2 ^ 32 ∨ (n.round = d.hl.round ∧ d.noticeLate n) then
    match noticeStore n d.hl.held with
    | some l => Dev.flood n arrival { d with hl := { d.hl with held := l } }
    | none => d
  else if n.round = d.hl.round then
    match noticeStore n d.hl.notices with
    | some l => Dev.noticeTake n (Dev.flood n arrival { d with hl := { d.hl with notices := l } })
    | none => d
  else d

/-- The module raises a notice of its own. -/
def Dev.raiseNotice (kind dir subject code : Nat) (d : Dev) : Dev :=
  d.noticeIn none ⟨kind, dir, if d.bit Reg.FLT_CTL.POLICY then 2 else 0, subject, d.get Reg.FAB_BLOCK_ID, d.mt, d.hl.round, code, 0, 0, 0⟩

/-- The last link towards a block neighbour went down: a SHEAF notice, R354. -/
def Dev.raiseSheaf (dir : Nat) (d : Dev) : Dev :=
  let x := d.neighbour d.node dir
  if d.inBlock d.node && d.inBlock x && decide (x ≠ d.node) then
    d.raiseNotice 2 (dir / 2 * 2) (if dir % 2 = 0 then d.node else x) Flt.LNK_DOWN
  else d

/-- A MODULE notice against a block neighbour, R353. -/
def Dev.raiseModule (x : Nat) (d : Dev) : Dev :=
  if d.inBlock d.node && d.inBlock x && decide (x ≠ d.node) then d.raiseNotice 1 0 x Flt.HB_LOST else d

/-! ### Heartbeats -/

/-- HSTATE of R352: withdrawn, the compute domain in reset (R408, R417), in no block, or active. -/
def Dev.hstate (d : Dev) : Nat :=
  if d.flt.fatal.isSome then 1
  else if d.get Reg.PWR_BOOT_STATUS.PHASE < 6
    ∨ (d.rst.map fun r => decide (r.domain ≤ 1) || (r.force && decide (r.domain ≠ 4))).getD false then 2
  else if d.get Reg.FAB_BLOCK_ID = 0 then 3 else 0

/-- The body of a heartbeat. -/
def Dev.heartbeatBody (d : Dev) : List Byte :=
  leBytes 1 1 ++ leBytes 1 d.hstate ++ leBytes 1 (d.get Reg.FLT_STATUS.HL) ++ leBytes 1 d.hl.round ++ leBytes 2 d.node
    ++ leBytes 2 (d.get Reg.FAB_BLOCK_ID) ++ leBytes 8 d.col.decStep

def execHeartbeatSend (s : State) : Out :=
  s.does fun d => (List.range 24).foldl (fun d l => if d.linkCarries l then d.sendCtrl l d.heartbeatBody else d) d

/-- A CTRL frame of a subtype that waits to be handled leaves the queue. -/
def Dev.takeCtl (l : Nat) (f : Frame) (sub : Nat) (d : Dev) : Option Dev :=
  if d.fab.ctlQ.contains (l, f) && decide (recField f.body 0 1 = sub) then
    some { d with fab := { d.fab with ctlQ := d.fab.ctlQ.erase (l, f) } }
  else none

/-- A heartbeat refreshes its link; HSTATE 1 or 2 raises a module notice against a block neighbour (R353). -/
def execHeartbeat (l : LinkId) (f : Frame) (s : State) : Out :=
  s.does fun d =>
    match d.takeCtl l f 1 with
    | none => d
    | some d =>
      let st := recField f.body 1 1
      let d := d.modLink l fun k => { k with hbAt := d.mt + 1, hbState := st }
      if st = 1 ∨ st = 2 then d.raiseModule (d.linkPeer l) else d

/-- A link has carried no heartbeat for LIMIT_US. -/
def Dev.silent (d : Dev) (l : Nat) : Bool :=
  d.linkCarries l && decide ((d.link l).hbAt + d.get Reg.FLT_HB_CFG.LIMIT_US * ticksPerUs ≤ d.mt + 1)

/-- The lock bits of a link's lanes. -/
def Dev.setLocks (l mask : Nat) (d : Dev) : Dev :=
  (List.range 9).foldl (fun d i => d.setBit (Reg.LNK_LANE.LOCK l i) (mask.testBit i)) d

/-- What a link holds of frames in flight goes; DATA frames that wait stay. -/
def Link.afresh (k : Link) : Link := { downed := k.downed, txq := k.txq, hbAt := k.hbAt, hbState := k.hbState }

/-- Training starts from step 1 on a used link (R249): no lane is locked. -/
def Dev.startTraining (l : Nat) (d : Dev) : Dev :=
  if !d.linkUsed l then d
  else
    let d := (d.modLink l Link.afresh).setLocks l 0
    let d := (((d.setBit (Reg.LNK_STATUS.NARROW l) false).setBit (Reg.LNK_STATUS.SPARE l) false).set (Reg.LNK_STATUS.LOST l) 0).setBit
      (Reg.LNK_STATUS.PNARROW l) false
    (d.set (Reg.LNK_STATUS.VER l) 0).setLnkState l lLight

/-- Links to a node, in ascending order. -/
def Dev.linksTo (d : Dev) (x : Nat) : List Nat := (List.range 24).filter fun l => d.linkUsed l && decide (d.linkPeer l = x)

/-- A link falls silent (R353): a module notice when every link to the neighbour that is not DOWN is silent, else HB_LOST and a new
training of the silent link. -/
def execLinkSilent (l : LinkId) (s : State) : Out :=
  s.does fun d =>
    let x := d.linkPeer l
    if !(d.silent l && d.inBlock d.node && d.inBlock x && decide (x ≠ d.node)) then d
    else if (d.linksTo x).all fun j => decide (d.lnkState j = lDown) || d.silent j then d.raiseModule x
    else if (d.linksTo x).any fun j => d.linkCarries j && !d.silent j then
      ((d.flag Reg.FLT_ERR.HB_LOST Reg.FLT_ERR.HB_CNT).warnHourly l { code := Flt.HB_LOST, source := l, arg0 := l.val }).startTraining l
    else d

/-- A notice that a link delivered. -/
def execNotice (l : LinkId) (f : Frame) (s : State) : Out :=
  s.does fun d =>
    match d.takeCtl l f 3 with
    | none => d
    | some d => d.noticeIn (some l) (noticeOf f.body)

/-- From C the round settles. -/
def execHlClose (s : State) : Out :=
  s.does fun d =>
    match d.hl.tmin with
    | some t => if d.get Reg.FLT_STATUS.HL = hlCollect ∧ d.hlC t ≤ d.mt then d.set Reg.FLT_STATUS.HL hlSettle else d
    | none => d

end Sys2Proof.Machine
end

