-- ==== Sys2Proof/Machine/Link.lean ====
section
/-! DEFINITION. One end of a Twivin link: training (R249 to R252), frames, acknowledgement and replay (R253 to R259), stalls, lane loss
and width (R260 to R265), power states (R266, R267) and margins (R268). -/

namespace Sys2Proof.Machine

/-! ### Training -/

/-- An attempt fails (R249): DARK for 100 ms, or DOWN after the third. -/
def Dev.attemptFail (l : Nat) (d : Dev) : Dev :=
  let n := (d.link l).attempts + 1
  if 3 ≤ n then
    ((d.modLink l fun k => { k with attempts := 0 }).setLnkState l lDown).raise { code := Flt.LNK_TRAIN_FAIL, source := l, arg0 := l }
  else (d.modLink l fun k => { k with attempts := n, backoff := true }).setLnkState l lDark

/-- Wiring that does not match the plan stops training without retry, R251. -/
def Dev.wiringBad (l : Nat) (d : Dev) : Dev :=
  ((d.setBit (Reg.LNK_ERR.WIRING l) true).setLnkState l lDown).raise
    { code := Flt.LNK_WIRING, source := l, arg0 := d.get (Reg.LNK_PEER.NODE l), arg1 := d.get (Reg.LNK_PEER.LINK l) }

/-- A step of training in the state it belongs to. -/
def Dev.trainStep (l st : Nat) (f : Dev → Dev) (d : Dev) : Dev := if d.lnkState l = st then f d else d

/-- A commit of PSTATE 0 or 1 at either end leaves L2 (R267). -/
def execTrainStart (l : LinkId) (why : TrainCause) (s : State) : Out :=
  s.does fun d =>
    let st := d.lnkState l
    match why with
    | .linkReset => if st = lDark ∧ !(d.link l).backoff then d.startTraining l else d
    | .imageEnd => if st = lDark ∧ !(d.link l).backoff then d.startTraining l else d
    | .retrain => d.startTraining l
    | .leaveL2 => if st = lL2 then d.startTraining l else d

def execRetrain (_r : Requester) (l : LinkId) (s : State) : Out := s.does (Dev.startTraining l)

def execLightDone (l : LinkId) (s : State) : Out := s.does (Dev.trainStep l lLight fun d => d.setLnkState l lSpeak)

/-- SPEAK: the peer's identity and versions; the link runs the highest version that both offer (R252). -/
def execSpeakDone (l : LinkId) (node : BitVec 14) (link : BitVec 5) (vers : BitVec 2) (s : State) : Out :=
  s.does (Dev.trainStep l lSpeak fun d =>
    let d := ((d.set (Reg.LNK_PEER.NODE l) node.toNat).set (Reg.LNK_PEER.LINK l) link.toNat).set (Reg.LNK_PEER.VERS l) vers.toNat
    let v := min (d.get (Reg.LNK_CTL.VERMAX l)) vers.toNat
    if v = 0 then d.wiringBad l else (d.set (Reg.LNK_STATUS.VER l) (min v 2)).setLnkState l lLock)

/-- Physical lanes that the version in use runs: nine, or eight in Twivin 1 (R252). -/
def Dev.lanes (d : Dev) (l : Nat) : List Nat := List.range (if d.get (Reg.LNK_STATUS.VER l) = 1 then 8 else 9)

/-- LOCK ends: a lane without lock is left to the test at ALIGN (log entry 48). -/
def execLockDone (l : LinkId) (locked : BitVec 9) (s : State) : Out :=
  s.does (Dev.trainStep l lLock fun d =>
    (d.setLocks l ((d.lanes l).foldl (fun m i => if locked.getLsbD i then m + 2 ^ i else m) 0)).setLnkState l lEqualise)

def execEqualiseDone (l : LinkId) (s : State) : Out := s.does (Dev.trainStep l lEqualise fun d => d.setLnkState l lAlign)

/-- The map with the logical lane on a physical lane moved to another; 9 drops it. -/
def moveLane (lane phys : Nat) (m : List Nat) : List Nat := m.map fun p => if p = lane then phys else p

/-- The map runs at 7/8 width. -/
def mapNarrow (m : List Nat) : Bool := m.contains 9

/-- The map for the failed lanes among those of a version, R250: the spare takes the lower-numbered of two; none where the attempt fails. -/
def assignLanes (lanes : List Nat) (failed : Nat) : Option (List Nat) :=
  let bad := lanes.filter failed.testBit
  let spare := lanes.contains 8 && !bad.contains 8
  let m := [0, 1, 2, 3, 4, 5, 6, 7]
  match bad.filter (· < 8) with
  | [] => some m
  | [x] => some (moveLane x (if spare then 8 else 9) m)
  | [x, y] => if spare then some (moveLane y 9 (moveLane x 8 m)) else none
  | _ => none

/-- Lanes of a link that the configuration image names as defective (R404), as a mask. -/
def Dev.defectLanes (d : Dev) (l : Nat) : Nat :=
  d.img.defects.foldl (fun m x => if x.typ = 5 ∧ x.unit = l then m ||| 2 ^ x.index else m) 0

/-- Lanes in use that are not locked, as a mask. -/
def Dev.unlockedLanes (d : Dev) (l : Nat) : Nat :=
  (d.lanes l).foldl (fun m i => if d.bit (Reg.LNK_LANE.LOCK l i) then m else m + 2 ^ i) 0

/-- Lanes that fail the test at ALIGN, R250: defective ones, those without lock and those beyond the error ratio. -/
def Dev.failedLanes (d : Dev) (l : Nat) (failed : BitVec 9) : Nat := (failed.toNat ||| d.defectLanes l ||| d.unlockedLanes l) % 2 ^ 9

/-- ALIGN, R250: each direction assigns its spare; what the peer found in this end's transmit direction comes with the training exchange. -/
def execAlignDone (l : LinkId) (failed peerFailed : BitVec 9) (s : State) : Out :=
  s.does (Dev.trainStep l lAlign fun d =>
    let bad := d.failedLanes l failed
    match assignLanes (d.lanes l) bad, assignLanes (d.lanes l) peerFailed.toNat with
    | some rx, some tx =>
      let d := d.modLink l fun k => { k with rxMap := rx, maps := [], txMap := tx }
      let d := ((d.set (Reg.LNK_STATUS.LOST l) bad).setBit (Reg.LNK_STATUS.SPARE l) (rx.contains 8)).setBit (Reg.LNK_STATUS.NARROW l)
        (mapNarrow rx)
      (d.setBit (Reg.LNK_STATUS.PNARROW l) (mapNarrow tx)).setLnkState l lIdent
    | _, _ => d.attemptFail l)

/-- IDENT, R251: the peer against the link plan; 512 credits for every virtual channel (R255). -/
def execIdentDone (l : LinkId) (s : State) : Out :=
  s.does (Dev.trainStep l lIdent fun d =>
    let want := 3 * ((l / 3) ^^^ 1) + l % 3
    if d.get (Reg.LNK_PEER.NODE l) = d.linkPeer l ∧ d.get (Reg.LNK_PEER.LINK l) = want then
      (d.modLink l fun k => { k with credits := [(0, 512), (1, 512), (2, 512), (3, 512)] }).setLnkState l lLatency
    else d.wiringBad l)

/-- The body of a power-state frame: byte 1 is 0 for a request and 1 for a grant (log entry 23). -/
def powerBody (grant : Bool) : List Byte := [4#8, if grant then 1#8 else 0#8]

/-- With PSTATE = 2 the link asks for L2 (R267). -/
def Dev.askL2 (l : Nat) (d : Dev) : Dev :=
  if d.get (Reg.LNK_CTL.PSTATE l) = 2 && d.linkSends l then d.sendCtrl l (powerBody false) else d

/-- LATENCY ends training: UP, or UP_HELD after the link had gone down and has not been admitted (R265). -/
def execLatencyDone (l : LinkId) (lat rtt : BitVec 24) (s : State) : Out :=
  s.does (Dev.trainStep l lLatency fun d =>
    let k := d.link l
    let hold := k.downed && !d.bit (Reg.LNK_CTL.ADMIT l)
    let d := (d.set (Reg.LNK_LAT l) lat.toNat).set (Reg.LNK_RTT l) rtt.toNat
    let d := d.setLink l { k with
      attempts := 0, downed := hold, expected := 0, una := 0, next := 0, replay := [], resend := none, pos := 0, hbAt := d.mt + 1 }
    (d.setLnkState l (if hold then lUpHeld else lUp)).askL2 l)

/-- A commit has set ADMIT: a held link passes to UP, whose slot positions begin at 0, at once or when its HOLD ends (R265, R288). -/
def Dev.admitLink (l : Nat) (d : Dev) : Dev :=
  if !d.bit (Reg.LNK_CTL.ADMIT l) then d
  else if d.lnkState l = lUpHeld then (d.modLink l fun k => { k with downed := false, pos := 0 }).setLnkState l lUp
  else if d.lnkState l = lHold && decide ((d.link l).heldFrom = lUpHeld) then
    d.modLink l fun k => { k with downed := false, pos := 0, heldFrom := lUp }
  else d

def execTrainStepTimeout (l : LinkId) (s : State) : Out :=
  s.does fun d => if lLight ≤ d.lnkState l ∧ d.lnkState l ≤ lLatency then d.attemptFail l else d

def execDarkBackoffExpire (l : LinkId) (s : State) : Out :=
  s.does fun d =>
    if d.lnkState l = lDark ∧ (d.link l).backoff then
      let n := (d.link l).attempts
      (d.startTraining l).modLink l fun k => { k with attempts := n }
    else d

/-! ### Link down, R265 -/

/-- Links of a direction carry nothing any more. -/
def Dev.sheafGone (d : Dev) (dir : Nat) : Bool := (List.range 3).all fun i => !d.linkCarries (3 * dir + i)

/-- The link goes down: the record, ADMIT cleared, the replay buffer and partial frames discarded, a report to the headland protocol if the
sheaf is gone, and a new training. -/
def Dev.linkDown (l : Nat) (d : Dev) : Dev :=
  let d := (d.flag (Reg.LNK_ERR.DOWN l) (Reg.LNK_ERR.DOWN_CNT l)).setBit (Reg.LNK_CTL.ADMIT l) false
  let d := (d.setLnkState l lDown).raise { code := Flt.LNK_DOWN, source := l, arg0 := l }
  let d := d.modLink l fun k => { k.afresh with downed := true }
  let d := if d.sheafGone (l / 3) then d.raiseSheaf (l / 3) else d
  d.startTraining l

/-! ### Acknowledgement and replay -/

/-- The sender takes an acknowledgement and returned credits, R256 and R257. -/
def Link.passAck (f : Frame) (k : Link) : Link :=
  if !f.ackv then k
  else
    let k := { k with credits := mset 0 k.credits f.crdVc.toNat (mget 0 k.credits f.crdVc.toNat + f.crdCnt.toNat) }
    let n := (f.ack.toNat + 65536 - k.una) % 65536
    if n ≤ (k.next + 65536 - k.una) % 65536 then
      { k with
        una := f.ack.toNat, replay := k.replay.drop n,
        resend := k.resend.bind fun r => if f.ack.toNat = k.next then none
          else if (r + 65536 - k.una) % 65536 < n then some f.ack.toNat else some r }
    else k

/-- The frames that a link receives in its state (R265, R266): all in UP, IDLE and CTRL in UP_HELD and L1. -/
def Dev.receives (d : Dev) (l : Nat) (typ : Nat) : Bool :=
  if typ = frameCtrl ∨ typ = frameIdle then d.linkCarries l else decide (d.lnkState l = lUp)

/-- A frame that arrives on a link: discarded and counted by R254 and R255, or handled with its acknowledgement passed on. -/
def Dev.receive (l : Nat) (f : Frame) (typ : Nat) (body : Dev → Dev) (d : Dev) : Dev :=
  if !(d.receives l typ && decide (f.typ.toNat = typ)) then d
  else if !f.ok then d.add64 (Reg.LNK_CRCF_LO l) 1
  else body (d.modLink l (Link.passAck f))

/-- A sequenced frame, R256: delivered in order, a duplicate, or a gap. -/
def Dev.sequenced (l : Nat) (f : Frame) (deliver : Dev → Dev) (d : Dev) : Dev :=
  let k := d.link l
  let n := (f.seq.toNat + 65536 - k.expected) % 65536
  if n = 0 then deliver (d.setLink l { k with expected := (k.expected + 1) % 65536, ackOwed := true })
  else if 32768 ≤ n then (d.setLink l { k with ackOwed := true }).add64 (Reg.LNK_DUP_LO l) 1
  else if k.rreqAt = 0 ∨ k.rreqAt - 1 + d.get (Reg.LNK_RTT l) ≤ d.mt then
    d.setLink l { k with rreqOwed := true, rreqAt := d.mt + 1 }
  else d

/-- A CTRL frame is taken in: time frames with their time of arrival, and none on Twivin 1 (R252, R331). -/
def Dev.ctrlIn (l : Nat) (f : Frame) (d : Dev) : Dev :=
  d.receive l f frameCtrl (Dev.sequenced l f fun d =>
    if recField f.body 0 1 = 2 then
      if d.get (Reg.LNK_STATUS.VER l) = 1 then d else { d with fab := { d.fab with timeQ := d.fab.timeQ ++ [(l, d.mt, f)] } }
    else { d with fab := { d.fab with ctlQ := d.fab.ctlQ ++ [(l, f)] } })

def execCtrlFrame (l : LinkId) (f : Frame) (s : State) : Out := s.does (Dev.ctrlIn l f)

/-- The sender goes back to a frame of its window. -/
def Link.goBack (a : Nat) (k : Link) : Link :=
  if (a + 65536 - k.una) % 65536 < (k.next + 65536 - k.una) % 65536 then { k with resend := some a } else k

def Dev.rreqIn (l : Nat) (f : Frame) (d : Dev) : Dev :=
  d.receive l f frameRreq fun d =>
    d.modLink l fun k => Link.goBack f.ack.toNat (Link.passAck { f with ackv := true, crdCnt := 0 } k)

def execRreqFrame (l : LinkId) (f : Frame) (s : State) : Out := s.does (Dev.rreqIn l f)

def Dev.idleIn (l : Nat) (f : Frame) (d : Dev) : Dev := d.receive l f frameIdle id

def execIdleFrame (l : LinkId) (f : Frame) (s : State) : Out := s.does (Dev.idleIn l f)

/-- TRAIN frames are accepted in steps 2 to 7, and what they exchange is the training steps' own. -/
def execTrainFrame (l : LinkId) (f : Frame) (s : State) : Out :=
  s.does fun d =>
    if lSpeak ≤ d.lnkState l ∧ d.lnkState l ≤ lLatency ∧ !f.ok then d.add64 (Reg.LNK_CRCF_LO l) 1 else d

/-- The peer's lane map, R263: the transmitter switches and marks the switch. Byte j of the body is the physical lane of logical lane j,
9 for none (log entry 22). -/
def Dev.lmapIn (l : Nat) (f : Frame) (d : Dev) : Dev :=
  d.receive l f frameLmap fun d =>
    let m := (f.body.take 8).map BitVec.toNat
    if (d.link l).txMap = m then d
    else ((d.modLink l fun k => { k with txMap := m }).setBit (Reg.LNK_STATUS.PNARROW l) (mapNarrow m)).emit (.marker l)

def execLmapFrame (l : LinkId) (f : Frame) (s : State) : Out := s.does (Dev.lmapIn l f)

/-- The frame U is sent again from the start of the window, R257. -/
def execReplayTimer (l : LinkId) (s : State) : Out :=
  s.does fun d =>
    if d.linkSends l then d.modLink l fun k => if k.una = k.next then k else { k with resend := some k.una } else d

def execProgressTimeout (l : LinkId) (s : State) : Out :=
  s.does fun d => if d.linkSends l ∧ (d.link l).una ≠ (d.link l).next then d.linkDown l else d

/-! ### Decoding -/

/-- Physical lanes that carry a logical lane, in logical order. -/
def Link.serving (k : Link) : List Nat := k.rxMap.filter (· < 9)

/-- The physical lane of a symbol of a codeword: they are dealt round-robin over the logical lanes in service (R248). -/
def Link.symbolLane (k : Link) (i : Nat) : Nat := k.serving[i % k.serving.length]?.getD 9

/-- Corrected symbols are counted for the lanes that carried them (R268). -/
def Link.countSymbols (errs : List (Fin 544)) (k : Link) : Link :=
  { k with symErrs := errs.foldl (fun m i => mset 0 m (k.symbolLane i.val) (mget 0 m (k.symbolLane i.val) + 1)) k.symErrs }

/-- The codeword lock of ALIGN holds, and codewords come. -/
def Dev.codewordLock (d : Dev) (l : Nat) : Bool := (decide (lAlign ≤ d.lnkState l) && decide (d.lnkState l ≤ lLatency)) || d.linkCarries l

/-- A codeword, R248 and R255, by the positions of its symbols in error: at most 15 symbols are corrected, else it is discarded with the frame
that it would have gone on with. `f`: a frame that it completes and that fails R254 or R255, which is counted; a good one is the frame command
that follows. `tail`: the bytes that begin a frame. -/
def execCodewordReceive (l : LinkId) (symErrs : List (Fin 544)) (f : Option Frame) (tail : List Byte) (s : State) : Out :=
  s.does fun d =>
    if !d.codewordLock l then d
    else if 15 < symErrs.length then (d.modLink l fun k => { k with part := [] }).add64 (Reg.LNK_FECU_LO l) 1
    else
      let d := d.modLink l fun k => { k.countSymbols symErrs with part := tail }
      let d := if symErrs = [] then d else d.add64 (Reg.LNK_FECC_LO l) 1
      match f with
      | some f => if f.ok then d else d.add64 (Reg.LNK_CRCF_LO l) 1
      | none => d

/-! ### Sending -/

/-- Piste entries that reserve a position of a link: origin and transit entries with the link as OUT_LINK (R289). -/
def Dev.pisteAt (d : Dev) (l pos : Nat) : Option Nat :=
  (List.range 512).find? fun p =>
    d.bit (Reg.PST_CTL.EN p) && decide (d.get (Reg.PST_CTL.ROLE p) < 2) && decide (d.get (Reg.PST_CTL.OUT_LINK p) = l)
      && (d.get64 (Reg.PST_SLOTS_LO p)).testBit pos

/-- The link holds a credit for a frame. -/
def Link.hasCredit (k : Link) (f : Frame) : Bool := decide (0 < mget 0 k.credits f.vc.toNat)

/-- The first waiting frame of a test leaves the queue. -/
def takeTx (p : TxItem → Bool) : List TxItem → Option (TxItem × List TxItem)
  | [] => none
  | t :: r => if p t then some (t, r) else (takeTx p r).map fun q => (q.1, t :: q.2)

/-- The first frame of some pistes that is its piste's oldest one waiting and has a credit leaves the queue (R291). -/
def takePiste (k : Link) (want : Nat → Bool) : List TxItem → Option (TxItem × List TxItem)
  | [] => none
  | t :: r =>
    if t.f.piste && want t.f.px then
      if k.hasCredit t.f then some (t, r)
      else (takePiste k (fun p => want p && decide (p ≠ t.f.px)) r).map fun q => (q.1, t :: q.2)
    else (takePiste k want r).map fun q => (q.1, t :: q.2)

/-- Frames of the virtual-channel kind that arrived on one input leave in arrival order on each virtual channel (R285). -/
def Dev.firstOfInput (d : Dev) (t : TxItem) : Bool :=
  t.hold.isNone || (List.range 24).all fun j =>
    (d.link j).txq.all fun u => u.f.piste || decide (u.hold ≠ t.hold) || decide (t.arr ≤ u.arr)

/-- The piste frame that the position is reserved for, with what else waits. -/
def Dev.reservedTx (d : Dev) (l : Nat) : Option (TxItem × List TxItem) :=
  let k := d.link l
  (d.pisteAt l k.pos).bind fun p => takePiste k (fun q => decide (q = p)) k.txq

/-- The DATA frame of a position that its piste leaves: piste frames and other traffic in turn (R291), each kind in order (log entry 49). -/
def Dev.otherTx (d : Dev) (l : Nat) : Option (TxItem × List TxItem) :=
  let k := d.link l
  let piste := takePiste k (fun _ => true) k.txq
  let vcs := takeTx (fun t => !t.f.piste && k.hasCredit t.f && d.firstOfInput t) k.txq
  if k.pisteTurn then piste.orElse fun _ => vcs else vcs.orElse fun _ => piste

/-- The lane map that was announced last, or the one in use. -/
def Link.lastMap (k : Link) : List Nat := k.maps.getLast?.getD k.rxMap

/-- The virtual channel with buffers to return. -/
def Link.owedVc (k : Link) : Nat := ((List.range 4).find? fun v => decide (0 < mget 0 k.owed v)).getD 0

/-- A frame with its link fields filled in: the sender's `expected` and returned buffers, the slot position and the CRC. On Twivin 1 PISTE and
LSLOT are 0 (R252). -/
def Link.stamp (f : Frame) (seq : Nat) (one : Bool) (k : Link) : Frame × Link :=
  let vc := k.owedVc
  let n := min (mget 0 k.owed vc) 255
  (Frame.seal { f with
    ackv := true, seq := BitVec.ofNat 16 seq, ack := BitVec.ofNat 16 k.expected, crdVc := BitVec.ofNat 2 vc,
    crdCnt := BitVec.ofNat 8 n, piste := f.piste && !one, lslot := if one then 0 else BitVec.ofNat 6 k.pos },
   { k with owed := mset 0 k.owed vc (mget 0 k.owed vc - n), ackOwed := false, pos := (k.pos + 1) % 64 })

/-- A time frame takes its STAMP afresh each time it is sent (R331). -/
def restamp (f : Frame) (mt : Nat) : Frame :=
  if f.typ.toNat = frameCtrl ∧ recField f.body 0 1 = 2 then { f with body := pad224 (f.body.take 8 ++ leBytes 8 mt) } else f

/-- A frame leaves on a link. -/
def Dev.putFrame (l : Nat) (f : Frame) (seq : Nat) (d : Dev) : Frame × Dev :=
  let (f, k) := (d.link l).stamp (restamp f d.mt) seq (decide (d.get (Reg.LNK_STATUS.VER l) = 1))
  (f, (d.setLink l k).emit (.frame l f))

/-- A sequenced frame leaves: it enters the replay buffer. -/
def Dev.putSequenced (l : Nat) (f : Frame) (d : Dev) : Dev :=
  let (f, d) := d.putFrame l f (d.link l).next
  d.modLink l fun k => { k with replay := k.replay ++ [f], next := (k.next + 1) % 65536 }

/-- A buffer of a link's virtual channel is free again and will be returned. -/
def Dev.freeBuffer (h : Option (Nat × Nat)) (d : Dev) : Dev :=
  match h with
  | some (l, vc) => d.modLink l fun k => { k with owed := mset 0 k.owed vc (mget 0 k.owed vc + 1) }
  | none => d

/-- A DATA frame leaves, using a credit. -/
def Dev.putData (l : Nat) (t : TxItem) (rest : List TxItem) (d : Dev) : Dev :=
  let vc := t.f.vc.toNat
  let d := d.modLink l fun k => { k with txq := rest, credits := mset 0 k.credits vc (mget 0 k.credits vc - 1) }
  (d.putSequenced l t.f).freeBuffer t.hold

/-- The frame a link resends, if a replay is in progress. -/
def Link.resendFrame (k : Link) : Option (Nat × Frame) :=
  k.resend.bind fun r => (k.replay[(r + 65536 - k.una) % 65536]?).map fun f => (r, f)

/-- DATA frames that wait are dropped by a withdrawn module, and counted (R352). -/
def Dev.dropWaiting (l : Nat) (d : Dev) : Dev :=
  let q := (d.link l).txq
  q.foldl (fun d t => d.freeBuffer t.hold) ((d.modLink l fun k => { k with txq := [] }).addSat Reg.FAB_DROP_ROUTE q.length)

/-- A CTRL frame leaves; with a grant the link enters L2 (R267). -/
def Dev.putCtrl (l : Nat) (b : List Byte) (rest : List (List Byte)) (d : Dev) : Dev :=
  let d := (d.modLink l fun k => { k with ctl := rest }).putSequenced l (plainFrame frameCtrl b)
  if b = powerBody true then d.setLnkState l lL2 else d

/-- A frame without a sequence number leaves. -/
def Dev.putPlain (l typ : Nat) (body : List Byte) (d : Dev) : Dev := (d.putFrame l (plainFrame typ body) 0).2

/-- One frame is sent (R257, R288, R291): a replay first, then the piste that the position is reserved for, then RREQ and LMAP, then waiting
CTRL frames, then other DATA frames, else IDLE. Only UP carries more than IDLE and CTRL frames (R265, R266). -/
def Dev.transmit (l : Nat) (d : Dev) : Dev :=
  let d := if d.flt.fatal.isSome then d.dropWaiting l else d
  let k := d.link l
  let up := decide (d.sendState l = lUp)
  let fresh := decide ((k.next + 65536 - k.una) % 65536 < 8192) && k.resendFrame.isNone
  match k.resendFrame.filter fun r => up || decide (r.2.typ.toNat = frameCtrl) with
  | some (r, f) =>
    let (_, d) := d.putFrame l f r
    let r' := (r + 1) % 65536
    (d.modLink l fun k => { k with resend := if r' = k.next then none else some r' }).add64 (Reg.LNK_REPLAY_LO l) 1
  | none =>
    match if up && fresh then d.reservedTx l else none with
    | some (t, r) => (d.putData l t r).add64 Reg.FAB_PISTE_LO 1
    | none =>
      if up && k.rreqOwed then (d.putPlain l frameRreq []).modLink l fun k => { k with rreqOwed := false }
      else if up && decide (0 < k.lmapOwed) then
        (d.putPlain l frameLmap (k.lastMap.map (BitVec.ofNat 8))).modLink l fun k => { k with lmapOwed := k.lmapOwed - 1 }
      else match k.ctl, fresh with
        | b :: r, true => d.putCtrl l b r
        | _, _ =>
          match if up && fresh then d.otherTx l else none with
          | some (t, r) => (d.putData l t r).modLink l fun k => { k with pisteTurn := !t.f.piste }
          | none => d.putPlain l frameIdle []

def execFrameTransmit (l : LinkId) (s : State) : Out :=
  s.does fun d => if d.linkSends l then d.transmit l else d

/-- A delivered frame's acknowledgement is due: a header goes out now. -/
def execAckDue (l : LinkId) (s : State) : Out :=
  s.does fun d => if d.linkSends l ∧ (d.link l).ackOwed then d.transmit l else d

/-! ### Stalls and lanes -/

/-- Lanes that carry a logical lane and are in a mask. -/
def Link.inService (k : Link) (mask : Nat) : List Nat := k.rxMap.filter fun p => decide (p < 9) && mask.testBit p

/-- Lanes lose lock, R260: three or more in service within 10 µs stop the stream, and the receiver enters HOLD with what it has of a frame. -/
def execLaneLockLoss (l : LinkId) (lanes : BitVec 9) (s : State) : Out :=
  s.does fun d =>
    let st := d.lnkState l
    if st = lUp ∨ st = lUpHeld then
      let d := (List.range 9).foldl (fun d i => if lanes.getLsbD i then d.setBit (Reg.LNK_LANE.LOCK l i) false else d) d
      if 3 ≤ ((d.link l).inService lanes.toNat).length then (d.modLink l fun k => { k with heldFrom := st }).setLnkState l lHold else d
    else d

/-- The lane map changes: it is announced four times, and takes effect at its marker (R263). -/
def Dev.changeMap (l : Nat) (m : List Nat) (d : Dev) : Dev :=
  ((d.modLink l fun k => { k with maps := k.maps ++ [m], lmapOwed := 4 }).setBit (Reg.LNK_STATUS.SPARE l) (m.contains 8)).setBit
    (Reg.LNK_STATUS.NARROW l) (mapNarrow m)

/-- A lane of the receive direction is lost, R262 and R263. -/
def Dev.laneLost (l lane : Nat) (locked : Bool) (d : Dev) : Dev :=
  let lost := d.get (Reg.LNK_STATUS.LOST l)
  if lost.testBit lane ∨ !((d.lnkState l = lUp) ∨ (d.lnkState l = lUpHeld)) then d
  else
    let m := (d.link l).lastMap
    let d := (d.set (Reg.LNK_STATUS.LOST l) (lost ||| 2 ^ lane)).setBit (Reg.LNK_LANE.LOCK l lane) locked
    if !m.contains lane then d
    else if d.get (Reg.LNK_STATUS.VER l) = 2 ∧ !m.contains 8 ∧ !(lost.testBit 8) then
      ((d.changeMap l (moveLane lane 8 m)).setBit (Reg.LNK_ERR.SPARED l) true).raise { code := Flt.LNK_SPARED, source := l, arg0 := lane }
    else if !mapNarrow m then
      ((d.changeMap l (moveLane lane 9 m)).setBit (Reg.LNK_ERR.NARROW l) true).warnHourly l { code := Flt.LNK_NARROW, source := l, arg0 := lane }
    else d.linkDown l

def execLaneLost (l : LinkId) (lane : Fin 9) (locked : Bool) (s : State) : Out := s.does (Dev.laneLost l lane locked)

/-- Lanes of a mask that are still without lock are lost, the lower-numbered first (R260, R262). -/
def Dev.lanesLost (l : Nat) (unlocked : BitVec 9) (d : Dev) : Dev :=
  (List.range 9).foldl (fun d i => if unlocked.getLsbD i then d.laneLost l i false else d) d

/-- The stream is back: the link leaves HOLD. -/
def Dev.leaveHold (l : Nat) (unlocked : BitVec 9) (d : Dev) : Dev :=
  (d.setLocks l ((d.lanes l).foldl (fun m i => if unlocked.getLsbD i then m else m + 2 ^ i) 0)).setLnkState l (d.link l).heldFrom

/-- STALL_US passes in HOLD, R260: the partial frame is discarded and RREQ sent, or the link goes down. -/
def execStallTimeout (l : LinkId) (unlocked : BitVec 9) (s : State) : Out :=
  s.does fun d =>
    if d.lnkState l ≠ lHold then d
    else if ((d.link l).inService unlocked.toNat).length < 3 then
      ((d.leaveHold l unlocked).modLink l fun k => { k with part := [], rreqOwed := true, rreqAt := d.mt + 1 }).setBit (Reg.LNK_ERR.STALL l) true
        |>.raise { code := Flt.LNK_STALL, source := l, arg0 := l.val }
    else d.linkDown l

/-- A map marker, by which of the announced maps it marks, counted from the oldest: those before it are past (R263). -/
def execMapMarker (l : LinkId) (nth : Nat) (s : State) : Out :=
  s.does fun d => d.modLink l fun k =>
    match k.maps.drop nth with
    | m :: r => { k with rxMap := m, maps := r }
    | [] => k

/-- No marker has come for an announced map; HOLD suspends this (R260). -/
def execMapMarkerTimeout (l : LinkId) (s : State) : Out :=
  s.does fun d => if (d.link l).maps ≠ [] ∧ d.lnkState l ≠ lHold then d.linkDown l else d

/-! ### Power states -/

/-- L1 is entered with no DATA frame to send, fresh or again. -/
def execL1Entry (l : LinkId) (s : State) : Out :=
  s.does fun d =>
    let k := d.link l
    if d.lnkState l = lUp ∧ d.get (Reg.LNK_CTL.PSTATE l) = 1 ∧ k.txq = [] ∧ k.resend = none then d.setLnkState l lL1 else d

def execL1Exit (l : LinkId) (s : State) : Out :=
  s.does fun d => if d.lnkState l = lL1 then d.setLnkState l lUp else d

/-- PSTATE has changed by a commit (R267): the link asks for L2, or leaves it; requests and grants that have not left are void. -/
def Dev.pstateEdge (l : Nat) (d : Dev) : Dev :=
  if d.get (Reg.LNK_CTL.PSTATE l) = 2 then d.askL2 l
  else if d.lnkState l = lL2 then d.startTraining l
  else d.modLink l fun k => { k with ctl := k.ctl.filter fun b => decide (b ≠ powerBody false) && decide (b ≠ powerBody true) }

/-- A power-state frame, R267: while PSTATE is 2 a request is answered with a grant, with which this end enters L2, and a grant enters L2. -/
def execPowerState (l : LinkId) (f : Frame) (s : State) : Out :=
  s.does fun d =>
    match d.takeCtl l f 4 with
    | none => d
    | some d =>
      if d.get (Reg.LNK_CTL.PSTATE l) ≠ 2 ∨ !d.linkSends l then d
      else if recField f.body 1 1 = 0 then d.sendCtrl l (powerBody true)
      else d.setLnkState l lL2

/-! ### Margins, R268 -/

def execLinkMarginMeasure (l : LinkId) (lane : Fin 9) (m : LaneMeasure) (s : State) : Out :=
  s.does fun d =>
    if !d.linkCarries l then d
    else
      let sens : Int := if d.bit (Reg.LNK_CTL.EXT l) then -550 else -400
      let beyond : List Bool := [decide (m.eyeH.toNat < 15), decide (m.eyeW.toNat < 150), decide (m.rxPwr.toInt ≤ sens + 100), m.biasHigh, m.berHigh]
      let d := ((d.set (Reg.LNK_LANE.EYE_H l lane) m.eyeH.toNat).set (Reg.LNK_LANE.EYE_W l lane) m.eyeW.toNat).set
        (Reg.LNK_LANE.RXPWR l lane) m.rxPwr.toNat
      let d := (d.set (Reg.LNK_LANE.BIAS l lane) m.bias.toNat).set (Reg.LNK_LANE.SYMERR l lane) (min (mget 0 (d.link l).symErrs lane.val) (2 ^ 32 - 1))
      let d := d.modLink l fun k => { k with symErrs := mset 0 k.symErrs lane.val 0 }
      beyond.zipIdx.foldl (fun d q =>
        if q.1 then (d.setBit (Reg.LNK_ERR.MARGIN l) true).warnHourly ((l * 16 + lane) * 8 + q.2)
          { code := Flt.LNK_MARGIN, source := l, arg0 := lane.val, arg1 := q.2 } else d) d

end Sys2Proof.Machine
end

