-- ==== Sys2Proof/Machine/Fabric.lean ====
section
/-! DEFINITION. The fabric router: block checks (R273 to R276), header checks (R277 to R280), dimension-order routing (R281 to R286),
pistes (R288 to R291), multicast (R295) and tunnels (R296, R297); and the target's side of remote accesses (R162, R278). -/

namespace Sys2Proof.Machine

/-! ### Drops -/

/-- A drop of one cause: its counter, its flag with the common count, and its fault. -/
def Dev.dropFrame (cnt flag : Fld) (code : Nat) (inl : Option Nat) (arg : Nat) (d : Dev) : Dev :=
  ((d.addSat cnt 1).flag flag Reg.FAB_ERR.DROP_CNT).raise { code := code, source := inl.getD 0, arg0 := inl.getD 0, arg1 := arg }

def Dev.dropBlk (inl : Option Nat) (f : Frame) (d : Dev) : Dev :=
  d.dropFrame Reg.FAB_DROP_BLK Reg.FAB_ERR.BLK Flt.FAB_BLOCK_REJ inl f.blk
def Dev.dropHdr (inl : Option Nat) (f : Frame) (d : Dev) : Dev :=
  d.dropFrame Reg.FAB_DROP_HDR Reg.FAB_ERR.HDR Flt.FAB_HDR_DROP inl f.rh0.toNat
def Dev.dropNest (inl : Option Nat) (f : Frame) (d : Dev) : Dev :=
  d.dropFrame Reg.FAB_DROP_NEST Reg.FAB_ERR.NEST Flt.FAB_NEST_DROP inl f.rh0.toNat
def Dev.dropRoute (inl : Option Nat) (f : Frame) (d : Dev) : Dev :=
  d.dropFrame Reg.FAB_DROP_ROUTE Reg.FAB_ERR.ROUTE Flt.FAB_NOROUTE inl f.rh0.toNat

/-! ### Checks -/

/-- R274: the block identifiers a frame may carry to be forwarded. -/
def Dev.blkKnown (d : Dev) (b : Nat) : Bool :=
  (decide (b = d.get Reg.FAB_BLOCK_ID) && decide (b ≠ 0))
    || (List.range 8).any fun i => d.bit (Reg.FAB_TRANSIT.EN i) && decide (d.get (Reg.FAB_TRANSIT.BLK i) = b)

def Dev.blkOwn (d : Dev) (b : Nat) : Bool := decide (b = d.get Reg.FAB_BLOCK_ID) && decide (b ≠ 0)

/-- The payload length that an operation allows, R278 and R312. -/
def plenOk (op n : Nat) : Bool :=
  if op = 1 ∨ op = 4 then decide (n = 4) else if op = 3 then decide (n = 0) else decide (1 ≤ n) && decide (n ≤ 224)

/-- The operations of R278 and R312 that are not reserved. -/
def opKnown (op : Nat) : Bool := decide (op ≤ 4) || (decide (8 ≤ op) && decide (op ≤ 11))

/-- R279 without nesting, pistes and multicast. -/
def Dev.headerOk (d : Dev) (f : Frame) : Bool :=
  !f.rh0.getLsbD 31 && !f.rh1.getLsbD 31 && opKnown f.op
    && decide (f.blen.toNat = 16 * f.nest + f.plen) && plenOk f.op f.plen
    && decide (f.vc.toNat / 2 = opClass f.op) && decide (f.dst < d.fieldSize) && decide (f.src < d.fieldSize)
    && !(f.piste && f.mc)

/-- R295: a multicast header. -/
def Dev.mcOk (d : Dev) (f : Frame) : Bool :=
  decide (3 ≤ d.axisLen (f.mcDir / 2)) && decide (1 ≤ f.mcCnt) && decide (f.mcCnt < d.axisLen (f.mcDir / 2))
    && (decide (f.op = 0) || decide (8 ≤ f.op)) && !f.px.testBit 8 && decide (f.nest = 0)

/-! ### Delivery -/

/-- The unit that a delivered frame is for takes it: writes and read requests the target, responses the tracker, records the collective
unit. -/
def Dev.deliver (f : Frame) (d : Dev) : Dev :=
  let b := d.fab
  let b := if f.op = 0 then { b with tgtQ := b.tgtQ ++ [f] } else if f.op = 1 then { b with readQ := b.readQ ++ [f] }
    else if f.op < 8 then { b with rspQ := b.rspQ ++ [f] } else { b with colQ := b.colQ ++ [f] }
  Dev.add64 Reg.FAB_DELIV_LO 1 { d with fab := b }

/-- Delivery with the check of R274. -/
def Dev.deliverOwn (inl : Option Nat) (f : Frame) (d : Dev) : Bool × Dev :=
  if d.blkOwn f.blk then (true, d.deliver f) else (false, d.dropBlk inl f)

/-! ### Sending -/

/-- A link that takes DATA frames: UP, or L1, which returns to L0 for them (R267, R282). -/
def Dev.takesData (d : Dev) (l : Nat) : Bool := decide (d.lnkState l = lUp) || decide (d.lnkState l = lL1)

/-- The link of a sheaf for a frame, R282 and R283. -/
def Dev.pickLink (d : Dev) (dir : Nat) (f : Frame) (vc : Nat) (fixed : Bool) : Option Nat :=
  let ls := (List.range 3).map fun i => 3 * dir + i
  if d.bit Reg.FAB_CTL.ADAPT && !fixed then
    (ls.filter d.takesData).foldl (fun best l =>
      match best with
      | none => some l
      | some b => if mget 0 (d.link b).credits vc < mget 0 (d.link l).credits vc then some l else some b) none
  else
    let i := (f.src + f.dst) % 3
    ([3 * dir + i, 3 * dir + (i + 1) % 3, 3 * dir + (i + 2) % 3]).find? d.takesData

/-- A frame waits for a link. -/
def Dev.enqueue (l : Nat) (t : TxItem) (d : Dev) : Dev :=
  let n := d.fab.arrivals
  Dev.modLink l (fun k => { k with txq := k.txq ++ [{ t with arr := n }] }) { d with fab := { d.fab with arrivals := n + 1 } }

/-- The hop from this module in a direction crosses the date line of an axis that the block spans, R286. -/
def Dev.dateLine (d : Dev) (dir : Nat) : Bool :=
  let k := dir / 2
  d.spans k && (if dir % 2 = 0 then decide (d.coord k + 1 = d.axisLen k) else decide (d.coord k = 0))

/-- The virtual channel of the next hop, R286; `fresh` where the frame starts, turns or has left a waypoint. -/
def Dev.nextVc (d : Dev) (f : Frame) (dir : Nat) (fresh : Bool) : Nat :=
  let dl := if d.dateLine dir then 1 else if fresh || !d.spans (dir / 2) then 0 else f.vc.toNat % 2
  2 * (f.vc.toNat / 2) + dl

/-- The frame keeps to its axis: it came in on a link of the axis it goes on along. -/
def sameAxis (inl : Option Nat) (dir : Nat) : Bool :=
  match inl with
  | some l => decide (l / 6 = dir / 2)
  | none => false

/-- Where a frame came from: its link and virtual channel, and its staging buffer. -/
structure RouteFrom where
  inl : Option Nat := none
  buf : Option (Nat × Nat) := none
  /-- Count records use the link index of R282 whatever ADAPT says (R311). -/
  fixed : Bool := false
  /-- The direction of the first hop where the rule names it itself (R214). -/
  via : Option Nat := none
  deriving DecidableEq, Repr

/-- The queue entry of a frame that goes on: the buffer it arrived in stays held until it leaves. -/
def RouteFrom.item (r : RouteFrom) (was f : Frame) : TxItem := { f := f, hold := r.inl.map fun l => (l, was.vc.toNat), buf := r.buf }

/-- A frame goes out in a direction, or there is no link for it (R284). -/
def Dev.sendDir (r : RouteFrom) (was f : Frame) (dir : Nat) (fresh : Bool) (d : Dev) : Bool × Dev :=
  let vc := d.nextVc f dir (fresh || !sameAxis r.inl dir)
  match d.pickLink dir f vc r.fixed with
  | some l =>
    let d := d.enqueue l (r.item was { f with vc := BitVec.ofNat 2 vc })
    (true, if r.inl.isSome then d.add64 Reg.FAB_FWD_LO 1 else d)
  | none => (false, if r.inl.isSome then (d.dropRoute r.inl f).freeBuffer (r.item was f).hold else d)

/-! ### Routing -/

/-- The direction towards a node on the lowest axis where it differs, R281. -/
def Dev.direction (d : Dev) (dst : Nat) : Option Nat :=
  ((List.range 4).find? fun k => decide (d.nodeCoord dst k ≠ d.coord k)).map fun k =>
    let c := d.coord k
    let t := d.nodeCoord dst k
    let l := d.axisLen k
    if d.spans k then
      let fwd := (t + l - c) % l
      if fwd ≤ l - fwd then 2 * k else 2 * k + 1
    else if d.blkPos k c < d.blkPos k t then 2 * k else 2 * k + 1

/-- The waypoint of the first enabled detour entry that avoids a node, R296. -/
def Dev.detour (d : Dev) (x : Nat) : Option Nat :=
  ((List.range 32).find? fun n => d.bit (Reg.FAB_DTR.EN n) && decide (d.get (Reg.FAB_DTR.AVOID n) = x)).map fun n =>
    d.get (Reg.FAB_DTR.WAYPT n)

/-- A buffer is returned when its frame stops here. -/
def RouteFrom.release (r : RouteFrom) (f : Frame) (d : Dev) : Dev := d.freeBuffer (r.item f f).hold

/-- Dimension-order routing with detours: at most two tunnel headers, so at most three matches (R281, R296). A frame that is dropped as too deep
had a way: its originator learns of that only by a timeout (R279). -/
def Dev.routeOn (r : RouteFrom) (was : Frame) (fresh : Bool) : Nat → Frame → Dev → Bool × Dev
  | 0, f, d => (true, r.release was (d.dropNest r.inl f))
  | n + 1, f, d =>
    match r.via.orElse fun _ => d.direction f.dst with
    | none => (false, r.release was (d.dropRoute r.inl f))
    | some dir =>
      let x := d.neighbour d.node dir
      match d.detour x with
      | none => d.sendDir r was f dir fresh
      | some way =>
        if f.finalDst = x then (false, r.release was (d.dropRoute r.inl f))
        else if 2 ≤ f.nest ∨ 224 < f.blen.toNat + 16 then (true, r.release was (d.dropNest r.inl f))
        else Dev.routeOn r was fresh n (f.push way) (d.add64 Reg.FAB_DETOUR_LO 1)

/-- Tunnel headers that end here are taken off, R297: the frame and whether one was. -/
def Dev.popHere (d : Dev) : Nat → Frame → Bool × Frame
  | 0, f => (false, f)
  | n + 1, f => if f.dst = d.node ∧ 0 < f.nest then (true, (d.popHere n f.pop).2) else (false, f)

/-- A piste frame, R289 to R291. A terminus delivers with NEST = 0 only: a piste takes no detour, so a frame with tunnel headers is dropped there
by R279 (log entry 51). -/
def Dev.routePiste (r : RouteFrom) (f : Frame) (d : Dev) : Bool × Dev :=
  let p := f.px
  let role := d.get (Reg.PST_CTL.ROLE p)
  let ok := d.bit (Reg.PST_CTL.EN p) && decide (d.get (Reg.PST_CTL.BLK p) = f.blk) && decide (d.get (Reg.PST_DST.NODE p) = f.dst)
    && (match r.inl with
        | none => decide (role = 1)
        | some l => (decide (role = 0) || decide (role = 2)) && decide (d.get (Reg.PST_CTL.IN_LINK p) = l))
  if !ok then (false, r.release f (d.dropHdr r.inl f))
  else if role = 2 then
    if f.nest ≠ 0 then (false, r.release f (d.dropHdr r.inl f))
    else
      let (b, d) := d.deliverOwn r.inl f
      (b, r.release f d)
  else
    let l := d.get (Reg.PST_CTL.OUT_LINK p)
    if d.takesData l then
      let d := d.enqueue l (r.item f { f with vc := BitVec.ofNat 2 (2 * (f.vc.toNat / 2)) })
      (true, if r.inl.isSome then d.add64 Reg.FAB_FWD_LO 1 else d)
    else (false, if r.inl.isSome then r.release f (d.dropRoute r.inl f) else d)

/-- A multicast frame that arrived: its copy is delivered and the frame goes on while receivers are left (R295); one that may not be delivered
here is dropped (R274). -/
def Dev.routeMc (r : RouteFrom) (f : Frame) (d : Dev) : Bool × Dev :=
  if !d.mcOk f then (false, r.release f (d.dropHdr r.inl f))
  else match r.inl with
    | none => d.sendDir r f f f.mcDir true
    | some _ =>
      if f.mcCnt = 1 then
        if f.dst = d.node then
          let (b, d) := d.deliverOwn r.inl f
          (b, r.release f d)
        else (false, r.release f (d.dropHdr r.inl f))
      else
        let (own, d) := d.deliverOwn r.inl f
        if !own then (false, r.release f d) else d.sendDir r f (f.setCnt (f.mcCnt - 1)) f.mcDir false

/-- The router, R281. The answer tells whether there was a way for the frame. A withdrawn module drops every DATA frame (R352). -/
def Dev.route (r : RouteFrom) (f : Frame) (d : Dev) : Bool × Dev :=
  if d.flt.fatal.isSome then (false, r.release f (d.addSat Reg.FAB_DROP_ROUTE 1))
  else if !d.blkKnown f.blk then (false, r.release f (d.dropBlk r.inl f))
  else if f.nest = 3 then (false, r.release f (d.dropNest r.inl f))
  else if !d.headerOk f then (false, r.release f (d.dropHdr r.inl f))
  else if f.piste then d.routePiste r f
  else if f.mc then d.routeMc r f
  else
    let (popped, g) := d.popHere 3 f
    if g.dst = d.node then
      let (b, d) := d.deliverOwn r.inl g
      (b, r.release f d)
    else Dev.routeOn r f popped 3 g d

/-- A DATA frame arrives; on Twivin 1 PISTE is ignored (R252). -/
def Dev.frameIn (l : Nat) (f : Frame) (d : Dev) : Dev :=
  d.receive l f frameData (Dev.sequenced l f fun d =>
    (d.route { inl := some l } (if d.get (Reg.LNK_STATUS.VER l) = 1 then { f with piste := false } else f)).2)

def execDataFrame (l : LinkId) (f : Frame) (s : State) : Out := s.does (Dev.frameIn l f)

/-! ### A frame joined after a stall -/

/-- A frame that has come is checked by R254 and R255 and handled by its type. -/
def Dev.arrive (l : Nat) (f : Frame) (d : Dev) : Dev :=
  if f.typ.toNat = frameData then d.frameIn l f
  else if f.typ.toNat = frameCtrl then d.ctrlIn l f
  else if f.typ.toNat = frameRreq then d.rreqIn l f
  else if f.typ.toNat = frameLmap then d.lmapIn l f
  else if f.typ.toNat = frameIdle then d.idleIn l f
  else if f.ok then d
  else d.add64 (Reg.LNK_CRCF_LO l) 1

/-- Codewords resume within STALL_US, R260: what they bring joins the partial frame, a completed frame is handled, and lanes that are still
without lock are lost. -/
def execHoldResume (l : LinkId) (unlocked : BitVec 9) (rest : List Byte) (s : State) : Out :=
  s.does fun d =>
    if d.lnkState l = lHold ∧ ((d.link l).inService unlocked.toNat).length < 3 then
      let part := (d.link l).part
      let whole := if part = [] then [] else part ++ rest
      let d := (d.leaveHold l unlocked).modLink l fun k => { k with part := if whole.length < 256 then whole else [] }
      (if whole.length = 256 then d.arrive l (Frame.ofBytes whole) else d).lanesLost l unlocked
    else d

/-! ### Frames that this module originates -/

/-- The piste on which a frame to a node goes, R290. -/
def Dev.originPiste (d : Dev) (node : Nat) : Option Nat :=
  (List.range 512).find? fun p =>
    d.bit (Reg.PST_CTL.EN p) && decide (d.get (Reg.PST_CTL.ROLE p) = 1) && decide (d.get (Reg.PST_CTL.BLK p) = d.get Reg.FAB_BLOCK_ID)
      && decide (d.get (Reg.PST_DST.NODE p) = node)

/-- A request or response to another node, R275 and R290, by a direction where the rule names one. The answer tells whether there was a way. -/
def Dev.originate (node op txid addr : Nat) (payload : List Byte) (via : Option Nat := none) (d : Dev) : Bool × Dev :=
  if !(d.inBlock d.node && d.inBlock node) then (false, d)
  else
    d.route { via := via } (dataFrame ⟨node, d.node, d.get Reg.FAB_BLOCK_ID, op, txid, addr, none, d.originPiste node⟩ payload)

/-- Payload bytes of one frame that this module sends, R280. -/
def Dev.frameRoom (d : Dev) : Nat := 224 - 16 * d.get Reg.FAB_CTL.TROOM

/-- A response's data in frames of at most R280's length, each at its own address (log entry 50). -/
def Dev.sendData (f : Frame) : Nat → Nat → List Byte → Dev → Dev
  | 0, _, _, d => d
  | n + 1, a, bs, d =>
    let d := (d.originate f.src 2 f.txid a (bs.take d.frameRoom)).2
    if bs.length ≤ d.frameRoom then d else d.sendData f n (a + d.frameRoom) (bs.drop d.frameRoom)

/-! ### The tracker of outstanding requests, R238 -/

/-- The lowest TXID that no request holds (R238 leaves the choice open: log entry 24). -/
def lowestFree : Nat → SMap (Option TxRec) → Nat
  | n, [] => n
  | n, (k, _) :: r => if k = n then lowestFree (n + 1) r else n

/-- A request takes a TXID; none where all 65,536 are held. -/
def Dev.takeTxid (owner : Nat) (d : Dev) : Option (Nat × Dev) :=
  let t := lowestFree 0 d.fab.txids
  if t < 65536 then some (t, { d with fab := { d.fab with txids := mset none d.fab.txids t (some ⟨owner, false⟩) } }) else none

def Dev.freeTxid (t : Nat) (d : Dev) : Dev := { d with fab := { d.fab with txids := mset none d.fab.txids t none } }

/-- The request is abandoned; its TXID stays held. -/
def Dev.abandonTxid (t : Nat) (d : Dev) : Dev :=
  match mget none d.fab.txids t with
  | some r => { d with fab := { d.fab with txids := mset none d.fab.txids t (some { r with abandoned := true }) } }
  | none => d

/-- A late response is discarded and counted at its engine; the entry stays held for its time, so that its TXID is not reused (R238). -/
def Dev.lateResponse (t : Nat) (d : Dev) : Dev :=
  match mget none d.fab.txids t with
  | some r => if r.abandoned ∧ r.owner < 64 then d.addSat (Reg.CORE_DMA_LATE r.owner) 1 else d
  | none => d

def execLateResponse (txid : BitVec 16) (s : State) : Out := s.does (Dev.lateResponse txid.toNat)

def execTxidHoldExpire (txid : BitVec 16) (s : State) : Out :=
  s.does fun d =>
    match mget none d.fab.txids txid.toNat with
    | some r => if r.abandoned then d.freeTxid txid.toNat else d
    | none => d

/-! ### The target's side -/

/-- The status code of R239 for a failed access at the target. -/
def MemErr.code : MemErr → Nat
  | .unmapped _ => 3
  | .ue _ => 7
  | .partialRb _ => 0xB
  | .lateRb _ => 0xB

/-- A remote access may name memory only (R162): the host window and control space are refused and logged; what lies beyond them is unbacked. -/
def remoteDenied (a : Nat) : Bool := decide (hostBase ≤ a) && decide (a < ctlBase + 2 ^ 28)

/-- An error response, R278. -/
def Dev.answerError (f : Frame) (code : Nat) (d : Dev) : Dev := (d.originate f.src 4 f.txid f.addr (leBytes 4 code)).2

/-- What an access of the router does when it fails: the answer carries the code, and the memory keeps its own error registers. -/
def Dev.denied (f : Frame) (d : Dev) : Dev :=
  (d.raise { code := Flt.FAB_REMOTE_DENIED, arg0 := f.addr, arg1 := f.src }).answerError f 8

/-- A write that arrived over the fabric: why it failed, if it did, and the state. The status goes back to the requester, so that no
job-fatal fault is raised here but those of R196 (R239). -/
def Dev.fabricWrite (a : Nat) (bs : List Byte) (d : Dev) : Option MemErr × Dev :=
  match d.writeErr a bs with
  | none => (none, d.writeGood .fabric a bs)
  | some (.ue x) => (some (.ue x), d.noteUe x)
  | some (.partialRb x) => (some (.partialRb x), d.rbRefuse false .fabric x)
  | some (.lateRb x) => (some (.lateRb x), d.rbRefuse true .fabric x)
  | some e => (some e, d)

/-- A remote write is written, R278, and acknowledged or refused. -/
def Dev.targetWrite (f : Frame) (d : Dev) : Dev :=
  if remoteDenied f.addr then d.denied f
  else match d.fabricWrite f.addr f.payload with
    | (none, d) => (d.originate f.src 3 f.txid f.addr []).2
    | (some e, d) => d.answerError f e.code

def execTargetWriteDone (s : State) : Out :=
  s.does fun d =>
    match d.fab.tgtQ with
    | [] => d
    | f :: r => Dev.targetWrite f { d with fab := { d.fab with tgtQ := r } }

/-- The oldest read request is served, R278. -/
def Dev.serveRead (f : Frame) (d : Dev) : Dev :=
  let n := leNat f.payload
  if remoteDenied f.addr then d.denied f
  else if n = 0 ∨ 224 < n then d.dropHdr none f
  else match d.readErr f.addr n with
    | none => d.sendData f 2 f.addr (d.rdBytes f.addr n)
    | some (.ue x) => (d.noteUe x).answerError f 7
    | some e => d.answerError f e.code

def execRemoteReadServe (s : State) : Out :=
  s.does fun d =>
    match d.fab.readQ with
    | [] => d
    | f :: r => Dev.serveRead f { d with fab := { d.fab with readQ := r } }

end Sys2Proof.Machine
end

