-- ==== Sys2Proof/Machine/Dma.lean ====
section
/-! DEFINITION. The DMA engines: rings and doorbells (R225 to R228), descriptors (R229 to R232), delivery (R233), write-back (R234, R235),
halts (R236), timeouts (R237, R238), status codes (R239), stop and abort (R240). -/

namespace Sys2Proof.Machine

/-! ### Descriptors -/

def dCtl (b : List Byte) : Nat := recField b 0x00 4
def dLen (b : List Byte) : Nat := recField b 0x04 4
def dRows (b : List Byte) : Nat := recField b 0x08 4
def dTag (b : List Byte) : Nat := recField b 0x0C 4
def dSrc (b : List Byte) : Nat := recField b 0x10 8
def dDst (b : List Byte) : Nat := recField b 0x18 8
def dSstride (b : List Byte) : Nat := recField b 0x20 4
def dDstride (b : List Byte) : Nat := recField b 0x24 4
def dNext (b : List Byte) : Nat := recField b 0x28 8
def dOwn (b : List Byte) : Bool := (dCtl b).testBit 31
def dBarrier (b : List Byte) : Bool := (dCtl b).testBit 30
def dInt (b : List Byte) : Bool := (dCtl b).testBit 29
def dChain (b : List Byte) : Bool := (dCtl b).testBit 28
def dDsel (b : List Byte) : Nat := bitsOf (dCtl b) 26 2
def dEvt (b : List Byte) : Nat := bitsOf (dCtl b) 16 7
def dSfmt (b : List Byte) : Nat := bitsOf (dCtl b) 12 4
def dDfmt (b : List Byte) : Nat := bitsOf (dCtl b) 8 4
def dRnd (b : List Byte) : Nat := bitsOf (dCtl b) 6 2
def dSat (b : List Byte) : Bool := (dCtl b).testBit 5
def dCvt (b : List Byte) : Bool := (dCtl b).testBit 4

/-- Bytes per element at the source and the destination; 1 without conversion. -/
def dSs (b : List Byte) : Nat := if dCvt b then elemBitsOf (dSfmt b) / 8 else 1
def dDs (b : List Byte) : Nat := if dCvt b then elemBitsOf (dDfmt b) / 8 else 1

/-- Destination bytes per row, R232. -/
def dRowOut (b : List Byte) : Nat := dLen b / dSs b * dDs b

/-! ### Fabric addresses, R162 -/

def isRemote (a : Nat) : Bool := a.testBit 63
def remoteNode (a : Nat) : Nat := bitsOf a 49 14
def remoteLocal (a : Nat) : Nat := a % 2 ^ 49

/-- Offsets of the instruction memory windows in control space, R127: the core, the bank and the byte in it. -/
def imemWindow (a : Nat) : Option (Nat × Bool × Nat) :=
  let o := a - ctlBase
  if ctlBase + 0x01000000 ≤ a ∧ a < ctlBase + 0x02000000 ∧ 0x10000 ≤ o % 0x40000 ∧ o % 0x40000 < 0x20000 then
    some ((o - 0x01000000) / 0x40000, decide (0x18000 ≤ o % 0x40000), o % 0x8000)
  else none

def inHost (a : Nat) : Bool := decide (hostBase ≤ a) && decide (a < ctlBase)
def inCtl (a : Nat) : Bool := decide (ctlBase ≤ a) && decide (a < ctlBase + 2 ^ 28)

/-- Formats that the engine converts, R231. -/
def dmaFmt (f : Nat) : Bool := decide (f ≤ 4) || decide (f = 11) || decide (f = 12)

/-- A destination row lies at a multiple of 8 wholly in the instruction memory windows of one core. -/
def imemRow (a n : Nat) : Bool :=
  decide (a % 8 = 0) && match imemWindow a, imemWindow (a + n - 1) with
    | some x, some y => decide (x.1 = y.1)
    | _, _ => false

/-- R231. -/
def dMalformed (b : List Byte) : Bool :=
  let s := dSrc b
  let t := dDst b
  decide (bitsOf (dCtl b) 23 3 ≠ 0) || decide (bitsOf (dCtl b) 0 4 ≠ 0) || decide (recField b 0x3C 4 ≠ 0) || decide (2 ≤ dDsel b)
    || (decide (64 ≤ dEvt b) && decide (dEvt b ≤ 126))
    || decide (dLen b = 0) || decide (2 ^ 30 < dLen b) || decide (dRows b = 0) || decide (65536 < dRows b)
    || (isRemote s && isRemote t) || (isRemote s && inHost t) || (isRemote t && inHost s) || inCtl s
    || (inCtl t && (decide (dLen b % 8 ≠ 0) || !(List.range (dRows b)).all fun r => imemRow (t + r * dDstride b) (dRowOut b)))
    || (dCvt b && (!dmaFmt (dSfmt b) || !dmaFmt (dDfmt b) || decide (2 ≤ dRnd b) || decide (dLen b % dSs b ≠ 0) || decide (s % dSs b ≠ 0)
        || decide (t % dDs b ≠ 0) || (decide (1 < dRows b) && (decide (dSstride b % dSs b ≠ 0) || decide (dDstride b % dDs b ≠ 0)))))

/-! ### Pieces of a transfer -/

/-- A piece: source address, source bytes, destination address, destination bytes and its offset in the destination order. -/
structure DmaPiece where
  src : Nat
  n : Nat
  dst : Nat
  m : Nat
  off : Nat
  deriving DecidableEq, Repr

/-- Source bytes of a full piece: at most 256 on either side (R242), or what a frame carries (R280). -/
def Dev.dPiece (d : Dev) (b : List Byte) : Nat :=
  let cap := if isRemote (dSrc b) || isRemote (dDst b) then d.frameRoom else 256
  cap / max (dSs b) (dDs b) * dSs b

def Dev.dPerRow (d : Dev) (b : List Byte) : Nat := ceilDiv (dLen b) (d.dPiece b)

/-- Pieces of the transfer. -/
def Dev.dCount (d : Dev) (b : List Byte) : Nat := dRows b * d.dPerRow b

/-- Piece `t`, rows ascending (R232). -/
def Dev.dPieceAt (d : Dev) (b : List Byte) (t : Nat) : DmaPiece :=
  let p := d.dPiece b
  let row := t / d.dPerRow b
  let j := t % d.dPerRow b * p
  let n := min p (dLen b - j)
  let jo := j / dSs b * dDs b
  ⟨(dSrc b + row * dSstride b + j) % 2 ^ 64, n, (dDst b + row * dDstride b + jo) % 2 ^ 64, n / dSs b * dDs b, row * dRowOut b + jo⟩

/-- Bytes of a full piece at the destination. -/
def Dev.dPieceOut (d : Dev) (b : List Byte) : Nat := d.dPiece b / dSs b * dDs b

/-- The part of a piece before an offset in the destination order. -/
def DmaPiece.before (b : List Byte) (lim : Nat) (p : DmaPiece) : DmaPiece :=
  if lim < p.off + p.m then { p with n := (lim - p.off) / dDs b * dSs b, m := (lim - p.off) / dDs b * dDs b } else p

/-- Piece `t` of a run, and the number of its pieces: ABORT ends it at its limit (R240). -/
def Dev.runPiece (d : Dev) (u : DmaRun) (t : Nat) : DmaPiece :=
  match u.limit with
  | some x => (d.dPieceAt u.desc t).before u.desc x
  | none => d.dPieceAt u.desc t

def Dev.runCount (d : Dev) (u : DmaRun) : Nat :=
  match u.limit with
  | some x => x / dRowOut u.desc * d.dPerRow u.desc + ceilDiv (x % dRowOut u.desc) (d.dPieceOut u.desc)
  | none => d.dCount u.desc

/-- Destination bytes of the whole transfer, and of a run. -/
def dTotal (b : List Byte) : Nat := dRows b * dRowOut b
def runTotal (u : DmaRun) : Nat := min (u.limit.getD (dTotal u.desc)) (dTotal u.desc)

/-- A piece converted, R232, with its flags and the number of NaN and infinite elements it holds. -/
def dConvert (b : List Byte) (bs : List Byte) : List Byte × Flags × Nat :=
  if dCvt b then
    (chunks (dSs b) bs).foldl (fun (p : List Byte × Flags × Nat) e =>
      let (v, f) := convertTo (dDfmt b) (rndOf (dRnd b) 0) (dSat b) (elemVal (dSfmt b) 0x7F (leNat e))
      (p.1 ++ leBytes (dDs b) v, p.2.1.or f, p.2.2 + if (elemVal (dDfmt b) 0x7F v).isFinite then 0 else 1)) ([], Flags.zero, 0)
  else (bs, Flags.zero, 0)

/-- What a conversion raises: the core's flags, and NONFINITE for what it wrote; NFCOUNT leaves it out (R68, R232). -/
def Dev.dmaFlags (c : Nat) (fl : Flags) (bad : Nat) (d : Dev) : Dev := (d.fpRaise c fl).nonFiniteSeen c bad

/-! ### The running descriptor -/

def Dev.modRun (c : Nat) (f : DmaRun → DmaRun) (d : Dev) : Dev := d.modCore c fun k => { k with dma := k.dma.map f }

/-- The transfer meets an error: the first one counts. -/
def Dev.dmaErr (c code addr : Nat) (d : Dev) : Dev :=
  d.modRun c fun u => if u.code = 0 then { u with code := code, errAddr := addr } else u

/-- Destination bytes written are counted, R243. -/
def Dev.dmaCount (c n : Nat) (d : Dev) : Dev := d.add64 (Reg.CORE_DMA_BYTES_LO c) n

/-- A piece has been delivered. -/
def Dev.dmaPart (c t : Nat) (bs : List Byte) (d : Dev) : Dev := d.modRun c fun u => { u with parts := mset [] u.parts t bs }

/-- A word of an instruction memory is written through R128, by its low half and where it has more than 4 bytes its high half. -/
def Dev.imemPut (c : Nat) (bank : Bool) (word : Nat) (bs : List Byte) (d : Dev) : Dev :=
  let full := bs ++ (leBytes 8 ((d.core c).imem bank word)).drop bs.length
  let d := d.imemWrite c bank word false (leNat (full.take 4))
  if 4 < bs.length then d.imemWrite c bank word true (leNat (full.drop 4)) else d

/-- Bytes for instruction memory windows go word by word, each to the bank that its own address names (R127, R128): a status code, 0 where every
word was taken. -/
def Dev.dmaImem (a : Nat) (bs : List Byte) (d : Dev) : Nat × Dev :=
  (chunks 8 bs).zipIdx.foldl (fun (p : Nat × Dev) w =>
    if p.1 ≠ 0 then p
    else match imemWindow (a + 8 * w.2) with
      | none => (3, p.2)
      | some (c, bank, off) =>
        let k := p.2.core c
        (if (bank == k.bank) || decide (k.seq = .loadchk) then 0xA else 0, p.2.imemPut c bank (off / 8) w.1)) (0, d)

/-- Bytes are written at a local destination or posted to the host: a status code, 0 when delivered, with the address concerned. -/
def Dev.dmaPut (c : CoreId) (r : RingId) (a : Nat) (bs : List Byte) (d : Dev) : Nat × Nat × Dev :=
  if (imemWindow a).isSome then let (code, d) := d.dmaImem a bs; (code, a, d)
  else if inHost a then
    if d.get Reg.HST_HWIN_SIZE * 2 ^ 30 < a - hostBase + bs.length then (3, a, d)
    else if !d.bit Reg.HST_STATUS.LINK_UP then (6, a, d)
    else (0, a, d.emit (.hostWrite (d.get64 Reg.HST_HWIN_BUS_LO + (a - hostBase)) bs))
  else match d.writeMem (.dma c r) a bs with
    | (none, d) => (0, a, d)
    | (some e, d) => (e.code, e.addr, d)

/-- The bytes that `keep` names by position, as runs of neighbours. -/
def keptRuns (keep : Nat → Bool) : Nat → List Byte → List (Nat × List Byte)
  | _, [] => []
  | i, b :: r =>
    let rest := keptRuns keep (i + 1) r
    if !keep i then rest
    else match rest with
      | (j, bs) :: more => if j = i + 1 then (i, b :: bs) :: more else (i, [b]) :: rest
      | [] => [(i, [b])]

/-- What a piece still has to write: where destination rows overlap, a later row's bytes that came first remain (R232). Bytes that accumulate are
all added. -/
def Dev.dmaRuns (d : Dev) (u : DmaRun) (t a : Nat) (bs : List Byte) : List (Nat × List Byte) :=
  if dRows u.desc ≤ 1 ∨ dRowOut u.desc ≤ dDstride u.desc then [(0, bs)]
  else
    let later := (u.parts.filter fun p => decide (t < p.1)).map fun p => ((d.dPieceAt u.desc p.1).dst, p.2.length)
    let x := (d.dPieceAt u.desc t).dst
    let hit := d.rbtHit a bs.length
    keptRuns (fun i => d.inRbt hit (a + i) || !later.any fun p => decide (p.1 ≤ x + i) && decide (x + i < p.1 + p.2)) 0 bs

/-- Runs of a piece are written in order: a status code, 0 when all were delivered, with the address concerned. -/
def Dev.dmaPutRuns (c : CoreId) (r : RingId) (a : Nat) : List (Nat × List Byte) → Dev → Nat × Nat × Dev
  | [], d => (0, a, d)
  | (i, bs) :: rest, d =>
    match d.dmaPut c r (a + i) bs with
    | (0, _, d) => Dev.dmaPutRuns c r a rest (d.dmaCount c bs.length)
    | (code, x, d) => (code, x, d)

/-- A self-access of R162 counts in FAB; the address is the local one. -/
def Dev.selfAddr (a : Nat) (d : Dev) : Nat × Dev :=
  if isRemote a then (remoteLocal a, d.add64 Reg.FAB_SELF_LO 1) else (a, d)

/-- The address names another module. -/
def Dev.elsewhere (d : Dev) (a : Nat) : Bool := isRemote a && decide (remoteNode a ≠ d.node)

/-- A self-access may name memory only, like any remote access (R162). -/
def selfDenied (a : Nat) : Bool := isRemote a && remoteDenied (remoteLocal a)

def Dev.dmaDenied (c : CoreId) (a : Nat) (d : Dev) : Dev :=
  (d.raise { code := Flt.FAB_REMOTE_DENIED, arg0 := remoteLocal a, arg1 := d.node }).dmaErr c 8 a

/-- Source bytes of a piece reach their local or host destination, converted. -/
def Dev.dmaStore (c : CoreId) (u : DmaRun) (t : Nat) (bs : List Byte) (d : Dev) : Dev :=
  let (out, fl, bad) := dConvert u.desc bs
  let dst := (d.dPieceAt u.desc t).dst
  let d := d.dmaFlags c fl bad
  let (a, d) := d.selfAddr dst
  if selfDenied dst then d.dmaDenied c dst
  else
    let (code, x, d) := d.dmaPutRuns c (Fin.ofNat 128 u.ring) a (d.dmaRuns u t a out)
    if code = 0 then d.dmaPart c t out else d.dmaErr c code x

/-- A local source is read: the bytes, or none with the error noted. -/
def Dev.dmaRead (c : CoreId) (r : RingId) (a n : Nat) (d : Dev) : Option (List Byte) × Dev :=
  let (x, d) := d.selfAddr a
  if selfDenied a then (none, d.dmaDenied c a)
  else match d.readErr x n with
  | none => (some (d.rdBytes x n), d)
  | some (.ue x) => (none, ((d.noteUe x).memFault (.dma c r) (.ue x)).dmaErr c 7 x)
  | some e => (none, d.dmaErr c e.code e.addr)

/-- One piece starts, by where its source and destination are: a request to another module, a read of host memory, or the whole move. In
D3hot a piece that needs the host waits (R434). -/
def Dev.dmaStart (c : CoreId) (u : DmaRun) (d : Dev) : Dev :=
  let b := u.desc
  let r : RingId := Fin.ofNat 128 u.ring
  let t := u.next
  let p := d.runPiece u t
  let d := d.modRun c fun u => { u with next := u.next + 1 }
  if d.host.d3hot && (inHost p.src || inHost p.dst) then d.modRun c fun u => { u with next := t }
  else if d.elsewhere p.src then
    if 2 ^ 48 ≤ remoteLocal p.src then d.dmaErr c 3 p.src
    else match d.takeTxid c with
      | none => d.modRun c fun u => { u with next := t }
      | some (x, d') =>
        match d'.originate (remoteNode p.src) 1 x (remoteLocal p.src) (leBytes 4 p.n) with
        | (true, d) => d.modRun c fun u => { u with txids := u.txids ++ [(x, t)] }
        | (false, d) => (d.freeTxid x).dmaErr c 9 p.src
  else if inHost p.src then
    if d.get Reg.HST_HWIN_SIZE * 2 ^ 30 < p.src - hostBase + p.n then d.dmaErr c 3 p.src
    else if !d.bit Reg.HST_STATUS.LINK_UP then d.dmaErr c 6 p.src
    else (d.emit (.hostRead (d.get64 Reg.HST_HWIN_BUS_LO + (p.src - hostBase)) p.n (d.bit Reg.HST_CTL.NS_DATA))).modRun c fun u => { u with host := u.host ++ [t] }
  else if d.elsewhere p.dst then
    match d.dmaRead c r p.src p.n with
    | (none, d) => d
    | (some bs, d) =>
      let (out, fl, bad) := dConvert b bs
      let d := d.dmaFlags c fl bad
      if 2 ^ 48 ≤ remoteLocal p.dst then d.dmaErr c 3 p.dst
      else match d.takeTxid c with
        | none => d.modRun c fun u => { u with next := t }
        | some (x, d') =>
          match d'.originate (remoteNode p.dst) 0 x (remoteLocal p.dst) out with
          | (true, d) =>
            (d.dmaCount c out.length).modRun c fun u => { u with txids := u.txids ++ [(x, t)], sent := mset [] u.sent t out }
          | (false, d) => (d.freeTxid x).dmaErr c 9 p.dst
  else
    match d.dmaRead c r p.src p.n with
    | (none, d) => d
    | (some bs, d) => d.dmaStore c u t bs

/-- Outstanding requests of an engine: its remote ones that are not abandoned, those of descriptors that completed before their acknowledgement
among them, and its host reads (R242). -/
def Dev.engineOut (d : Dev) (c : Nat) : Nat :=
  let remote := d.fab.txids.filter fun p =>
    match p.2 with
    | some r => decide (r.owner = c) && !r.abandoned
    | none => false
  remote.length + (((d.core c).dma.map fun u => u.host.length).getD 0)

/-- Outstanding requests that a cluster's memory port tracks (R171). -/
def Dev.portOut (d : Dev) (x : Nat) : Nat := ((List.range 8).map fun i => d.engineOut (8 * x + i)).foldl (· + ·) 0

/-- An engine may not issue a request: it has 1,024 outstanding, or its cluster's tracker of 8,192 is full (R171, R242). -/
def Dev.dmaFull (d : Dev) (c : Nat) : Bool := decide (1024 ≤ d.engineOut c) || decide (8192 ≤ d.portOut (c / 8))

/-- Pieces start while there are any, no error has come and a tracker entry is free (R242). -/
def Dev.dmaGo (c : CoreId) : Nat → Dev → Dev
  | 0, d => d
  | n + 1, d =>
    match (d.core c).dma with
    | none => d
    | some u =>
      if u.code ≠ 0 ∨ u.ended.isSome ∨ d.runCount u ≤ u.next ∨ d.dmaFull c then d
      else
        let d' := d.dmaStart c u
        if ((d'.core c).dma.map DmaRun.next).getD 0 = u.next then d' else Dev.dmaGo c n d'

/-- A move that waits for nothing outside the module: it happens when the descriptor completes. -/
def Dev.dmaInside (d : Dev) (b : List Byte) : Bool := !(d.elsewhere (dSrc b) || d.elsewhere (dDst b) || inHost (dSrc b))

/-- Pieces start as long as they may. -/
def Dev.dmaIssue (c : CoreId) (d : Dev) : Dev :=
  match (d.core c).dma with
  | none => d
  | some u => d.dmaGo c (d.runCount u - u.next)

/-! ### Halts, R236 -/

def ringDisabled : Nat := 0
def ringRun : Nat := 1
def ringStopped : Nat := 2
def ringHalted : Nat := 3

def Dev.ringState (d : Dev) (c g : Nat) : Nat := d.get (Reg.CORE_DMA_RING_STATUS.STATE c g)

def Dev.setChain (c g : Nat) (v : RingChain) (d : Dev) : Dev :=
  (d.modCore c fun k => { k with chains := mset ⟨0, 0⟩ k.chains g v }).setBit (Reg.CORE_DMA_RING_STATUS.INCHAIN c g) (decide (v ≠ ⟨0, 0⟩))

/-- A ring halts: the chain run is over, and head and pending count stay, also when its descriptor still runs. -/
def Dev.ringHalt (c g code addr tag : Nat) (d : Dev) : Dev :=
  let d := d.modRun c fun u => if u.ring = g then { u with halted := true } else u
  let d := ((d.setChain c g ⟨0, 0⟩).set (Reg.CORE_DMA_RING_STATUS.STATE c g) ringHalted).set (Reg.CORE_DMA_RING_FBSTAT.CODE c g) code
  (d.set64 (Reg.CORE_DMA_RING_FBADDR_LO c g) (addr % 2 ^ 64)).raise
    { code := Flt.DMA_RING_HALT, source := g * 256 + c, tag := tag, arg0 := addr, arg1 := code }

/-- Slots of a ring. -/
def Dev.ringSlots (d : Dev) (c g : Nat) : Nat := 2 ^ d.get (Reg.CORE_DMA_RING_CTL.SIZE_LOG2 c g)

/-- A doorbell, R226, whatever state the ring is in. The address that DB_OVERFLOW concerns is not stated: a free value (log entry 1). -/
def Dev.ringDoorbell (c g n : Nat) (d : Dev) : Dev :=
  let p := d.get (Reg.CORE_DMA_RING_STATUS.PEND c g)
  if d.ringSlots c g < p + n then
    let (a, d) := d.freeNat
    d.ringHalt c g 0x15 a 0
  else d.set (Reg.CORE_DMA_RING_STATUS.PEND c g) (p + n)

/-- DMAKICK, R133: a doorbell of this core. -/
def execDmakick (c : CoreId) (ecc : WordEcc) (s : State) : Out :=
  s.does fun d => d.issue c ecc 0x32 usesRa anyWord fun w d =>
    (d.ringDoorbell c (wImm w % 128) ((d.core c).s (wRa w))).nextPc c

/-- A doorbell by its source: the count of a register write is its low 17 bits; BAR4 by R439 and R445. -/
def Dev.doorbell (src : DoorbellSrc) (c r value : Nat) (d : Dev) : Dev :=
  match src with
  | .kick => if d.coreOn then d.ringDoorbell c r value else d
  | .reg _ => d.coreWrite (Dev.ringDoorbell c r (value % 2 ^ 17))
  | .bar4 off =>
    if !d.bit Reg.HST_STATUS.LINK_UP ∨ off.toNat ≠ c * 0x1000 + 4 * r ∨ value = 0 ∨ 2 ^ 17 ≤ value then d
    else if 2 ≤ d.get Reg.PWR_STATUS.STATE then
      if d.get Reg.PWR_STATUS.STATE ≤ 3 then (d.setBit Reg.HST_ERR.DB_ASLEEP true).hstMsix else d
    else d.coreWrite (Dev.ringDoorbell c r value)

def execDoorbell (src : DoorbellSrc) (c : CoreId) (r : RingId) (value : Word) (s : State) : Out :=
  s.does (Dev.doorbell src c r value.toNat)

/-! ### Fetch -/

/-- The ring has work for the engine. -/
def Dev.ringReady (d : Dev) (c g : Nat) : Bool :=
  d.bit (Reg.CORE_DMA_RING_CTL.EN c g) && decide (d.ringState c g = ringRun)
    && (decide (0 < d.get (Reg.CORE_DMA_RING_STATUS.PEND c g)) || decide (mget ⟨0, 0⟩ (d.core c).chains g ≠ ⟨0, 0⟩))

/-- The ring whose turn it is, R227. -/
def Dev.nextRing (d : Dev) (c : Nat) : Option Nat :=
  ((List.range 128).map fun i => ((d.core c).lastRing + 1 + i) % 128).find? (d.ringReady c)

/-- Where the next descriptor of a ring is, R228. -/
def Dev.descAddr (d : Dev) (c g : Nat) : Nat :=
  let ch := mget ⟨0, 0⟩ (d.core c).chains g
  if ch ≠ ⟨0, 0⟩ then ch.next
  else d.get64 (Reg.CORE_DMA_RING_BASE_LO c g) + 64 * (d.get (Reg.CORE_DMA_RING_HEAD.INDEX c g) % d.ringSlots c g)

/-- The ring is placed in STOPPED if it was asked to stop. -/
def Dev.stopIfAsked (c g : Nat) (d : Dev) : Dev :=
  if mget 0 (d.core c).stopReq g = 0 then d
  else
    let d := d.modCore c fun k => { k with stopReq := mset 0 k.stopReq g 0 }
    if d.ringState c g = ringRun then d.set (Reg.CORE_DMA_RING_STATUS.STATE c g) ringStopped else d

/-- The offset in the destination order at which ABORT ends a transfer of which `m` bytes have been moved: the next byte whose address is a
multiple of 4 KiB, or a row that starts in another 4 KiB than the one before it ended in (R240). -/
def abortAt (b : List Byte) : Nat → Nat → Nat
  | 0, _ => dTotal b
  | n + 1, m =>
    if dTotal b ≤ m then dTotal b
    else
      let row := m / dRowOut b
      let a := dDst b + row * dDstride b + m % dRowOut b
      let gap := (4096 - a % 4096) % 4096
      let ends := (row + 1) * dRowOut b
      if m + gap ≤ ends then m + gap
      else if (dDst b + (row + 1) * dDstride b) / 4096 = a / 4096 then abortAt b n ends
      else ends

/-- A descriptor has been read: it runs, ending early if its ring was to be aborted, or the ring halts because it is not the engine's. -/
def Dev.descRun (c : CoreId) (g a : Nat) (b : List Byte) (d : Dev) : Dev :=
  if !dOwn b then (d.ringHalt c g 0x12 a (dTag b)).stopIfAsked c g
  else
    let u : DmaRun :=
      { ring := g, at_ := a, desc := b, code := if dMalformed b then 2 else 0,
        limit := if mget 0 (d.core c).stopReq g = 2 then some (abortAt b (dRows b) 0) else none }
    let d := ((d.modCore c fun k => { k with dma := some u }).setBit (Reg.CORE_DMA_STATUS.BUSY c) true).set (Reg.CORE_DMA_STATUS.RING c) g
    if dMalformed b ∨ d.dmaInside b then d else d.dmaIssue c

def execDescriptorFetch (c : CoreId) (outcome : EccOutcome) (responds : Bool) (s : State) : Out :=
  s.does fun d =>
    let k := d.core c
    if !d.coreOn || k.dma.isSome || k.dmaFetch.isSome then d
    else match d.nextRing c with
      | none => d
      | some g =>
        let a := d.descAddr c g
        let wait := inHost a && d.host.d3hot
        let d := if wait then d else d.modCore c fun k => { k with lastRing := g }
        if wait then d
        else if inHost a then
          if !d.bit Reg.HST_STATUS.LINK_UP ∨ d.get Reg.HST_HWIN_SIZE * 2 ^ 30 < a - hostBase + 64 then d.ringHalt c g 0x10 a 0
          else (d.modCore c fun k => { k with dmaFetch := some (g, a) }).emit
            (.hostRead (d.get64 Reg.HST_HWIN_BUS_LO + (a - hostBase)) 64 false)
        else if !responds then d.ringHalt c g 0x10 a 0
        else match d.eccAccess (.dma c (Fin.ofNat 128 g)) a (.read 64) outcome with
          | (some b, _, d) => d.descRun c g a b
          | (none, some (.ue _), d) => d.ringHalt c g 0x11 a 0
          | (none, _, d) => d.ringHalt c g 0x10 a 0

/-! ### What comes from outside -/

/-- Bytes delivered from the start of the transfer without a gap, and whether any came beyond (R235). -/
def Dev.dmaDone (d : Dev) (u : DmaRun) : Nat × Bool :=
  match (List.range (d.runCount u)).find? fun t => decide (mget [] u.parts t = []) with
  | none => (runTotal u, false)
  | some t => ((d.dPieceAt u.desc t).off, u.parts.any (fun p => decide (t < p.1)) || u.sent.any fun p => decide (t ≤ p.1))

/-- A bound has expired, R237: every outstanding request is abandoned and what has arrived is fixed. -/
def Dev.dmaCut (c : CoreId) (code : Nat) (fix : Nat × Bool) (addr : Nat) (d : Dev) : Dev :=
  match (d.core c).dma with
  | none => d
  | some u =>
    ((u.txids.foldl (fun d x => d.abandonTxid x.1) d).modRun c fun u => { u with txids := [], host := [], ended := some fix }).dmaErr
      c code addr

/-- A response that no request waits for any more is discarded and counted (R238). -/
def Dev.dmaLate (c : Nat) (d : Dev) : Dev := d.addSat (Reg.CORE_DMA_LATE c) 1

/-- Element `n` of a list and the list without it. -/
def takeNth {α : Type} : Nat → List α → Option (α × List α)
  | _, [] => none
  | 0, x :: r => some (x, r)
  | n + 1, x :: r => (takeNth n r).map fun p => (p.1, x :: p.2)

/-- The completion of a descriptor read from host memory. -/
def Dev.fetchCompletion (c : CoreId) (g a : Nat) (reply : HostReply) (d : Dev) : Dev :=
  let d' := d.modCore c fun k => { k with dmaFetch := none }
  let fails (d : Dev) : Dev := (d.ringHalt c g 0x10 a 0).stopIfAsked c g
  match reply with
  | .data bs 0 => if bs.length = 64 then d'.descRun c g a bs else fails d'
  | .error 0 => fails d'
  | .timeout => fails d'
  | _ => d.dmaLate c

/-- The read of a piece of host memory fails, or its data is stored; the transfer goes on with its next pieces. -/
def Dev.pieceCompletion (c : CoreId) (u : DmaRun) (t : Nat) (reply : HostReply) (d : Dev) : Dev :=
  let p := d.runPiece u t
  match reply with
  | .data bs _ => if bs.length = p.n then (d.dmaStore c u t bs).dmaIssue c else d.dmaErr c 6 p.src
  | .error _ => d.dmaErr c 6 p.src
  | .timeout => d.dmaCut c 5 (d.dmaDone u) p.src

/-- A completion of a host read, R239 and R441: a descriptor, a piece, or the zero-length read of R233. One that nothing waits for is late. -/
def Dev.hostCompletion (c : CoreId) (reply : HostReply) (d : Dev) : Dev :=
  let k := d.core c
  let nth := match reply with
    | .data _ n => n
    | .error n => n
    | .timeout => 0
  match k.dmaFetch with
  | some (g, a) => d.fetchCompletion c g a reply
  | none =>
    let late := if reply = .timeout then d else d.dmaLate c
    match k.dma with
    | none => late
    | some u =>
      match takeNth nth u.host with
      | some (t, rest) => (d.modRun c fun u => { u with host := rest }).pieceCompletion c { u with host := rest } t reply
      | none =>
        if u.host = [] && u.fence && !u.fenced && decide (nth = 0) then
          let d := d.modRun c fun u => { u with fenced := true }
          match reply with
          | .data _ _ => d
          | .error _ => d.dmaErr c 6 (dDst u.desc)
          | .timeout => d.dmaErr c 5 (dDst u.desc)
        else late

def execHostCompletion (c : CoreId) (reply : HostReply) (s : State) : Out :=
  s.does fun d => if d.coreOn then d.hostCompletion c reply else d

/-- A response to a remote request of an engine, R233 and R278. Read data that comes in more than one frame is joined (log entry 50). -/
def Dev.dmaResponse (c : CoreId) (f : Frame) (d : Dev) : Dev :=
  match (d.core c).dma with
  | none => d.freeTxid f.txid
  | some u =>
    match u.txids.find? fun x => decide (x.1 = f.txid) with
    | none => (d.freeTxid f.txid).dmaIssue c
    | some (_, t) =>
      let p := d.runPiece u t
      let got := mget [] u.come t ++ f.payload
      if f.op = 2 ∧ got.length < p.n then d.modRun c fun u => { u with come := mset [] u.come t got }
      else
        let d := (d.freeTxid f.txid).modRun c fun u => { u with txids := u.txids.filter fun x => decide (x.1 ≠ f.txid) }
        if f.op = 4 then d.dmaErr c (recField f.payload 0 1) (if d.elsewhere p.src then p.src else p.dst)
        else if f.op = 2 then
          if got.length = p.n then (d.dmaStore c u t got).dmaIssue c else d.dmaErr c 4 p.src
        else (d.dmaPart c t (mget [] u.sent t)).dmaIssue c

/-- A local or remote bound expires, R237: `got` destination bytes had arrived in order, and `extra` tells of bytes beyond them. What is moved
within the module happens up to there; of another transfer no more counts as arrived than what the model has seen arrive. -/
def execTgtTimeout (c : CoreId) (got : Nat) (extra : Bool) (s : State) : Out :=
  s.does fun d =>
    if !d.coreOn then d
    else match (d.core c).dma with
      | none => d
      | some u =>
        if u.code ≠ 0 ∨ u.ended.isSome then d
        else
          let a := (d.runPiece u u.next).src
          let lim := min got (runTotal u)
          if d.dmaInside u.desc then
            let d := (d.modRun c fun u => { u with limit := some lim }).dmaIssue c
            match (d.core c).dma with
            | some v => if v.code ≠ 0 then d else
                (d.dmaCut c 4 ((d.dmaDone v).1, extra) a).modRun c fun v => { v with limit := u.limit }
            | none => d
          else
            let (n, x) := d.dmaDone u
            d.dmaCut c 4 (min got n, x || extra || decide (got < n)) a

/-! ### Completion -/

/-- The condition of R233 for write-back: every piece has started unless the transfer has ended early; every read has returned; and with BARRIER
every write has arrived. -/
def Dev.dmaMet (d : Dev) (u : DmaRun) : Bool :=
  (decide (u.code ≠ 0) || u.ended.isSome || decide (d.runCount u ≤ u.next)) && u.host.isEmpty
    && (!(d.elsewhere (dSrc u.desc) || (d.elsewhere (dDst u.desc) && dBarrier u.desc)) || u.txids.isEmpty)
    && (!u.fence || u.fenced)

/-- Add a digest to a sum of eight words, modulo 2^256 (R218): the digest's bytes as a little-endian integer. -/
def Dev.addDigest (f : Nat → Fld) (leaf : List Byte) (d : Dev) : Dev :=
  let old := (List.range 8).foldl (fun a i => a + d.get (f i) * 2 ^ (32 * i)) 0
  let new := (old + leNat leaf) % 2 ^ 256
  (List.range 8).foldl (fun d i => d.set (f i) (new / 2 ^ (32 * i) % 2 ^ 32)) d

/-- A write-back of descriptor bytes: whether it was taken. -/
def Dev.descWrite (c : CoreId) (g a : Nat) (bs : List Byte) (d : Dev) : Bool × Dev :=
  match d.dmaPut c (Fin.ofNat 128 g) a bs with
  | (0, _, d) => (true, d)
  | (_, _, d) => (false, d)

/-- The end of a chain run: the head moves on (R228). -/
def Dev.runEnds (c g : Nat) (d : Dev) : Dev :=
  let h := d.get (Reg.CORE_DMA_RING_HEAD.INDEX c g)
  let d := d.setChain c g ⟨0, 0⟩
  (d.set (Reg.CORE_DMA_RING_HEAD.INDEX c g) ((h + 1) % d.ringSlots c g)).set (Reg.CORE_DMA_RING_STATUS.PEND c g)
    (d.get (Reg.CORE_DMA_RING_STATUS.PEND c g) - 1)

/-- The write-back of R234 and what follows it. -/
def Dev.dmaFinish (c : CoreId) (u : DmaRun) (wbOk : Bool) (d : Dev) : Dev :=
  let b := u.desc
  let g := u.ring
  let code := if u.code ≠ 0 then u.code else if u.limit.isSome then 0xC else 1
  let (done, extra) := if u.code = 2 then (0, false) else if code = 1 then (dTotal b, false) else u.ended.getD (d.dmaDone u)
  let count := (mget ⟨0, 0⟩ (d.core c).chains g).count + 1
  let limit := decide (d.get (Reg.CORE_DMA_CHAIN_LIMIT.LIMIT c) ≤ count)
  let cut := dChain b && (decide (code ≠ 1) || limit)
  let d := (d.modCore c fun k => { k with dma := none }).setBit (Reg.CORE_DMA_STATUS.BUSY c) false
  let d := if code = 1 then d else
    d.raise { code := Flt.DMA_XFER, source := g * 256 + c, tag := dTag b, arg0 := if u.code = 0 then dDst b else u.errAddr, arg1 := code }
  let d := if dDsel b = 1 ∧ code = 1 then
    d.addDigest Reg.GRN_DIG_IN
      (sha256 ((List.range (d.dCount b)).flatMap fun t => mget [] (if d.elsewhere (dDst b) then u.sent else u.parts) t)) else d
  let status := code + (if extra then 256 else 0) + (if cut then 512 else 0) + (if code = 1 then 0 else 65536 * Flt.DMA_XFER)
  let (first, d) := if wbOk then (true, d) else d.freeBit
  let (w1, d) := if first then d.descWrite c g (u.at_ + 0x30) (leBytes 8 done ++ leBytes 4 status ++ leBytes 4 0) else (false, d)
  let (w2, d) := if wbOk && w1 then d.descWrite c g u.at_ (leBytes 4 (dCtl b - 2 ^ 31)) else (false, d)
  if !w2 then (d.ringHalt c g 0x14 u.at_ (dTag b)).stopIfAsked c g
  else
    let d := d.setEvent c (dEvt b)
    let d := d.set (Reg.CORE_DMA_RING_CPL.COUNT c g) ((d.get (Reg.CORE_DMA_RING_CPL.COUNT c g) + 1) % 2 ^ 32)
    let d := if dInt b then d.msix (d.get (Reg.CORE_DMA_RING_CTL.VEC c g)) else d
    let d := if u.halted then d
      else if code = 1 ∧ dChain b then
        if limit then d.ringHalt c g 0x13 (dNext b) (dTag b) else d.setChain c g ⟨dNext b, count⟩
      else d.runEnds c g
    d.stopIfAsked c g

/-- BARRIER on a host destination asks for a zero-length read of the last host address written, once no more will be written (R233). -/
def Dev.dmaFence (c : CoreId) (d : Dev) : Dev :=
  match (d.core c).dma with
  | some u =>
    if !u.fence ∧ dBarrier u.desc ∧ inHost (dDst u.desc) ∧ (u.code ≠ 0 ∨ u.ended.isSome ∨ d.runCount u ≤ u.next) ∧ u.host = [] then
      match u.parts.getLast? with
      | some p =>
        (d.modRun c fun u => { u with fence := true }).emit
          (.hostRead (d.get64 Reg.HST_HWIN_BUS_LO + ((d.dPieceAt u.desc p.1).dst + p.2.length - 1 - hostBase)) 0 false)
      | none => d
    else d
  | none => d

/-- The running descriptor completes if its data condition is met; a move inside the module happens here, and what BARRIER waits for in the
accumulate queues is added (R233). -/
def Dev.dmaTry (c : CoreId) (wbOk : Bool) (d : Dev) : Dev :=
  let d := (d.dmaIssue c).dmaFence c
  match (d.core c).dma with
  | some u =>
    if d.dmaMet u && !(inHost u.at_ && d.host.d3hot) then
      (if dBarrier u.desc then d.accArrive (.dma c (Fin.ofNat 128 u.ring)) else d).dmaFinish c u wbOk
    else d
  | none => d

def execDescriptorComplete (c : CoreId) (wbOk : Bool) (s : State) : Out :=
  s.does fun d => if d.coreOn then d.dmaTry c wbOk else d

/-! ### Stop, abort, restart, enable -/

/-- A ring's descriptor runs, or is being read from host memory. -/
def Core.serves (k : Core) (g : Nat) : Bool :=
  (k.dma.map fun u => decide (u.ring = g)).getD false || (k.dmaFetch.map fun f => decide (f.1 = g)).getD false

/-- STOP: the current descriptor completes first. -/
def Dev.ringStop (c g : Nat) (d : Dev) : Dev :=
  if d.ringState c g ≠ ringRun then d
  else if (d.core c).serves g then d.modCore c fun k => { k with stopReq := mset 0 k.stopReq g (max 1 (mget 0 k.stopReq g)) }
  else d.set (Reg.CORE_DMA_RING_STATUS.STATE c g) ringStopped

/-- ABORT: the running descriptor ends at its next 4 KiB destination boundary, is written back once its data condition is met, and its ring stops;
`moved` bytes of a move inside the module had been moved. A descriptor that is still being read ends so when it comes. -/
def Dev.ringAbort (c : CoreId) (g moved : Nat) (d : Dev) : Dev :=
  let k := d.core c
  if !k.serves g then (if d.ringState c g = ringRun then d.set (Reg.CORE_DMA_RING_STATUS.STATE c g) ringStopped else d)
  else match k.dma with
    | some u =>
      let m := if d.dmaInside u.desc then min moved (runTotal u) else min (d.dPieceAt u.desc u.next).off (runTotal u)
      let d := d.modCore c fun k => { k with
        stopReq := mset 0 k.stopReq g 1,
        dma := if u.code ≠ 0 ∨ u.ended.isSome ∨ u.limit.isSome then k.dma else some { u with limit := some (abortAt u.desc (dRows u.desc) m) } }
      d.dmaTry c true
    | none => d.modCore c fun k => { k with stopReq := mset 0 k.stopReq g 2 }

/-- RESTART: a STOPPED or HALTED ring runs again. -/
def Dev.ringRestart (c g : Nat) (d : Dev) : Dev :=
  let st := d.ringState c g
  if st = ringStopped ∨ st = ringHalted then
    ((d.set (Reg.CORE_DMA_RING_STATUS.STATE c g) ringRun).set (Reg.CORE_DMA_RING_FBSTAT.CODE c g) 0).set64 (Reg.CORE_DMA_RING_FBADDR_LO c g) 0
  else d

/-- EN goes from 0 to 1. -/
def Dev.ringEnable (c g : Nat) (d : Dev) : Dev :=
  if d.bit (Reg.CORE_DMA_RING_CTL.EN c g) then d
  else
    let d := ((d.setBit (Reg.CORE_DMA_RING_CTL.EN c g) true).set (Reg.CORE_DMA_RING_HEAD.INDEX c g) 0).set (Reg.CORE_DMA_RING_STATUS.PEND c g) 0
    ((d.setChain c g ⟨0, 0⟩).set (Reg.CORE_DMA_RING_CPL.COUNT c g) 0).set (Reg.CORE_DMA_RING_STATUS.STATE c g) ringRun

/-- EN goes to 0: the ring is disabled. -/
def Dev.ringDisable (c g : Nat) (d : Dev) : Dev :=
  (d.setBit (Reg.CORE_DMA_RING_CTL.EN c g) false).set (Reg.CORE_DMA_RING_STATUS.STATE c g) ringDisabled

def execRingStop (_r : Requester) (c : CoreId) (g : RingId) (s : State) : Out := s.does (Dev.coreWrite (Dev.ringStop c g))
def execRingAbort (_r : Requester) (c : CoreId) (g : RingId) (moved : Nat) (s : State) : Out :=
  s.does (Dev.coreWrite (Dev.ringAbort c g moved))
def execRingRestart (_r : Requester) (c : CoreId) (g : RingId) (s : State) : Out := s.does (Dev.coreWrite (Dev.ringRestart c g))
def execRingEnable (_r : Requester) (c : CoreId) (g : RingId) (s : State) : Out := s.does (Dev.coreWrite (Dev.ringEnable c g))

def Dev.dmaCtrClear (c : Nat) (d : Dev) : Dev :=
  ((d.set64 (Reg.CORE_DMA_BYTES_LO c) 0).set64 (Reg.CORE_DMA_STALL_LO c) 0).set (Reg.CORE_DMA_LATE c) 0

def execDmaCtrclr (c : CoreId) (s : State) : Out := s.does (Dev.coreWrite (Dev.dmaCtrClear c))

end Sys2Proof.Machine
end

