-- ==== Sys2Proof/Machine/Thresher.lean ====
section
/-! DEFINITION. The threshers: the step decision (R200 to R203), recipes (R204 to R211), the buddy mirror (R213 to R215), export and import
(R216, R217), weight digests (R218, R219) and the thresher commands (R223); and the responses to remote requests (R278). -/

namespace Sys2Proof.Machine

/-! ### Ranges of memory -/

/-- The pages of 4,096 bytes that a range meets, each as an address and a length inside the page. -/
def pagesOf (a n : Nat) : List (Nat × Nat) :=
  let first := a / 4096
  let count := if n = 0 then 0 else (a + n - 1) / 4096 - first + 1
  (List.range count).map fun i =>
    let lo := max a ((first + i) * 4096)
    (lo, min (a + n) ((first + i + 1) * 4096) - lo)

/-- A range lies wholly in backed Granary. -/
def Dev.granaryRange (d : Dev) (a n : Nat) : Bool := (pagesOf a n).all fun p => isGranary p.1 && (d.place p.1).isSome

/-- Zeros are written to a range; what R164 and R165 map is whole pages. -/
def Dev.zeroRange (a n : Nat) (d : Dev) : Dev :=
  (pagesOf a n).foldl (fun d p =>
    match d.place p.1 with
    | some x => (d.goodWrite x p.2).clearPlaces x (x + p.2)
    | none => d) d

/-- Open contents in a range (log entry 1). -/
def Dev.openRange (a n : Nat) (d : Dev) : Dev :=
  let (bs, d) := d.freeBytes n
  d.wrBytes a bs

/-! ### Groups -/

def Dev.setGrp (g st : Nat) (d : Dev) : Dev := d.set (Reg.GRN_GRP_STATE.STATE g) st

/-- Enabled entries of a group, ascending. -/
def Dev.grpEntries (d : Dev) (g : Nat) : List Nat :=
  (List.range 256).filter fun i => d.bit (Reg.GRN_RBT_CTL.EN i) && decide (d.rbtGroup i = g)

/-- Enabled grid-sum entries of some groups, ascending. -/
def Dev.gridEntries (d : Dev) (groups : Nat) : List Nat :=
  (List.range 256).filter fun i =>
    d.bit (Reg.GRN_RBT_CTL.EN i) && groups.testBit (d.rbtGroup i) && decide (d.get (Reg.GRN_RBT_CTL.FMT i) = 13)

/-- Groups that a mask names, ascending. -/
def groupsOf (mask : Nat) : List Nat := (List.range 16).filter fun g => mask.testBit g

/-- The buffers of a group are cleared. -/
def Dev.clearGroup (g : Nat) (d : Dev) : Dev :=
  (d.grpEntries g).foldl (fun d i => d.zeroRange (d.rbtLo i) (d.rbtHi i - d.rbtLo i)) d

/-- A flag of GRN_THR_ERR of the threshers as a whole is set on every stack (log entry 25). -/
def Dev.thrFlag (f : Nat → Fld) (d : Dev) : Dev := (List.range 8).foldl (fun d k => d.setBit (f k) true) d

/-- An 8-bit two's-complement exponent. -/
def lsInt (n : Nat) : Int := bitsInt 8 n
def lsBits (x : Int) : Nat := intBits 8 x

/-! ### Parameter blocks, R204 -/

def pRecipe (p : List Byte) : Nat := bitsOf (recField p 0 4) 0 4
def pNesterov (p : List Byte) : Bool := (recField p 0 4).testBit 4
def pMbf16 (p : List Byte) : Bool := (recField p 0 4).testBit 5
def pWbSr (p : List Byte) : Bool := (recField p 0 4).testBit 6
def pNobc (p : List Byte) : Bool := (recField p 0 4).testBit 7
def pTblk (p : List Byte) : Nat := bitsOf (recField p 0 4) 8 5
/-- An FP32 value of the block. -/
def pVal (p : List Byte) (off : Nat) : Val := fp32.decode (recField p off 4)

/-- Step `i` of a custom program, R210. -/
def cWord (c : List Byte) (i : Nat) : Nat := recField c (4 * i) 4
def cOp (w : Nat) : Nat := bitsOf w 0 5
def cDst (w : Nat) : Nat := bitsOf w 5 4
def cA (w : Nat) : Nat := bitsOf w 9 4
def cB (w : Nat) : Nat := bitsOf w 13 4
def cC (w : Nat) : Nat := bitsOf w 17 4

/-- The step words up to END. -/
def cSteps (c : List Byte) : List Nat := ((List.range 16).map (cWord c)).takeWhile fun w => decide (cOp w ≠ 0)

/-- The END word that ends the program, if one does, has its reserved bits 0 (R210). -/
def cEndOk (c : List Byte) : Bool :=
  (((List.range 16).map (cWord c)).find? fun w => decide (cOp w = 0)).all fun w => decide (w < 2 ^ 21)

/-- Operands that an operation reads. -/
def cReads (w : Nat) : List Nat :=
  let op := cOp w
  if op = 4 ∨ op = 11 then [cA w, cB w, cC w] else if op ≤ 6 then [cA w, cB w] else [cA w]

/-- A step that breaks no rule by itself. -/
def cStepOk (w : Nat) : Bool :=
  decide (cOp w ≤ 12) && decide (w < 2 ^ 21) && decide (cDst w ≤ 7) && decide (cDst w ≠ 3)

/-- The parameter block asks for nothing reserved, R204 and R210. -/
def paramOk (p c : List Byte) : Bool :=
  decide (pRecipe p ≤ 5) && decide (recField p 0 4 < 2 ^ 13) && decide (recField p 0x30 16 = 0)
    && (decide (pRecipe p ≠ 3) || (decide (10 ≤ pTblk p) && decide (pTblk p ≤ 24)))
    && (decide (pRecipe p ≠ 5) || ((cSteps c).all cStepOk && cEndOk c))

/-! ### Optimiser descriptors, R205 -/

structure OptDesc where
  w : Nat
  m : Nat
  v : Nat
  wb : Nat
  rbt : Nat
  last : Bool
  gOff : Nat
  cols : Nat
  rows : Nat
  idxBase : Nat
  idxStride : Nat
  deriving DecidableEq, Repr

def optDesc (b : List Byte) : OptDesc :=
  let f := recField b
  ⟨f 0 8, f 8 8, f 0x10 8, f 0x18 8, f 0x20 2, (f 0x22 2).testBit 0, f 0x24 4, f 0x28 4, f 0x2C 4, f 0x30 8, f 0x38 8⟩

/-- Elements that a descriptor covers. -/
def OptDesc.n (o : OptDesc) : Nat := o.rows * o.cols

/-- The logical index of position `p`. -/
def OptDesc.idx (o : OptDesc) (p : Nat) : Nat := (o.idxBase + p / o.cols * o.idxStride + p % o.cols) % 2 ^ 64

/-- The threshers read spans of memory in order: their bytes, or none with the fault of the first that cannot be read (R161, R176). -/
def Dev.thrReads (spans : List (Nat × Nat)) (d : Dev) : Option (List (List Byte)) × Dev :=
  spans.foldl (fun p x =>
    match p.1 with
    | none => p
    | some l =>
      match p.2.readMem .thresher x.1 x.2 with
      | (some bs, d) => (some (l ++ [bs]), d)
      | (none, d) => (none, d)) (some [], d)

/-- The spans of a group's descriptor list, R205. -/
def Dev.listSpans (d : Dev) (g : Nat) : List (Nat × Nat) :=
  (List.range (d.get (Reg.GRN_GRP_COUNT g))).map fun i => (d.get64 (Reg.GRN_GRP_LIST_LO g) + 64 * i, 64)

def Dev.listRead (g : Nat) (d : Dev) : Option (List (List Byte)) × Dev := d.thrReads (d.listSpans g)

/-- Whether a recipe needs the first and the second moment. -/
def needsM (p c : List Byte) : Bool :=
  if pRecipe p = 5 then (cSteps c).any fun w => cDst w = 1 || (cReads w).contains 1 else true
def needsV (p c : List Byte) : Bool :=
  if pRecipe p = 5 then (cSteps c).any fun w => cDst w = 2 || (cReads w).contains 2
  else decide (1 ≤ pRecipe p) && decide (pRecipe p ≤ 3)

/-- Bytes of a stored moment. -/
def momSize (p : List Byte) : Nat := if pMbf16 p then 2 else 4

/-- R205: the descriptor may be run. -/
def Dev.descOk (d : Dev) (g : Nat) (p c : List Byte) (o : OptDesc) : Bool :=
  d.granaryRange o.w (4 * o.n)
    && (if o.m = 0 then !needsM p c else d.granaryRange o.m (momSize p * o.n))
    && (if o.v = 0 then !needsV p c else d.granaryRange o.v (momSize p * o.n))
    && (decide (o.wb = 0) || d.granaryRange o.wb (2 * o.n))
    && decide (o.rbt < 256) && d.bit (Reg.GRN_RBT_CTL.EN o.rbt) && decide (d.rbtGroup o.rbt = g)
    && decide (o.gOff + o.n ≤ d.get (Reg.GRN_RBT_LEN o.rbt)) && decide (bitsOf (d.get (Reg.GRN_RBT_TID o.rbt)) 28 2 = 0)
    && (decide (pRecipe p ≠ 3) || (decide (o.idxStride = o.cols) && decide (o.idxBase % 2 ^ pTblk p = 0) && decide (o.n % 2 ^ pTblk p = 0)))

/-- A custom program writes a moment that a descriptor lacks, R210. -/
def customLacks (p c : List Byte) (o : OptDesc) : Bool :=
  decide (pRecipe p = 5)
    && (cSteps c).any fun w => (decide (cDst w = 1) && decide (o.m = 0)) || (decide (cDst w = 2) && decide (o.v = 0))

/-! ### Arithmetic of the recipes, R206 and R207 -/

def mul32 (a b : Val) : Val := f32 (Val.mul a b).1
def add32 (a b : Val) : Val := f32 (Val.add a b).1
def rcp32 (a : Val) : Val := f32 (rcpVal a).1
def rsq32 (a : Val) : Val := f32 (rsqVal a).1
def sqrtT (x : Val) : Val := if x.isZero then Val.zero else mul32 x (rsq32 x)

/-- sign(x); a NaN stays one (log entry 25). -/
def signVal (x : Val) : Val :=
  if x.isNan then .nan else if x.isZero then Val.zero else if x.isNeg then Val.one.neg else Val.one

/-- What a pass needs besides the memory. -/
structure PassCtx where
  p : List Byte
  c : List Byte
  step : Nat
  tid : Nat
  /-- The scalars of R207. -/
  scale : Val
  alpha : Val
  k2 : Val
  lambda : Val
  deriving DecidableEq, Repr

/-- The scalars of a pass, computed once. -/
def Dev.passCtx (d : Dev) (q : Pass) : PassCtx :=
  let p := q.params
  let lr := pVal p 0x04
  let p1 := fp32.decode (d.get (Reg.GRN_GRP_P1 q.group))
  let p2 := fp32.decode (d.get (Reg.GRN_GRP_P2 q.group))
  { p := p, c := q.custom, step := q.step, tid := 0,
    scale := f32 ((pVal p 0x24).scale (-(lsInt q.lsExp))),
    alpha := if pNobc p then lr else mul32 lr (rcp32 (add32 Val.one p1.neg)),
    k2 := if pNobc p then Val.one else rsq32 (add32 Val.one p2.neg),
    lambda := (mul32 lr (pVal p 0x1C)).neg }

/-- A moment as it is stored: its bits. `mask` is what R206 xors into the tensor identifier. DESIGN CHOICE (log entry 25): R206 names no SAT for
the BF16 store of a moment; an overflow becomes infinite, as with SAT = 0. -/
def PassCtx.store (k : PassCtx) (mask idx : Nat) (v : Val) : Nat :=
  if pMbf16 k.p then
    (bf16.roundArith (.stochastic (srRandom (BitVec.ofNat 64 k.step) (k.tid ^^^ mask) (BitVec.ofNat 64 idx))) v).1
  else (fp32.roundArith .nearest v).1

/-- The value of stored moment bits. -/
def PassCtx.load (k : PassCtx) (w : Nat) : Val := if pMbf16 k.p then bf16.decode w else fp32.decode w

def maskM : Nat := 0x10000000
def maskV : Nat := 0x20000000
def maskW : Nat := 0x30000000

/-- The working copy of a new weight, R206. -/
def PassCtx.working (k : PassCtx) (idx : Nat) (w : Val) : Nat :=
  let rnd := if pWbSr k.p then Rnd.stochastic (srRandom (BitVec.ofNat 64 k.step) (k.tid ^^^ maskW) (BitVec.ofNat 64 idx)) else .nearest
  (bf16.convert rnd true w).1

/-- An element: its weight and its moments as values. -/
structure OptElem where
  w : Val
  m : Val
  v : Val
  deriving DecidableEq, Repr

def PassCtx.storeM (k : PassCtx) (idx : Nat) (v : Val) : Val := k.load (k.store maskM idx v)
def PassCtx.storeV (k : PassCtx) (idx : Nat) (v : Val) : Val := k.load (k.store maskV idx v)

/-- Weight decay into the gradient. -/
def PassCtx.decayed (k : PassCtx) (w g : Val) : Val :=
  let wd := pVal k.p 0x1C
  if wd.isZero then g else fma32 wd w g

/-- SGD with momentum, R208. -/
def PassCtx.sgd (k : PassCtx) (idx : Nat) (e : OptElem) (g : Val) : OptElem :=
  let g := k.decayed e.w g
  let mu := pVal k.p 0x20
  let m := k.storeM idx (fma32 mu e.m g)
  let dir := if pNesterov k.p then fma32 mu m g else m
  { e with m := m, w := fma32 (pVal k.p 0x04).neg dir e.w }

/-- Both moments of Adam. -/
def PassCtx.moments (k : PassCtx) (idx : Nat) (e : OptElem) (g : Val) : OptElem :=
  { e with
    m := k.storeM idx (fma32 (pVal k.p 0x08) e.m (mul32 (pVal k.p 0x0C) g)),
    v := k.storeV idx (fma32 (pVal k.p 0x10) e.v (mul32 (pVal k.p 0x14) (mul32 g g))) }

/-- The update of Adam from stored moments. -/
def PassCtx.adamU (k : PassCtx) (e : OptElem) : Val :=
  mul32 e.m (rcp32 (fma32 (sqrtT e.v) k.k2 (pVal k.p 0x18)))

/-- Adam and AdamW, R208. -/
def PassCtx.adam (k : PassCtx) (decoupled : Bool) (idx : Nat) (e : OptElem) (g : Val) : OptElem :=
  let g := if decoupled then g else k.decayed e.w g
  let e := k.moments idx e g
  let u := k.adamU e
  let w := if decoupled then fma32 k.lambda e.w e.w else e.w
  { e with w := fma32 k.alpha.neg u w }

/-- Lion, R208. -/
def PassCtx.lion (k : PassCtx) (idx : Nat) (e : OptElem) (g : Val) : OptElem :=
  let s := signVal (fma32 (pVal k.p 0x08) e.m (mul32 (pVal k.p 0x0C) g))
  let w := fma32 (pVal k.p 0x04).neg s (fma32 k.lambda e.w e.w)
  { e with w := w, m := k.storeM idx (fma32 (pVal k.p 0x10) e.m (mul32 (pVal k.p 0x14) g)) }

/-- The update of the trust ratio, R209. -/
def PassCtx.trustU (k : PassCtx) (e : OptElem) : Val := fma32 (pVal k.p 0x1C) e.w (k.adamU e)

/-- The ratio of a trust block from its exact sums of squares. -/
def PassCtx.ratio (k : PassCtx) (sw su : Val) : Val :=
  let nw := sqrtT (f32 sw)
  let nu := sqrtT (f32 su)
  if nw.isZero || nw.isInf || nu.isZero || nu.isInf then Val.one else minVal (mul32 nw (rcp32 nu)) (pVal k.p 0x20)

/-- What a custom program works on, R210. -/
structure CustomRun where
  e : OptElem
  t : List Val
  deriving DecidableEq, Repr

def PassCtx.operand (k : PassCtx) (g1 : Val) (r : CustomRun) (x : Nat) : Val :=
  if x = 0 then r.e.w else if x = 1 then r.e.m else if x = 2 then r.e.v else if x = 3 then g1
  else if x < 8 then r.t.getD (x - 4) Val.zero else pVal k.c (0x40 + 4 * (x - 8))

/-- The result of an operation. -/
def customOp (op : Nat) (a b c : Val) : Val :=
  match op with
  | 1 => add32 a b
  | 2 => add32 a b.neg
  | 3 => mul32 a b
  | 4 => fma32 a b c
  | 5 => f32 (minVal a b)
  | 6 => f32 (maxVal a b)
  | 7 => rcp32 a
  | 8 => rsq32 a
  | 9 => sqrtT a
  | 10 => signVal a
  | 11 => if !a.isNan && decide (0 ≤ Val.cmp a Val.zero) then b else c
  | _ => a.abs

/-- One step. -/
def PassCtx.customStep (k : PassCtx) (idx : Nat) (g1 : Val) (r : CustomRun) (w : Nat) : CustomRun :=
  let x := customOp (cOp w) (k.operand g1 r (cA w)) (k.operand g1 r (cB w)) (k.operand g1 r (cC w))
  match cDst w with
  | 0 => { r with e := { r.e with w := x } }
  | 1 => { r with e := { r.e with m := k.storeM idx x } }
  | 2 => { r with e := { r.e with v := k.storeV idx x } }
  | n => { r with t := r.t.set (n - 4) x }

def PassCtx.custom (k : PassCtx) (idx : Nat) (e : OptElem) (g1 : Val) : OptElem :=
  ((cSteps k.c).foldl (k.customStep idx g1) ⟨e, [Val.zero, Val.zero, Val.zero, Val.zero]⟩).e

/-! ### A pass over the memory -/

/-- An element of a tensor. -/
def Dev.tensorAt (d : Dev) (a size p : Nat) : Nat := d.rdNat (a + size * p) size

/-- The gradient of a buffer element, widened by R56 or converted by R76. -/
def Dev.gradient (d : Dev) (gride : Nat) (i e : Nat) : Val :=
  let w := d.tensorAt (d.rbtLo i) (d.rbtEs i) e
  match d.get (Reg.GRN_RBT_CTL.FMT i) with
  | 2 => bf16.decode w
  | 13 => fp32.decode (gridToFp32 ((gride : Int) - 149) (BitVec.ofNat 64 w))
  | _ => fp32.decode w

/-- An element read from memory. -/
def Dev.optElem (d : Dev) (k : PassCtx) (o : OptDesc) (p : Nat) : OptElem :=
  let mom (a : Nat) : Val := if a = 0 then Val.zero else k.load (d.tensorAt a (momSize k.p) p)
  ⟨fp32.decode (d.tensorAt o.w 4 p), mom o.m, mom o.v⟩

/-- Which moments a recipe writes. -/
def writesM (p c : List Byte) : Bool := if pRecipe p = 5 then (cSteps c).any fun w => decide (cDst w = 1) else true
def writesV (p c : List Byte) : Bool := if pRecipe p = 5 then (cSteps c).any fun w => decide (cDst w = 2) else needsV p c

/-- A new element written to memory; a new weight that is not finite is noted in the first component (R211). -/
def Dev.putElem (k : PassCtx) (o : OptDesc) (p : Nat) (e : OptElem) (s : Bool × Dev) : Bool × Dev :=
  let d := s.2
  let mom (write : Bool) (a : Nat) (v : Val) (d : Dev) : Dev :=
    if write && decide (a ≠ 0) then
      d.wrBytes (a + momSize k.p * p) (leBytes (momSize k.p) (if pMbf16 k.p then (bf16.roundArith .nearest v).1 else bits32 v))
    else d
  let d := d.wrBytes (o.w + 4 * p) (leBytes 4 (bits32 e.w))
  let d := mom (writesV k.p k.c) o.v e.v (mom (writesM k.p k.c) o.m e.m d)
  let d := if o.wb = 0 then d else d.wrBytes (o.wb + 2 * p) (leBytes 2 (k.working (o.idx p) e.w))
  (s.1 || !e.w.isFinite, d)

/-- The addresses of what a descriptor's element uses. -/
def Dev.elemBad (d : Dev) (k : PassCtx) (o : OptDesc) (p : Nat) : Option Nat :=
  if d.grnBad = [] then none
  else
    let i := o.rbt
    [(o.w + 4 * p, 4), (d.rbtLo i + d.rbtEs i * (o.gOff + p), d.rbtEs i)].findSome? (fun r => d.firstBad r.1 r.2) |>.orElse fun _ =>
      [o.m, o.v].findSome? fun a => if a = 0 then none else d.firstBad (a + momSize k.p * p) (momSize k.p)

/-- Elements of a descriptor that can be read; the others stay as they are and raise their fault (R176). -/
def Dev.eachElem (k : PassCtx) (o : OptDesc) (f : Nat → Bool × Dev → Bool × Dev) (s : Bool × Dev) : Bool × Dev :=
  (List.range o.n).foldl (fun s p =>
    match s.2.elemBad k o p with
    | some a => (s.1, (s.2.noteUe a).memFault .thresher (.ue a))
    | none => f p s) s

/-- g1 of R208. -/
def Dev.g1 (d : Dev) (k : PassCtx) (gride : Nat) (o : OptDesc) (p : Nat) : Val :=
  mul32 (d.gradient gride o.rbt (o.gOff + p)) k.scale

/-- One trust block: its first pass, then its second (R209). -/
def Dev.trustBlock (k : PassCtx) (gride : Nat) (o : OptDesc) (b : Nat) (s : Bool × Dev) : Bool × Dev :=
  let size := 2 ^ pTblk k.p
  let ps := ((List.range size).map (b * size + ·)).filter fun p => (s.2.elemBad k o p).isNone
  let es := ps.map fun p => (p, k.moments (o.idx p) (s.2.optElem k o p) (s.2.g1 k gride o p))
  let sum (f : OptElem → Val) : Val := es.foldl (fun a e => (Val.add a (Val.mul (f e.2) (f e.2)).1).1) Val.zero
  let r := k.ratio (sum fun e => e.w) (sum k.trustU)
  es.foldl (fun s e => Dev.putElem k o e.1 { e.2 with w := fma32 (mul32 k.alpha r).neg (k.trustU e.2) e.2.w } s) s

/-- A descriptor of a pass. -/
def Dev.passDesc (q : Pass) (k : PassCtx) (s : Bool × Dev) (o : OptDesc) : Bool × Dev :=
  let k := { k with tid := s.2.get (Reg.GRN_RBT_TID o.rbt) }
  let gride := ((q.gride.find? fun e => decide (e.1 = o.rbt)).map Prod.snd).getD 0
  if pRecipe k.p = 3 then
    (List.range (o.n / 2 ^ pTblk k.p)).foldl (fun s b => Dev.trustBlock k gride o b s) (Dev.eachElem k o (fun _ s => s) s)
  else
    Dev.eachElem k o (fun p s =>
      let e := s.2.optElem k o p
      let g := s.2.g1 k gride o p
      let i := o.idx p
      let e' := match pRecipe k.p with
        | 0 => k.sgd i e g
        | 1 => k.adam false i e g
        | 2 => k.adam true i e g
        | 4 => k.lion i e g
        | _ => k.custom i e g
      Dev.putElem k o p e' s) s

/-- Elements of grid-sum buffers whose conversion is infinite count as non-finite (R76). DESIGN CHOICE (log entry 25): R76 does not say in which
step; the conversion is made by the pass, after the decision has zeroed the status pair, so that it counts in the step that then accumulates. -/
def Dev.gridInf (q : Pass) (o : OptDesc) (d : Dev) : Dev :=
  if d.get (Reg.GRN_RBT_CTL.FMT o.rbt) ≠ 13 then d
  else
    let gride := ((q.gride.find? fun e => decide (e.1 = o.rbt)).map Prod.snd).getD 0
    let n := ((List.range o.n).filter fun p => (d.gradient gride o.rbt (o.gOff + p)).isInf).length
    if n = 0 then d else (d.setBit (Reg.GRN_RBS_FLAGS.NONFIN o.rbt) true).addSat (Reg.GRN_RBS_NFCNT.COUNT o.rbt) n

/-- The recipe pass of a group: its elements, the buffers zeroed, and UPD_NONFIN. -/
def Dev.recipePass (q : Pass) (d : Dev) : Dev :=
  let os := q.list.map optDesc
  let d := os.foldl (fun d o => d.gridInf q o) d
  let (bad, d) := os.foldl (Dev.passDesc q (d.passCtx q)) (false, d)
  let d := d.clearGroup q.group
  if bad then (d.setBit (Reg.GRN_GRP_STATE.UPD_NONFIN q.group) true).raise { code := Flt.THR_UPD_NONFIN, arg0 := q.group } else d

/-! ### The buddy mirror, R213 and R214 -/

def Dev.mirror (d : Dev) (g : Nat) : Option Mirror := mget none d.thr.mirs g
def Dev.setMirror (g : Nat) (m : Option Mirror) (d : Dev) : Dev := { d with thr := { d.thr with mirs := mset none d.thr.mirs g m } }

/-- The refresh of a group has not ended: its last write is not acknowledged. -/
def Dev.mirroring (d : Dev) (g : Nat) : Bool := (d.mirror g).isSome

/-- The buddy, R213. -/
def Dev.buddy (d : Dev) : Nat :=
  d.nodeOf fun k =>
    if k = 0 then (d.blkOrg 0 + (d.blkPos 0 (d.coord 0) + d.blkLen 0 - 1) % d.blkLen 0) % d.axisLen 0 else d.coord k

/-- Bytes cut into writes that a frame carries, from an address. -/
def cutWrites (room a : Nat) (bs : List Byte) : List (Nat × List Byte) := (chunks room bs).zipIdx.map fun p => (a + room * p.2, p.1)

/-- Bytes padded to a multiple of 64. -/
def pad64 (bs : List Byte) : List Byte := bs ++ List.replicate ((64 - bs.length % 64) % 64) 0#8

/-- The spans of the tensors that a mirror of a group holds, in order. -/
def mirrorSpans (q : Pass) : List (Nat × Nat) :=
  (q.list.map optDesc).flatMap fun o =>
    [(o.w, 4 * o.n)] ++ (if o.m = 0 then [] else [(o.m, momSize q.params * o.n)])
      ++ (if o.v = 0 then [] else [(o.v, momSize q.params * o.n)])

/-- A refresh is abandoned: its requests with it, and the group accumulates on without a mirror (log entry 25). -/
def Dev.mirAbandon (g : Nat) (d : Dev) : Dev :=
  let d := match d.mirror g with
    | some m => m.wait.foldl (fun (d : Dev) x => d.abandonTxid x) d
    | none => d
  let d := d.setMirror g none
  if d.grpState g = grpMirroring then d.setGrp g grpOpen else d

/-- A refresh fails, with its fault; but not towards a module that the round has found failed (R358). -/
def Dev.mirFail (g : Nat) (d : Dev) : Dev :=
  if d.hl.failed.contains d.buddy then d.mirAbandon g
  else ((d.mirAbandon g).thrFlag Reg.GRN_THR_ERR.MIR_FAIL).raise { code := Flt.THR_MIR_FAIL, arg0 := g }

/-- Writes of a refresh leave while the tracker has room; of the two last, STATE = 2 leaves once STEP has been acknowledged. Towards an A0-
neighbour across the wrap of a spanned axis they leave on the A0- sheaf (R214). -/
def Dev.mirSend (g : Nat) : Nat → Dev → Dev
  | 0, d => d
  | n + 1, d =>
    match d.mirror g with
    | none => d
    | some m =>
      match m.todo with
      | [] => d
      | (a, bs) :: r =>
        if m.closing && !m.wait.isEmpty then d
        else match d.takeTxid (64 + g) with
        | none => d
        | some (x, d') =>
          match d'.originate d'.buddy 0 x a bs (if d'.spans 0 then some 1 else none) with
          | (true, d) => Dev.mirSend g n (d.setMirror g (some { m with todo := r, wait := m.wait ++ [x] }))
          | (false, d) => (d.freeTxid x).mirFail g

def Dev.mirGo (g : Nat) (d : Dev) : Dev := d.mirSend g (((d.mirror g).map fun m => m.todo.length).getD 0)

/-- The refresh begins, or the group opens at once. Data that cannot be read ends it with the fault, and STATE stays 1 (log entry 25). -/
def Dev.mirStart (q : Pass) (d : Dev) : Dev :=
  let g := q.group
  if !d.bit (Reg.GRN_GRP_CTL.MIR_EN g) then d.setGrp g grpOpen
  else
    let a := d.get64 (Reg.GRN_GRP_MIR_LO g)
    let head := leBytes 4 1 ++ leBytes 4 (d.node + 2 ^ 14 * g) ++ leBytes 4 (d.get (Reg.GRN_GRP_COUNT g)) ++ leBytes 44 0
    let (got, d) := d.thrReads (if q.skip then [] else mirrorSpans q)
    let data := cutWrites d.frameRoom (a + 64) ((got.getD []).flatMap pad64)
    let d := ((d.setGrp g grpMirroring).setMirror g
      (some { step := q.step, todo := cutWrites d.frameRoom (a + 8) head ++ data, wait := [] })).mirGo g
    if got.isNone then d.mirAbandon g else d

/-! ### The weight digest, R219 -/

/-- The runs of consecutive logical indices of a descriptor: first index, first position and length. -/
def OptDesc.runs (o : OptDesc) : List (Nat × Nat × Nat) :=
  if o.n = 0 then []
  else if o.idxStride = o.cols ∨ o.rows = 1 then [(o.idxBase, 0, o.n)]
  else (List.range o.rows).map fun r => (o.idxBase + r * o.idxStride, r * o.cols, o.cols)

/-- A run starts and ends as R219 asks. -/
def OptDesc.runOk (o : OptDesc) (r : Nat × Nat × Nat) : Bool :=
  decide (r.1 % 1024 = 0) && (decide ((r.1 + r.2.2) % 1024 = 0) || (o.last && decide (r.2.1 + r.2.2 = o.n)))

/-- The chunks of a descriptor: number, and the span of its FP32 bytes. -/
def OptDesc.chunks (o : OptDesc) : List (Nat × Nat × Nat) :=
  o.runs.flatMap fun r =>
    (List.range (ceilDiv r.2.2 1024)).map fun j =>
      ((r.1 + 1024 * j) / 1024, o.w + 4 * (r.2.1 + 1024 * j), 4 * min 1024 (r.2.2 - 1024 * j))

/-- The leaf of a chunk as a number. -/
def chunkLeaf (tid number : Nat) (bs : List Byte) : Nat := leNat (sha256 (leBytes 4 tid ++ leBytes 8 number ++ bs))

/-- The sum of the leaves of some descriptors, or none where a chunk cannot be read. -/
def Dev.digSumOf (os : List OptDesc) (d : Dev) : Option Nat × Dev :=
  let cs := os.flatMap fun o => o.chunks.map fun c => (d.get (Reg.GRN_RBT_TID o.rbt), c)
  let (got, d) := d.thrReads (cs.map fun c => c.2.2)
  (got.map fun l => ((cs.zip l).map fun p => chunkLeaf p.1.1 p.1.2.1 p.2).foldl (· + ·) 0 % 2 ^ 256, d)

/-- A number of 256 bits in eight registers, least significant first. -/
def Dev.set256 (f : Nat → Fld) (v : Nat) (d : Dev) : Dev := (List.range 8).foldl (fun d i => d.set (f i) (v / 2 ^ (32 * i) % 2 ^ 32)) d
def Dev.get256 (d : Dev) (f : Nat → Fld) : Nat := (List.range 8).foldl (fun a i => a + d.get (f i) * 2 ^ (32 * i)) 0

/-- A group's share of the weight digest, and the module's sum: the groups with DIG_EN = 1 (R219). -/
def Dev.digShare (g v : Nat) (d : Dev) : Dev :=
  let d : Dev := { d with thr := { d.thr with digSum := mset 0 d.thr.digSum g v } }
  let on := (List.range 16).filter fun g => d.bit (Reg.GRN_GRP_CTL.DIG_EN g)
  d.set256 Reg.GRN_DIG_W ((on.map fun g => mget 0 d.thr.digSum g).foldl (· + ·) 0 % 2 ^ 256)

/-- The digest of a group is due after an applied step; a split chunk ends it (R219). A group that has it off has no share. -/
def Dev.digStart (q : Pass) (d : Dev) : Dev :=
  let g := q.group
  if !d.bit (Reg.GRN_GRP_CTL.DIG_EN g) then (if mget 0 d.thr.digSum g = 0 then d else d.digShare g 0)
  else if (q.list.map optDesc).all fun o => o.runs.all o.runOk then
    { d with thr := { d.thr with digDue := mset 0 d.thr.digDue g (q.step + 1) } }
  else d.raise { code := Flt.THR_DIG_SPLIT, arg0 := g }

/-! ### The queue of passes, R202 -/

/-- The pass that comes next may run: nothing of its group is left from the step before. -/
def Dev.passFree (d : Dev) (q : Pass) : Bool := !d.mirroring q.group && decide (mget 0 d.thr.digDue q.group = 0)

/-- The first pass starts, with the descriptors it has read, or ends at its checks (R204, R205, R210) or at a list that cannot be read (log entry
25). -/
def Dev.passStart (q : Pass) (d : Dev) : Dev :=
  let g := q.group
  let stop (d : Dev) : Dev := { d with thr := { d.thr with passQ := d.thr.passQ.tail } }
  if q.skip then { d.setGrp g grpClearing with thr := { d.thr with running := true } }
  else
    match d.listRead g with
    | (none, d) => stop d
    | (some l, d) =>
      let os := l.map optDesc
      if !paramOk q.params q.custom || os.any (customLacks q.params q.custom) then
        (stop d).raise { code := Flt.THR_PARAM_BAD, arg0 := g }
      else match os.zipIdx.find? fun o => !d.descOk g q.params q.custom o.1 with
        | some o => ((stop d).thrFlag Reg.GRN_THR_ERR.DESC_BAD).raise { code := Flt.THR_DESC_BAD, arg0 := o.2, arg1 := g }
        | none => { d.setGrp g grpApplying with thr := { d.thr with running := true, passQ := { q with list := l } :: d.thr.passQ.tail } }

def Dev.thrAdvanceN : Nat → Dev → Dev
  | 0, d => d
  | n + 1, d =>
    match d.thr.passQ with
    | [] => d
    | q :: _ => if d.thr.running || !d.passFree q then d else Dev.thrAdvanceN n (d.passStart q)

/-- The next pass starts as soon as it may. -/
def Dev.thrAdvance (d : Dev) : Dev := d.thrAdvanceN d.thr.passQ.length

/-- A pass of a group waits for a refresh or a digest. -/
def Dev.thrWaiting (d : Dev) : Bool :=
  match d.thr.passQ with
  | [] => false
  | q :: _ => !d.thr.running && !d.passFree q

/-- The parameter block and the custom block of a group as they are copied (R204, R210), or none where one cannot be read. -/
def Dev.paramRead (g : Nat) (d : Dev) : Option (List Byte × List Byte) × Dev :=
  match d.readMem .thresher (d.get64 (Reg.GRN_GRP_PADDR_LO g)) 64 with
  | (none, d) => (none, d)
  | (some p, d) =>
    if pRecipe p ≠ 5 then (some (p, []), d)
    else
      match d.readMem .thresher (recField p 0x28 8) 96 with
      | (none, d) => (none, d)
      | (some c, d) => (some (p, c), d)

/-- The threshers' share of a decision for one group with its parameters, R202. -/
def Dev.decideWith (skip : Bool) (step : Nat) (g : Nat) (p c : List Byte) (d : Dev) : Dev :=
  let ls := d.get (Reg.GRN_GRP_LS.LS_EXP g)
  let gr := (d.grpEntries g).map fun i => (i, d.get (Reg.GRN_RBS_FLAGS.GRIDE i))
  let q : Pass := ⟨g, skip, step, ls, p, c, gr, []⟩
  let d := { d with thr := { d.thr with passQ := d.thr.passQ ++ [q], steps := mset 0 d.thr.steps g step } }
  if skip then
    ((d.set (Reg.GRN_GRP_LS.LS_EXP g) (lsBits (max (lsInt ls - 1) (lsInt (d.get (Reg.GRN_GRP_LS.LS_MIN g)))))).set
      (Reg.GRN_GRP_GROW.GOOD g) 0).setBit (Reg.GRN_GRP_STATE.SKIPPED g) true
  else
    let mulP (f b : Nat) : Nat := bits32 (Val.mul (fp32.decode f) (pVal p b)).1
    let good := (d.get (Reg.GRN_GRP_GROW.GOOD g) + 1) % 65536
    let iv := d.get (Reg.GRN_GRP_GROW.INTERVAL g)
    let grow := decide (iv ≠ 0) && decide (iv ≤ good)
    let d := ((d.set (Reg.GRN_GRP_APPLIED g) ((d.get (Reg.GRN_GRP_APPLIED g) + 1) % 2 ^ 32)).set (Reg.GRN_GRP_P1 g)
      (mulP (d.get (Reg.GRN_GRP_P1 g)) 0x08)).set (Reg.GRN_GRP_P2 g) (mulP (d.get (Reg.GRN_GRP_P2 g)) 0x10)
    let d := d.set (Reg.GRN_GRP_GROW.GOOD g) (if grow then 0 else good)
    let d := if grow then
        d.set (Reg.GRN_GRP_LS.LS_EXP g) (lsBits (min (lsInt ls + 1) (lsInt (d.get (Reg.GRN_GRP_LS.LS_MAX g))))) else d
    d.setBit (Reg.GRN_GRP_STATE.SKIPPED g) false

/-- The threshers' share of a decision for one group. Where its parameters cannot be read, the fault is raised; a clear pass, which needs none, is
still made, and an applied step leaves the group as it is (log entry 25). -/
def Dev.decideGroup (skip : Bool) (step : Nat) (g : Nat) (d : Dev) : Dev :=
  match d.paramRead g with
  | (some (p, c), d) => d.decideWith skip step g p c
  | (none, d) => if skip then d.decideWith skip step g [] [] else d

/-- A grid-sum entry takes the grid of the next step, R202: the field holds E + 149 and the maximum M + 149. -/
def Dev.newGride (d : Dev) (p : Nat × Nat) : Dev := d.set (Reg.GRN_RBS_FLAGS.GRIDE p.1) (p.2 + 14)

/-- The status pair of an entry is zeroed when its contribution has been taken (R199). -/
def Dev.zeroStatus (d : Dev) (i : Nat) : Dev :=
  (((d.set (Reg.GRN_RBS_FLAGS.MAXEXP i) 0).setBit (Reg.GRN_RBS_FLAGS.NONFIN i) false).setBit (Reg.GRN_RBS_FLAGS.GRID_RANGE i) false).set
    (Reg.GRN_RBS_NFCNT.COUNT i) 0

/-- The word of a table entry's CTL register. -/
def Dev.rbtCtl (d : Dev) (i : Nat) : Nat :=
  d.get (Reg.GRN_RBT_CTL.FMT i) + 16 * d.get (Reg.GRN_RBT_CTL.AFMT i) + 32 * d.get (Reg.GRN_RBT_CTL.EN i) + 64 * d.get (Reg.GRN_RBT_CTL.GROUP i)

/-- The module's leaf of the program digest, R221. -/
def Dev.moduleLeaf (mask : Nat) (d : Dev) : Dev :=
  d.addDigest Reg.GRN_DIG_PROG (sha256 (leBytes 1 (d.get Reg.MTC_DETERMINISM.STRICT) ++ (groupsOf mask).flatMap fun g =>
    (match d.thr.passQ.find? fun q => decide (q.group = g) with
     | some q => q.params ++ q.custom
     | none => []) ++ (d.grpEntries g).flatMap fun i => leBytes 4 (d.rbtCtl i)))

/-- The decision acts: parameters copied, registers updated, the digest leaf, grids and status pairs, and the passes queued. -/
def Dev.decide_ (e : ColEntry) (d : Dev) : Dev :=
  let mask := recField e.raw 0x2A 2
  let step := recField e.raw 0x38 8
  let skip := e.skip || e.range
  let d := ((groupsOf mask).foldl (fun d g => d.decideGroup skip step g) d).moduleLeaf mask
  let d := ((d.gridEntries mask).zip e.maxima).foldl Dev.newGride d
  let d := ((groupsOf mask).flatMap d.grpEntries).foldl Dev.zeroStatus d
  d.thrAdvance

/-- The combined flags and maxima of the launched decision entry are complete. -/
def execDecisionArrive (s : State) : Out :=
  s.does fun d =>
    match d.col.entry with
    | some e =>
      if recField e.raw 0 1 = 6 ∧ e.steps = [] ∧ !e.decided then
        Dev.decide_ e { d with col := { d.col with entry := some { e with decided := true } } }
      else d
    | none => d

/-- The pass that runs ends: the queue moves on. -/
def Dev.passEnds (f : Pass → Dev → Dev) (skip : Bool) (g : Nat) (d : Dev) : Dev :=
  match d.thr.passQ with
  | q :: r =>
    if d.thr.running ∧ q.group = g ∧ q.skip = skip then
      (f q { d with thr := { d.thr with passQ := r, running := false } }).thrAdvance
    else d
  | [] => d

def execRecipePassDone (g : Fin 16) (s : State) : Out :=
  s.does fun d => if d.memOn then Dev.passEnds (fun q d => (((d.recipePass q).digStart q).mirStart q)) false g d else d

def execClearPassDone (g : Fin 16) (s : State) : Out :=
  s.does fun d => if d.memOn then Dev.passEnds (fun q d => (d.clearGroup q.group).mirStart q) true g d else d

/-- Every data write has arrived: STEP and then STATE = 2 go out, and the group opens. -/
def execMirrorRefreshDone (g : Fin 16) (s : State) : Out :=
  s.does fun d =>
    match d.mirror g with
    | some m =>
      if !d.memOn || m.closing || !m.todo.isEmpty || !m.wait.isEmpty then d
      else
        let a := d.get64 (Reg.GRN_GRP_MIR_LO g)
        let d := d.setMirror g (some { m with closing := true, todo := [(a, leBytes 8 m.step), (a + 8, leBytes 4 2)] })
        let d := if d.grpState g = grpMirroring then d.setGrp g grpOpen else d
        (d.mirGo g).thrAdvance
    | none => d

/-- The digest of a group is complete: the module sum takes its new value (R218, R219). A chunk that cannot be read raises its fault and leaves the
digest owed. -/
def execWeightDigestDone (g : Fin 16) (s : State) : Out :=
  s.does fun d =>
    if !d.memOn ∨ mget 0 d.thr.digDue g = 0 then d
    else
      match d.listRead g with
      | (none, d) => d
      | (some l, d) =>
        match d.digSumOf (l.map optDesc) with
        | (none, d) => d
        | (some v, d) => (Dev.digShare g v { d with thr := { d.thr with digDue := mset 0 d.thr.digDue g 0 } }).thrAdvance

/-! ### Responses, R278 -/

/-- A response to a write of a refresh; a pass that waits for the refresh starts when it has ended. -/
def Dev.mirResponse (g : Nat) (f : Frame) (d : Dev) : Dev :=
  let d := d.freeTxid f.txid
  match d.mirror g with
  | none => d
  | some m =>
    if !m.wait.contains f.txid then d
    else
      let m := { m with wait := m.wait.filter fun x => decide (x ≠ f.txid) }
      if f.op = 4 then ((d.setMirror g (some m)).mirFail g).thrAdvance
      else if m.closing && m.todo.isEmpty && m.wait.isEmpty then (d.setMirror g none).thrAdvance
      else ((d.setMirror g (some m)).mirGo g).thrAdvance

/-- Read data, a write acknowledge or an error reaches the unit that asked. -/
def Dev.response (f : Frame) (d : Dev) : Dev :=
  match mget none d.fab.txids f.txid with
  | none => d
  | some r =>
    if r.abandoned then d.lateResponse f.txid
    else if r.owner < 64 then d.dmaResponse (Fin.ofNat 64 r.owner) f
    else d.mirResponse (r.owner - 64) f

def execRemoteResponse (f : Frame) (s : State) : Out :=
  s.does fun d =>
    if d.fab.rspQ.contains f then Dev.response f { d with fab := { d.fab with rspQ := d.fab.rspQ.erase f } } else d

/-! ### Commands, R217 and R223 -/

/-- A command for a group is accepted, or ignored with CMD_REJ. -/
def Dev.thrCommand (op g : Nat) (d : Dev) : Dev :=
  if op = 0 then d
  else
    let st := d.grpState g
    if d.bit Reg.GRN_THR_CMDSTAT.BUSY ∨ ¬(st = grpIdle ∨ st = grpOpen) then d.setBit (Reg.GRN_GRP_STATE.CMD_REJ g) true
    else
      let d := { d.setBit Reg.GRN_THR_CMDSTAT.BUSY true with thr := { d.thr with cmd := some (op, g) } }
      if op = 1 ∧ st = grpOpen then d.setGrp g grpClearing else d

def execThrClear (_r : Requester) (g : Fin 16) (s : State) : Out := s.does (Dev.thrCommand 1 g)
def execThrExport (_r : Requester) (g : Fin 16) (s : State) : Out := s.does (Dev.thrCommand 2 g)
def execThrImportCheck (_r : Requester) (g : Fin 16) (s : State) : Out := s.does (Dev.thrCommand 3 g)

/-- The roles that a descriptor has, in role order. -/
def OptDesc.roles (o : OptDesc) : List Nat :=
  (if o.wb = 0 then [] else [0]) ++ [1] ++ (if o.m = 0 then [] else [2]) ++ (if o.v = 0 then [] else [3])

/-- The span of a role's data. -/
def OptDesc.roleSpan (p : List Byte) (o : OptDesc) (role : Nat) : Nat × Nat :=
  match role with
  | 0 => (o.wb, 2 * o.n)
  | 1 => (o.w, 4 * o.n)
  | 2 => (o.m, momSize p * o.n)
  | _ => (o.v, momSize p * o.n)

/-- The data of a group-state record. -/
def Dev.groupData (d : Dev) (g : Nat) : List Byte :=
  let ls := d.get (Reg.GRN_GRP_LS.LS_EXP g) + 256 * d.get (Reg.GRN_GRP_LS.LS_MIN g) + 65536 * d.get (Reg.GRN_GRP_LS.LS_MAX g)
  leBytes 4 ls ++ leBytes 2 (d.get (Reg.GRN_GRP_GROW.INTERVAL g)) ++ leBytes 2 (d.get (Reg.GRN_GRP_GROW.GOOD g))
    ++ leBytes 4 (d.get (Reg.GRN_GRP_APPLIED g)) ++ leBytes 4 (d.get (Reg.GRN_GRP_P1 g)) ++ leBytes 4 (d.get (Reg.GRN_GRP_P2 g))
    ++ leBytes 4 0 ++ (d.gridEntries (2 ^ g)).flatMap fun i => leBytes 2 (d.get (Reg.GRN_RBS_FLAGS.MAXEXP i))

/-- The data of a record: a span of memory, or bytes. -/
inductive RecData where
  | span (a n : Nat)
  | bytes (bs : List Byte)
  deriving DecidableEq, Repr

def RecData.length : RecData → Nat
  | .span _ n => n
  | .bytes bs => bs.length

/-- The bytes of a record's data, or none where they cannot be read. -/
def RecData.read (x : RecData) (d : Dev) : Option (List Byte) × Dev :=
  match x with
  | .span a n => d.readMem .thresher a n
  | .bytes bs => (some bs, d)

/-- Roles and data of a group's records, in order, or none where its parameters or its list cannot be read. -/
def Dev.records (g : Nat) (d : Dev) : Option (List (Nat × RecData)) × Dev :=
  match d.readMem .thresher (d.get64 (Reg.GRN_GRP_PADDR_LO g)) 64 with
  | (none, d) => (none, d)
  | (some p, d) =>
    match d.listRead g with
    | (none, d) => (none, d)
    | (some l, d) =>
      (some (((l.map optDesc).flatMap fun o => o.roles.map fun r => (r, RecData.span (o.roleSpan p r).1 (o.roleSpan p r).2))
        ++ [(5, RecData.bytes (d.groupData g))]), d)

/-- A record: the header completed from its template, and the data, padded. -/
def exportRecord (tmpl data : List Byte) (step : Nat) : List Byte :=
  pad64 (tmpl.take 0x58 ++ leBytes 8 step ++ sha256 data ++ data)

/-- Bytes go to Granary, GDDR or the host window: whether they were taken. -/
def Dev.exportPut (a : Nat) (bs : List Byte) (d : Dev) : Bool × Dev :=
  if inHost a then
    if d.get Reg.HST_HWIN_SIZE * 2 ^ 30 < a - hostBase + bs.length || !d.bit Reg.HST_STATUS.LINK_UP then (false, d)
    else (true, d.emit (.hostWrite (d.get64 Reg.HST_HWIN_BUS_LO + (a - hostBase)) bs))
  else if isGranary a || isGddr a then
    match d.writeMem .thresher a bs with
    | (none, d) => (true, d)
    | (some _, d) => (false, d)
  else (false, d)

/-- EXPORT: templates in descriptor order and role order, then the group state's. -/
def Dev.exportGo (g : Nat) : List (Nat × RecData) → Nat → Nat → Dev → Bool × Dev
  | [], _, _, d => (true, d)
  | (role, data) :: r, src, dst, d =>
    match d.readMem .thresher src 128 with
    | (none, d) => (false, d)
    | (some t, d) =>
      if recField t 2 1 ≠ role then (false, d.raise { code := Flt.THR_EXPORT_BAD, arg0 := g })
      else match data.read d with
        | (none, d) => (false, d)
        | (some bs, d) =>
          let rec_ := exportRecord t bs (mget 0 d.thr.steps g)
          match d.exportPut dst rec_ with
          | (true, d) => Dev.exportGo g r (src + 128) (dst + rec_.length) d
          | (false, d) => (false, d)

/-- IMPORT_CHECK: the digest of each record against the data in place. -/
def Dev.importGo (g : Nat) : List (Nat × RecData) → Nat → Nat → Dev → Bool × Dev
  | [], _, _, d => (true, d)
  | (_, data) :: r, i, src, d =>
    match d.readMem .thresher src 128 with
    | (none, d) => (false, d)
    | (some t, d) =>
      match data.read d with
      | (none, d) => (false, d)
      | (some bs, d) =>
        if sha256 bs ≠ t.drop 0x60 then
          (false, (d.thrFlag Reg.GRN_THR_ERR.IMPORT).raise { code := Flt.THR_IMPORT_DIGEST, arg0 := i, arg1 := g })
        else Dev.importGo g r (i + 1) (src + 128 + (data.length + 63) / 64 * 64) d

/-- What a command does by its end: whether it succeeded. -/
def Dev.thrEffect (op g : Nat) (d : Dev) : Bool × Dev :=
  if op = 1 then
    let d := d.clearGroup g
    (true, if d.grpState g = grpClearing then d.setGrp g grpOpen else d)
  else match d.records g with
    | (none, d) => (false, d)
    | (some rs, d) =>
      if op = 2 then d.exportGo g rs (d.get64 Reg.GRN_THR_XSRC_LO) (d.get64 Reg.GRN_THR_XDST_LO)
      else d.importGo g rs 0 (d.get64 Reg.GRN_THR_XSRC_LO)

/-- The command that runs ends: DONE, and FAIL where it failed. -/
def execThrCmdDone (s : State) : Out :=
  s.does fun d =>
    match d.thr.cmd with
    | none => d
    | some (op, g) =>
      if !d.memOn then d
      else
      let (ok, d) := Dev.thrEffect op g { d with thr := { d.thr with cmd := none } }
      let d := (d.setBit Reg.GRN_THR_CMDSTAT.BUSY false).setBit Reg.GRN_THR_CMDSTAT.DONE true
      if ok then d else d.setBit Reg.GRN_THR_CMDSTAT.FAIL true

/-- A group's reduction buffers hold open contents. -/
def Dev.openGroup (g : Nat) (d : Dev) : Dev :=
  (d.grpEntries g).foldl (fun (d : Dev) i => d.openRange (d.rbtLo i) (d.rbtHi i - d.rbtLo i)) d

/-- What the pass that runs works on is open: its buffers, and for a recipe pass its tensors. -/
def Dev.openPass (q : Pass) (d : Dev) : Dev :=
  (q.list.map optDesc).foldl (fun (d : Dev) (o : OptDesc) =>
    let n := momSize q.params * o.n
    (((d.openRange o.w (4 * o.n)).openRange o.m (if o.m = 0 then 0 else n)).openRange o.v (if o.v = 0 then 0 else n)).openRange
      o.wb (if o.wb = 0 then 0 else 2 * o.n)) (d.openGroup q.group)

/-- A GRANARY or MODULE reset aborts thresher work (R203): the states of the groups at work, and what the running pass or CLEAR works on, are
open. -/
def Dev.thrAbort (d : Dev) : Dev :=
  let busy := (List.range 16).filter fun g =>
    d.mirroring g || d.thr.passQ.any (fun q => decide (q.group = g)) || decide (d.thr.cmd.map Prod.snd = some g)
  let d := match d.thr.passQ with
    | q :: _ => if d.thr.running then d.openPass q else d
    | [] => d
  let d := match d.thr.cmd with
    | some (1, g) => d.openGroup g
    | _ => d
  let d := (List.range 16).foldl (fun d g =>
    match d.mirror g with
    | some m => m.wait.foldl (fun (d : Dev) x => d.abandonTxid x) d
    | none => d) d
  let d := busy.foldl (fun d g => let (v, d) := d.freeNat; d.setGrp g (v % 6)) d
  { d.setBit Reg.GRN_THR_CMDSTAT.BUSY false with thr := { d.thr with passQ := [], running := false, mirs := [], digDue := [], cmd := none } }

end Sys2Proof.Machine
end

