-- ==== Sys2Proof/Machine/Collective.lean ====
section
/-! DEFINITION. The collective unit: communicators and ranks (R299, R300), the script (R301 to R304), operations and schedules (R305 to
R311), records (R312 to R316), faults (R317 to R319), staging pools (R320 to R322) and the decision's side of the threshers (R201). -/

namespace Sys2Proof.Machine

/-! ### Script entries, R301 -/

def eKind (r : List Byte) : Nat := recField r 0x00 1
def eComm (r : List Byte) : Nat := recField r 0x01 1
def eFlags (r : List Byte) : Nat := recField r 0x02 2
def eGrid (r : List Byte) : Bool := (eFlags r).testBit 0
def eDyn (r : List Byte) : Bool := (eFlags r).testBit 1
def ePiste (r : List Byte) : Bool := (eFlags r).testBit 2
def eFmt (r : List Byte) : Nat := recField r 0x04 4
def eLaunch (r : List Byte) : Nat := recField r 0x08 8
def eSrc (r : List Byte) : Nat := recField r 0x10 8
def eDst (r : List Byte) : Nat := recField r 0x18 8
def eCount (r : List Byte) : Nat := recField r 0x20 8
def ePbase (r : List Byte) : Nat := recField r 0x28 2
def eArg (r : List Byte) : Nat := recField r 0x2A 2
def eCores (r : List Byte) : Nat := recField r 0x30 8
def eAux (r : List Byte) : Nat := recField r 0x38 8

def noInstant : Nat := 2 ^ 64 - 1

/-- Bits of an element of the entry's data. -/
def eBits (r : List Byte) : Nat := if eGrid r then 64 else elemBitsOf (eFmt r)

/-- The address of a script entry. -/
def Dev.entryAddr (d : Dev) (i : Nat) : Nat := d.get64 Reg.COL_SCRIPT_BASE_LO + 64 * i

/-- The 64 bytes of a script entry. -/
def Dev.entryRaw (d : Dev) (i : Nat) : List Byte := d.rdBytes (d.entryAddr i) 64

/-- The index of the current or next entry. -/
def Dev.entryIdx (d : Dev) : Nat := d.get Reg.COL_STATUS.ENTRY

/-- The current entry: the launched one, or the one that waits to launch. -/
def Dev.curRaw (d : Dev) : List Byte :=
  match d.col.entry with
  | some e => e.raw
  | none => d.entryRaw d.entryIdx

/-! ### Communicators, R299 and R300 -/

def Dev.commMask (d : Dev) (n k : Nat) : Nat :=
  match k with
  | 0 => d.get (Reg.COL_COMM_MASK_0 n)
  | 1 => d.get (Reg.COL_COMM_MASK_1 n)
  | 2 => d.get (Reg.COL_COMM_MASK_2 n)
  | _ => d.get (Reg.COL_COMM_MASK_3 n)

/-- Member positions on an axis, ascending; positions outside the block are none. -/
def Dev.commPoss (d : Dev) (n k : Nat) : List Nat := (List.range (d.blkLen k)).filter fun p => (d.commMask n k).testBit p

/-- An axis of a communicator: its member positions, the module's own rank on it, and the weight of that rank in the linear rank. -/
structure ColAxis where
  k : Nat
  poss : List Nat
  r : Nat
  w : Nat
  deriving DecidableEq, Repr

def ColAxis.n (a : ColAxis) : Nat := a.poss.length

/-- Some axes of a communicator, A0 first. -/
def Dev.axesFrom (d : Dev) (n : Nat) : List Nat → Nat → List ColAxis
  | [], _ => []
  | k :: ks, w =>
    let ps := d.commPoss n k
    ⟨k, ps, (ps.filter fun q => decide (q < d.blkPos k (d.coord k))).length, w⟩ :: d.axesFrom n ks (w * ps.length)

/-- The axes of an enabled communicator. -/
def Dev.commAxes (d : Dev) (n : Nat) : List ColAxis :=
  if 64 ≤ n ∨ !d.inBlock d.node then []
  else match d.get (Reg.COL_COMM_CTL.KIND n) with
    | 1 => d.axesFrom n [d.get (Reg.COL_COMM_CTL.AXIS n)] 1
    | 2 => d.axesFrom n [0, 1, 2, 3] 1
    | _ => []

/-- The axes of an enabled communicator that this module belongs to. -/
def Dev.colAxes (d : Dev) (n : Nat) : Option (List ColAxis) :=
  let as := d.commAxes n
  if as ≠ [] ∧ as.all fun a => a.poss.contains (d.blkPos a.k (d.coord a.k)) then some as else none

def axesSize (as : List ColAxis) : Nat := as.foldl (fun s a => s * a.n) 1
def axesRank (as : List ColAxis) : Nat := as.foldl (fun s a => s + a.r * a.w) 0

/-- The digit of a linear rank or chunk on an axis. -/
def ColAxis.digit (a : ColAxis) (c : Nat) : Nat := c / a.w % a.n

/-- The coordinate of a rank on an axis. -/
def Dev.axisCoord (d : Dev) (a : ColAxis) (x : Nat) : Nat := (d.blkOrg a.k + a.poss.getD x 0) % d.axisLen a.k

/-- The node of a linear rank. -/
def Dev.rankNode (d : Dev) (as : List ColAxis) (c : Nat) : Nat :=
  d.nodeOf fun j =>
    match as.find? fun a => decide (a.k = j) with
    | some a => d.axisCoord a (a.digit c)
    | none => d.coord j

/-- The node with another rank on one axis. -/
def Dev.digitNode (d : Dev) (a : ColAxis) (x : Nat) : Nat :=
  d.nodeOf fun j => if j = a.k then d.axisCoord a x else d.coord j

/-- Every member but this module. -/
def Dev.otherMembers (d : Dev) (as : List ColAxis) : List Nat :=
  ((List.range (axesSize as)).map (d.rankNode as)).filter fun n => decide (n ≠ d.node)

/-! ### Schedules, R305 to R310 -/

/-- What the schedule of an entry is made from. -/
structure ColPlan where
  kind : Nat
  axes : List ColAxis
  bits : Nat
  count : Nat
  src : Nat
  dst : Nat
  deriving DecidableEq, Repr

def ColPlan.n (p : ColPlan) : Nat := axesSize p.axes

/-- C, the elements of a chunk. -/
def ColPlan.chunk (p : ColPlan) : Nat := ceilDiv p.count (p.n * 1024) * 1024

/-- Bytes that some elements take. -/
def ColPlan.size (p : ColPlan) (elems : Nat) : Nat := ceilDiv (elems * p.bits) 8

/-- A chunk's offset and bytes. -/
def ColPlan.chunkAt (p : ColPlan) (c : Nat) : Nat × Nat :=
  (c * p.chunk * p.bits / 8, p.size (min p.chunk (p.count - c * p.chunk)))

/-- The runs of some chunks, at the places where the operation keeps them. -/
def ColPlan.runs (p : ColPlan) (which : Nat → Bool) : List (Nat × Nat × Nat) :=
  let base := if p.kind = 1 then p.src else p.dst
  ((List.range p.n).filter which).filterMap fun c =>
    let (o, n) := p.chunkAt c
    if n = 0 then none else some (base + o, base + o, n)

/-- P and s of R310 for n members. -/
def foldP (n : Nat) : Nat := 2 ^ Nat.log2 n
def folded (n : Nat) : Bool := decide (foldP n ≠ n)

/-- A step with one partner. -/
def Dev.oneStep (d : Dev) (p : ColPlan) (a : ColAxis) (num x take : Nat) (which : Nat → Bool) : ColStep :=
  let runs := p.runs which
  { num := num, peers := [⟨d.digitNode a x, (runs.map fun r => r.2.2).foldl (· + ·) 0, runs, take⟩] }

/-- Chunks that an axis deals with: on the axes done before it and on those still to come. -/
def ColPlan.inAxis (p : ColPlan) (a : ColAxis) (c : Nat) : Bool :=
  p.axes.all fun b =>
    if b.k = a.k then true
    else if p.kind = 1 then decide (a.k < b.k) || decide (b.digit c = b.r)
    else decide (b.k < a.k) || decide (b.digit c = b.r)

/-- No data, for barrier, decision and audit. -/
def ColPlan.dataless (p : ColPlan) : Bool := decide (5 ≤ p.kind)

/-- The steps on one axis, numbered from `base`. -/
def Dev.axisSteps (d : Dev) (p : ColPlan) (a : ColAxis) (base : Nat) : List ColStep :=
  let n := a.n
  let q := foldP n
  let s := Nat.log2 n
  let r := a.r
  let f := if folded n then 1 else 0
  let give (g : Nat → Bool) (c : Nat) : Bool := !p.dataless && p.inAxis a c && g (a.digit c)
  let nothing (_ : Nat) : Bool := false
  let pre : List ColStep :=
    if f = 0 then []
    else if q ≤ r then [d.oneStep p a base (r - q) 0 (give fun x => decide (p.kind = 1) || decide (x = r))]
    else if r + q < n then [d.oneStep p a base (r + q) 1 nothing]
    else []
  let main : List ColStep :=
    if q ≤ r then []
    else (List.range s).map fun i =>
      let b := if p.kind = 2 then s - 1 - i else i
      d.oneStep p a (base + f + i) (r ^^^ 2 ^ b) 1 (give fun x =>
        let y := x % q
        if p.kind = 2 then decide (y % 2 ^ (b + 1) = r % 2 ^ (b + 1))
        else decide (y % 2 ^ b = r % 2 ^ b) && decide (y / 2 ^ b % 2 ≠ r / 2 ^ b % 2))
  let post : List ColStep :=
    if f = 0 then []
    else if q ≤ r then [d.oneStep p a (base + 1 + s) (r - q) 2 nothing]
    else if r + q < n then [d.oneStep p a (base + 1 + s) (r + q) 0 (give fun x => decide (p.kind = 2) || decide (x = r + q))]
    else []
  pre ++ main ++ post

/-- The steps over all axes, A0 first; the step number counts on (log entry 26). -/
def Dev.stepsFrom (d : Dev) (p : ColPlan) : List ColAxis → Nat → List ColStep
  | [], _ => []
  | a :: r, base => d.axisSteps p a base ++ d.stepsFrom p r (base + Nat.log2 a.n + (if folded a.n then 2 else 0))

/-- Members that a leg passes from a position in one direction, R307. -/
def legLength (ps : List Nat) (len : Nat) (spans fwd : Bool) (p : Nat) : Nat → Nat → Nat
  | 0, i => i - 1
  | n + 1, i =>
    let q := if fwd then p + i else p + len * i - i
    let inside := spans || (if fwd then decide (p + i < len) else decide (i ≤ p))
    let pos := if fwd then (if spans then q % len else q) else (if spans then q % len else p - i)
    if inside && decide (i < len) && ps.contains pos then legLength ps len spans fwd p n (i + 1) else i - 1

/-- The legs of a broadcast from this module: direction, receivers and last position. -/
def Dev.bcastLegs (d : Dev) (a : ColAxis) : List (Nat × Nat × Nat) :=
  let len := d.blkLen a.k
  let p := a.poss.getD a.r 0
  let sp := d.spans a.k
  if d.axisLen a.k < 3 ∨ a.n = 2 then []
  else if sp && decide (a.n = len) then [(2 * a.k, a.n - 1, (p + a.n - 1) % len)]
  else
    let up := legLength a.poss len sp true p len 1
    let dn := legLength a.poss len sp false p len 1
    (if up = 0 then [] else [(2 * a.k, up, (p + up) % len)]) ++ (if dn = 0 then [] else [(2 * a.k + 1, dn, (p + len * dn - dn) % len)])

/-- Positions that a leg reaches. -/
def legReach (len p : Nat) (leg : Nat × Nat × Nat) : List Nat :=
  (List.range leg.2.1).map fun i => if leg.1 % 2 = 0 then (p + i + 1) % len else (p + len * (i + 1) - (i + 1)) % len

/-- The broadcast, R307: the root exchanges count records with every member and sends once all have answered. -/
def Dev.bcastSteps (d : Dev) (p : ColPlan) (a : ColAxis) (root : Nat) : List ColStep :=
  let total := p.size p.count
  if a.n = 1 then []
  else if a.r ≠ root then [{ num := 0, peers := [⟨d.digitNode a root, 0, [], 0⟩] }]
  else
    let legs := if total = 0 then [] else d.bcastLegs a
    let at_ := a.poss.getD a.r 0
    let reached := legs.flatMap (legReach (d.blkLen a.k) at_)
    let run := (p.src, p.dst, total)
    let peers := ((List.range a.n).filter fun x => decide (x ≠ a.r)).map fun x =>
      ⟨d.digitNode a x, total, if reached.contains (a.poss.getD x 0) ∨ total = 0 then [] else [run], 0⟩
    let last (leg : Nat × Nat × Nat) : Nat × Nat × Nat :=
      (leg.1, leg.2.1, d.nodeOf fun j => if j = a.k then (d.blkOrg a.k + leg.2.2) % d.axisLen a.k else d.coord j)
    [{ num := 0, peers := peers, legs := legs.map last, legRun := run, together := true }]

/-- What a member sends in a permute: destination rank, first source element and count. -/
structure PermMove where
  dest : Nat
  first : Nat
  count : Nat
  deriving DecidableEq, Repr

/-- A permute goes by a rank map, R308. -/
def mapped (r : List Byte) : Bool := decide (eKind r = 4) && decide (eArg r = 0)

/-- The moves of all ranks, R308, from the words of the rank map; with a shift every rank moves its elements alike. -/
def permMoves (r : List Byte) (n count : Nat) (map : List Byte) : List PermMove :=
  (List.range n).map fun q =>
    if eArg r = 0 then
      let w := recField map (8 * q) 8
      ⟨w % 2 ^ 16, bitsOf w 16 24, bitsOf w 40 24⟩
    else ⟨((Int.ofNat q + bitsInt 16 (eArg r)) % Int.ofNat n).toNat, 0, count⟩

/-- The step of a permute; `dyn` where the destination places the data. -/
def Dev.permSteps (d : Dev) (p : ColPlan) (ms : List PermMove) (dyn : Bool) : List ColStep :=
  let r := axesRank p.axes
  let own := ms.getD r ⟨r, 0, 0⟩
  let start := (((ms.take r).filter fun m => decide (m.dest = own.dest)).map PermMove.count).foldl (· + ·) 0
  let bytes := p.size own.count
  let run := (p.src + own.first * p.bits / 8, p.dst + (if dyn then 0 else p.size start), bytes)
  let srcs := (List.range p.n).filter fun q => decide (q ≠ r) && decide ((ms.getD q ⟨q, 0, 0⟩).dest = r)
  let out := if own.dest = r then [] else [⟨d.rankNode p.axes own.dest, bytes, if bytes = 0 then [] else [run], 0⟩]
  let from_ := (srcs.filter fun q => decide (q ≠ own.dest)).map fun q => (⟨d.rankNode p.axes q, 0, [], 0⟩ : ColPeer)
  if out = [] ∧ from_ = [] then [] else [{ num := 0, peers := out ++ from_ }]

/-! ### The checks of R304 -/

/-- An enabled reduction buffer overlaps a range. -/
def Dev.inBuffers (d : Dev) (a n : Nat) : Bool :=
  (List.range 256).any fun i => d.bit (Reg.GRN_RBT_CTL.EN i) && decide (a < d.rbtHi i) && decide (d.rbtLo i < a + n)

/-- The enabled grid-sum buffer that holds an address. -/
def Dev.gridBuffer (d : Dev) (a : Nat) : Option Nat :=
  (List.range 256).find? fun i =>
    d.bit (Reg.GRN_RBT_CTL.EN i) && decide (d.get (Reg.GRN_RBT_CTL.FMT i) = 13) && decide (d.rbtLo i ≤ a) && decide (a < d.rbtHi i)

/-- No reserved value stands in an entry. -/
def entryFieldsOk (r : List Byte) : Bool :=
  decide (1 ≤ eKind r) && decide (eKind r ≤ 7) && decide (eComm r < 64) && decide (eFlags r < 8) && decide (eFmt r < 14)
    && decide (recField r 0x2C 4 = 0) && (decide (eKind r = 6) || (decide (eKind r = 4) && decide (eArg r = 0)) || decide (eAux r = 0))

/-- The piste entries of the steps of a schedule are enabled origin entries of this block (R304; log entry 52). -/
def Dev.pistesOk (d : Dev) (r : List Byte) (steps : List ColStep) : Bool :=
  steps.all fun s => (List.range 3).all fun i =>
    let e := ePbase r + 3 * s.num + i
    decide (e < 512) && d.bit (Reg.PST_CTL.EN e) && decide (d.get (Reg.PST_CTL.ROLE e) = 1)
      && decide (d.get (Reg.PST_CTL.BLK e) = d.get Reg.FAB_BLOCK_ID)

/-- The plan of an entry on this module, for its element count. -/
def colPlan (r : List Byte) (axes : List ColAxis) (count : Nat) : ColPlan := ⟨eKind r, axes, eBits r, count, eSrc r, eDst r⟩

/-- Bytes of DST that an operation fills on this module: in a permute, what the source ranks send to it (R305, R308). -/
def ColPlan.dstBytes (p : ColPlan) (ms : List PermMove) : Nat :=
  if p.kind = 4 then p.size (((ms.filter fun m => decide (m.dest = axesRank p.axes)).map PermMove.count).foldl (· + ·) 0) else p.size p.count

/-- Floating-point formats of R48. -/
def floatFmt (f : Nat) : Bool := decide (f < 10)

/-- The schedule of an entry with its element count and rank map, or none where R304, R307, R343 or R346 refuse it. -/
def Dev.schedule (d : Dev) (r : List Byte) (count : Nat) (map : List Byte) : Option (ColPlan × List ColStep) :=
  if !entryFieldsOk r then none
  else match d.colAxes (eComm r) with
    | none => none
    | some axes =>
      let p := colPlan r axes count
      let furrow := decide (d.get (Reg.COL_COMM_CTL.KIND (eComm r)) = 1)
      let ms := permMoves r p.n p.count map
      let steps :=
        if p.kind = 3 then (match axes with | [a] => d.bcastSteps p a (eArg r) | _ => [])
        else if p.kind = 4 then d.permSteps p ms (eDyn r && decide (eArg r = 0))
        else d.stepsFrom p axes 0
      let bad := (eGrid r && (d.gridBuffer (eSrc r)).isNone)
        || (decide (2 ≤ p.kind) && decide (p.kind ≤ 4) && d.inBuffers p.dst (p.dstBytes ms))
        || (ePiste r && decide (p.kind ≠ 3) && decide (p.kind < 5) && !d.pistesOk r steps)
        || (decide (p.kind = 3) && (!furrow || decide (p.n ≤ eArg r)))
        || (decide (p.kind = 4) && ms.any fun m => decide (p.n ≤ m.dest))
        || (decide (p.kind = 1) && d.bit Reg.MTC_DETERMINISM.STRICT && !eGrid r && floatFmt (eFmt r)
            && axes.any fun a => decide (a.k = 0) && decide (1 < a.n))
        || (decide (p.kind = 7) && (furrow || decide (p.dst % 64 ≠ 0) || !(isGranary p.dst || isGddr p.dst) || d.inBuffers p.dst 128))
      if bad then none else some (p, steps)

/-! ### Faults of the unit, R314 to R319 -/

/-- An abort record; like any request it goes on a piste to a node for which this module holds one (R290). -/
def Dev.abortFrame (comm seq code : Nat) (node : Nat) (d : Dev) : Frame :=
  dataFrame ⟨node, d.node, d.get Reg.FAB_BLOCK_ID, 11, comm + 64 * (seq % 1024), 0, none, d.originPiste node⟩
    (leBytes 1 comm ++ leBytes 3 0 ++ leBytes 4 seq ++ leBytes 2 code)

/-- Abort records go to every other member of a communicator, of which this module need be none. -/
def Dev.sendAborts (comm seq code : Nat) (d : Dev) : Dev :=
  (d.otherMembers (d.commAxes comm)).foldl (fun d n => (d.route {} (d.abortFrame comm seq code n)).2) d

/-- Cores that a mask names. -/
def coresOf (mask : Nat) : List Nat := (List.range 64).filter fun c => mask.testBit c

/-- The core waits at COLWAIT for an entry. -/
def Core.atColwait (k : Core) (idx : Nat) : Bool := decide (k.seq = .wait) && decide (wOp k.word = 0x31) && decide (k.s (wRa k.word) = idx)

/-- COLWAIT for an entry ends with the fault on the cores of the entry that wait there (R319). -/
def Dev.endWaits (raw : List Byte) (idx code : Nat) (d : Dev) : Dev :=
  (coresOf (eCores raw)).foldl (fun d c => if (d.core c).atColwait idx then d.seqEnd c code (d.core c).tagNow else d) d

/-- A job-fatal fault of the unit, R319: the script stops, the members are told, the waiting cores fault, and the fault is raised. `second`: the
other communicator of ORDER_CROSS and ORDER_STALL, or that there is none. -/
def Dev.colFault (bit : Fld) (code : Nat) (second : Option (Option Nat)) (tell : Bool) (d : Dev) : Dev :=
  let raw := d.curRaw
  let comm := eComm raw
  let idx := d.entryIdx
  let seq := mget 0 d.col.seqs comm
  let d := ((d.setBit bit true).setBit Reg.COL_ERR.ABORTED true).set Reg.COL_ERR_COMM.COMM1 comm
  let d := match second with
    | some c => (d.set Reg.COL_ERR_COMM.COMM2 (c.getD 63)).setBit Reg.COL_ERR_COMM.NONE2 c.isNone
    | none => d
  let d := d.colStop
  let d := if tell then d.sendAborts comm seq code else d
  let d := d.endWaits raw idx code
  d.raise { code := code, arg0 := comm, arg1 := (second.map fun c => c.getD 63).getD 0 }

def Dev.colStray (d : Dev) : Dev := d.colFault Reg.COL_ERR.STRAY Flt.COL_STRAY none true

/-! ### Count records, R313 -/

/-- Halfwords of the three sums of an audit entry. -/
def sumsVals (sums : List Nat) : List Nat := sums.flatMap fun s => (List.range 16).map fun i => s / 2 ^ (16 * i) % 2 ^ 16

/-- The sums that halfwords make. -/
def valsSums (vs : List Nat) : List Nat :=
  (List.range 3).map fun j => (List.range 16).foldl (fun a i => a + vs.getD (16 * j + i) 0 * 2 ^ (16 * i)) 0

/-- The maxima that the entry's count records carry. -/
def ColEntry.vals (e : ColEntry) : List Nat := if eKind e.raw = 7 then sumsVals e.sums else e.maxima

/-- GRIDE of an entry, R313. -/
def Dev.entryGride (d : Dev) (raw : List Byte) : Nat :=
  if eGrid raw then ((d.gridBuffer (eSrc raw)).map fun i => d.get (Reg.GRN_RBS_FLAGS.GRIDE i)).getD 0 else 0

/-- A count record. -/
def Dev.countFrame (d : Dev) (e : ColEntry) (num bytes node off : Nat) (vals : List Nat) (more : Bool) : Frame :=
  let flags := (if e.skip then 1 else 0) + (if e.range then 2 else 0) + (if more then 4 else 0)
  let body := leBytes 1 (eComm e.raw) ++ leBytes 1 num ++ leBytes 2 flags ++ leBytes 4 e.seq ++ leBytes 8 bytes
    ++ leBytes 2 (d.entryGride e.raw) ++ leBytes 2 vals.length ++ leBytes 2 off ++ leBytes 2 0
    ++ leBytes 8 (if eKind e.raw = 6 then eAux e.raw else 0) ++ vals.flatMap fun v => leBytes 2 v
  dataFrame ⟨node, d.node, d.get Reg.FAB_BLOCK_ID, 8, eComm e.raw + 64 * (e.seq % 1024), 0, none, none⟩ body

/-- Maxima that a count record holds: 96, or as many as R280 leaves room for. -/
def Dev.maximaRoom (d : Dev) : Nat := min 96 ((d.frameRoom - 32) / 2)

/-- The count records of a step to one partner: consecutive ones. -/
def Dev.countFrames (d : Dev) (e : ColEntry) (num : Nat) (p : ColPeer) : List Frame :=
  match chunks d.maximaRoom e.vals with
  | [] => [d.countFrame e num p.bytes p.node 0 [] false]
  | cs => cs.zipIdx.map fun c => d.countFrame e num p.bytes p.node (d.maximaRoom * c.2) c.1 (decide (c.2 + 1 < cs.length))

/-- A partner's count record of a step is complete: its last record has come. -/
def ColEntry.hasCount (e : ColEntry) (num node : Nat) : Bool :=
  e.counts.any fun c => decide (c.node = node) && decide (c.step = num) && !c.flags.testBit 2

/-- Bytes that a node has declared for the entry so far. -/
def ColEntry.declared (e : ColEntry) (node : Nat) : Nat :=
  ((e.counts.filter fun c => decide (c.node = node) && !c.flags.testBit 2).map ColCount.bytes).foldl (· + ·) 0

def ColEntry.got (e : ColEntry) (node : Nat) : Nat := mget 0 e.rx node

/-- A partner owes nothing more for a step. -/
def ColEntry.peerDone (e : ColEntry) (num : Nat) (p : ColPeer) : Bool := e.hasCount num p.node && decide (e.declared p.node ≤ e.got p.node)

def ColEntry.stepDone (e : ColEntry) (s : ColStep) : Bool := s.peers.all (e.peerDone s.num)

/-- A node is a partner of the entry: in a step to come, or by a count record. -/
def ColEntry.partner (e : ColEntry) (node : Nat) : Bool :=
  (e.counts.any fun c => decide (c.node = node)) || e.steps.any fun s => s.peers.any fun p => decide (p.node = node)

/-- The current step still lacks the count record of a partner. -/
def ColEntry.lacksCount (e : ColEntry) (node : Nat) : Bool :=
  match e.steps with
  | s :: _ => s.peers.any fun p => decide (p.node = node) && !e.hasCount s.num node
  | [] => false

/-- More data has come from a partner than it declared, and no count record of the current step can cover it (R314). -/
def ColEntry.overrun (e : ColEntry) (node : Nat) : Bool := decide (e.declared node < e.got node) && !e.lacksCount node

/-! ### Sending -/

/-- The piste of record `k` of a step whose entries begin at `b`, R311: an entry whose link is not up is skipped. -/
def Dev.pisteNow (d : Dev) (b k : Nat) : Nat :=
  let e (i : Nat) : Nat := b + (k + i) % 3
  e (((List.range 3).find? fun i => d.takesData (d.get (Reg.PST_CTL.OUT_LINK (e i)))).getD 0)

/-- The frame of a data record as it leaves now. -/
def Dev.recFrame (d : Dev) (raw : List Byte) (seq : Nat) (r : ColRec) (bs : List Byte) : Frame :=
  dataFrame ⟨r.node, d.node, d.get Reg.FAB_BLOCK_ID, r.op, eComm raw + 64 * (seq % 1024), r.addr, r.mc, r.piste.map fun p => d.pisteNow p.1 p.2⟩ bs

/-- The link that a frame of this module would go out on. -/
def Dev.linkOf (d : Dev) (f : Frame) : Option Nat :=
  let d' := (d.route {} f).2
  (List.range 24).find? fun l => decide ((d.link l).txq.length < (d'.link l).txq.length)

/-- A run cut into records of whole elements. -/
def Dev.cutRun (d : Dev) (raw : List Byte) (node : Nat) (mc : Option (Nat × Nat)) (run : Nat × Nat × Nat) : List ColRec :=
  let es := max 1 (eBits raw / 8)
  let room := d.frameRoom / es * es
  (List.range (ceilDiv run.2.2 room)).map fun i =>
    { node := node, src := run.1 + room * i, addr := run.2.1 + room * i, len := min room (run.2.2 - room * i),
      op := if eGrid raw ∧ eKind raw = 1 then 10 else 9, piste := none, mc := mc, zero := decide (eKind raw = 1) }

/-- The records of a partner's runs, each with its piste. -/
def Dev.peerRecs (d : Dev) (raw : List Byte) (num : Nat) (p : ColPeer) : List ColRec :=
  (p.runs.flatMap (d.cutRun raw p.node none)).zipIdx.map fun r =>
    { r.1 with piste := if ePiste raw ∧ eKind raw ≠ 3 then some (ePbase raw + 3 * num, r.2) else none }

/-- The records of the legs of a broadcast. -/
def Dev.legRecs (d : Dev) (raw : List Byte) (s : ColStep) : List ColRec :=
  s.legs.flatMap fun l => d.cutRun raw l.2.2 (some (l.1, l.2.1)) s.legRun

def Dev.setEntry (e : ColEntry) (d : Dev) : Dev := { d with col := { d.col with entry := some e } }

/-- Frames that wait for a link leave in order; the first that none takes stops them. -/
def Dev.sendUnsent : List Frame → Dev → List Frame × Dev
  | [], d => ([], d)
  | f :: r, d =>
    match d.route { fixed := true } f with
    | (true, d') => Dev.sendUnsent r (d'.add64 Reg.COL_TX_LO f.plen)
    | (false, _) => (f :: r, d)

/-- The unit goes on with the current step: its count records, then the data of partners whose count record has come (R309, R314). -/
def Dev.colGo (d : Dev) : Dev :=
  match d.col.entry with
  | none => d
  | some e =>
    let e := match e.steps with
      | s :: _ => if e.counted then e else { e with counted := true, unsent := e.unsent ++ s.peers.flatMap (d.countFrames e s.num) }
      | [] => e
    let (left, d) := d.sendUnsent e.unsent
    let e := { e with unsent := left }
    match e.steps with
    | [] => d.setEntry e
    | s :: _ =>
      let all := s.peers.all fun p => e.hasCount s.num p.node
      let now := s.peers.filter fun p => !e.queued.contains p.node && (if s.together then all else e.hasCount s.num p.node)
      let recs := now.flatMap (d.peerRecs e.raw s.num) ++ (if s.together && all && now ≠ [] then d.legRecs e.raw s else [])
      let d := d.setEntry { e with queued := e.queued ++ now.map ColPeer.node }
      { d with col := { d.col with sendq := d.col.sendq ++ recs } }

/-! ### Staging buffers, R320 to R322 -/

def Dev.pool (d : Dev) (n : Nat) : Pool := mget {} d.col.pools n
def Dev.setPool (n : Nat) (p : Pool) (d : Dev) : Dev := { d with col := { d.col with pools := mset {} d.col.pools n p } }

/-- The lowest free buffer of a pool (R321 leaves the choice open: log entry 27). -/
def Dev.freeBuf (d : Dev) (n : Nat) : Option Nat :=
  (List.range (d.get (Reg.COL_POOL_CFG.COUNT n))).find? fun b => !(d.pool n).used.contains b

/-- Buffers free. -/
def Dev.poolFree (d : Dev) (n : Nat) : Nat :=
  ((List.range (d.get (Reg.COL_POOL_CFG.COUNT n))).filter fun b => !(d.pool n).used.contains b).length

/-- The source of a record is read, and zeroed where the step gives it away (R306). -/
def Dev.recRead (r : ColRec) (d : Dev) : Option (List Byte) × Dev :=
  let d := if r.zero then d.accDrain fun _ => true else d
  match d.readMem .coll r.src r.len with
  | (none, d) => (none, d)
  | (some bs, d) => (some bs, if r.zero then d.wrBytes r.src (List.replicate r.len 0#8) else d)

/-- Records of a link, in order, up to a buffer's size, and the rest. -/
def takeRecs (mine : ColRec → Bool) : Nat → List ColRec → List ColRec × List ColRec
  | _, [] => ([], [])
  | room, r :: rs =>
    if mine r && decide (r.len ≤ room) then
      let (a, b) := takeRecs mine (room - r.len) rs
      (r :: a, b)
    else
      let (a, b) := takeRecs mine (if mine r then 0 else room) rs
      (a, r :: b)

/-- Where a record would go now: its link, and its piste if it rides one. -/
def Dev.recLane (d : Dev) (raw : List Byte) (seq : Nat) (r : ColRec) : Option (Nat × Option Nat) :=
  (d.linkOf (d.recFrame raw seq r (List.replicate r.len 0#8))).map fun l => (l, r.piste.map fun p => d.pisteNow p.1 p.2)

/-- The first piste or plain traffic of a link's send queue that has records and holds no buffer yet (R320). -/
def Dev.wantLane (d : Dev) (l : Nat) : Option (Option Nat) :=
  d.col.entry.bind fun e =>
    (d.col.sendq.filterMap (d.recLane e.raw e.seq)).findSome? fun p =>
      if p.1 = l ∧ !d.col.bufs.any (fun b => decide (b.2 = p)) then some p.2 else none

/-- The send queue of a link asks for a buffer. -/
def Dev.wantsBuf (d : Dev) (l : Nat) : Bool := (d.wantLane l).isSome

/-- Records go through a buffer, from its start on: each is read, stored there, and sent. -/
def Dev.streamRecs (raw : List Byte) (seq b : Nat) : Nat → List ColRec → Dev → Dev
  | _, [], d => d
  | a, r :: rs, d =>
    match d.recRead r with
    | (none, d) => d.streamRecs raw seq b a rs
    | (some bs, d) =>
      let d := d.putMem .coll a bs
      let (ok, d) := d.route { buf := some (0, b) } (d.recFrame raw seq r bs)
      (if ok then d.add64 Reg.COL_TX_LO r.len else d).streamRecs raw seq b (a + r.len) rs

/-- The address of a buffer of a pool, R320. -/
def Dev.bufAddr (d : Dev) (n b : Nat) : Nat := d.get64 (Reg.COL_POOL_BASE_LO n) + b * 2 ^ d.get (Reg.COL_POOL_CFG.SIZE_LOG2 n)

/-- A send queue fills its buffer and sends it as records (R320). -/
def Dev.fillBuf (l b : Nat) (d : Dev) : Dev :=
  match d.col.entry, d.wantLane l with
  | some e, some p =>
    let room := 2 ^ d.get (Reg.COL_POOL_CFG.SIZE_LOG2 0)
    let (go, rest) := takeRecs (fun r => decide (d.recLane e.raw e.seq r = some (l, p))) room d.col.sendq
    Dev.streamRecs e.raw e.seq b (d.bufAddr 0 b) go { d with col := { d.col with sendq := rest, bufs := d.col.bufs ++ [(b, l, p)] } }
  | _, _ => d

/-- The requesters that ask, in rotating order after the last winner. -/
def rotate (last : Nat) (asking : List Nat) : List Nat :=
  ((List.range 25).map fun i => (last + 1 + i) % 25).filter asking.contains

/-- The allocator gives a buffer of a pool to a requester. -/
def Dev.giveBuf (n q b : Nat) (d : Dev) : Dev :=
  let p := d.pool n
  let d := d.setPool n { p with used := p.used ++ [b], waiting := p.waiting.filter fun x => decide (x ≠ q) }
  { d with col := { d.col with last := q } }

/-- The register interface asks: the value that its read returns (R322). -/
def Dev.poolAlloc (n : Nat) (d : Dev) : Nat × Dev :=
  match d.freeBuf n with
  | some b => (b, d.giveBuf n 24 b)
  | none => (0xFFFF, d)

/-- One requester asks: a buffer, or POOL_EMPTY, on which a send queue waits and the register interface does not. -/
def Dev.grantOne (n : Nat) (d : Dev) (q : Nat) : Dev :=
  if q = 24 then let (v, d) := d.poolAlloc n; d.emit (.regRead v)
  else
    match d.freeBuf n with
    | some b => (d.giveBuf n q b).fillBuf q b
    | none =>
      let p := d.pool n
      if p.waiting.contains q then d else d.setPool n { p with waiting := p.waiting ++ [q] }

/-- A cycle of the allocator for a pool, R321: the requesters that ask, in rotating order. Send queues take buffers of pool 0 alone. -/
def execPoolGrant (pool : Fin 16) (asking : List (Fin 25)) (s : State) : Out :=
  s.does fun d =>
    (rotate d.col.last ((asking.map Fin.val).filter fun q => decide (q = 24) || (decide (pool = 0) && d.wantsBuf q))).foldl
      (Dev.grantOne pool) d

/-- A freed buffer passes to the waiting queue that is next in rotating order, or becomes free (R322). -/
def Dev.releaseBuf (n b : Nat) (d : Dev) : Dev :=
  let p := d.pool n
  let d := d.setPool n { p with used := p.used.filter fun x => decide (x ≠ b) }
  match rotate d.col.last (p.waiting.filter d.wantsBuf) with
  | q :: _ => (d.giveBuf n q b).fillBuf q b
  | [] => d

/-- A buffer whose last record has entered a replay buffer is freed. -/
def execSendBufferFree (pool : Fin 16) (buf : BitVec 9) (s : State) : Out :=
  s.does fun d =>
    let b := buf.toNat
    let waits := (List.range 24).any fun l => (d.link l).txq.any fun t => decide (t.buf = some (0, b))
    if pool = 0 ∧ d.col.bufs.any (fun x => decide (x.1 = b)) ∧ !waits then
      Dev.releaseBuf 0 b { d with col := { d.col with bufs := d.col.bufs.filter fun x => decide (x.1 ≠ b) } }
    else d

def execColPoolAlloc (_r : Requester) (pool : Fin 16) (s : State) : Out :=
  s.does fun d => let (v, d) := d.poolAlloc pool; d.emit (.regRead v)

/-- A write of FREE. -/
def Dev.poolFreeWrite (n b : Nat) (d : Dev) : Dev :=
  if b = 0 ∨ d.pwr.held ∨ 3 ≤ d.get Reg.PWR_STATUS.STATE then d
  else if (d.pool n).used.contains b then d.releaseBuf n b else d.setBit Reg.COL_ERR.POOL true

def execColPoolFree (_r : Requester) (pool : Fin 16) (idx : BitVec 16) (s : State) : Out := s.does (Dev.poolFreeWrite pool idx.toNat)

/-! ### Records that arrive, R312 to R316 -/

/-- The fields of a count record. -/
def crStep (b : List Byte) : Nat := recField b 1 1
def crFlags (b : List Byte) : Nat := recField b 2 2
def crSeq (b : List Byte) : Nat := recField b 4 4
def crBytes (b : List Byte) : Nat := recField b 8 8
def crGride (b : List Byte) : Nat := recField b 0x10 2
def crPstep (b : List Byte) : Nat := recField b 0x18 8

/-- A record names the launched entry. -/
def Dev.isCurrent (d : Dev) (comm seq : Nat) : Bool :=
  match d.col.entry with
  | some e => decide (eComm e.raw = comm) && decide (e.seq = seq)
  | none => false

/-- The sequence numbers that entries naming a communicator will have, among the next 64 entries (R315). -/
def Dev.laterSeqs (d : Dev) (comm : Nat) : List Nat :=
  let len := d.get Reg.COL_SCRIPT_LEN
  if len = 0 ∨ !d.bit Reg.COL_CTL.EN then []
  else
    let first := if d.col.entry.isSome then 1 else 0
    let names (i : Nat) : Bool := decide (recField (d.entryRaw ((d.entryIdx + i) % len)) 1 1 = comm)
    let base := mget 0 d.col.seqs comm
    ((List.range 65).filter fun i => decide (first ≤ i) && names i).map fun i =>
      (base + ((List.range i).filter names).length) % 2 ^ 32

/-- A sequence number lies behind the communicator's counter. -/
def seqPast (now seq bits : Nat) : Bool :=
  let k := (now + 2 ^ bits - seq % 2 ^ bits) % 2 ^ bits
  decide (1 ≤ k) && decide (k ≤ 2 ^ (bits - 1))

/-- A partner has not yet sent everything it owes for the current entry (R316). -/
def ColEntry.owes (e : ColEntry) (node : Nat) : Bool :=
  e.steps.any fun s => s.peers.any fun p => decide (p.node = node) && !e.peerDone s.num p

/-- A count record is held for a later entry, R315 and R316. -/
def Dev.holdRecord (f : Frame) (d : Dev) : Dev :=
  if 64 ≤ d.col.held.length then d.colFault Reg.COL_ERR.STRAY Flt.COL_HOLD_FULL none true
  else
    let d := { d with col := { d.col with held := d.col.held ++ [f] } }
    let d := d.set Reg.COL_STATUS.HELD d.col.held.length
    match d.col.entry with
    | some e =>
      if e.owes f.src then d.colFault Reg.COL_ERR.ORDER_CROSS Flt.ORDER_CROSS (some (some (recField f.payload 0 1))) true else d
    | none => d

/-- The places of the sources of a permute, R308: the bytes of the ranks below. -/
def Dev.permStart (d : Dev) (e : ColEntry) (node : Nat) : Nat :=
  match d.colAxes (eComm e.raw) with
  | none => 0
  | some as =>
    let ns := (List.range (axesSize as)).map (d.rankNode as)
    ((ns.takeWhile fun n => decide (n ≠ node)).map fun n =>
      if n = d.node then (e.own.map Prod.snd).getD 0 else e.declared n).foldl (· + ·) 0

/-- Bytes of a data record are written or accumulated (R196); an address outside the memories is refused (R162). -/
def Dev.recWrite (f : Frame) (addr : Nat) (d : Dev) : Dev :=
  if remoteDenied addr then d.raise { code := Flt.FAB_REMOTE_DENIED, arg0 := addr, arg1 := f.src } else d.putMem .coll addr f.payload

/-- A record's bytes count towards its sender's declared ones; excess is a fault (R314). -/
def Dev.colReceived (f : Frame) (d : Dev) : Dev :=
  match d.col.entry with
  | none => d
  | some e =>
    let e := { e with rx := mset 0 e.rx f.src (e.got f.src + f.plen) }
    let d := d.setEntry e
    if e.overrun f.src then d.colFault Reg.COL_ERR.STRAY Flt.COL_OVERRUN none true else d

/-- A data record of the current entry takes effect, or waits until its place is known. -/
def Dev.dataTake (f : Frame) (e : ColEntry) (d : Dev) : Dev :=
  let moved := eDyn e.raw && mapped e.raw
  let d := if e.placed then d.recWrite f (f.addr + (if moved then d.permStart e f.src else 0))
    else d.setEntry { e with parked := e.parked ++ [f] }
  d.colReceived f

/-- Once every source of a permute has declared its bytes, what it sent is placed (R308). -/
def Dev.permPlace (d : Dev) : Dev :=
  match d.col.entry with
  | none => d
  | some e =>
    match e.steps with
    | s :: _ =>
      if !e.placed && s.peers.all (fun p => e.hasCount s.num p.node) then
        let d := d.setEntry { e with placed := true, parked := [] }
        let d := match e.own with
          | some (a, n) =>
            (match d.readMem .coll a n with
             | (some bs, d) => d.putMem .coll (eDst e.raw + d.permStart e d.node) bs
             | (none, d) => d)
          | none => d
        e.parked.foldl (fun d f => d.recWrite f (f.addr + d.permStart e f.src)) d
      else d
    | [] => d

/-- A count record of the current entry, R314. -/
def Dev.countTake (f : Frame) (e : ColEntry) (d : Dev) : Dev :=
  let b := f.payload
  let known := e.steps.any fun s => decide (s.num = crStep b) && s.peers.any fun p => decide (p.node = f.src)
  if !known then d.colStray
  else if eGrid e.raw && decide (crGride b ≠ d.entryGride e.raw) then d.colFault Reg.COL_ERR.ABORTED Flt.GRID_E_MISMATCH none true
  else if eKind e.raw = 6 ∧ crPstep b ≠ eAux e.raw then d.colFault Reg.COL_ERR.ABORTED Flt.COL_STEP_MISMATCH none true
  else
    let vals := (List.range (recField b 0x12 2)).map fun i => recField b (0x20 + 2 * i) 2
    let c : ColCount := ⟨f.src, crStep b, crFlags b, crBytes b, recField b 0x14 2, vals⟩
    let e := { e with counts := e.counts ++ [c] }
    let d := d.setEntry e
    if e.overrun f.src then d.colFault Reg.COL_ERR.STRAY Flt.COL_OVERRUN none true else d.permPlace.colGo

/-- A record of the launched entry arrived. -/
def Dev.colHeard (n : Nat) (d : Dev) : Dev := Dev.add64 Reg.COL_RX_LO n { d with col := { d.col with lastAt := d.mt } }

/-- A count record is handled by what it names. A stopped unit discards every record. -/
def Dev.countIn (f : Frame) (d : Dev) : Dev :=
  let b := f.payload
  let comm := recField b 0 1
  if d.bit Reg.COL_STATUS.STOPPED then d
  else if d.isCurrent comm (crSeq b) then
    match d.col.entry with
    | some e => (d.colHeard f.plen).countTake f e
    | none => d
  else if (d.laterSeqs comm).contains (crSeq b) then d.holdRecord f
  else if seqPast (mget 0 d.col.seqs comm) (crSeq b) 32 then d
  else d.colStray

/-- A delivered frame of an operation leaves the unit's queue. -/
def Dev.takeCol (f : Frame) (op : Nat) (d : Dev) : Option Dev :=
  if d.fab.colQ.contains f && decide (f.op = op) then some { d with fab := { d.fab with colQ := d.fab.colQ.erase f } } else none

def execCountRecord (f : Frame) (s : State) : Out :=
  s.does fun d =>
    match d.takeCol f 8 with
    | some d => d.countIn f
    | none => d

/-- Integers of a grid-data record are added in the buffer (R306): each to its element, with the wrap of R74, as an addend of its stack's
thresher, which takes four cycles over it (R199, R224). -/
def Dev.gridAddAt (i a v : Nat) (d : Dev) : Dev :=
  let (s, ov) := gridAdd (BitVec.ofNat 64 (d.rdNat a 8)) (BitVec.ofNat 64 v)
  let d := d.wrBytes a (leBytes 8 s.toNat)
  let d := if ov then d.setBit (Reg.GRN_RBS_FLAGS.GRID_RANGE i) true else d
  match d.place a with
  | some p => (d.add64 (Reg.GRN_THR_ACC_LO (stackOf p)) 1).add64 (Reg.GRN_THR_BUSY_LO (stackOf p)) 4
  | none => d

/-- The buffer takes the record, or refuses it as R196 refuses a write. -/
def Dev.gridWrite (f : Frame) (d : Dev) : Dev :=
  let a := f.addr
  let n := f.payload.length
  match d.gridBuffer a with
  | none => d.rbRefuse false .coll a
  | some i =>
    if (a - d.rbtLo i) % 8 ≠ 0 ∨ n % 8 ≠ 0 ∨ d.rbtHi i < a + n then d.rbRefuse false .coll a
    else if !d.rbtTakes i then d.rbRefuse true .coll a
    else match d.firstBad a n with
      | some x => (d.noteUe x).memFault .coll (.ue x)
      | none =>
        let d := d.accDrain fun x => decide (x.rbt = i)
        (chunks 8 f.payload).zipIdx.foldl (fun d w => d.gridAddAt i (a + 8 * w.2) (leNat w.1)) d

/-- A data record is handled by what its TXID names. -/
def Dev.dataIn (f : Frame) (grid : Bool) (d : Dev) : Dev :=
  let comm := f.txid % 64
  let seq := f.txid / 64 % 1024
  if d.bit Reg.COL_STATUS.STOPPED then d
  else match d.col.entry with
    | some e =>
      if eComm e.raw = comm ∧ e.seq % 1024 = seq then
        if !e.partner f.src then d.colStray
        else
          let d := d.colHeard f.plen
          if grid then (d.gridWrite f).colReceived f else d.dataTake f e
      else if seqPast (mget 0 d.col.seqs comm % 1024) seq 10 then d else d.colStray
    | none => if seqPast (mget 0 d.col.seqs comm % 1024) seq 10 then d else d.colStray

def execDataRecord (f : Frame) (s : State) : Out :=
  s.does fun d =>
    match d.takeCol f 9 with
    | some d => d.dataIn f false
    | none => d

def execGridDataRecord (f : Frame) (s : State) : Out :=
  s.does fun d =>
    match d.takeCol f 10 with
    | some d => d.dataIn f true
    | none => d

/-- An abort record that names the current entry or a held one stops the unit (R319). -/
def Dev.abortIn (f : Frame) (d : Dev) : Dev :=
  let b := f.payload
  let comm := recField b 0 1
  let seq := recField b 4 4
  if d.bit Reg.COL_STATUS.STOPPED then d
  else if d.isCurrent comm seq || d.col.held.any fun h => decide (recField h.payload 0 1 = comm) && decide (crSeq h.payload = seq) then
    d.colFault Reg.COL_ERR.ABORTED Flt.COL_ABORTED none false
  else d

def execAbortRecord (f : Frame) (s : State) : Out :=
  s.does fun d =>
    match d.takeCol f 11 with
    | some d => d.abortIn f
    | none => d

/-! ### Launch, R302 and R201 -/

/-- An entry waits to launch: the script runs, none is launched, and it has a next one. -/
def Dev.entryPending (d : Dev) : Bool :=
  d.bit Reg.COL_CTL.EN && !d.bit Reg.COL_STATUS.STOPPED && d.col.entry.isNone && decide (d.entryIdx < d.get Reg.COL_SCRIPT_LEN)

/-- Everything but the instant lets the next entry launch. -/
def Dev.colReady (d : Dev) : Bool :=
  let raw := d.entryRaw d.entryIdx
  d.entryPending
    && (coresOf (eCores raw)).all (fun c => (d.core c).colgo.contains d.entryIdx)
    && (groupsOf d.col.decGroups).all (fun g => !d.thr.passQ.any fun q => decide (q.group = g))
    && (decide (eKind raw ≠ 7) || (List.range 16).all fun g => !d.bit (Reg.GRN_GRP_CTL.DIG_EN g) || decide (mget 0 d.thr.digDue g = 0))

/-- The instant of the next entry, rounded (R337), if it has one. -/
def Dev.entryInstant (d : Dev) (raw : List Byte) : Option Nat :=
  if eLaunch raw = noInstant then none
  else some (roundTarget ((d.get64 Reg.COL_BASE_LO + d.col.pass * d.get64 Reg.COL_PERIOD_LO + eLaunch raw) % 2 ^ 64))

/-- The step decision at its launch, R201: pending addends of the named groups are in, their flags and maxima are the contribution, and the
groups wait for the decision. A group that cannot be decided raises its fault. -/
def Dev.decideLaunch (e : ColEntry) (d : Dev) : Dev :=
  let mask := eArg e.raw
  let d := d.accDrain fun a => mask.testBit (d.rbtGroup a.rbt)
  let is := (groupsOf mask).flatMap d.grpEntries
  let e := { e with
    skip := is.any fun i => d.bit (Reg.GRN_RBS_FLAGS.NONFIN i),
    range := is.any fun i => d.bit (Reg.GRN_RBS_FLAGS.GRID_RANGE i),
    maxima := (d.gridEntries mask).map fun i => d.get (Reg.GRN_RBS_FLAGS.MAXEXP i) }
  let d := d.setEntry e
  (groupsOf mask).foldl (fun d g =>
    let st := d.grpState g
    if st = grpIdle ∨ st = grpApplying ∨ st = grpClearing then d.raise { code := Flt.THR_GROUP_STATE, arg0 := g, arg1 := st }
    else d.setGrp g grpDeciding) d

/-- The program digest of every core is closed with its leaf and begins again (R221). DEDUCED (log entry 47): a core that has absorbed nothing since
its reset closes the digest of no bytes. -/
def Dev.progLeaves (d : Dev) : Dev :=
  (List.range 64).foldl (fun d c =>
    let k := d.core c
    let words := (List.range (k.progLen k.bank + 1)).flatMap fun w => leBytes 8 (k.imem k.bank w)
    (d.addDigest Reg.GRN_DIG_PROG (sha256 (leBytes 1 c ++ sha256 k.progMsg))).setCore c { k with progMsg := words }) d

/-- The audit entry latches the sums and restarts two of them (R346). -/
def Dev.auditLaunch (e : ColEntry) (d : Dev) : Dev :=
  let sums := [d.get256 Reg.GRN_DIG_W, d.get256 Reg.GRN_DIG_IN, d.get256 Reg.GRN_DIG_PROG]
  ((d.setEntry { e with sums := sums }).set256 Reg.GRN_DIG_IN 0).set256 Reg.GRN_DIG_PROG 0

/-- A move that stays on this module: the own chunk of an all-gather, a broadcast's root, a permute to oneself. -/
def Dev.localMove (p : ColPlan) (raw : List Byte) (ms : List PermMove) (d : Dev) : Dev :=
  let copy (a b n : Nat) (d : Dev) : Dev :=
    if a = b ∨ n = 0 then d
    else match d.readMem .coll a n with
      | (some bs, d) => d.putMem .coll b bs
      | (none, d) => d
  let r := axesRank p.axes
  if p.kind = 2 then
    let (o, n) := p.chunkAt r
    copy p.src (p.dst + o) n d
  else if p.kind = 3 then (if r = eArg raw then copy p.src p.dst (p.size p.count) d else d)
  else if p.kind = 4 then
    let own := ms.getD r ⟨r, 0, 0⟩
    if own.dest ≠ r then d
    else
      let start := (((ms.take r).filter fun m => decide (m.dest = r)).map PermMove.count).foldl (· + ·) 0
      copy (p.src + own.first * p.bits / 8) (p.dst + p.size start) (p.size own.count) d
  else d

/-- Held records of the entry are consumed. -/
def Dev.useHeld (d : Dev) : Dev :=
  let mine (f : Frame) : Bool := d.isCurrent (recField f.payload 0 1) (crSeq f.payload)
  let fs := d.col.held.filter mine
  let d := { d with col := { d.col with held := d.col.held.filter fun f => !mine f } }
  fs.foldl (fun d f => d.countIn f) (d.set Reg.COL_STATUS.HELD d.col.held.length)

/-- What an entry reads besides itself at its launch: this rank's count where a vector holds it, and the rank map of a permute (R301, R308). None
where a read fails. -/
def Dev.launchReads (raw : List Byte) (d : Dev) : Option (Nat × List Byte) × Dev :=
  let as := d.commAxes (eComm raw)
  if !entryFieldsOk raw ∨ 5 ≤ eKind raw then (some (0, []), d)
  else if mapped raw then
    match d.readMem .coll (eAux raw) (8 * axesSize as) with
    | (some bs, d) => (some (eCount raw, bs), d)
    | (none, d) => (none, d)
  else if eDyn raw then
    match d.readMem .coll (eCount raw + 8 * axesRank as) 8 with
    | (some bs, d) => (some (leNat bs, []), d)
    | (none, d) => (none, d)
  else (some (eCount raw, []), d)

/-- The entry launches, R302 and R304. -/
def Dev.launch (raw : List Byte) (count : Nat) (map : List Byte) (d : Dev) : Dev :=
  match d.schedule raw count map with
  | none => d.colFault Reg.COL_ERR.ENTRY_BAD Flt.COL_ENTRY_BAD none true
  | some (p, steps) =>
    let dyn := mapped raw && eDyn raw && decide (steps ≠ [])
    let ms := permMoves raw p.n p.count map
    let r := axesRank p.axes
    let own := ms.getD r ⟨r, 0, 0⟩
    let e : ColEntry :=
      { idx := d.entryIdx, raw := raw, seq := mget 0 d.col.seqs (eComm raw), steps := steps, placed := !dyn,
        own := if dyn && decide (own.dest = r) then some (p.src + own.first * p.bits / 8, p.size own.count) else none }
    let d := { d.setBit Reg.COL_STATUS.BUSY true with col := { d.col with entry := some e, lastAt := d.mt, decGroups := 0, readyAt := 0 } }
    let d := if p.kind = 6 then (d.progLeaves).decideLaunch e else if p.kind = 7 then d.auditLaunch e else d
    let d := if dyn then d else d.localMove p raw ms
    d.useHeld.colGo

/-- The entry waits for its instant; with EARLY = 1 it does not (R344). -/
def Dev.entryWaits (d : Dev) (raw : List Byte) : Bool :=
  !d.bit Reg.MTC_DETERMINISM.EARLY && ((d.entryInstant raw).map fun t => decide (d.mt < t)).getD false

/-- The entry became ready after its instant (R302, R337). -/
def Dev.entryLate (d : Dev) (raw : List Byte) : Bool :=
  let at_ := if d.col.readyAt = 0 then d.mt else d.col.readyAt - 1
  ((d.entryInstant raw).map fun t => decide (t < at_)).getD false

/-- A launch event: the entry is ready and its instant has come; late where it became ready after its instant. -/
def execEntryLaunch (s : State) : Out :=
  s.does fun d =>
    if !d.colReady then d
    else match d.readMem .coll (d.entryAddr d.entryIdx) 64 with
      | (none, d) => d
      | (some raw, d) =>
        if d.entryWaits raw then d
        else match d.launchReads raw with
          | (none, d) => d
          | (some (count, map), d) =>
            Dev.launch raw count map (if d.entryLate raw then d.flag Reg.COL_ERR.LATE Reg.COL_ERR.LATE_CNT else d)

/-! ### Steps and completion -/

/-- Values of a partner's count records of a step, laid out by MAXOFF. -/
def ColEntry.stepVals (e : ColEntry) (num node len : Nat) : List Nat :=
  let cs := e.counts.filter fun c => decide (c.node = node) && decide (c.step = num)
  (List.range len).map fun i =>
    ((cs.find? fun c => decide (c.off ≤ i) && decide (i < c.off + c.vals.length)).map fun c => c.vals.getD (i - c.off) 0).getD 0

/-- Flags of a partner's records of a step. -/
def ColEntry.stepFlag (e : ColEntry) (num node bit : Nat) : Bool :=
  e.counts.any fun c => decide (c.node = node) && decide (c.step = num) && c.flags.testBit bit

/-- A partner's record is combined, or taken in place of what was known (R309, R310, R346). -/
def ColEntry.combine (num : Nat) (e : ColEntry) (p : ColPeer) : ColEntry :=
  if p.take = 0 then e
  else
    let vs := e.stepVals num p.node e.vals.length
    let sums := valsSums vs
    let fl (b : Nat) (own : Bool) : Bool := (decide (p.take = 1) && own) || e.stepFlag num p.node b
    { e with
      skip := fl 0 e.skip, range := fl 1 e.range,
      maxima := if eKind e.raw = 7 then e.maxima else if p.take = 2 then vs else List.zipWith max e.maxima vs,
      sums := if eKind e.raw ≠ 7 then e.sums else if p.take = 2 then sums else List.zipWith (fun a b => (a + b) % 2 ^ 256) e.sums sums }

/-- What the unit has written has arrived: none of its addends waits to be added (R303, R309). -/
def Dev.colArrived (d : Dev) : Bool := d.accq.all fun a => decide (a.q ≠ .coll)

/-- The current step has ended: its records combine and the next one starts. -/
def execCollectiveStepDone (s : State) : Out :=
  s.does fun d =>
    match d.col.entry with
    | none => d
    | some e =>
      match e.steps with
      | [] => d
      | st :: rest =>
        if e.counted && d.colArrived && e.unsent.isEmpty && e.stepDone st && st.peers.all (fun p => e.queued.contains p.node) then
          let e := st.peers.foldl (ColEntry.combine st.num) e
          (d.setEntry { e with steps := rest, counted := false, queued := [] }).colGo
        else d

/-- Everything of the entry has been sent and received: the counter advances and COLWAIT ends on its cores (R303). -/
def execEntryComplete (s : State) : Out :=
  s.does fun d =>
    match d.col.entry with
    | none => d
    | some e =>
      let k := eKind e.raw
      if !(e.steps.isEmpty && d.colArrived && e.unsent.isEmpty && d.col.sendq.isEmpty && d.col.bufs.isEmpty && (decide (k ≠ 6) || e.decided)
          && (decide (k ≠ 7) || e.audited)) then d
      else
        let comm := eComm e.raw
        let wrap := decide (d.get Reg.COL_SCRIPT_LEN ≤ e.idx + 1)
        let d := { d with col := { d.col with
          entry := none, seqs := mset 0 d.col.seqs comm ((e.seq + 1) % 2 ^ 32),
          pass := if wrap then d.col.pass + 1 else d.col.pass,
          decGroups := if k = 6 then eArg e.raw else 0,
          decStep := if k = 6 then eAux e.raw else d.col.decStep,
          decSkip := if k = 6 then e.skip || e.range else d.col.decSkip } }
        let d := (d.setBit Reg.COL_STATUS.BUSY false).set Reg.COL_STATUS.ENTRY (if wrap then 0 else e.idx + 1)
        (coresOf (eCores e.raw)).foldl (fun d c => d.modCore c fun k => { k with colgo := k.colgo.erase e.idx }) d

/-- No record of the launched entry has come for COL_WAIT_LIMIT, R317. -/
def execOrderStall (s : State) : Out :=
  s.does fun d =>
    match d.col.entry with
    | none => d
    | some _ =>
      let lim := d.get Reg.COL_WAIT_LIMIT
      if lim = 0 ∨ d.mt < d.col.lastAt + lim * ticksPerUs then d
      else d.colFault Reg.COL_ERR.ORDER_STALL Flt.ORDER_STALL (some (d.col.held.head?.map fun f => recField f.payload 0 1)) true

/-- The audit entry's sums are complete: the result record of R347. -/
def Dev.auditRecord (d : Dev) (e : ColEntry) : List Byte :=
  let dig := (List.range 3).map fun i => sha256 (leBytes 32 (e.sums.getD i 0))
  let anyDig := (List.range 16).any fun g => d.bit (Reg.GRN_GRP_CTL.DIG_EN g)
  let flags := (if d.bit Reg.MTC_DETERMINISM.STRICT then 1 else 0) + (if d.col.decSkip then 2 else 0)
    + (if anyDig && !d.col.decSkip then 4 else 0)
  let members := ((d.colAxes (eComm e.raw)).map axesSize).getD 0
  let mt := if eLaunch e.raw = noInstant then 0
    else (d.get64 Reg.COL_BASE_LO + d.col.pass * d.get64 Reg.COL_PERIOD_LO + eLaunch e.raw) % 2 ^ 64
  leBytes 2 1 ++ leBytes 1 flags ++ leBytes 1 0 ++ leBytes 2 (d.get Reg.FAB_BLOCK_ID) ++ leBytes 2 members ++ leBytes 8 d.col.decStep
    ++ leBytes 8 mt ++ leBytes 8 0 ++ dig.flatten

def execAuditEntryDone (s : State) : Out :=
  s.does fun d =>
    match d.col.entry with
    | some e =>
      if eKind e.raw = 7 ∧ e.steps = [] ∧ !e.audited then
        (d.setEntry { e with audited := true }).putMem .coll (eDst e.raw) (d.auditRecord e)
      else d
    | none => d

/-- The collective counters are zeroed, R328. -/
def Dev.colCtrClear (d : Dev) : Dev :=
  ((((d.set64 Reg.COL_TX_LO 0).set64 Reg.COL_RX_LO 0).set64 Reg.COL_WAIT_PART_LO 0).set64 Reg.COL_WAIT_POOL_LO 0).set64 Reg.COL_WAIT_LAUNCH_LO 0

def execColCtrclr (s : State) : Out := s.does Dev.colCtrClear

/-- COL_CTL.EN goes from 0 to 1: the script starts at entry 0 (R303, R328), and the round leaves STOPPED (R356). DESIGN CHOICE: the spec does not
say what becomes of a core's COLGO mark when its entry never completes, because the script was stopped, disabled or abandoned. The model keeps the
mark, which holds LSTART on that core (R147), until a reset of the core or this commit, which clears every mark (log entry 53). -/
def Dev.colEnable (d : Dev) : Dev :=
  let d := { d with col := { d.col with entry := none, pass := 0, seqs := [], held := [], sendq := [], decGroups := 0, readyAt := 0 } }
  let d := (((d.setBit Reg.COL_STATUS.STOPPED false).setBit Reg.COL_STATUS.BUSY false).set Reg.COL_STATUS.ENTRY 0).set Reg.COL_STATUS.HELD 0
  let d := (List.range 64).foldl (fun d c => d.modCore c fun k => { k with colgo := [] }) d
  if d.get Reg.FLT_STATUS.HL = hlStopped then d.set Reg.FLT_STATUS.HL hlIdle else d

/-- EN goes from 1 to 0: the script halts (log entry 26). -/
def Dev.colDisable (d : Dev) : Dev :=
  let d := { d with col := { d.col with entry := none, held := [], sendq := [], decGroups := 0, readyAt := 0 } }
  (d.setBit Reg.COL_STATUS.BUSY false).set Reg.COL_STATUS.HELD 0

/-- The unit's share of a machine-time cycle: waiting is counted, readiness noted, and frames that no link took are tried again. -/
def Dev.colTick (ticks : Nat) (d : Dev) : Dev :=
  let ready := d.colReady
  let d := if ready ∧ d.col.readyAt = 0 then { d with col := { d.col with readyAt := d.mt + 1 } } else d
  let before := d.entryWaits (d.entryRaw d.entryIdx)
  let d := if ready && before then d.add64 Reg.COL_WAIT_LAUNCH_LO ticks else d
  let d := if (d.col.entry.map fun e => e.steps.any fun s => !e.stepDone s).getD false then d.add64 Reg.COL_WAIT_PART_LO ticks else d
  let d := d.add64 Reg.COL_WAIT_POOL_LO (ticks * ((d.pool 0).waiting.filter d.wantsBuf).length)
  d.colGo

end Sys2Proof.Machine
end

