-- ==== Sys2Proof/Machine/Time.lean ====
section
/-! DEFINITION. Machine time: the counter (R329), time frames and parents (R331, R332), roots (R333), steering and holdover (R334, R335). -/

namespace Sys2Proof.Machine

/-- The module whose node identifier is ROOT0 takes no parent (R333). -/
def Dev.isPrimary (d : Dev) : Bool := decide (d.node = d.get Reg.MTC_ROOT.ROOT0)

/-- The module is a root: it follows itself. -/
def Dev.isRoot (d : Dev) : Bool := d.bit Reg.MTC_STATUS.ROOT || d.isPrimary

/-- Ticks that a machine-time cycle may add: 16, or one more or less while the counter is steered (R329). One such cycle in 625 is the 100 ppm
of R334; a counter that is ahead is not sped up, and one that is behind not slowed (log entry 54). -/
def Dev.cycleTicks (d : Dev) (n : Nat) : Bool :=
  let off := bitsInt 32 (d.get Reg.MTC_OFFSET)
  decide (n = 16) || (d.time.sampled && !d.isPrimary && decide (624 ≤ d.time.steady)
    && ((decide (n = 15) && decide (off ≤ 0)) || (decide (n = 17) && decide (0 ≤ off))))

/-- The group whose pass, or CLEAR, keeps lanes busy. -/
def Dev.laneGroup (d : Dev) : Option Nat :=
  if d.thr.running then d.thr.passQ.head?.map Pass.group
  else match d.thr.cmd with
    | some (1, g) => some g
    | _ => none

/-- Some of a group's buffers lie in a stack: its thresher works on them (R193). -/
def Dev.stackWorks (d : Dev) (g k : Nat) : Bool :=
  (d.grpEntries g).any fun i => (pagesOf (d.rbtLo i) (d.rbtHi i - d.rbtLo i)).any fun p => (d.place p.1).map stackOf == some k

/-- Thresher cycles of a stack in a cycle of machine time (R192, R329): four, or two while its own reading is 100 °C or more (R429). -/
def Dev.thrCycles (d : Dev) (k : Nat) : Nat := if 100 ≤ d.get (Reg.GRN_STATUS.TEMP k) then 2 else 4

/-- A cycle of machine time on the threshers: a waiting pass counts on every stack (R202), and the lanes of the stacks that a pass or CLEAR works
on are busy (R224). -/
def Dev.thrTick (d : Dev) : Dev :=
  let d := if d.thrWaiting then (List.range 8).foldl (fun d k => d.addSat (Reg.GRN_THR_WAITMIR k) (d.thrCycles k)) d else d
  match d.laneGroup with
  | some g => (List.range 8).foldl (fun d k => if d.stackWorks g k then d.add64 (Reg.GRN_THR_BUSY_LO k) (d.thrCycles k) else d) d
  | none => d

/-- A cycle of machine time: the counter stands until time distribution has started. -/
def execMtTick (ticks : Nat) (s : State) : Out :=
  s.does fun d =>
    if !(d.time.started && d.cycleTicks ticks) then d
    else
      let d := (d.colTick ticks).thrTick
      let steady := if ticks = 16 then min (d.time.steady + 1) 625 else 0
      { d with mt := (d.mt + ticks) % 2 ^ 64, time := { d.time with steady := steady } }

/-- Time distribution starts, R333: the primary root takes MTC_EPOCH and is synchronised; every other module counts from 0. -/
def Dev.timeStart (d : Dev) : Dev :=
  let d := { d with time := { d.time with started := true } }
  if d.isPrimary then
    let d := { d with mt := d.get64 Reg.MTC_EPOCH_LO, time := { d.time with rootNode := d.node } }
    (((d.setBit Reg.MTC_STATUS.SYNC true).setBit Reg.MTC_STATUS.ROOT true).set Reg.MTC_STATUS.HOPS 0).set Reg.MTC_STATUS.ROOTSEL 0
  else { d with mt := 0 }

/-! ### Candidates, R332 -/

/-- The latest time frame of a link. -/
def Dev.timeInfo (d : Dev) (l : Nat) : Option TimeInfo := mget none d.time.frames l

/-- A link is a parent candidate. -/
def Dev.candidate (d : Dev) (l : Nat) : Bool :=
  match d.timeInfo l with
  | some i => i.sync && decide (i.hops ≤ 63) && decide (d.mt ≤ i.at_ + 50 * ticksPerUs)
  | none => false

/-- The rank of a link's frame by ROOTSEL and HOPS. -/
def Dev.timeRank (d : Dev) (l : Nat) : Nat := ((d.timeInfo l).map fun i => i.sel * 256 + i.hops).getD 65535

/-- The lowest-ranked candidate, by ROOTSEL, HOPS and link number. -/
def Dev.bestCandidate (d : Dev) : Option Nat :=
  ((List.range 24).filter d.candidate).foldl (fun best l =>
    match best with
    | none => some l
    | some b => if d.timeRank l < d.timeRank b then some l else some b) none

/-- The module follows a link: HOPS, ROOTSEL and ROOTNODE come from its parent, and a change of parent is counted. -/
def Dev.follow (l : Nat) (d : Dev) : Dev :=
  match d.timeInfo l with
  | none => d
  | some i =>
    let changed := decide (d.time.last ≠ none) && decide (d.time.last ≠ some l)
    let d := { d with time := { d.time with parent := some l, last := some l, rootNode := i.root } }
    let d := (((d.set Reg.MTC_STATUS.HOPS (i.hops + 1)).set Reg.MTC_STATUS.ROOTSEL i.sel).set Reg.MTC_STATUS.PLINK l).setBit
      Reg.MTC_STATUS.HOLD false
    if changed then d.flag Reg.MTC_ERR.PARENT Reg.MTC_ERR.PCHG_CNT else d

/-! ### Frames -/

/-- The body of a time frame. -/
def Dev.timeBody (d : Dev) : List Byte :=
  leBytes 1 2 ++ leBytes 1 (d.get Reg.MTC_STATUS.SYNC + 2 * d.get Reg.MTC_STATUS.ROOTSEL) ++ leBytes 1 (d.get Reg.MTC_STATUS.HOPS) ++ leBytes 1 0
    ++ leBytes 2 d.time.rootNode ++ leBytes 2 0 ++ leBytes 8 d.mt

/-- A time frame goes out on every Twivin 2 link that carries frames, R331. -/
def execTimeFrameSend (s : State) : Out :=
  s.does fun d =>
    if !d.time.started then d
    else (List.range 24).foldl (fun d l =>
      if d.linkCarries l && decide (d.get (Reg.LNK_STATUS.VER l) = 2) then d.sendCtrl l d.timeBody else d) d

/-- A parent sample in ticks, R331, with this module's own machine time at the frame's arrival. -/
def Dev.timeSample (d : Dev) (l stamp at_ : Nat) : Int := (stamp : Int) + (d.get (Reg.LNK_LAT l) : Int) - (at_ : Int)

/-- The counter is stepped forwards: what the module measures as time passed since an event does not change (log entry 54). -/
def Dev.stepTime (n : Nat) (d : Dev) : Dev :=
  let late (t : Nat) : Nat := if t = 0 then 0 else t + n
  { d with
    mt := (d.mt + n) % 2 ^ 64,
    time := { d.time with
      frames := d.time.frames.map fun p => (p.1, p.2.map fun i => { i with at_ := i.at_ + n }), holdAt := d.time.holdAt + n },
    fab := { d.fab with timeQ := d.fab.timeQ.map fun p => (p.1, p.2.1 + n, p.2.2) },
    links := d.links.map fun p => (p.1, { p.2 with hbAt := late p.2.hbAt, rreqAt := late p.2.rreqAt }),
    col := { d.col with lastAt := d.col.lastAt + n },
    flt := { d.flt with rate := d.flt.rate.map fun p => (p.1, late p.2) } }

/-- Steering by a sample, R334. How samples are filtered is not stated: the filtered offset is a free value (log entry 1), and from it follow
the forward steps that the rule allows. -/
def Dev.steer (sample : Int) (d : Dev) : Dev :=
  let (v, d) := d.freeNat
  let d := d.set Reg.MTC_OFFSET v
  let ps := bitsInt 32 v
  if !d.time.sampled then Dev.stepTime sample.toNat { d with time := { d.time with sampled := true } }
  else if 1000000 < ps then d.stepTime (ps / 250).toNat
  else d

/-- A time frame that waits to be handled leaves the queue: when it came, and the state. -/
def Dev.takeTime (l : Nat) (f : Frame) (d : Dev) : Option (Nat × Dev) :=
  (d.fab.timeQ.find? fun p => decide (p.1 = l) && decide (p.2.2 = f)).map fun p =>
    (p.2.1, { d with fab := { d.fab with timeQ := d.fab.timeQ.erase p } })

/-- The parent after the candidates have changed: it stays while it is a candidate, and its frames tell HOPS and the root; else the best candidate
becomes parent (R332). -/
def Dev.reparent (l : Nat) (d : Dev) : Dev :=
  match d.time.parent, d.bestCandidate with
  | some p, some b => if d.candidate p then (if p = l then d.follow l else d) else d.follow b
  | none, some b => d.follow b
  | _, none => d

/-- A time frame is handled, R332 and R334: it updates the candidates, and a frame of the parent is a sample. -/
def execTimeFrameReceive (l : LinkId) (f : Frame) (s : State) : Out :=
  s.does fun d =>
    match d.takeTime l f with
    | none => d
    | some (at_, d) =>
      if !d.time.started || decide (d.get (Reg.LNK_STATUS.VER l) ≠ 2) then d
      else
        let b := f.body
        let fl := recField b 1 1
        let i : TimeInfo := ⟨at_, fl.testBit 0, fl / 2 % 2, recField b 2 1, recField b 4 2⟩
        let d := { d with time := { d.time with frames := mset none d.time.frames l (some i) } }
        if d.isRoot then d
        else
          let d := d.reparent l
          if d.time.parent = some l.val && d.candidate l then d.steer (d.timeSample l (recField b 8 8) at_) else d

/-- The parent is a candidate no more, or a lower-ranked one has been there for 1 ms (R332). -/
def execParentSwitch (s : State) : Out :=
  s.does fun d =>
    match d.time.parent, d.bestCandidate with
    | some p, some b =>
      if !d.isRoot && decide (b ≠ p) && (!d.candidate p || decide (d.timeRank b < d.timeRank p)) then d.follow b else d
    | _, _ => d

/-- The filtered offset lies within ±4 ns (R334); it is read in ps. -/
def Dev.offsetSmall (d : Dev) : Bool :=
  let ps := bitsInt 32 (d.get Reg.MTC_OFFSET)
  decide (-4000 ≤ ps) && decide (ps ≤ 4000)

/-- The filtered offset has stayed within its bound for 1 ms. -/
def execSyncAcquire (s : State) : Out :=
  s.does fun d => if d.time.parent.isSome && !d.isRoot && d.offsetSmall then d.setBit Reg.MTC_STATUS.SYNC true else d

/-- The filtered offset has exceeded its bound for 1 s: the warning and its flag, once per hour. -/
def execMtcOffset (s : State) : Out :=
  s.does fun d =>
    if d.time.parent.isSome && !d.isRoot && !d.offsetSmall && d.warnDue 0 Flt.MTC_OFFSET then
      (d.setBit Reg.MTC_ERR.OFFSET true).warnHourly 0 { code := Flt.MTC_OFFSET, arg0 := d.get Reg.MTC_OFFSET }
    else d

/-- No candidate is left: the counter goes on at its last rate (R335). -/
def execHoldoverEnter (s : State) : Out :=
  s.does fun d =>
    if !d.time.started || d.isRoot || d.bestCandidate.isSome || d.bit Reg.MTC_STATUS.HOLD then d
    else
      let d := { d with time := { d.time with parent := none, holdAt := d.mt, limitPast := false } }
      ((d.setBit Reg.MTC_STATUS.HOLD true).setBit Reg.MTC_ERR.HOLD true).warnHourly 0 { code := Flt.MTC_HOLDOVER }

/-- HOLD_LIMIT_US passes without a candidate, once in a holdover. -/
def execHoldoverLimit (s : State) : Out :=
  s.does fun d =>
    if d.bit Reg.MTC_STATUS.HOLD && !d.time.limitPast && d.bestCandidate.isNone
        && decide (d.time.holdAt + d.get Reg.MTC_CFG.HOLD_LIMIT_US * ticksPerUs ≤ d.mt)
        && (d.bit Reg.MTC_STATUS.SYNC || d.bit Reg.COL_CTL.EN) then
      let d := { d with time := { d.time with limitPast := true } }
      ((d.setBit Reg.MTC_STATUS.SYNC false).setBit Reg.MTC_ERR.UNSYNC true).raise { code := Flt.MTC_UNSYNC }
    else d

/-! ### Roots, R333 -/

/-- This module is the standby root, and there is one. -/
def Dev.isStandby (d : Dev) : Bool :=
  decide (d.node = d.get Reg.MTC_ROOT.ROOT1) && decide (d.get Reg.MTC_ROOT.ROOT0 ≠ d.get Reg.MTC_ROOT.ROOT1)

/-- A candidate that follows the primary root. -/
def Dev.primarySeen (d : Dev) : Bool :=
  (List.range 24).any fun l => d.candidate l && ((d.timeInfo l).map fun i => decide (i.sel = 0)).getD false

def execRootTakeover (s : State) : Out :=
  s.does fun d =>
    if d.time.started && d.isStandby && !d.isRoot && !d.primarySeen then
      let d := { d with time := { d.time with parent := none, rootNode := d.node } }
      let d := (((d.setBit Reg.MTC_STATUS.ROOT true).setBit Reg.MTC_STATUS.HOLD false).set Reg.MTC_STATUS.HOPS 0).set Reg.MTC_STATUS.ROOTSEL 1
      d.raise { code := Flt.MTC_ROOT_TAKEOVER }
    else d

def execRootReturn (s : State) : Out :=
  s.does fun d =>
    match d.bestCandidate with
    | some b => if d.bit Reg.MTC_STATUS.ROOT && d.isStandby && d.primarySeen then (d.setBit Reg.MTC_STATUS.ROOT false).follow b else d
    | none => d

end Sys2Proof.Machine
end

