-- ==== Sys2Proof/Machine/Domains.lean ====
section
/-! DEFINITION. What resets and power states do to a domain of the module: registers of a span of control space, cores, clusters, the
memory interfaces, the whole module (R415, R418, R424), and the interleave tables of R166. -/

namespace Sys2Proof.Machine

/-! ### Registers -/

/-- Every field of a span of control space returns to its reset value, and its shadow with it (R418). -/
def Dev.clearRegs (lo hi : Nat) (d : Dev) : Dev :=
  { d with regs := mclear d.regs (lo * 32) (hi * 32), shadow := mclear d.shadow (lo * 32) (hi * 32) }

/-- FAB_STATUS.LINKS tells the links in UP (R298). -/
def Dev.syncLinks (d : Dev) : Dev :=
  d.set Reg.FAB_STATUS.LINKS (((List.range 24).map fun l => if d.lnkState l = lUp then 2 ^ l else 0).foldl (· + ·) 0)

/-! ### Cores and clusters -/

/-- One core is reset, R415 and R241: IDLE with bank 0 active; the DMA engine's requests are abandoned without write-back. `keep`: the
instruction memory banks keep their contents. -/
def Dev.coreReset (keep : Bool) (c : Nat) (d : Dev) : Dev :=
  let k := d.core c
  let d := ((k.dma.map DmaRun.txids).getD []).foldl (fun (d : Dev) x => d.abandonTxid x.1) d
  let d := d.clearRegs ((Blk.core c).base) ((Blk.core (c + 1)).base)
  d.setCore c (if keep then { Core.reset with imem0 := k.imem0, imem1 := k.imem1, imemEcc := k.imemEcc } else Core.reset)

/-- SRAM error marks below a place and from another on. -/
def Dev.clearMarks (lo hi : Nat) (d : Dev) : Dev := { d with sramEcc := mclear d.sramEcc (lo / 8) (hi / 8) }

/-- CLM of a core reads 0. -/
def Dev.clmZero (c : Nat) (d : Dev) : Dev := (d.clearPlaces (clmPlace c 0) (clmPlace (c + 1) 0)).clearMarks (clmPlace c 0) (clmPlace (c + 1) 0)

/-- CSM of a cluster reads 0. -/
def Dev.csmZero (x : Nat) (d : Dev) : Dev := (d.clearPlaces (csmPlace x 0) (csmPlace (x + 1) 0)).clearMarks (csmPlace x 0) (csmPlace (x + 1) 0)

/-- A core comes back with its CLM and its instruction memory reading 0. -/
def Dev.coreZero (c : Nat) (d : Dev) : Dev := (d.coreReset false c).clmZero c

/-- A cluster is reset: its cores, and its CSM left zero. -/
def Dev.clusterReset (n : Nat) (d : Dev) : Dev := ((List.range 8).foldl (fun d i => Dev.coreZero (8 * n + i) d) d).csmZero n

/-- Every core and cluster is reset. -/
def Dev.coresReset (d : Dev) : Dev := (List.range 8).foldl (fun d n => d.clusterReset n) d

/-- The collective unit is reset, with the records that wait for it. -/
def Dev.colReset (d : Dev) : Dev :=
  Dev.clearRegs Blk.col.base (Blk.col.base + 0x10000) { d with col := {}, fab := { d.fab with colQ := [] } }

/-- The compute die loses its power, R424: every core, collective, fabric and DMA register returns to its reset value. -/
def Dev.dieReset (d : Dev) : Dev :=
  let d := d.coresReset.colReset
  Dev.syncLinks (Dev.clearRegs Blk.fab.base 0x00142000 { d with fab := {} })

/-! ### Memory interfaces -/

/-- Lanes of one channel of a stack that are known to fail, R174: those spared, then those erased, then those found at training. -/
def badLanes (g : Granary) (k ch : Nat) (found : List LaneId) : List Nat :=
  let old := ((g.spared ++ g.erased).filter fun e => decide (e.1 = ch)).map Prod.snd
  let new := (found.filter fun i => decide (i.stack.val = k) && decide (i.channel.val = ch)).map fun i => i.lane.val
  (old ++ new).eraseDups

/-- The stack after training: the first two failing lanes of a channel are spared, the third is an erasure. -/
def trainLanes (g : Granary) (k : Nat) (found : List LaneId) : Granary :=
  let bad (ch : Nat) : List Nat := badLanes g k ch found
  { g with
    spared := (List.range 32).flatMap fun ch => ((bad ch).take 2).map fun l => (ch, l),
    erased := (List.range 32).flatMap fun ch => (((bad ch).drop 2).take 1).map fun l => (ch, l) }

/-- The first channel with a fourth failing lane, and that lane: the stack fails. -/
def laneLimit (g : Granary) (k : Nat) (found : List LaneId) : Option (Nat × Nat) :=
  (List.range 32).findSome? fun ch => ((badLanes g k ch found).drop 3).head?.map fun l => (ch, l)

/-- A stack's interface has been trained: its lanes, and READY unless it failed. -/
def Dev.stackTrained (k : Nat) (found : List LaneId) (d : Dev) : Dev :=
  let g := mget {} d.grn k
  let t := trainLanes g k found
  let d := ({ d with grn := mset {} d.grn k t } : Dev)
  ((d.set (Reg.GRN_STATUS.SPARES k) t.spared.length).set (Reg.GRN_STATUS.ERASED k) t.erased.length).setBit (Reg.GRN_STATUS.READY k)
    (laneLimit g k found).isNone

/-- GRN_STATUS and GRN_ERR of a stack return to their reset values; with UE = 0, the address pair shows the latest corrected error (R190). -/
def Dev.stackReset (k : Nat) (d : Dev) : Dev :=
  (d.clearRegs ((Blk.grn k).base) ((Blk.grn k).base + 8)).set64 (Reg.GRN_ERRADDR_LO.ADDR k) (mget {} d.grn k).ceAddr

/-- The address of a stack's latest corrected error is forgotten with its registers. -/
def Dev.ceForget (k : Nat) (d : Dev) : Dev := { d with grn := mset {} d.grn k { mget {} d.grn k with ceAddr := 0 } }

/-- A GDDR port trains again; a mapped-out one stays so (R413). -/
def Dev.portReset (p : Nat) (d : Dev) : Dev :=
  let out := decide (d.get (Reg.GDM_STATUS.STATE p) = 1)
  let d : Dev := d.clearRegs ((Blk.gdm p).base) ((Blk.gdm p).base + 0x1000)
  let d : Dev := { d with gdmCe := mset 0 d.gdmCe p 0 }
  if out then d.set (Reg.GDM_STATUS.STATE p) 1 else d

/-- The ports that are not mapped out have trained, but for those that failed: every access to these is uncorrectable (R415), as to one that had
become unusable in service, until the next bring-up (R181). -/
def Dev.portsTrained (failed : List Nat) (d : Dev) : Dev :=
  (List.range 32).foldl (fun (d : Dev) p =>
    if d.get (Reg.GDM_STATUS.STATE p) = 1 then d
    else Dev.set (Reg.GDM_STATUS.STATE p) 0 { d with gdmDead := mset false d.gdmDead p (mget false d.gdmDead p || failed.contains p) }) d

/-- Ports in one state pass to another: into self-refresh and out of it (R188). -/
def Dev.portsMove (old new : Nat) (d : Dev) : Dev :=
  (List.range 32).foldl (fun d p =>
    if d.get (Reg.GDM_STATUS.STATE p) = old then d.set (Reg.GDM_STATUS.STATE p) new else d) d

/-! ### Tables of R166 -/

/-- GDDR table entry of region `i`. -/
def Dev.setRegion (i mode home slot : Nat) (d : Dev) : Dev :=
  (((d.set (Reg.GDM_IAT.MODE i) mode).set (Reg.GDM_IAT.HOME i) home).set (Reg.GDM_IAT.SLOT i) slot).set (Reg.GDM_IAT.PART i) 0

/-- The regions of a cluster whose port set has a mapped-out port. -/
def Dev.clusterTable (x : Nat) (live : List Nat) (d : Dev) : Dev :=
  (List.range 32).foldl (fun d i =>
    match live[i / 8]? with
    | some p => d.setRegion (32 * x + i) 3 p (i % 8)
    | none => d.setRegion (32 * x + i) 0 0 0) d

/-- Bring-up writes both tables. -/
def Dev.tables (d : Dev) : Dev :=
  let d := d.clearRegs Blk.tbl.base (Blk.tbl.base + 0x1000)
  (List.range 8).foldl (fun d x =>
    let live := ((List.range 4).map (4 * x + ·)).filter fun p => decide (d.get (Reg.GDM_STATUS.STATE p) ≠ 1)
    if live.length = 4 then d else d.clusterTable x live) d

/-- The two highest-numbered backed GDDR regions, R167. -/
def Dev.topRegions (d : Dev) : List Nat :=
  (((List.range 256).filter fun r => decide (d.get (Reg.GDM_IAT.MODE r) ≠ 0)).reverse).take 2

/-- The dump's place: the lower of the two regions. -/
def Dev.dumpBase (d : Dev) : Nat := gdmBase + (d.stg.dump.foldl min 255) * 2 ^ 30

/-- Spans of places behind a GDDR region. -/
def Dev.gdmSpans (d : Dev) (r : Nat) : List (Nat × Nat) :=
  let home := d.get (Reg.GDM_IAT.HOME r)
  let slot := d.get (Reg.GDM_IAT.SLOT r)
  let part := d.get (Reg.GDM_IAT.PART r)
  match d.get (Reg.GDM_IAT.MODE r) with
  | 1 => (List.range 4).map fun i => (gdmPlace (4 * home + i) (slot * 2 ^ 28), gdmPlace (4 * home + i) ((slot + 1) * 2 ^ 28))
  | 2 => (List.range 32).map fun p => (gdmPlace p (slot * 2 ^ 28 + part * 2 ^ 25), gdmPlace p (slot * 2 ^ 28 + (part + 1) * 2 ^ 25))
  | 3 => [(gdmPlace home (slot * 2 ^ 30), gdmPlace home ((slot + 1) * 2 ^ 30))]
  | _ => []

/-- Spans of places behind a Granary region. -/
def Dev.grnSpans (d : Dev) (g : Nat) : List (Nat × Nat) :=
  let slot := d.get (Reg.GRN_IAT.SLOT g)
  let part := d.get (Reg.GRN_IAT.PART g)
  match d.get (Reg.GRN_IAT.MODE g) with
  | 1 => [(grnPlace (d.get (Reg.GRN_IAT.HOME g)) (slot * 2 ^ 30), grnPlace (d.get (Reg.GRN_IAT.HOME g)) ((slot + 1) * 2 ^ 30))]
  | 2 => (List.range 8).map fun k => (grnPlace k (slot * 2 ^ 30 + part * 2 ^ 27), grnPlace k (slot * 2 ^ 30 + (part + 1) * 2 ^ 27))
  | _ => []

/-- Every Granary and GDDR byte outside a held dump becomes 0, and its codeword good (R409, R411, R424). -/
def Dev.dramZero (d : Dev) : Dev :=
  let kept (p : Nat) : Bool := decide (csmPlace 0 0 ≤ p) || d.flt.held.any fun s => decide (s.1 ≤ p) && decide (p < s.2)
  { d with mem := d.mem.filter fun q => kept q.1, grnBad := d.grnBad.filter fun q => kept (q.1 * 64) }

/-! ### The clock, R429 and R430 -/

/-- A thermal curve: none below its threshold. -/
def curve (from_ t base : Nat) : Nat := if from_ ≤ t then max 400 (1300 - 100 * (t - (from_ - 1))) else base

def Dev.baseClock (d : Dev) : Nat := if d.bit Reg.PWR_STATUS.SPRINT then 1500 else 1300

/-- A curve or the limiter comes to hold the clock below the base: counted and logged with its cause (R432). -/
def Dev.throttled (cause : Nat) (f : Fld) (now : Bool) (d : Dev) : Dev :=
  if now && !d.bit f then
    ((d.setBit f true).flag Reg.PWR_ERR.THROTTLE Reg.PWR_ERR.THR_CNT).log { code := Flt.PWR_THROTTLE, arg0 := cause }
  else d.setBit f now

/-- The core clock and its status bits follow the readings, the limiter and the base. ALERT_N's throttle source ends with the curves. -/
def Dev.reclock (d : Dev) : Dev :=
  let base := d.baseClock
  let j := curve 105 d.pwr.effJ base
  let g := curve 95 d.pwr.effG base
  let d := d.throttled 0 Reg.PWR_STATUS.THROT_J (decide (105 ≤ d.pwr.effJ))
  let d := d.throttled 1 Reg.PWR_STATUS.THROT_G (decide (95 ≤ d.pwr.effG))
  let d := d.throttled 2 Reg.PWR_STATUS.LIMIT (decide (0 < d.pwr.limCut))
  let d := d.set Reg.PWR_STATUS.CLK_MHZ (min (min base j) (min g (base - d.pwr.limCut)) / 25 * 25)
  if d.pwr.effJ < 105 ∧ d.pwr.effG < 95 then { d with flt := { d.flt with alertThrottle := false } } else d

/-- Sprint begins or ends: the base changes, and a limiter that holds the clock keeps its value up to the new base. -/
def Dev.setSprint (on : Bool) (d : Dev) : Dev :=
  let v := d.baseClock - d.pwr.limCut
  let cut := d.pwr.limCut
  let d := d.setBit Reg.PWR_STATUS.SPRINT on
  Dev.reclock { d with pwr := { d.pwr with limCut := if cut = 0 then 0 else d.baseClock - min d.baseClock v } }

/-! ### The whole module -/

/-- A MODULE reset (R415): everything but the meter, what a held dump needs, the flash and the key slot, the levels of pins and feeds,
and memory contents, which bring-up clears later. -/
def Dev.moduleReset (d : Dev) : Dev :=
  let held := d.bit Reg.FLT_DUMP.VALID
  let w : Power := { d.pwr with booted := false, romBad := false, credit := 0, effJ := 0, effG := 0, limCut := 0, moveTo := 0 }
  let d' : Dev :=
    { mem := d.mem, sramEcc := d.sramEcc, grnBad := d.grnBad, meter := d.meter, scan := d.scan, freeIdx := d.freeIdx, out := d.out,
      img := { flash := d.img.flash, erasing := d.img.erasing, key := d.img.key },
      flt := if held then { sideDump := d.flt.sideDump, held := d.flt.held } else {},
      host := { perstLow := d.host.perstLow },
      pwr := { w with afterTrip := d.bit Reg.PWR_STATUS.TRIPPED } }
  let d' := d'.setBit Reg.HST_STATUS.PERST d.host.perstLow
  if held then ((d'.setBit Reg.FLT_DUMP.VALID true).set Reg.FLT_DUMP.WHERE (d.get Reg.FLT_DUMP.WHERE)).setBit Reg.FLT_STATUS.DUMP true
  else d'

def Dev.modPwr (f : Power → Power) (d : Dev) : Dev := { d with pwr := f d.pwr }

/-- The MODULE domain is reset, and stays so while the internal reset is active (R42). -/
def Dev.holdReset (d : Dev) : Dev := d.moduleReset.modPwr fun w => { w with held := true }

/-- The link plan is taken, R406. -/
def Dev.takePlan (d : Dev) : Dev :=
  let (geom, coord, used, roots) := d.img.plan
  let d : Dev := { d with usedLinks := used % 2 ^ 24 }
  (((d.set Reg.FAB_GEOM geom).set Reg.FAB_COORD coord).set Reg.MTC_ROOT.ROOT0 roots).set Reg.MTC_ROOT.ROOT1 (roots / 2 ^ 16)

end Sys2Proof.Machine
end

