-- ==== Sys2Proof/Machine/Ladder.lean ====
section
/-! DEFINITION. The power ladder (R420 to R424), sprint (R425 to R427), throttle, limiter and trip (R428 to R432), and the coolant and
memory sensors (R46, R178, R189). -/

namespace Sys2Proof.Machine

/-! ### Moves -/

/-- The module comes back to G0, R424: from G3 the compute die has lost its state; self-refresh ends (R188). -/
def Dev.toG0 (d : Dev) : Dev :=
  let st := d.get Reg.PWR_STATUS.STATE
  let d := if st = 3 then d.dieReset else d
  let d := if 2 ≤ st then d.portsMove 3 0 else d
  d.set Reg.PWR_STATUS.STATE 0

/-- Self-refresh begins on the way into G2 and G3. -/
def Dev.toRefresh (st : Nat) (d : Dev) : Dev := (d.portsMove 0 3).set Reg.PWR_STATUS.STATE st

/-- G4 is entered, R424: the memories are zeroed but for a held dump and lose their power with the die; machine time stops and the host
link is down (R445). -/
def Dev.toG4 (d : Dev) : Dev :=
  let d := d.dramZero
  let d : Dev := { d with time := { d.time with started := false } }
  let d := ((d.setBit Reg.HST_STATUS.LINK_UP false).set Reg.HST_STATUS.SPEED 0).set Reg.HST_STATUS.WIDTH 0
  (d.setBit Reg.MTC_STATUS.SYNC false).set Reg.PWR_STATUS.STATE 4

/-- G4 is left for G3: the registers are as after a MODULE reset with GEN_EXPERT, the link plan and the tables of R166; the memories
have been retrained, and machine time counts on. -/
def Dev.leaveG4 (d : Dev) : Dev :=
  let phase := [Reg.PWR_BOOT_STATUS.PHASE, Reg.PWR_BOOT_STATUS.FAIL_PHASE, Reg.PWR_BOOT_STATUS.SLOT, Reg.PWR_BOOT_STATUS.SLOT_A_BAD,
    Reg.PWR_BOOT_STATUS.MODE, Reg.PWR_BOOT_STATUS.DUMP_KEPT, Reg.PWR_BOOT_STATUS.FAIL_CODE, Reg.PWR_BOOT_TIME, Reg.PWR_BOOT_ROWS]
  let out := (List.range 32).filter fun p => decide (d.get (Reg.GDM_STATUS.STATE p) = 1)
  let r := d.coresReset.moduleReset
  let r : Dev := { r with
    img := d.img, grn := d.grn, gdmDead := d.gdmDead, mt := d.mt, stg := { r.stg with dump := d.stg.dump },
    time := { r.time with started := true }, pwr := { r.pwr with booted := d.pwr.booted, afterTrip := d.pwr.afterTrip } }
  let r := phase.foldl (fun r f => r.set f (d.get f)) r
  let r := (r.set Reg.GEN_EXPERT d.img.expert).takePlan
  let r := (List.range 32).foldl (fun r p => r.set (Reg.GDM_STATUS.STATE p) (if out.contains p then 1 else 3)) r
  let r := (List.range 8).foldl (fun r k => (r.stackTrained k []).ceForget k) r
  let r := r.tables
  let r := if r.node = r.get Reg.MTC_ROOT.ROOT0 then
      Dev.setBit Reg.MTC_STATUS.SYNC true (Dev.setBit Reg.MTC_STATUS.ROOT true { r with time := { r.time with rootNode := r.node } })
    else r
  r.set Reg.PWR_STATUS.STATE 3

/-- The module enters a ladder state from the one it is in. -/
def Dev.enterState (t : Nat) (d : Dev) : Dev :=
  let d := if t ≠ 0 ∧ d.bit Reg.PWR_STATUS.SPRINT then d.setSprint false else d
  if t = 0 then d.toG0
  else if t = 1 then d.set Reg.PWR_STATUS.STATE 1
  else if t = 2 then d.toRefresh 2
  else if t = 3 then (if d.get Reg.PWR_STATUS.STATE = 4 then d.leaveG4 else d.toRefresh 3)
  else d.toG4

/-- The module is brought back to G0, as a reset of a smaller domain demands (R423). -/
def Dev.upToG0 (d : Dev) : Dev :=
  let d := d.setBit Reg.PWR_STATUS.MOVING false
  let d := if d.get Reg.PWR_STATUS.STATE = 4 then d.leaveG4 else d
  d.toG0.set Reg.PWR_LADDER.TARGET 0

/-! ### Requests -/

/-- Bring-up, the headland round or a trip forbids any move. -/
def Dev.ladderBarred (d : Dev) : Bool :=
  let hl := d.get Reg.FLT_STATUS.HL
  decide (d.get Reg.PWR_BOOT_STATUS.PHASE ≠ 6) || (decide (hlCollect ≤ hl) && decide (hl ≤ hlConfirm)) || d.bit Reg.PWR_STATUS.TRIPPED

/-- A sequencer, DMA engine, ring or index queue is at work. -/
def Dev.coreBusy (d : Dev) (c : Nat) : Bool :=
  let k := d.core c
  decide (k.seq = .run) || decide (k.seq = .wait) || decide (k.seq = .quiescing) || decide (k.seq = .loadchk)
    || d.bit (Reg.CORE_DMA_STATUS.BUSY c) || decide (k.ixq ≠ [])
    || (List.range 128).any fun g => decide (d.get (Reg.CORE_DMA_RING_STATUS.PEND c g) ≠ 0)

def Dev.anyCoreBusy (d : Dev) : Bool := (List.range 64).any d.coreBusy

/-- The module is in a block or carries one's traffic. -/
def Dev.inSomeBlock (d : Dev) : Bool :=
  decide (d.get Reg.FAB_BLOCK_ID ≠ 0) || (List.range 8).any fun i => d.bit (Reg.FAB_TRANSIT.EN i)

/-- A link keeps the module from a state: L0 or UP_HELD for G2 and G3, in HOLD too; anything but L2, DOWN and DARK for G4. -/
def Dev.linksBar (d : Dev) (t : Nat) : Bool :=
  (List.range 24).any fun l =>
    let s := d.sendState l
    if t = 4 then decide (s ≠ lL2) && decide (s ≠ lDown) && decide (s ≠ lDark) else decide (s = lUp) || decide (s = lUpHeld)

/-- STG states, R389. -/
def stgOpen : Nat := 0
def stgChecking : Nat := 1
def stgChecked : Nat := 2
def stgArmed : Nat := 3

/-- Some thresher work is going on. -/
def Dev.thrBusy (d : Dev) : Bool :=
  d.thr.running || decide (d.thr.digDue ≠ []) || d.thr.cmd.isSome || (List.range 16).any fun g => (mget none d.thr.mirs g).isSome

def Dev.groupBusy (d : Dev) : Bool := d.thrBusy || (List.range 16).any fun g => decide (d.grpState g ≠ grpIdle)

/-- A move that R421 allows. -/
def ladderLegal (st t : Nat) : Bool :=
  decide (t ≤ 4) && (decide (st < t) || (decide (t = 0) && decide (0 < st) && decide (st < 4)) || (decide (st = 4) && decide (t = 3)))

/-- REASON of a request's refusal, the first that applies (R422); none: accepted. -/
def Dev.ladderReason (d : Dev) (t : Nat) : Option Nat :=
  let st := d.get Reg.PWR_STATUS.STATE
  let down := decide (st < t) && decide (t ≤ 4)
  if d.ladderBarred then some 1
  else if down && d.anyCoreBusy then some 2
  else if down && decide (2 ≤ t) && d.inSomeBlock then some 3
  else if down && decide (2 ≤ t) && d.linksBar t then some 4
  else if down && decide (2 ≤ t) && (decide (d.get Reg.STG_STATUS.STATE = stgArmed) || d.bit Reg.COL_CTL.EN) then some 5
  else if down && decide (2 ≤ t) && d.groupBusy then some 6
  else if !ladderLegal st t then some 7
  else none

/-- A request is refused. -/
def Dev.ladderRefuse (r : Nat) (d : Dev) : Dev :=
  (d.flag Reg.PWR_LADDER.REJ Reg.PWR_LADDER.REJ_CNT).set Reg.PWR_LADDER.REASON r

/-- A write of PWR_LADDER.TARGET that counts (R464): the move begins, or the request is refused and changes nothing else (R422). -/
def Dev.ladderRequest (t : Nat) (d : Dev) : Dev :=
  if d.pwr.held ∨ d.get Reg.PWR_LADDER.TARGET = t then d
  else match d.ladderReason t with
    | some r => d.ladderRefuse r
    | none =>
      let d := (d.set Reg.PWR_LADDER.TARGET t).setBit Reg.PWR_STATUS.MOVING true
      { d with pwr := { d.pwr with moveTo := t } }

/-- Requests come from the host, the steward or I2C (R422). -/
def Dev.ladderBy (r : Requester) (t : Nat) (d : Dev) : Dev := if r = .planLoader then d else d.ladderRequest t

def execLadderRequestG0 (r : Requester) (s : State) : Out := s.does (Dev.ladderBy r 0)
def execLadderRequestG1 (r : Requester) (s : State) : Out := s.does (Dev.ladderBy r 1)
def execLadderRequestG2 (r : Requester) (s : State) : Out := s.does (Dev.ladderBy r 2)
def execLadderRequestG3 (r : Requester) (s : State) : Out := s.does (Dev.ladderBy r 3)
def execLadderRequestG4 (r : Requester) (s : State) : Out := s.does (Dev.ladderBy r 4)

/-- The move that goes on reaches its state. -/
def execLadderMoveDone (s : State) : Out :=
  s.does fun d =>
    if d.bit Reg.PWR_STATUS.MOVING && !d.pwr.held then (d.enterState d.pwr.moveTo).setBit Reg.PWR_STATUS.MOVING false else d

/-! ### Sprint -/

/-- The conditions of R425 that must go on holding. -/
def Dev.sprintHolds (d : Dev) : Bool :=
  decide (d.get Reg.PWR_STATUS.STATE = 0) && d.bit Reg.PWR_CTL.SPRINT_EN && !d.bit Reg.MTC_DETERMINISM.STRICT
    && decide (d.get Reg.PWR_COOLANT.INLET ≤ 300) && decide (4800 ≤ d.get Reg.PWR_INPUT.MV10)
    && !d.bit Reg.PWR_STATUS.THROT_J && !d.bit Reg.PWR_STATUS.THROT_G

/-- `gapMs`: milliseconds since the previous sprint ended. -/
def execSprintGrant (gapMs : Nat) (s : State) : Out :=
  s.does fun d =>
    if !d.bit Reg.PWR_STATUS.SPRINT && !d.bit Reg.PWR_STATUS.TRIPPED && !d.pwr.held && d.sprintHolds && decide (1000000 ≤ d.pwr.credit)
        && decide (10000 ≤ gapMs) then
      d.setSprint true
    else d

/-- `ms`: milliseconds since the grant. An end by credit or timer sets SPRINT_END (R427). -/
def execSprintEnd (ms : Nat) (s : State) : Out :=
  s.does fun d =>
    if !d.bit Reg.PWR_STATUS.SPRINT then d
    else if d.pwr.credit = 0 ∨ 20000 ≤ ms then (d.setSprint false).setBit Reg.PWR_ERR.SPRINT_END true
    else if !d.sprintHolds then d.setSprint false
    else d

/-- The millisecond's update, R426, in mJ, with the counts of R433. -/
def execCreditUpdate (energyMj : Nat) (s : State) : Out :=
  s.does fun d =>
    if d.pwr.held then d
    else
      let sprint := d.bit Reg.PWR_STATUS.SPRINT
      let c := if sprint then d.pwr.credit - (energyMj - 1400) else min 5000000 (d.pwr.credit + 50)
      let d : Dev := { d with pwr := { d.pwr with credit := c } }
      let d := d.set Reg.PWR_CREDIT (c / 1000)
      let d := if sprint then d.addSat Reg.PWR_SPRINT_MS 1 else d
      if d.bit Reg.PWR_STATUS.THROT_J || d.bit Reg.PWR_STATUS.THROT_G then d.addSat Reg.PWR_THROT_MS 1 else d

/-! ### Readings, R428 to R432 -/

def kindNo : SensorKind → Nat
  | .junction => 0
  | .granary => 1
  | .gddr => 2

/-- Sensors of a kind: 24 junction sensors, eight stacks, 32 ports. -/
def kindCount : SensorKind → Nat
  | .junction => 24
  | .granary => 8
  | .gddr => 32

def tripAt : SensorKind → Nat
  | .junction => 115
  | .granary => 105
  | .gddr => 100

/-- The latest reading of a sensor, or none. -/
def Dev.reading (d : Dev) (kind i : Nat) : Option Nat :=
  match mget 0 d.pwr.sensors (kind * 64 + i) with
  | 0 => none
  | n + 1 => some n

/-- The hottest reading of a kind. -/
def Dev.hottest (d : Dev) (kind : SensorKind) : Nat :=
  ((List.range (kindCount kind)).map fun i => (d.reading (kindNo kind) i).getD 0).foldl max 0

/-- The reading a curve goes by: a falling one counts as 2 degrees more, and never as more than before (R429). -/
def eff (old t : Nat) : Nat := if old ≤ t then t else min old (t + 2)

/-- A trip, R431: the module withdraws, the power of cores and memories goes, and a move in progress is not made. For a junction
sensor, which is no stack or port, ARG0[7:0] is a free value (log entry 1). -/
def Dev.trip (kind : SensorKind) (i temp : Nat) (d : Dev) : Dev :=
  let (u, d) := if kind = .junction then (let (v, d) := d.freeNat; (v % 256, d)) else (i, d)
  let d := (d.setBit Reg.PWR_STATUS.TRIPPED true).setBit Reg.PWR_STATUS.MOVING false
  (d.raise { code := Flt.PWR_TRIP, arg0 := kindNo kind * 256 + u, arg1 := temp }).sideEvent 3

/-- A sensor's reading is taken in. -/
def Dev.takeReading (kind : SensorKind) (i temp : Nat) (d : Dev) : Dev :=
  let prev := d.reading (kindNo kind) i
  let d : Dev := { d with pwr := { d.pwr with sensors := mset 0 d.pwr.sensors (kindNo kind * 64 + i) (temp + 1) } }
  let hot := d.hottest kind
  let d := match kind with
    | .junction => Dev.set Reg.PWR_TEMP.JUNCTION hot { d with pwr := { d.pwr with effJ := eff d.pwr.effJ hot } }
    | .granary => Dev.set Reg.PWR_TEMP.GRANARY hot { d with pwr := { d.pwr with effG := eff d.pwr.effG hot } }
    | .gddr => d.set Reg.PWR_TEMP.GDDR hot
  let d := d.reclock
  if tripAt kind ≤ temp ∧ tripAt kind ≤ prev.getD 0 ∧ !d.bit Reg.PWR_STATUS.TRIPPED then d.trip kind i temp else d

def execThermalReading (kind : SensorKind) (idx : Fin 32) (temp : BitVec 8) (s : State) : Out :=
  s.does fun d => if idx.val < kindCount kind ∧ !d.pwr.held then d.takeReading kind idx temp.toNat else d

/-- The limiter compares the last millisecond's power, R430; it steps once a millisecond. -/
def execPowerLimiter (watts : BitVec 16) (msPassed : Bool) (s : State) : Out :=
  s.does fun d =>
    if d.pwr.held then d
    else
      let w := watts.toNat
      let limit := if d.bit Reg.PWR_STATUS.SPRINT then 1650 else 1400
      let d := d.set Reg.PWR_INPUT.WATTS w
      let cut := d.pwr.limCut
      let cut := if !msPassed then cut
        else if limit < w then min d.baseClock (cut + 25)
        else if w + 50 < limit then cut - 25
        else cut
      Dev.reclock { d with pwr := { d.pwr with limCut := cut } }

/-- A thermal curve has held the clock down for more than 1 s without a break. -/
def execThrottleAlert (s : State) : Out :=
  s.does fun d =>
    if d.bit Reg.PWR_STATUS.THROT_J || d.bit Reg.PWR_STATUS.THROT_G then { d with flt := { d.flt with alertThrottle := true } } else d

/-- Readings of a stack or a port, R189 and R178. -/
def execMemorySensorRead (u : MemUnit) (temp : BitVec 8) (s : State) : Out :=
  s.does fun d =>
    let t := temp.toNat
    if !d.memOn then d
    else match u with
      | .stack k =>
        ((d.set (Reg.GRN_STATUS.TEMP k) t).setBit (Reg.GRN_STATUS.REFX2 k) (decide (85 < t))).setBit (Reg.GRN_STATUS.THROT k) (decide (95 ≤ t))
      | .port p => (d.set (Reg.GDM_STATUS.TEMP p) t).setBit (Reg.GDM_STATUS.REFX2 p) (decide (85 < t))

/-- The coolant sensors, R46, in tenths of a degree. -/
def execCoolantReading (inlet outlet : BitVec 12) (s : State) : Out :=
  s.does fun d => if d.pwr.held then d else (d.set Reg.PWR_COOLANT.INLET inlet.toNat).set Reg.PWR_COOLANT.OUTLET outlet.toNat

end Sys2Proof.Machine
end

