-- ==== Sys2Proof/Machine/Reset.lean ====
section
/-! DEFINITION. Requested resets of the domains of R415 to R419. -/

namespace Sys2Proof.Machine

/-- STG's DISCARD: the shadows follow the live values again, and STG is OPEN (R389). -/
def Dev.stgDiscard (d : Dev) : Dev :=
  Dev.set Reg.STG_STATUS.STATE stgOpen { d with shadow := [], stg := { d.stg with target := none, late := false } }

/-- STG is CHECKED or ARMED when a reset begins (R418). -/
def Dev.stgPreempt (d : Dev) : Dev :=
  let st := d.get Reg.STG_STATUS.STATE
  if st = stgChecked ∨ st = stgArmed then d.stgDiscard.setBit Reg.STG_ERR.PREEMPT true else d

/-! ### Requests -/

/-- Members of a domain; an index outside is refused (R419). -/
def domainSize : Nat → Nat
  | 0 => 64
  | 1 => 64
  | 2 => 8
  | 3 => 64
  | 4 => 24
  | 5 => 8
  | _ => 0

/-- One domain contains another, R416. -/
def domainContains (a i : Nat) (r : ResetRun) : Bool :=
  decide (a = 0) || (decide (a = 1) && decide (1 ≤ r.domain) && decide (r.domain ≤ 3))
    || (decide (a = 2) && decide (r.domain = 3) && decide (r.index / 8 = i)) || (decide (a = r.domain) && decide (i = r.index))

/-- A request is refused, R416. -/
def Dev.resetBarred (d : Dev) (dom i : Nat) (force : Bool) : Bool :=
  let hl := d.get Reg.FLT_STATUS.HL
  decide (domainSize dom ≤ i) || decide (d.get Reg.PWR_BOOT_STATUS.PHASE < 6) || (decide (hlCollect ≤ hl) && decide (hl ≤ hlConfirm))
    || (decide (d.get Reg.FAB_BLOCK_ID ≠ 0) && d.bit Reg.COL_CTL.EN && !force)
    || (d.rst.map fun r => !domainContains dom i r).getD false

/-- The DMA transfers of which some source or destination row has a byte in a domain that is reset end with ABORTED (R239); `inside` tells the places, and
`imem` the cores whose instruction memory is reset. -/
def Dev.abortInto (inside : Nat → Bool) (imem : Nat → Bool) (d : Dev) : Dev :=
  let hit (a : Nat) : Bool :=
    match d.place a, imemWindow a with
    | some p, _ => inside p
    | none, some (c, _, _) => imem c
    | none, none => false
  let rows (a n stride count : Nat) : Bool :=
    !d.elsewhere a && (List.range count).any fun r =>
      (pagesOf ((if isRemote a then remoteLocal a else a) + r * stride) n).any fun p => hit p.1
  (List.finRange 64).foldl (fun (d : Dev) (c : CoreId) =>
    match (d.core c).dma with
    | some u =>
      if u.code = 0 ∧ u.ended.isNone ∧ (rows (dSrc u.desc) (dLen u.desc) (dSstride u.desc) (dRows u.desc)
          || rows (dDst u.desc) (dRowOut u.desc) (dDstride u.desc) (dRows u.desc)) then
        d.dmaCut c 0xC (d.dmaDone u) (dDst u.desc)
      else d
    | none => d) d

/-- Link n starts anew: DARK, until it trains (R249). DATA frames that wait for it stay. -/
def Dev.linkReset (l : Nat) (d : Dev) : Dev :=
  let k := d.link l
  Dev.syncLinks (Dev.setLink l { txq := k.txq } (d.clearRegs ((Blk.lnk l).base) ((Blk.lnk (l + 1)).base)))

/-- What a domain's reset does when it begins, R415. -/
def Dev.resetEffect (dom i : Nat) (d : Dev) : Dev :=
  match dom with
  | 0 => d.moduleReset
  | 1 => (List.range 32).foldl (fun d p => d.portReset p) d.coresReset.colReset
  | 2 =>
    (d.abortInto (fun p => (decide (csmPlace i 0 ≤ p) && decide (p < csmPlace (i + 1) 0))
        || (decide (clmPlace (8 * i) 0 ≤ p) && decide (p < clmPlace (8 * i + 8) 0))) fun c => decide (c / 8 = i)).clusterReset i
  | 3 => d.coreReset true i
  | 4 => d.linkReset i
  | _ => ((d.abortInto (fun p => decide (grnPlace i 0 ≤ p) && decide (p < grnPlace (i + 1) 0)) fun _ => false).thrAbort).stackReset i

/-- A request for a reset. -/
def Dev.resetRequest (dom i : Nat) (force : Bool) (d : Dev) : Dev :=
  if d.pwr.held ∨ d.pwr.romBad then d
  else if d.resetBarred dom i force then d.flag Reg.PWR_RST_STATUS.REJ Reg.PWR_RST_STATUS.REJ_CNT
  else
    let running := force && decide (d.get Reg.FAB_BLOCK_ID ≠ 0) && d.bit Reg.COL_CTL.EN
    let d := d.stgPreempt
    let d := if dom = 0 then d else d.upToG0
    let d := d.resetEffect dom i
    Dev.setBit Reg.PWR_RST_STATUS.BUSY true { d with rst := some ⟨dom, i, running⟩ }

/-- A write of PWR_RST_REQ with GO = 1, from the host, the steward or I2C. -/
def Dev.resetBy (r : Requester) (dom i : Nat) (force : Bool) (d : Dev) : Dev :=
  if r = .planLoader ∨ d.pwr.held then d
  else (((d.set Reg.PWR_RST_REQ.DOMAIN dom).set Reg.PWR_RST_REQ.INDEX i).setBit Reg.PWR_RST_REQ.FORCE force).resetRequest dom i force

def execResetModule (r : Requester) (force : Bool) (s : State) : Out := s.does (Dev.resetBy r 0 0 force)
def execResetCompute (r : Requester) (force : Bool) (s : State) : Out := s.does (Dev.resetBy r 1 0 force)
def execResetCluster (r : Requester) (n : BitVec 6) (force : Bool) (s : State) : Out := s.does (Dev.resetBy r 2 n.toNat force)
def execResetCore (r : Requester) (n : BitVec 6) (force : Bool) (s : State) : Out := s.does (Dev.resetBy r 3 n.toNat force)
def execResetLink (r : Requester) (n : BitVec 6) (force : Bool) (s : State) : Out := s.does (Dev.resetBy r 4 n.toNat force)
def execResetGranary (r : Requester) (n : BitVec 6) (force : Bool) (s : State) : Out := s.does (Dev.resetBy r 5 n.toNat force)

/-! ### The end of a reset -/

/-- A link's training has ended, or it has none. -/
def Dev.linkSettled (d : Dev) (l : Nat) : Bool :=
  let s := d.lnkState l
  !d.linkUsed l || decide (s = lUp) || decide (s = lUpHeld) || decide (s = lDown) || decide (s = lL1) || decide (s = lL2)

/-- The reset may complete: bring-up has ended, no thresher works, or the link's training has ended. -/
def Dev.resetReady (d : Dev) (r : ResetRun) : Bool :=
  match r.domain with
  | 0 => decide (6 ≤ d.get Reg.PWR_BOOT_STATUS.PHASE)
  | 1 => !d.thrBusy
  | 4 => d.linkSettled r.index
  | _ => true

/-- What a reset does at its end: the interfaces that it retrained. -/
def Dev.resetEnd (r : ResetRun) (lanes : List LaneId) (ports : List PortId) (d : Dev) : Dev :=
  match r.domain with
  | 1 => ((List.range 8).foldl (fun d k => (d.stackReset k).stackTrained k lanes) d).portsTrained (ports.map Fin.val)
  | 5 => d.stackTrained r.index lanes
  | _ => d

/-- `lanes` and `ports` are those that failed at the retraining. -/
def execResetComplete (lanes : List LaneId) (ports : List PortId) (s : State) : Out :=
  s.does fun d =>
    match d.rst with
    | none => d
    | some r =>
      if !d.resetReady r then d
      else
        let d := d.resetEnd r lanes ports
        (Dev.setBit Reg.PWR_RST_STATUS.BUSY false { d with rst := none }).set Reg.PWR_RST_STATUS.LAST r.domain

end Sys2Proof.Machine
end

