-- ==== Sys2Proof/Machine/Staging.lean ====
section
/-! DEFINITION. Staged changes (R389 to R394): shadow writes, STG_CHECK with its conditions (R390), arming and the commit. -/

namespace Sys2Proof.Machine

/-! ### Shadows -/

/-- The field of a key of the register store. -/
def fieldOf (key : Nat) : Option Fld := ((fieldsAt (key / 32)).find? fun x => decide (x.fld.lo = key % 32)).map FldAt.fld

/-- The shadow's value of a field: what was written, or the live value (R383). -/
def Dev.shadowVal (d : Dev) (f : Fld) : Nat := (mget none d.shadow f.key).getD (d.get f)

/-- The state that the module would hold after the commit, R390: dirty fields from the shadow, all others live. -/
def Dev.postCommit (d : Dev) : Dev :=
  d.shadow.foldl (fun (p : Dev) e =>
    match fieldOf e.1, e.2 with
    | some f, some v => p.set f v
    | _, _ => p) d

/-- STG is held by the plan loader against this requester (R394). -/
def Dev.stgHeld (d : Dev) (r : Requester) : Bool := d.stg.hold && decide (r ≠ .planLoader)

/-- A write to a staged field that counts (R464): into the shadow, which becomes dirty. -/
def Dev.shadowWrite (r : Requester) (f : Fld) (v : Nat) (d : Dev) : Dev :=
  let st := d.get Reg.STG_STATUS.STATE
  if st = stgArmed ∨ d.stgHeld r then d.setBit Reg.STG_ERR.BUSY true
  else
    let d : Dev := { d with shadow := mset none d.shadow f.key (some (v % 2 ^ f.width)) }
    if st = stgChecking ∨ st = stgChecked then d.set Reg.STG_STATUS.STATE stgOpen else d

/-! ### STG_CHECK, R390

Each part lists offending registers as offset and REASON. -/

/-- An offence where a condition holds. -/
def bad (c : Bool) (f : Fld) (reason : Nat) : List (Nat × Nat) := if c then [(f.off, reason)] else []

/-- A Granary table entry: its mode, home, slot and part. -/
structure Iat where
  mode : Nat
  home : Nat
  slot : Nat
  part : Nat
  deriving DecidableEq, Repr

def Dev.grnIat (d : Dev) (g : Nat) : Iat :=
  ⟨d.get (Reg.GRN_IAT.MODE g), d.get (Reg.GRN_IAT.HOME g), d.get (Reg.GRN_IAT.SLOT g), d.get (Reg.GRN_IAT.PART g)⟩

def Dev.gdmIat (d : Dev) (r : Nat) : Iat :=
  ⟨d.get (Reg.GDM_IAT.MODE r), d.get (Reg.GDM_IAT.HOME r), d.get (Reg.GDM_IAT.SLOT r), d.get (Reg.GDM_IAT.PART r)⟩

/-- A Granary entry out of the ranges of R163. -/
def Iat.grnBad (e : Iat) : Bool :=
  decide (e.mode = 3) || decide (47 < e.slot) || (decide (e.mode = 1) && decide (e.part ≠ 0))
    || (decide (e.mode = 2) && decide (e.home ≠ 0))

/-- Two Granary entries claim a byte of one stack. -/
def Iat.grnClash (a b : Iat) : Bool :=
  decide (a.slot = b.slot) && (
    if a.mode = 1 ∧ b.mode = 1 then decide (a.home = b.home)
    else if a.mode = 2 ∧ b.mode = 2 then decide (a.part = b.part)
    else decide (a.mode ≠ 0) && decide (b.mode ≠ 0))

def Iat.gdmBad (e : Iat) : Bool :=
  (decide (e.mode = 1) && (decide (7 < e.home) || decide (e.part ≠ 0))) || (decide (e.mode = 2) && decide (e.home ≠ 0))
    || (decide (e.mode = 3) && (decide (7 < e.slot) || decide (e.part ≠ 0))) || (decide (e.mode = 0) && decide (e.part ≠ 0))

/-- Ports of an entry. -/
def Iat.ports (e : Iat) : List Nat :=
  match e.mode with
  | 1 => (List.range 4).map (4 * e.home + ·)
  | 2 => List.range 32
  | 3 => [e.home]
  | _ => []

/-- Slots of 256 MiB that an entry claims on its ports. -/
def Iat.slots (e : Iat) : List Nat := if e.mode = 3 then (List.range 4).map (4 * e.slot + ·) else [e.slot]

/-- Two GDDR entries claim a byte of one port. -/
def Iat.gdmClash (a b : Iat) : Bool :=
  (a.ports.any fun p => b.ports.contains p) && (a.slots.any fun s => b.slots.contains s)
    && (decide (a.mode ≠ 2) || decide (b.mode ≠ 2) || decide (a.part = b.part))

/-- An index below `n` that clashes with `i`. -/
def clashes (n : Nat) (f : Nat → Nat → Bool) (i : Nat) : Bool := (List.range n).any fun j => decide (i ≠ j) && f i j

/-- The interleave tables, R167. -/
def Dev.checkTables (d p : Dev) : List (Nat × Nat) :=
  let g := (List.range 384).flatMap fun i =>
    bad (p.grnIat i).grnBad (Reg.GRN_IAT.MODE i) 1
      ++ bad (clashes 384 (fun a b => (p.grnIat a).grnClash (p.grnIat b)) i) (Reg.GRN_IAT.MODE i) 2
  let r := (List.range 256).flatMap fun i =>
    bad (p.gdmIat i).gdmBad (Reg.GDM_IAT.MODE i) 1
      ++ bad (clashes 256 (fun a b => (p.gdmIat a).gdmClash (p.gdmIat b)) i) (Reg.GDM_IAT.MODE i) 2
      ++ bad ((p.gdmIat i).ports.any fun q => decide (d.get (Reg.GDM_STATUS.STATE q) = 1)) (Reg.GDM_IAT.MODE i) 3
      ++ bad (d.stg.dump.contains i && decide (p.gdmIat i ≠ d.gdmIat i)) (Reg.GDM_IAT.MODE i) 3
  g ++ r

/-- A range of Granary addresses lies wholly in backed regions. -/
def Dev.grnBacked (p : Dev) (lo hi : Nat) : Bool :=
  decide (hi ≤ 384 * 2 ^ 30) && (List.range (ceilDiv hi (2 ^ 30) - lo / 2 ^ 30)).all fun i =>
    let m := p.get (Reg.GRN_IAT.MODE (lo / 2 ^ 30 + i))
    decide (m = 1) || decide (m = 2)

/-- The reduction buffer table, R195. -/
def Dev.checkRbt (p : Dev) : List (Nat × Nat) :=
  (List.range 256).flatMap fun i =>
    if !p.bit (Reg.GRN_RBT_CTL.EN i) then []
    else
      let fmt := p.get (Reg.GRN_RBT_CTL.FMT i)
      bad (decide (fmt ≠ 0) && decide (fmt ≠ 2) && decide (fmt ≠ 13)) (Reg.GRN_RBT_CTL.FMT i) 1
        ++ bad (clashes 256 (fun a b => p.bit (Reg.GRN_RBT_CTL.EN b) && decide (p.rbtLo a < p.rbtHi b) && decide (p.rbtLo b < p.rbtHi a)) i)
          (Reg.GRN_RBT_CTL.FMT i) 2
        ++ bad (!p.grnBacked (p.rbtLo i) (p.rbtHi i)) (Reg.GRN_RBT_CTL.FMT i) 3
        ++ bad (!p.bit (Reg.GRN_GRP_CTL.EN (p.rbtGroup i))) (Reg.GRN_RBT_CTL.FMT i) 4
        ++ bad (decide (p.get (Reg.GRN_RBT_LEN i) = 0)) (Reg.GRN_RBT_LEN i) 1
        ++ bad (decide (p.get (Reg.GRN_RBT_TID i) / 2 ^ 28 % 4 ≠ 0)) (Reg.GRN_RBT_TID i) 1

/-- Groups: a mirror in a block whose A0 length is 1 (R213; log entry 29). -/
def Dev.checkGroups (p : Dev) : List (Nat × Nat) :=
  (List.range 16).flatMap fun k =>
    bad (p.bit (Reg.GRN_GRP_CTL.MIR_EN k) && decide (p.get Reg.FAB_BLOCK_ID ≠ 0) && decide (p.blkLen 0 = 1)) (Reg.GRN_GRP_CTL.EN k) 4

/-- Links that a piste entry names: the way in unless it begins here, the way out unless it ends here. -/
def Dev.pisteLinks (p : Dev) (i : Nat) : List Nat :=
  let role := p.get (Reg.PST_CTL.ROLE i)
  (if role = 1 then [] else [p.get (Reg.PST_CTL.IN_LINK i)]) ++ (if role = 2 then [] else [p.get (Reg.PST_CTL.OUT_LINK i)])

/-- Slot positions that an entry reserves on its way out. -/
def Dev.pisteClash (p : Dev) (i j : Nat) : Bool :=
  p.bit (Reg.PST_CTL.EN j) && decide (p.get (Reg.PST_CTL.ROLE i) ≠ 2) && decide (p.get (Reg.PST_CTL.ROLE j) ≠ 2)
    && decide (p.get (Reg.PST_CTL.OUT_LINK i) = p.get (Reg.PST_CTL.OUT_LINK j))
    && decide (p.get64 (Reg.PST_SLOTS_LO i) &&& p.get64 (Reg.PST_SLOTS_LO j) ≠ 0)

/-- A link that a piste may not use: outside the plan, or with a Twivin 1 partner (R292). -/
def Dev.pisteLinkBad (d : Dev) (l : Nat) : Bool := !d.linkUsed l || decide (d.get (Reg.LNK_STATUS.VER l) = 1)

/-- The block or transit list knows the block of a piste. -/
def Dev.blkListed (p : Dev) (b : Nat) : Bool :=
  (decide (b ≠ 0) && decide (b = p.get Reg.FAB_BLOCK_ID))
    || (List.range 8).any fun i => p.bit (Reg.FAB_TRANSIT.EN i) && decide (p.get (Reg.FAB_TRANSIT.BLK i) = b)

/-- The piste table, R292 and R267. -/
def Dev.checkPistes (d p : Dev) : List (Nat × Nat) :=
  (List.range 512).flatMap fun i =>
    let ls := p.pisteLinks i
    let range := bad (decide (p.get (Reg.PST_CTL.ROLE i) = 3) || ls.any fun l => decide (23 < l)) (Reg.PST_CTL.EN i) 1
    if !p.bit (Reg.PST_CTL.EN i) then range
    else
      range ++ bad (clashes 512 p.pisteClash i) (Reg.PST_CTL.EN i) 2
        ++ bad (ls.any fun l => d.pisteLinkBad l || decide (p.get (Reg.LNK_CTL.PSTATE l) ≠ 0)) (Reg.PST_CTL.EN i) 5
        ++ bad (!p.blkListed (p.get (Reg.PST_CTL.BLK i))) (Reg.PST_CTL.EN i) 6
        ++ ls.flatMap fun l => bad (decide (l < 24) && decide (p.get (Reg.LNK_CTL.PSTATE l) ≠ 0)) (Reg.LNK_CTL.PSTATE l) 5

/-- Link fields, R269. -/
def Dev.checkLinks (p : Dev) : List (Nat × Nat) :=
  (List.range 24).flatMap fun l =>
    let v := p.get (Reg.LNK_CTL.VERMAX l)
    bad (decide (p.get (Reg.LNK_CTL.PSTATE l) = 3) || decide (v = 0) || decide (v = 3)) (Reg.LNK_CTL.PSTATE l) 1

/-- The block, R273, whatever FAB_BLOCK_ID holds. -/
def Dev.checkBlock (p : Dev) : List (Nat × Nat) :=
  bad (decide (p.get Reg.FAB_CTL.TROOM = 3)) Reg.FAB_CTL.TROOM 1
    ++ bad (p.bit Reg.FAB_CTL.ADAPT && p.bit Reg.MTC_DETERMINISM.STRICT) Reg.FAB_CTL.ADAPT 7
    ++ bad ((List.range 4).any fun k => decide (p.blkLen k = 0) || decide (p.axisLen k < p.blkLen k)) Reg.FAB_BLOCK_LEN 6
    ++ bad ((List.range 4).any fun k => decide (p.blkLen k ≤ p.blkPos k (p.coord k))) Reg.FAB_BLOCK_ORG 6

/-- Bytes of a pool. -/
def Dev.poolLo (p : Dev) (n : Nat) : Nat := p.get64 (Reg.COL_POOL_BASE_LO n)
def Dev.poolHi (p : Dev) (n : Nat) : Nat := p.poolLo n + p.get (Reg.COL_POOL_CFG.COUNT n) * 2 ^ p.get (Reg.COL_POOL_CFG.SIZE_LOG2 n)

/-- The pool lies wholly within the backed CSM of one cluster. -/
def Dev.poolBacked (p : Dev) (n : Nat) : Bool :=
  let o := p.poolLo n - csmBase
  decide (csmBase ≤ p.poolLo n) && decide (o < 8 * 2 ^ 24) && decide (o % 2 ^ 24 + (p.poolHi n - p.poolLo n) ≤ 2 ^ 23)

/-- The collective unit, R328. -/
def Dev.checkCol (p : Dev) : List (Nat × Nat) :=
  let en := p.bit Reg.COL_CTL.EN
  let used (n : Nat) : Bool := decide (p.get (Reg.COL_POOL_CFG.COUNT n) ≠ 0)
  bad (decide (p.get64 Reg.COL_SCRIPT_BASE_LO % 64 ≠ 0)) Reg.COL_SCRIPT_BASE_LO 1
    ++ bad (en && decide (p.get Reg.COL_SCRIPT_LEN = 0)) Reg.COL_SCRIPT_LEN 1
    ++ ((List.range 64).flatMap fun n => bad (decide (p.get (Reg.COL_COMM_CTL.KIND n) = 3)) (Reg.COL_COMM_CTL.KIND n) 1)
    ++ (List.range 16).flatMap fun n =>
      let sz := p.get (Reg.COL_POOL_CFG.SIZE_LOG2 n)
      bad (used n && decide (p.poolLo n % 2 ^ sz ≠ 0)) (Reg.COL_POOL_BASE_LO n) 1
        ++ bad (used n && clashes 16 (fun a b => used b && decide (p.poolLo a < p.poolHi b) && decide (p.poolLo b < p.poolHi a)) n)
          (Reg.COL_POOL_BASE_LO n) 2
        ++ bad (used n && !p.poolBacked n) (Reg.COL_POOL_BASE_LO n) 3
        ++ bad (decide (sz < 12) || decide (20 < sz) || decide (256 < p.get (Reg.COL_POOL_CFG.COUNT n))) (Reg.COL_POOL_CFG.COUNT n) 1
        ++ bad (decide (n = 0) && en && decide (p.get (Reg.COL_POOL_CFG.COUNT 0) < 24)) (Reg.COL_POOL_CFG.COUNT n) 8

/-- Determinism (R342, R343) and the plan table's length (R378). -/
def Dev.checkMode (d p : Dev) : List (Nat × Nat) :=
  bad (decide (p.bit Reg.MTC_DETERMINISM.STRICT ≠ d.bit Reg.MTC_DETERMINISM.STRICT) && p.bit Reg.COL_CTL.EN) Reg.MTC_DETERMINISM.STRICT 7
    ++ bad (p.bit Reg.MTC_DETERMINISM.STRICT && p.bit Reg.MTC_DETERMINISM.EARLY) Reg.MTC_DETERMINISM.STRICT 7
    ++ bad (decide (64 < p.get Reg.FLT_PLAN_COUNT)) Reg.FLT_PLAN_COUNT 1

/-- The lower of two offences: by offset, then by reason. -/
def lower (a b : Nat × Nat) : Nat × Nat := if b.1 < a.1 ∨ (b.1 = a.1 ∧ b.2 < a.2) then b else a

/-- The lowest offending offset with its reason, or none: the check passes. -/
def Dev.stgResult (d : Dev) : Option (Nat × Nat) :=
  let p := d.postCommit
  match d.checkMode p ++ p.checkLinks ++ p.checkBlock ++ d.checkPistes p ++ p.checkCol ++ d.checkTables p ++ p.checkRbt ++ p.checkGroups with
  | [] => none
  | e :: r => some (r.foldl lower e)

/-! ### Commands, R389 and R391 -/

/-- A command in a state in which R389 ignores it. -/
def Dev.stgSeq (d : Dev) : Dev := d.setBit Reg.STG_ERR.SEQ true

/-- A command of a requester, unless the plan loader holds STG or the requester cannot command it. -/
def Dev.stgBy (r : Requester) (f : Dev → Dev) (d : Dev) : Dev :=
  if d.pwr.held then d else if d.stgHeld r then d.setBit Reg.STG_ERR.BUSY true else f d

def Dev.stgCheck (d : Dev) : Dev :=
  if d.get Reg.STG_STATUS.STATE = stgOpen then d.set Reg.STG_STATUS.STATE stgChecking else d.stgSeq

/-- The target of R391: a rounded instant, or none for the next machine-time cycle, with whether it had passed. -/
def Dev.stgArm (d : Dev) : Dev :=
  if d.get Reg.STG_STATUS.STATE ≠ stgChecked ∨ 2 ≤ d.get Reg.PWR_STATUS.STATE then d.stgSeq
  else
    let t := d.get64 Reg.STG_COMMIT_AT_LO
    let past := decide (t ≠ 0) && decide (roundTarget t < d.mt)
    let d := d.set Reg.STG_STATUS.STATE stgArmed
    { d with stg := { d.stg with target := if t = 0 ∨ past then none else some (roundTarget t), late := past } }

def Dev.stgDisarm (d : Dev) : Dev :=
  if d.get Reg.STG_STATUS.STATE = stgArmed then
    Dev.set Reg.STG_STATUS.STATE stgChecked { d with stg := { d.stg with target := none, late := false } }
  else d.stgSeq

/-- The check ends: CHECKED, or the first offence is recorded and STG is OPEN. -/
def Dev.stgCheckEnd (d : Dev) : Dev :=
  match d.stgResult with
  | none => d.set Reg.STG_STATUS.STATE stgChecked
  | some (off, reason) =>
    let d := (((d.set Reg.STG_FAIL_OFF off).set Reg.STG_STATUS.REASON reason).setBit Reg.STG_ERR.FAIL true).set Reg.STG_STATUS.STATE stgOpen
    d.log { code := Flt.GEN_STG_REJECT, arg0 := off, arg1 := reason }

def execStgCheck (r : Requester) (s : State) : Out := s.does (Dev.stgBy r Dev.stgCheck)
def execStgArm (r : Requester) (s : State) : Out := s.does (Dev.stgBy r Dev.stgArm)
def execStgDisarm (r : Requester) (s : State) : Out := s.does (Dev.stgBy r Dev.stgDisarm)
def execStgDiscard (r : Requester) (s : State) : Out := s.does (Dev.stgBy r Dev.stgDiscard)

/-- The check has run; the plan loader arms a commit at P as soon as its own has passed (R361). -/
def Dev.stgChecked (d : Dev) : Dev :=
  if d.get Reg.STG_STATUS.STATE ≠ stgChecking then d
  else
    let d := d.stgCheckEnd
    if d.stg.hold && decide (d.get Reg.STG_STATUS.STATE = Machine.stgChecked) then d.stgArm else d

def execStgCheckDone (s : State) : Out := s.does Dev.stgChecked

/-! ### The commit, R392 -/

/-- The grid exponents of grid-sum entries at the start of a job: M comes from the plan or from the export record of a checkpoint (R72 item 5), and
nothing that the spec describes brings it to the read-only field, so it is a free value (log entry 1). -/
def Dev.gridStart (entries : List Nat) (d : Dev) : Dev :=
  entries.foldl (fun (d : Dev) i => let (v, d) := d.freeNat; d.set (Reg.GRN_RBS_FLAGS.GRIDE i) v) d

/-- Groups whose EN changed, R200. -/
def Dev.groupEdges (old : Dev) (d : Dev) : Dev :=
  (List.range 16).foldl (fun d k =>
    if d.bit (Reg.GRN_GRP_CTL.EN k) && !old.bit (Reg.GRN_GRP_CTL.EN k) then (d.setGrp k grpOpen).gridStart (d.gridEntries (2 ^ k))
    else if !d.bit (Reg.GRN_GRP_CTL.EN k) && old.bit (Reg.GRN_GRP_CTL.EN k) then d.setGrp k grpIdle
    else d) d

/-- Links: ADMIT lets a held link up (R265), PSTATE parks it or wakes it (R267). -/
def Dev.linkEdges (old : Dev) (d : Dev) : Dev :=
  (List.range 24).foldl (fun d l =>
    let d := d.admitLink l
    if d.get (Reg.LNK_CTL.PSTATE l) = old.get (Reg.LNK_CTL.PSTATE l) then d else d.pstateEdge l) d

/-- Pools whose place or size changed hold no buffer in use. -/
def Dev.poolEdges (old : Dev) (d : Dev) : Dev :=
  (List.range 16).foldl (fun d n =>
    if d.poolLo n = old.poolLo n ∧ d.poolHi n = old.poolHi n ∧ d.get (Reg.COL_POOL_CFG.COUNT n) = old.get (Reg.COL_POOL_CFG.COUNT n) then d
    else d.setPool n {}) d

/-- The collective script is enabled, with which a job starts or restarts, or disabled. -/
def Dev.colEdge (old : Dev) (d : Dev) : Dev :=
  if d.bit Reg.COL_CTL.EN && !old.bit Reg.COL_CTL.EN then d.colEnable.gridStart (d.gridEntries (2 ^ 16 - 1))
  else if !d.bit Reg.COL_CTL.EN && old.bit Reg.COL_CTL.EN then d.colDisable
  else d

/-- Every dirty field takes its shadow value, and what depends on the change happens. -/
def Dev.commitFields (d : Dev) : Dev :=
  let p : Dev := { d.postCommit with shadow := [] }
  Dev.colEdge d (Dev.poolEdges d (Dev.linkEdges d (Dev.groupEdges d p)))

/-- The whole commit: the trigger time, the fields, the count; STG is OPEN and the plan loader gives it back. -/
def Dev.commit (d : Dev) : Dev :=
  let late := d.stg.late
  let d := (d.set64 Reg.STG_DONE_MT_LO d.mt).commitFields
  let d := if late then d.flag Reg.STG_ERR.LATE Reg.STG_ERR.LATE_CNT else d
  let d := (d.set Reg.STG_COMMIT_CNT (d.get Reg.STG_COMMIT_CNT + 1)).set Reg.STG_STATUS.STATE stgOpen
  { d with stg := { d.stg with hold := false, target := none, late := false } }

/-- The trigger of an armed commit has come. The plan loader's commit is made by the round (R360). -/
def Dev.commitDue (d : Dev) : Bool :=
  !d.stg.hold && decide (d.get Reg.STG_STATUS.STATE = stgArmed) && (match d.stg.target with
    | none => true
    | some t => decide (t ≤ d.mt))

def execStgCommit (s : State) : Out := s.does fun d => if d.commitDue then d.commit else d

/-- The plan loader begins to stage an image, R394. -/
def Dev.loaderBegin (d : Dev) : Dev :=
  let cancels := decide (d.shadow ≠ []) || decide (d.get Reg.STG_STATUS.STATE = stgArmed)
  let d := d.stgDiscard
  let d := if cancels then d.setBit Reg.STG_ERR.PREEMPT true else d
  { d with stg := { d.stg with hold := true } }

end Sys2Proof.Machine
end

