-- ==== Sys2Proof/Machine/ControlBus.lean ====
section
/-! DEFINITION. Control space as requesters see it: reads with their side effects (R379, R381), the views whose value is held elsewhere
in the State, the capability list (R395, R396), and writes field by field (R464) with the expert gate (R385), live fields (R388), shadows,
flags (R382) and the registers that act. -/

namespace Sys2Proof.Machine

/-! ### Who reaches what -/

def requesterNo : Requester → Nat
  | .steward => 0
  | .planLoader => 1
  | .host => 2
  | .i2c => 3

/-- A word answers in the present ladder state, R424 and R445. -/
def Dev.reachable (d : Dev) (off : Nat) : Bool :=
  let st := d.get Reg.PWR_STATUS.STATE
  !d.pwr.held && (match blkOf off with
    | some (.core _) => decide (st ≤ 1)
    | some .fab | some .pst | some .col => decide (st ≤ 2)
    | some .gen | some .stg | some .pwr | some .flt | some .hst | some .mtr => true
    | _ => decide (st ≤ 3))

/-! ### Values -/

def seqNo : SeqState → Nat
  | .idle => 0
  | .run => 1
  | .wait => 2
  | .halted => 3
  | .quiescing => 4
  | .quiesced => 5
  | .fault => 6
  | .loadchk => 7

/-- CORE_SEQ_STATUS, R159. -/
def Core.statusWord (k : Core) : Nat :=
  seqNo k.seq + (if k.bank then 8 else 0) + (if k.cmd.isSome then 16 else 0) + (if k.ixq = [] then 0 else 32) + 256 * (k.pc % 4096)
    + 2 ^ 20 * k.progId k.bank

/-- CORE_VEC_STATUS, R126. -/
def Core.vecWord (k : Core) : Nat :=
  (if vecEmpty k then 0 else 1) + (if k.cu then 2 else 0) + 4 * (k.sb.length % 32) + 128 * (k.vl.val % 2048)

/-- The half of a 64-bit value that an offset within its pair names. -/
def half (v rel : Nat) : Nat := if rel % 8 < 4 then v % 2 ^ 32 else v / 2 ^ 32 % 2 ^ 32

/-- Registers of a core block whose value lives in the core: none where the register store holds the word. -/
def Core.special (k : Core) (rel : Nat) : Option Nat :=
  if rel = 0 then some k.statusWord
  else if 0x200 ≤ rel ∧ rel < 0x300 then some (half (k.s ((rel - 0x200) / 8)) rel)
  else if rel = 0x8000 then some k.vecWord
  else if 0x10000 ≤ rel ∧ rel < 0x20000 then some (half (k.imem (decide (0x18000 ≤ rel)) (rel % 0x8000 / 8)) rel)
  else none

/-- The bytes of a Gleaner record, R371. -/
def GlnRec.bytes (r : GlnRec) : List Byte :=
  leBytes 8 r.first ++ leBytes 8 r.last ++ leBytes 2 r.code ++ leBytes 2 r.count ++ leBytes 4 r.seq ++ leBytes 2 r.source
    ++ leBytes 2 r.rflags ++ leBytes 4 r.tag ++ leBytes 8 r.arg0 ++ leBytes 8 r.arg1 ++ leBytes 8 r.arg2 ++ leBytes 8 0

/-- A word of a record. -/
def GlnRec.word (r : GlnRec) (rel : Nat) : Nat := leNat ((r.bytes.drop rel).take 4)

/-- Links that run Twivin 2 now. -/
def Dev.twivin2 (d : Dev) : Nat :=
  ((List.range 24).map fun l => if d.linkCarries l && decide (d.get (Reg.LNK_STATUS.VER l) = 2) then 2 ^ l else 0).foldl (· + ·) 0

/-- MTR_STATUS.FRESH: the latest status frame came within the last 300 ms of machine time. -/
def Dev.fresh (d : Dev) : Nat := if d.bit Reg.MTR_STATUS.FRESH && decide (d.mt < d.mtrAt + 300000 * ticksPerUs) then 1 else 0

/-- The bodies of the capability entries by identifier, R396, R447 and R462. NO_SNOOP is in effect as NS_DATA asks: the model presumes
that the host leaves Enable No Snoop set. -/
def Dev.capBodies (d : Dev) (spares erased ports : Nat) : List (List Nat) :=
  let b (f : Fld) (n : Nat) : Nat := if d.bit f then n else 0
  let h := b Reg.HST_STATUS.LINK_UP 1 + 2 * d.get Reg.HST_STATUS.SPEED + 16 * d.get Reg.HST_STATUS.WIDTH
    + (if d.get Reg.HST_STATUS.SPEED = 6 then 512 else 0)
  let nports := ((List.range 32).filter fun p => ports.testBit p).length
  [ [0x0E40 + 2 ^ 16 * 0xB1, Config.serial % 2 ^ 32, Config.serial / 2 ^ 32 % 2 ^ 32, if Config.certified then 1 else 0],
    [64 + 2 ^ 7 * 8, d.img.spared, 1300 + 2 ^ 16 * 1500],
    [8 + 2 ^ 4 * 384, spares + 2 ^ 10 * erased],
    [ports, 8 * nports],
    [d.usedLinks, d.twivin2],
    [512 + 2 ^ 10 * 32 + 2 ^ 16 * 8, 2],
    [64 + 2 ^ 7 * 64 + 2 ^ 15 * 16],
    [16 + 2 ^ 5 * 256 + 2 ^ 14 * 0x3F],
    [128 + 2 ^ 8 * 65535],
    [h, 2047 + b Reg.HST_CTL.NS_DATA 2048],
    [b Reg.MTR_STATUS.PRESENT 1 + b Reg.MTR_STATUS.SEALED 2 + b Reg.MTR_STATUS.CERT 4 + b Reg.MTR_STATUS.TAMPER 8
      + 16 * d.fresh, d.get Reg.MTR_FWPFX],
    [d.img.schema + (if d.img.signed then 2 ^ 16 else 0) + (if d.img.verified then 2 ^ 17 else 0), d.img.crc],
    [131072 + 2 ^ 18 * 25] ]

/-- The entries from identifier `id` at `off` on, as words: padded to 16 bytes, the last with NEXT = 0. -/
def capWords (id off : Nat) : List (List Nat) → List Nat
  | [] => []
  | b :: r =>
    let size := ceilDiv (b.length + 2) 4 * 4
    ([id + 2 ^ 16 + 2 ^ 24 * b.length, if r = [] then 0 else off + 4 * size] ++ b ++ List.replicate (size - b.length - 2) 0)
      ++ capWords (id + 1) (off + 4 * size) r

/-- A word of the capability list, which HIDE builds (R408): 0 before. -/
def Dev.capWord (d : Dev) (off : Nat) : Nat :=
  match d.img.caps with
  | some (s, e, p) => (capWords 1 0x100 (d.capBodies s e p))[(off - 0x100) / 4]?.getD 0
  | none => 0

/-- The live value of a field, with those that are views of other parts of the State. -/
def Dev.fieldNow (d : Dev) (f : Fld) : Nat :=
  match blkOf f.off with
  | some .stg => if f = Reg.STG_STATUS.DIRTY then (if d.shadow = [] then 0 else 1) else d.get f
  | some .mtc => if f.off = Reg.MTC_TIME_LO.off then d.mt % 2 ^ 32 else if f.off = Reg.MTC_TIME_HI.off then d.mt / 2 ^ 32 % 2 ^ 32 else d.get f
  | some .flt => if f = Reg.FLT_STATUS.ROUND then d.hl.round % 256 else d.get f
  | some .fab => if f = Reg.FAB_NODE then d.node else d.get f
  | some .mtr =>
    if f = Reg.MTR_STATUS.FRESH then d.fresh else d.get f
  | some .col =>
    let n := (f.off - 0x00180900) / 16
    let m := (f.off - 0x00180100) / 32
    if 0x00180900 ≤ f.off ∧ f = Reg.COL_POOL_CFG.FREE n then d.poolFree n
    else if 0x00180900 ≤ f.off ∧ f = Reg.COL_POOL_ALLOC n then (d.freeBuf n).getD 0xFFFF
    else if f.off < 0x00180900 ∧ f = Reg.COL_COMM_CTL.SEQ m then mget 0 d.col.seqs m
    else d.get f
  | some (.grn k) =>
    if f = Reg.GRN_THR_STATUS.BUSY k then (if d.thrBusy then 1 else 0)
    else if f = Reg.GRN_THR_STATUS.ACCQ k then (d.accq.filter fun a => decide (a.place / 2 ^ 36 = k)).length
    else d.get f
  | _ => d.get f

/-- What a requester reads of a field: VIEW shows it the shadow of a staged one (R398), and its own VIEW; strobes read 0 but for QREQ. -/
def Dev.fieldSeen (d : Dev) (r : Requester) (x : FldAt) : Nat :=
  if x.fld = Reg.STG_CTL.VIEW then (if mget false d.stg.view (requesterNo r) then 1 else 0)
  else match x.acc with
    | .st => if mget false d.stg.view (requesterNo r) then d.shadowVal x.fld else d.get x.fld
    | .wo => 0
    | _ => d.fieldNow x.fld

/-- The fields of a word put together. -/
def Dev.fieldsWord (d : Dev) (r : Requester) (off : Nat) : Nat :=
  ((fieldsAt off).map fun x => (d.fieldSeen r x % 2 ^ x.fld.width) * 2 ^ x.fld.lo).foldl (· + ·) 0

/-- The word at an aligned offset, without a read's side effects; 0 where no register answers. -/
def Dev.peek (d : Dev) (r : Requester) (off : Nat) : Nat :=
  if !d.reachable off then 0
  else if 0x00400000 ≤ off ∧ off < 0x00440000 then (mget GlnRec.zero d.flt.ring (off % 0x40000 / 64)).word (off % 64)
  else match blkOf off with
    | some (.core c) => ((d.core c).special (off - (Blk.core c).base)).getD (d.fieldsWord r off)
    | some .gen => if 0x100 ≤ off ∧ off < 0x1000 then d.capWord off else d.fieldsWord r off
    | some .flt =>
      if 0x00040100 ≤ off ∧ off < 0x00040500 then ((d.flt.lrl[(off - 0x00040100) / 64]?).getD GlnRec.zero).word (off % 64)
      else d.fieldsWord r off
    | _ => d.fieldsWord r off

/-! ### Reads -/

/-- The _LO registers of a block, as offset, stride and count. -/
def Blk.loRows : Blk → List (Nat × Nat × Nat)
  | .stg => [(0x10, 8, 2)]
  | .mtc => [(4, 4, 1), (0x1C, 4, 1)]
  | .flt => [(0x10, 4, 1), (0x24, 4, 1)]
  | .hst => [(8, 8, 2)]
  | .mtr => [(8, 8, 3)]
  | .lnk _ => [(0x20, 8, 5)]
  | .fab => [(0x40, 8, 5)]
  | .pst => [(8, 16, 512)]
  | .col => [(8, 4, 1), (0x18, 8, 2), (0x30, 8, 5), (0x900, 16, 16)]
  | .grn _ => [(8, 4, 1), (0x108, 8, 2)]
  | .gdm _ => [(8, 4, 1)]
  | .tbl => [(0x3020, 64, 16), (0x3028, 64, 16), (0x3038, 64, 16), (0x3408, 8, 2)]
  | .core _ => [(0x10, 4, 1), (0x20, 4, 1), (0x38, 4, 1), (0x100, 8, 11), (0x200, 8, 32), (0x4010, 8, 2), (0xC010, 8, 2),
      (0xD000, 64, 128), (0xD01C, 64, 128)]
  | _ => []

/-- The offset is the _LO half of a pair. -/
def isLo (off : Nat) : Bool :=
  match blkOf off with
  | none => false
  | some b => b.loRows.any fun x =>
      let e := off - b.base - x.1
      decide (x.1 ≤ off - b.base) && decide (e % x.2.1 = 0) && decide (e / x.2.1 < x.2.2)

/-- The key of a requester's latch. -/
def latchKey (r : Requester) (off : Nat) : Nat := requesterNo r * 2 ^ 28 + off

/-- A read of a word by a requester: the value, and the state with a latch taken or given up, or a staging buffer allocated (R322). One that
does not cover a whole aligned word has neither (R379). -/
def Dev.ctlRead (r : Requester) (off be : Nat) (d : Dev) : Nat × Dev :=
  if d.pwr.held then (0, d)
  else if be ≠ 15 ∨ off % 4 ≠ 0 then (0, d.setBit Reg.GEN_ERR.ACCESS true)
  else if !d.reachable off then (0, d)
  else if isLo off then
    (d.peek r off, { d with latch := mset none d.latch (latchKey r (off + 4)) (some (d.peek r (off + 4))) })
  else match mget none d.latch (latchKey r off) with
    | some v => (v, { d with latch := mset none d.latch (latchKey r off) none })
    | none =>
      if 0x00180900 ≤ off ∧ off < 0x00180A00 ∧ off % 16 = 12 then d.poolAlloc ((off - 0x00180900) / 16)
      else (d.peek r off, d)

def execLoReadLatch (r : Requester) (off : BitVec 28) (be : BitVec 4) (s : State) : Out :=
  s.does fun d =>
    let (v, d) := d.ctlRead r off.toNat be.toNat
    d.emit (.regRead v)

/-! ### Flags that software clears -/

/-- Fields that a clear of a flag zeroes, R382; the first counts the flag's hardware sets. -/
def companions (f : Fld) : List Fld :=
  match blkOf f.off with
  | some .gen => if f = Reg.GEN_ERR.LIVE_WRITE_REJECT then [Reg.GEN_ERR.LWR_CNT] else if f = Reg.GEN_ERR.EXPERT_REJECT then [Reg.GEN_ERR.XR_CNT] else []
  | some .stg => if f = Reg.STG_ERR.LATE then [Reg.STG_ERR.LATE_CNT] else []
  | some .mtc => if f = Reg.MTC_ERR.PARENT then [Reg.MTC_ERR.PCHG_CNT] else []
  | some .pwr => if f = Reg.PWR_LADDER.REJ then [Reg.PWR_LADDER.REJ_CNT] else if f = Reg.PWR_ERR.THROTTLE then [Reg.PWR_ERR.THR_CNT]
      else if f = Reg.PWR_RST_STATUS.REJ then [Reg.PWR_RST_STATUS.REJ_CNT] else []
  | some .flt => if f = Reg.FLT_ERR.HB_LOST then [Reg.FLT_ERR.HB_CNT]
      else if f = Reg.FLT_ERR.LOST then [Reg.FLT_GLN_LOST.COUNT, Reg.FLT_GLN_LOST.CODE] else []
  | some .hst => if f = Reg.HST_ERR.CORR then [Reg.HST_ERR.CORR_CNT] else []
  | some (.lnk l) => if f = Reg.LNK_ERR.DOWN l then [Reg.LNK_ERR.DOWN_CNT l] else []
  | some .fab => [Reg.FAB_ERR.DROP_CNT]
  | some .col => if f = Reg.COL_ERR.LATE then [Reg.COL_ERR.LATE_CNT] else []
  | some (.grn k) => if f = Reg.GRN_ERR.CE k then [Reg.GRN_ERR.CE_CNT k] else if f = Reg.GRN_THR_ERR.RB_LATE k then [Reg.GRN_THR_ERR.LATE_CNT k]
      else []
  | some (.gdm p) => if f = Reg.GDM_ERR.CRC p then [Reg.GDM_ERR.CRC_CNT p] else if f = Reg.GDM_ERR.ODE_CE p then [Reg.GDM_ERR.ODE_CNT p] else []
  | some (.core c) =>
    if f = Reg.CORE_SEQ_ERR.IDX_OOB c then [Reg.CORE_SEQ_ERR.OOB_CNT c] else if f = Reg.CORE_SEQ_ERR.LATE c then [Reg.CORE_SEQ_ERR.LATE_CNT c]
    else if f = Reg.CORE_MXA_ERR.ACC_CE c then [Reg.CORE_MXA_ERR.CE_CNT c] else if f = Reg.CORE_VEC_ERR.RF_CE c then [Reg.CORE_VEC_ERR.CE_CNT c]
    else []
  | _ => []

/-- The companions after a clear; where hardware set the flag in the same cycle the count is 1, and what else goes with that event (the
code of a lost event) is a free value (log entry 1). -/
def clearCompanions (hw : Bool) : List Fld → Dev → Dev
  | [], d => d
  | n :: r, d =>
    let d := d.set n (if hw then 1 else 0)
    r.foldl (fun (d : Dev) g => if hw then (let (v, d) := d.freeNat; d.set g v) else d.set g 0) d

/-- A flag with an address pair (R190, R191): cleared, the pair shows the latest corrected error; set again in the same cycle, the address of that
error is a free value (log entry 1). -/
def Dev.errAddrBack (f : Fld) (d : Dev) : Dev :=
  let back (ue lo : Fld) (a : Nat) : Dev :=
    if f ≠ ue then d
    else if d.get f = 0 then d.set64 lo a
    else let (v, d) := d.freeNat; d.set64 lo v
  match blkOf f.off with
  | some (.grn k) => back (Reg.GRN_ERR.UE k) (Reg.GRN_ERRADDR_LO.ADDR k) (mget {} d.grn k).ceAddr
  | some (.gdm p) => back (Reg.GDM_ERR.UE p) (Reg.GDM_ERRADDR_LO.ADDR p) (mget 0 d.gdmCe p)
  | _ => d

/-- A write of ones to a W1C field; `hw`: the bits that hardware sets in the same cycle, which win (R9, R382); `again`: hardware sets in that
cycle one of the flags that share the field's companions and that the write clears. -/
def Dev.w1c (f : Fld) (mask hw : Nat) (again : Bool) (d : Dev) : Dev :=
  let v := d.get f
  (clearCompanions again (companions f) (d.set f ((v ^^^ (v &&& mask)) ||| (hw &&& mask)))).errAddrBack f

/-! ### Live fields, R387 -/

def Core.seqLive (k : Core) : Bool :=
  decide (k.seq = .run) || decide (k.seq = .wait) || decide (k.seq = .quiescing) || decide (k.seq = .loadchk)

/-- A link is neither DARK nor DOWN. -/
def Dev.linkLive (d : Dev) (l : Nat) : Bool := decide (d.lnkState l ≠ lDark) && decide (d.lnkState l ≠ lDown)

/-- An RL field at an offset is live. -/
def Dev.liveAt (d : Dev) (off : Nat) : Bool :=
  match blkOf off with
  | some .mtc => d.bit Reg.MTC_STATUS.SYNC
  | some .flt => decide (d.get Reg.FLT_STATUS.HL ≠ hlIdle)
  | some .hst => (List.range 64).any fun c => d.bit (Reg.CORE_DMA_STATUS.BUSY c)
  | some (.lnk l) => d.linkLive l
  | some .fab => (List.range 24).any d.linkLive
  | some .col => d.bit Reg.COL_STATUS.BUSY || d.entryPending
  | some .tbl => decide (d.grpState ((off - 0x00283000) / 64) ≠ grpIdle)
  | some (.core c) =>
    let rel := off - (Blk.core c).base
    if rel < 0xC000 then (d.core c).seqLive
    else if rel < 0xD000 then (List.range 128).any fun g => decide (d.ringState c g = ringRun)
    else decide (d.ringState c ((rel - 0xD000) / 64) = ringRun)
  | _ => false

/-! ### Writes -/

/-- What is written instead of a value that a register does not hold: 0 reads as 1 (R190, R243). -/
def Dev.clamped (f : Fld) (v : Nat) : Nat :=
  match blkOf f.off with
  | some (.grn k) => if f = Reg.GRN_SCRUB.HOURS k then max v 1 else v
  | some (.core c) =>
    if f = Reg.CORE_DMA_CHAIN_LIMIT.LIMIT c ∨ f = Reg.CORE_DMA_TIMEOUT.LOCAL_US c ∨ f = Reg.CORE_DMA_TIMEOUT.REMOTE_US c then max v 1 else v
  | _ => v

/-- A value lies in the range that the table of its RW or RL field states; the spec says of few fields what a write outside it does, and the model
ignores it for all of them (log entry 55). -/
def inRange (f : Fld) (v : Nat) : Bool :=
  let within (lo hi : Nat) : Bool := decide (lo ≤ v) && decide (v ≤ hi)
  match blkOf f.off with
  | some .flt =>
    if f = Reg.FLT_HL_CFG.WINDOW_US then within 100 2000
    else if f = Reg.FLT_HL_CFG.SETTLE_US then within 500 1500
    else if f = Reg.FLT_HB_CFG.LIMIT_US then within 250 1000
    else decide (f ≠ Reg.FLT_GLN_CFG.COAL_US) || within 0 10000
  | some .mtc => decide (f ≠ Reg.MTC_CFG.HOLD_LIMIT_US) || within 100 65535
  | some .hst =>
    if f = Reg.HST_HWIN_SIZE then within 0 1024
    else if f = Reg.HST_BAR2_BASE_LO then decide (v % 2 ^ 30 = 0)
    else if f = Reg.HST_BAR2_BASE_HI then within 0 0xFFFF
    else decide (f ≠ Reg.HST_HWIN_BUS_LO) || decide (v % 4096 = 0)
  | some (.lnk l) => if f = Reg.LNK_CFG.STALL_US l then within 10 65535 else decide (f ≠ Reg.LNK_CFG.PROGRESS_US l) || within 100 65535
  | some .fab => decide (f ≠ Reg.FAB_GEOM) || (List.range 4).all fun k => decide (1 ≤ v / 2 ^ (6 * k) % 64) && decide (v / 2 ^ (6 * k) % 64 ≤ 32)
  | some (.core c) =>
    let g := (f.off - (Blk.core c).base - 0xD000) / 64
    if f = Reg.CORE_SEQ_RESUME_ADDR.ADDR c then within 0 0xBFFF
    else if f = Reg.CORE_SEQ_TRACE_CTL.LOG2SIZE c then within 6 20
    else decide (f ≠ Reg.CORE_DMA_RING_CTL.SIZE_LOG2 c g) || within 4 16
  | _ => true

/-- Trace is enabled: its head, its drops and its sequence start again (R156). -/
def Dev.traceEnable (c : Nat) (d : Dev) : Dev :=
  ((d.modCore c fun k => { k with traceSeq := 0 }).set (Reg.CORE_SEQ_TRACE_HEAD.HEAD c) 0).set (Reg.CORE_SEQ_TRACE_DROP.COUNT c) 0

/-- A write to an RW or RL field of a core that takes effect. -/
def Dev.coreField (c : Nat) (f : Fld) (v : Nat) (d : Dev) : Dev :=
  let g := (f.off - (Blk.core c).base - 0xD000) / 64
  if f = Reg.CORE_SEQ_TRACE_CTL.EN c then (if v = 1 then (d.traceEnable c).set f v else d.set f v)
  else if f = Reg.CORE_DMA_RING_CTL.EN c g then (if v = 1 then d.ringEnable c g else d.ringDisable c g)
  else d.set f (Dev.clamped f v)

/-- A write to an RW or RL field that takes effect. -/
def Dev.fieldWrite (r : Requester) (f : Fld) (v : Nat) (d : Dev) : Dev :=
  if !inRange f v then d
  else match blkOf f.off with
  | some .stg =>
    if f = Reg.STG_CTL.VIEW then { d with stg := { d.stg with view := mset false d.stg.view (requesterNo r) (decide (v = 1)) } }
    else if d.get Reg.STG_STATUS.STATE = stgArmed then d.setBit Reg.STG_ERR.BUSY true
    else d.set f v
  | some .pwr => if f = Reg.PWR_LADDER.TARGET then d.ladderBy r v else d.set f v
  | some .flt =>
    if f = Reg.FLT_GLN_TAIL then (if v ≤ d.get Reg.FLT_GLN_HEAD then d.set f v else d)
    else if f = Reg.FLT_DRAIN.LIMIT then (d.set f v).drainUpdate
    else d.set f v
  | some (.core c) => d.coreField c f v
  | _ => d.set f (Dev.clamped f v)

/-- What became of the writes to a word's fields: an Expert one refused, a live one refused. -/
structure Refused where
  expert : Bool := false
  live : Bool := false
  deriving DecidableEq, Repr

/-- The value that a write counts against, R464. -/
def Dev.present (d : Dev) (r : Requester) (x : FldAt) : Nat := if x.acc = .st then d.shadowVal x.fld else d.fieldSeen r x

/-- The write to a field counts, R464. Strobes and FPFLAGS are handled word by word. -/
def Dev.counts (d : Dev) (r : Requester) (x : FldAt) (v : Nat) : Bool :=
  match x.acc with
  | .ro | .w1s | .wo => false
  | .w1c => decide (v ≠ 0)
  | _ => decide (v ≠ d.present r x)

/-- A write's value for one field of the word. `live`: RL fields of the word are live, sampled as the write came. -/
def Dev.writeField (r : Requester) (value hw : Nat) (live : Bool) (a : Refused × Dev) (x : FldAt) : Refused × Dev :=
  let v := value / 2 ^ x.fld.lo % 2 ^ x.fld.width
  let b := (blkOf x.fld.off).getD .gen
  if !a.2.counts r x v then a
  else if x.expert && !(a.2.get Reg.GEN_EXPERT).testBit (b.expertBit (x.fld.off - b.base)) then ({ a.1 with expert := true }, a.2)
  else match x.acc with
    | .st => (a.1, a.2.shadowWrite r x.fld v)
    | .w1c =>
      let h := hw / 2 ^ x.fld.lo % 2 ^ x.fld.width
      (a.1, a.2.w1c x.fld v h (if b = .fab then decide (hw &&& value &&& 15 ≠ 0) else decide (h &&& v ≠ 0)))
    | .rl => if live then ({ a.1 with live := true }, a.2) else (a.1, a.2.fieldWrite r x.fld v)
    | _ => (a.1, a.2.fieldWrite r x.fld v)

/-- GEN_ERR after the write, R385 and R388: each refusal of the word once. -/
def Dev.refusals (r : Requester) (off : Nat) (x : Refused) (d : Dev) : Dev :=
  let d := if x.expert then d.flag Reg.GEN_ERR.EXPERT_REJECT Reg.GEN_ERR.XR_CNT else d
  if x.live then
    let d := if d.bit Reg.GEN_ERR.LIVE_WRITE_REJECT then d else d.set Reg.GEN_LWR_ADDR off
    (d.flag Reg.GEN_ERR.LIVE_WRITE_REJECT Reg.GEN_ERR.LWR_CNT).log { code := Flt.GEN_LIVE_WRITE, source := requesterNo r, arg0 := off }
  else d

/-- The dump is given up, R377. -/
def Dev.dumpRelease (d : Dev) : Dev :=
  Dev.setBit Reg.FLT_DUMP.VALID false (Dev.setBit Reg.FLT_STATUS.DUMP false { d with flt := { d.flt with held := [], sideDump := [] } })

/-- FAB_CTRCLR zeroes the counters above it. -/
def Dev.fabCtrClear (d : Dev) : Dev :=
  let d := [Reg.FAB_FWD_LO, Reg.FAB_DELIV_LO, Reg.FAB_SELF_LO, Reg.FAB_PISTE_LO, Reg.FAB_DETOUR_LO].foldl (fun (d : Dev) f => d.set64 f 0) d
  [Reg.FAB_DROP_BLK, Reg.FAB_DROP_HDR, Reg.FAB_DROP_NEST, Reg.FAB_DROP_ROUTE].foldl (fun (d : Dev) f => d.set f 0) d

/-- STG_CTL's command bits: one command a write (R389). -/
def Dev.stgStrobe (r : Requester) (v : Nat) (d : Dev) : Dev :=
  match v % 16 with
  | 0 => d
  | 1 => d.stgBy r Dev.stgCheck
  | 2 => d.stgBy r Dev.stgArm
  | 4 => d.stgBy r Dev.stgDisarm
  | 8 => d.stgBy r Dev.stgDiscard
  | _ => d.stgBy r Dev.stgSeq

/-- A ring's control bits: ABORT goes before STOP, and RESTART is ignored with either. The bytes moved before an abort by register are a
free value (log entry 1). -/
def Dev.ringStrobe (c g v : Nat) (d : Dev) : Dev :=
  if v.testBit 2 then (let (n, d) := d.freeNat; if h : c < 64 then d.ringAbort ⟨c, h⟩ g n else d)
  else if v.testBit 1 then d.ringStop c g
  else if v.testBit 3 then d.ringRestart c g
  else d

/-- The strobes of a core block's word. -/
def Dev.coreStrobe (c rel v hw : Nat) (d : Dev) : Dev :=
  if rel = 4 then
    let d := if v.testBit 0 then d.startReq c else d
    let d := if v.testBit 1 then d.quiesceCore c else d
    if v.testBit 2 then d.resume c else d
  else if rel = 0x28 ∨ rel = 0x2C then d.eventSet c (decide (rel = 0x2C)) v
  else if rel = 0x40 then d.fpflagsClear c v hw
  else if rel = 0x180 then (if v.testBit 0 then d.idleClear c else d)
  else if rel = 0x4020 then (if v.testBit 0 then d.mxaClear c else d)
  else if rel = 0x8010 then (if v.testBit 0 then d.vecClear c else d)
  else if rel = 0xC024 then (if v.testBit 0 then d.dmaCtrClear c else d)
  else if 0xD000 ≤ rel ∧ rel < 0xF000 then
    let g := (rel - 0xD000) / 64
    if rel % 64 = 8 then d.ringStrobe c g v
    else if rel % 64 = 0xC ∧ v % 2 ^ 17 ≠ 0 then d.ringDoorbell c g (v % 2 ^ 17)
    else d
  else d

/-- The W1S and WO fields of a word. -/
def Dev.strobes (r : Requester) (off v hw : Nat) (d : Dev) : Dev :=
  match blkOf off with
  | some .stg => if off = Reg.STG_CTL.VIEW.off then d.stgStrobe r v else d
  | some .pwr =>
    if off = Reg.PWR_RST_REQ.GO.off ∧ v.testBit 31 ∧ r ≠ .planLoader then
      d.resetRequest (v % 8) (v / 2 ^ 8 % 64) (v.testBit 16)
    else d
  | some .flt => if off = Reg.FLT_DUMP.RELEASE.off ∧ v.testBit 3 then d.dumpRelease else d
  | some (.lnk l) => if off = (Reg.LNK_CTL.RETRAIN l).off ∧ v.testBit 6 then d.startTraining l else d
  | some .fab => if off = Reg.FAB_CTRCLR.CLEAR.off ∧ v.testBit 0 then d.fabCtrClear else d
  | some .col =>
    if off = Reg.COL_CTRCLR.CLEAR.off then (if v.testBit 0 then d.colCtrClear else d)
    else if 0x00180900 ≤ off ∧ off < 0x00180A00 ∧ off % 16 = 12 then d.poolFreeWrite ((off - 0x00180900) / 16) (v / 2 ^ 16)
    else d
  | some .tbl => if off = Reg.GRN_THR_CMD.OP.off then d.thrCommand (v / 16 % 4) (v % 16) else d
  | some (.core c) => d.coreStrobe c (off - (Blk.core c).base) v hw
  | _ => d

/-- Fields that a strobe handler of their word takes care of. -/
def byWord (off : Nat) : Bool :=
  match blkOf off with
  | some (.core c) => decide (off - (Blk.core c).base = 0x40)
  | _ => false

/-- A write reaches a word: its fields, then its strobes, then the refusals. -/
def Dev.wordWrite (r : Requester) (off value hw : Nat) (d : Dev) : Refused × Dev :=
  let live := d.liveAt off
  let (x, d) := if byWord off then (({}, d) : Refused × Dev) else (fieldsAt off).foldl (Dev.writeField r value hw live) ({}, d)
  (x, (d.strobes r off value hw).refusals r off x)

/-- A write of a word, and whether the expert gate or a live field refused a part of it. In a core block it wakes a module in G1 first (R423),
and an instruction memory window takes it as R128 says. -/
def Dev.ctlWrite (r : Requester) (off be value hw : Nat) (d : Dev) : Bool × Dev :=
  if d.pwr.held then (false, d)
  else if be ≠ 15 ∨ off % 4 ≠ 0 then (false, d.setBit Reg.GEN_ERR.ACCESS true)
  else match blkOf off with
    | some (.core c) =>
      match imemWindow (ctlBase + off) with
      | some (_, bank, o) => (false, d.coreWrite (Dev.imemWrite c bank (o / 8) (decide (o % 8 = 4)) value))
      | none =>
        let x := (d.wordWrite r off value hw).1
        (x.expert || x.live, d.coreWrite fun d => (d.wordWrite r off value hw).2)
    | _ =>
      if d.reachable off then
        let (x, d) := d.wordWrite r off value hw
        (x.expert || x.live, d)
      else (false, d)

def execControlWrite (r : Requester) (off : BitVec 28) (be : BitVec 4) (value hw : Word) (s : State) : Out :=
  s.does fun d => (d.ctlWrite r off.toNat be.toNat value.toNat hw.toNat).2

/-- A wake from G1, R423: the access that causes it takes effect in G0. A write outside the core blocks wakes only when the plan loader
makes it. -/
def execG1Wake (cause : WakeCause) (s : State) : Out :=
  s.does fun d =>
    if !d.gliding ∨ d.pwr.held ∨ d.flt.fatal.isSome then d
    else match cause with
      | .write r off v => (d.ctlWrite r off.toNat 15 v.toNat 0).2
      | .doorbell src c g v => d.doorbell src c g v.toNat
      | .loader off v => (d.wake.ctlWrite .planLoader off.toNat 15 v.toNat 0).2
      | .quiesce c => d.wake.quiesceCore c

end Sys2Proof.Machine
end

