-- ==== Sys2Proof/Machine/Headland.lean ====
section
/-! DEFINITION. The headland round from its decision on (R357 to R364), the margin monitors and the drain score (R367 to R369), the Gleaner's
writer (R370 to R373) and the fatal dump (R375 to R377). -/

namespace Sys2Proof.Machine

/-! ### The decision, R357 -/

/-- The sheaf between a node and its neighbour in a direction: the end from which the even direction leads, and that direction. -/
def Dev.sheafKey (d : Dev) (x dir : Nat) : Nat × Nat := (if dir % 2 = 0 then x else d.neighbour x dir, dir / 2 * 2)

/-- Directions in which a node has a block neighbour. -/
def Dev.blockDirs (d : Dev) (x : Nat) : List Nat :=
  (List.range 8).filter fun dir => decide (d.neighbour x dir ≠ x) && d.inBlock (d.neighbour x dir)

/-- The failed modules F. -/
def Dev.failedNodes (d : Dev) : List Nat :=
  let f := (d.hl.notices.filter fun n => decide (n.kind = 1)).map fun n => n.subject
  let cutOff (x : Nat) : Bool := (d.blockDirs x).all fun dir =>
    d.hl.notices.any fun n => decide (n.kind = 2) && decide ((n.subject, n.dir) = d.sheafKey x dir)
  f ++ (d.blockNodes.filter fun x => !f.contains x && cutOff x)

/-- A0 block position of a node. -/
def Dev.slab (d : Dev) (x : Nat) : Nat := d.blkPos 0 (d.nodeCoord x 0)

/-- The cut mask. -/
def Dev.cutMask (d : Dev) (f : List Nat) : Nat :=
  let sheaves := d.hl.notices.filter fun n => decide (n.kind = 2) && !f.contains n.subject && !f.contains (d.neighbour n.subject n.dir)
  (f.map d.slab ++ sheaves.map fun n => d.slab (if n.dir = 0 then d.neighbour n.subject 0 else n.subject)).foldl
    (fun m p => m ||| 2 ^ p) (d.get Reg.FLT_CUT)

/-- Bits set in a mask of 32. -/
def bitsSet (m : Nat) : Nat := ((List.range 32).filter fun i => m.testBit i).length

/-- An entry of the plan table: its address, its mask and its image's address, R361. -/
def Dev.planEntry (d : Dev) (n : Nat) : Nat := d.get64 Reg.FLT_PLAN_BASE_LO + 16 * n
def Dev.planMask (d : Dev) (n : Nat) : Nat := d.rdNat (d.planEntry n) 4
def Dev.planImage (d : Dev) (n : Nat) : Nat := d.rdNat (d.planEntry n + 8) 8

/-- The plan: of the entries whose mask holds the cut, the one with the fewest bits, then the lowest. -/
def Dev.planFor (d : Dev) (cut : Nat) : Option Nat :=
  if d.get Reg.FLT_PLAN_COUNT = 0 ∨ d.blkLen 0 = 1 then none
  else
    (List.range (d.get Reg.FLT_PLAN_COUNT)).foldl (fun best n =>
      if d.planMask n &&& cut ≠ cut then best
      else match best with
        | some b => if bitsSet (d.planMask n) < bitsSet (d.planMask b) then some n else best
        | none => some n) none

/-! ### The plan image, R361 -/

/-- Register writes of an image, as offset and value, and its programs, as core and address. -/
def Dev.imageWrites (d : Dev) (a : Nat) : List (Nat × Nat) :=
  (List.range (d.rdNat (a + 4) 4)).map fun i => (d.rdNat (a + 0x40 + 8 * i) 4, d.rdNat (a + 0x44 + 8 * i) 4)

def Dev.imageProgs (d : Dev) (a : Nat) : List (Nat × Nat) :=
  let b := a + 0x40 + 8 * d.rdNat (a + 4) 4
  (List.range (d.rdNat (a + 2) 2)).map fun i => (d.rdNat (b + 16 * i) 1, d.rdNat (b + 16 * i + 8) 8)

/-- Bytes after the header. -/
def Dev.imageBody (d : Dev) (a : Nat) : Nat := 8 * d.rdNat (a + 4) 4 + 16 * d.rdNat (a + 2) 2

/-- The checks on an image: it lies in Granary or GDDR that can be read; VERSION, MASK and CRC. -/
def Dev.imageGood (d : Dev) (n : Nat) : Bool :=
  let a := d.planImage n
  (isGranary a || isGddr a) && d.memRange a 64 && d.memRange (a + 64) (d.imageBody a) && (d.firstUe a (64 + d.imageBody a)).isNone
    && decide (d.rdNat a 2 = 1) && decide (d.rdNat (a + 8) 4 = d.planMask n)
    && decide ((crc32 (d.rdBytes (a + 64) (d.imageBody a))).toNat = d.rdNat (a + 0xC) 4)

/-- A write of the plan loader; one that is lost fails the image (R388). -/
def Dev.loaderWrite (d : Dev) (w : Nat × Nat) : Dev :=
  let (lost, d) := d.ctlWrite .planLoader w.1 15 w.2 0
  if lost then { d with hl := { d.hl with imageOk := false } } else d

/-- A core has acknowledged its quiesce, or had nothing to stop. -/
def Core.still (k : Core) : Bool :=
  decide (k.seq = .quiesced) || decide (k.seq = .idle) || decide (k.seq = .halted) || decide (k.seq = .fault)

/-- A write has to wait: its core has still to come to rest (log entry 31). -/
def Dev.writeWaits (d : Dev) (w : Nat × Nat) : Bool :=
  match blkOf w.1 with
  | some (.core c) => !(d.core c).still
  | _ => false

/-- The plan loader stages an image: its checks, its writes, COL_BASE, and the check of the staged state with the target P. -/
def Dev.stageImage (n : Nat) (d : Dev) : Dev :=
  let a := d.planImage n
  let d := d.loaderBegin
  if !d.imageGood n then d
  else
    let ws := d.imageWrites a
    let ps := d.imageProgs a
    let d : Dev := { d with hl := { d.hl with
      imageOk := true, progs := ps, writes := ws.filter d.writeWaits,
      clears := (List.range 16).filter fun g => d.bit (Reg.GRN_GRP_CTL.EN g) } }
    let p := d.hlP (d.hl.tmin.getD 0)
    let base := p + d.rdNat (a + 0x10) 8
    let d := (ws.filter fun w => !d.writeWaits w).foldl Dev.loaderWrite d
    let d := (d.loaderWrite (Reg.COL_BASE_LO.off, base % 2 ^ 32)).loaderWrite (Reg.COL_BASE_LO.off + 4, base / 2 ^ 32 % 2 ^ 32)
    (d.set64 Reg.STG_COMMIT_AT_LO p).stgCheck

/-! ### D, R358 -/

/-- Every ring in RUN is aborted; the bytes that each had moved are a free value (log entry 1). -/
def Dev.abortRings (d : Dev) : Dev :=
  (List.finRange 64).foldl (fun (d : Dev) (c : CoreId) =>
    (List.range 128).foldl (fun (d : Dev) g => if d.ringState c g = ringRun then (let (n, d) := d.freeNat; d.ringAbort c g n) else d) d) d

/-- Every mirrored group holds here, for the module whose buddy this one is, the state after a step (R213, R215). -/
def Dev.mirValid (d : Dev) (step : Nat) : Bool :=
  let q := d.nodeOf fun k => if k = 0 then (d.blkOrg 0 + (d.blkPos 0 (d.coord 0) + 1) % d.blkLen 0) % d.axisLen 0 else d.coord k
  (List.range 16).all fun g =>
    let a := d.get64 (Reg.GRN_GRP_MIR_LO g)
    !d.bit (Reg.GRN_GRP_CTL.MIR_EN g)
      || (decide (d.rdNat a 8 = step) && decide (d.rdNat (a + 8) 4 = 2) && decide (d.rdNat (a + 0xC) 4 = q + 2 ^ 14 * g))

/-- The module floods its CONFIRM, which it handles as if it had arrived. -/
def Dev.confirm (plan cut : Nat) (d : Dev) : Dev :=
  let step := d.col.decStep
  let flags := (if d.mirValid step then 1 else 0) + (if d.bit Reg.FLT_CTL.POLICY then 2 else 0)
  d.noticeIn none ⟨4, 0, flags, d.node, d.get Reg.FAB_BLOCK_ID, d.mt, d.hl.round, 0, plan, step, cut⟩

/-- What a module with a plan does at D, in order. -/
def Dev.actOn (f : List Nat) (cut plan : Nat) (d : Dev) : Dev :=
  let d := if d.gliding then d.wake else d
  let d : Dev := { d with hl := { d.hl with
    failed := f, cut := cut, plan := some plan, imageOk := false, progs := [], writes := [], clears := [] } }
  let d := d.set Reg.FLT_STATUS.HL hlConfirm
  let d := (List.range 64).foldl (fun d c => d.quiesceCore c) d.colStop
  let d := d.abortRings
  let d := if f.contains d.buddy then
      (List.range 16).foldl (fun (d : Dev) g => if (d.mirror g).isSome then d.mirAbandon g else d) d
    else d
  (d.confirm plan cut).stageImage plan

/-- The decision: the policy first, then the plan or its absence. -/
def Dev.decision (d : Dev) : Dev :=
  let f := d.failedNodes
  let cut := d.cutMask f
  if d.bit Reg.FLT_CTL.POLICY then d.enterStopped { code := Flt.FLT_HOST_DECIDES }
  else match d.planFor cut with
    | none => d.raise { code := Flt.HL_NO_PLAN }
    | some n => d.actOn f cut n

def execHlDecide (s : State) : Out :=
  s.does fun d =>
    match d.hl.tmin with
    | some t => if d.get Reg.FLT_STATUS.HL = hlSettle ∧ d.hlD t ≤ d.mt then d.decision else d
    | none => d

/-! ### Between D and P -/

/-- The program image of R129 at an address goes into the inactive bank, word by word. -/
def Dev.copyProgram (c a : Nat) (d : Dev) : Dev :=
  let n := d.rdNat a 4 / 4096 % 4096 + 1
  (List.range (2 * n)).foldl (fun (d : Dev) i =>
    d.coreWrite (Dev.imemWrite c (!(d.core c).bank) (i / 2) (decide (i % 2 = 1)) (d.rdNat (a + 4 * i) 4))) d

/-- The plan loader's CLEAR of the first group that owes one and is OPEN. -/
def Dev.loaderClear (d : Dev) : Dev :=
  if d.bit Reg.GRN_THR_CMDSTAT.BUSY then d
  else match d.hl.clears.find? fun g => decide (d.grpState g = grpOpen) with
    | some g => Dev.thrCommand 1 g { d with hl := { d.hl with clears := d.hl.clears.erase g } }
    | none => d

/-- The plan loader serves a core that has come to rest: the register writes that waited for it, then its program. -/
def Dev.loadCore (c : Nat) (d : Dev) : Dev :=
  if !(d.get Reg.FLT_STATUS.HL = hlConfirm ∧ (d.core c).still) then d
  else
    let mine (w : Nat × Nat) : Bool := decide (blkOf w.1 = some (.core c))
    let ws := d.hl.writes.filter mine
    let d : Dev := { d with hl := { d.hl with writes := d.hl.writes.filter fun w => !mine w } }
    let d := ws.foldl Dev.loaderWrite d
    (d.hl.progs.filter fun p => decide (p.1 = c)).foldl (fun (d : Dev) p => d.copyProgram c p.2) d

def execPlanProgramLoad (c : CoreId) (s : State) : Out :=
  s.does fun d => if d.pwr.held ∨ d.flt.fatal.isSome then d else (d.loadCore c).loaderClear

/-! ### P, R359 and R360 -/

/-- The CONFIRM of a node. -/
def Dev.confirmOf (d : Dev) (x : Nat) : Option Notice := d.hl.notices.find? fun n => decide (n.kind = 4) && decide (n.subject = x)

/-- Every block module outside F has confirmed this module's own plan, cut and step, under the headland policy. -/
def Dev.agreed (d : Dev) : Bool :=
  (d.blockNodes.filter fun x => !d.hl.failed.contains x).all fun x =>
    match d.confirmOf x with
    | some n => decide (some n.plan = d.hl.plan) && decide (n.cut = d.hl.cut)
        && decide (some n.step = (d.confirmOf d.node).map Notice.step) && decide (n.flags / 2 % 2 = 0)
    | none => false

/-- The buddy of a node. -/
def Dev.buddyOf (d : Dev) (x : Nat) : Nat :=
  d.nodeOf fun k => if k = 0 then (d.blkOrg 0 + (d.slab x + d.blkLen 0 - 1) % d.blkLen 0) % d.axisLen 0 else d.nodeCoord x k

/-- The buddy of every failed module lives and holds a valid mirror. -/
def Dev.mirrored (d : Dev) : Bool :=
  d.hl.failed.all fun x =>
    !d.hl.failed.contains (d.buddyOf x) && ((d.confirmOf (d.buddyOf x)).map fun n => decide (n.flags % 2 = 1)).getD false

/-- The next round opens with what was held for it, R363; a held STOP then takes part. -/
def Dev.nextRound (d : Dev) : Dev :=
  let p := d.hlP (d.hl.tmin.getD 0)
  let held := d.hl.held
  let ev := (held.filter Notice.evidence).map Notice.stamp
  let d : Dev := { d with hl := { d.hl with
    round := d.hl.round + 1, notices := held, held := [], tmin := none, floor := p, failed := [], plan := none, imageOk := false, writes := [] } }
  let d := d.set Reg.FLT_STATUS.HL hlIdle
  match held.find? fun n => decide (n.kind = 3), ev with
  | some n, _ => d.enterStopped { code := Flt.HL_STOP, arg0 := n.code, arg1 := n.subject }
  | none, [] => d
  | none, t :: r =>
    (d.setTmin (r.foldl min t)).set Reg.FLT_STATUS.HL hlCollect

/-- The commit of the plan. -/
def Dev.roundCommit (plan : Nat) (d : Dev) : Dev :=
  let mask := d.planMask plan
  let cut := d.hl.cut
  let cores := d.hl.progs.map Prod.fst
  let d := d.commit
  let d := cores.foldl (fun (d : Dev) c => if c < 64 then d.coreWrite (Dev.startReq c) else d) d
  let d := ((d.set Reg.FLT_CUT mask).set Reg.FLT_HL_LAST.PLAN plan).setBit Reg.FLT_ERR.CUT true
  ((d.log { code := Flt.HL_CUT, arg0 := plan, arg1 := cut }).fltMsix).nextRound

/-- P: the writes that still waited are made, and a check of the staged state that still ran has ended. -/
def Dev.atP (plan : Nat) (d : Dev) : Dev :=
  let ws := d.hl.writes
  let d := (ws.foldl Dev.loaderWrite { d with hl := { d.hl with writes := [] } }).stgChecked
  if !d.agreed then d.raise { code := Flt.HL_SPLIT }
  else if !d.mirrored then d.raise { code := Flt.HL_NO_MIRROR }
  else if !d.hl.imageOk || decide (d.get Reg.STG_STATUS.STATE ≠ stgArmed) then d.raise { code := Flt.HL_NO_PLAN }
  else d.roundCommit plan

def execHlCommit (s : State) : Out :=
  s.does fun d =>
    match d.hl.tmin, d.hl.plan with
    | some t, some n => if d.get Reg.FLT_STATUS.HL = hlConfirm ∧ d.hlP t ≤ d.mt then d.atP n else d
    | _, _ => d

/-! ### Margins, R367 to R369 -/

/-- A monitor compares its reading. Monitors 0 to 3 of timing are the cluster's own and 4 to 7 the die network's; the voltage has one a
cluster. `reading` tells nothing beyond `below`: the rule gives it no place in the record. -/
def execMarginMonitor (timing : Bool) (cluster monitor : Fin 8) (_reading : BitVec 16) (below : Bool) (s : State) : Out :=
  s.does fun d =>
    if !below ∨ d.pwr.held ∨ 3 ≤ d.get Reg.PWR_STATUS.STATE then d
    else if timing then
      let n := if monitor.val < 4 then 4 * cluster.val + monitor.val else 28 + monitor.val
      d.warnHourly n { code := Flt.FLT_TMARGIN, source := n }
    else d.warnHourly cluster.val { code := Flt.FLT_VMARGIN, source := cluster.val }

/-- An hour has passed: a new bucket, and those of the last 24 hours stay. -/
def execDrainBucketAge (s : State) : Out :=
  s.does fun d =>
    if d.pwr.held then d else Dev.drainUpdate { d with flt := { d.flt with buckets := 0 :: d.flt.buckets.take 23 } }

/-! ### The Gleaner's writer, R370 to R373 -/

/-- The ring has room for a record. -/
def Dev.glnRoom (d : Dev) : Bool := decide ((d.get Reg.FLT_GLN_HEAD + 2 ^ 32 - d.get Reg.FLT_GLN_TAIL) % 2 ^ 32 < 4096)

/-- A record goes to the ring. -/
def Dev.glnPut (r : GlnRec) (d : Dev) : Dev :=
  let h := d.get Reg.FLT_GLN_HEAD
  Dev.set Reg.FLT_GLN_HEAD (h + 1) { d with flt := { d.flt with ring := mset GlnRec.zero d.flt.ring (h % 4096) { r with seq := h } } }

/-- A record goes to the last-resort log while that has room, and is lost after. -/
def Dev.lrlPut (r : GlnRec) (d : Dev) : Dev :=
  let n := d.flt.lrl.length
  if n < 16 then
    { d with flt := { d.flt with lrl := d.flt.lrl ++ [{ r with seq := (d.flt.lrlBase + n) % 2 ^ 32, rflags := r.rflags ||| 2 }] } }
  else d.glnLost r.code

/-- Recording moves to the last-resort log; its first record is GLN_SRAM, whose weight the drain score takes. -/
def Dev.lrlMove (d : Dev) : Dev :=
  let d : Dev := { d with flt := { d.flt with lrlBase := d.get Reg.FLT_GLN_HEAD } }
  let d := (d.setBit Reg.FLT_STATUS.LRL true).lrlPut (({ code := Flt.GLN_SRAM } : Ev).record d.mt)
  (d.addWeight (drainWeight Flt.GLN_SRAM)).sideEvent 0

/-- One turn of the writer. `us`: microseconds since the first event of the oldest pending record; `sramOk`: the SRAM shows no uncorrectable error and
no write check fails (R373). -/
def Dev.glnTurn (us : Nat) (sramOk : Bool) (d : Dev) : Dev :=
  let lrl := d.bit Reg.FLT_STATUS.LRL
  if !lrl && !sramOk then d.lrlMove
  else if !lrl && d.flt.lostOwed && d.glnRoom then
    let e : Ev := { code := Flt.GLN_LOST, arg0 := d.get Reg.FLT_GLN_LOST.COUNT, arg1 := d.get Reg.FLT_GLN_LOST.CODE }
    Dev.glnPut (e.record d.mt) { d with flt := { d.flt with lostOwed := false } }
  else match d.flt.pend with
    | [] => d
    | r :: rs =>
      if us < d.get Reg.FLT_GLN_CFG.COAL_US ∧ d.flt.pend.length < 16 then d
      else
        let d : Dev := { d with flt := { d.flt with pend := rs } }
        if lrl then d.lrlPut r else if d.glnRoom then d.glnPut r else d.glnLost r.code

def execGleanerWrite (us : Nat) (sramOk : Bool) (s : State) : Out :=
  s.does fun d => if d.pwr.held then d else d.glnTurn us sramOk

/-! ### The fatal dump, R375 to R377 -/

/-- Offsets of the implemented registers of a span of control space, in ascending order; instruction memories are no registers. -/
def regOffsets (lo hi : Nat) : List Nat :=
  ((List.range ((hi - lo) / 4)).map fun i => lo + 4 * i).filter fun off =>
    match blkOf off with
    | some (.core c) =>
      let rel := off - (Blk.core c).base
      decide (rel < 0x10000) && ((Core.reset.special rel).isSome || !(fieldsAt off).isEmpty)
    | some .gen => (decide (0x100 ≤ off) && decide (off < 0x1F0)) || !(fieldsAt off).isEmpty
    | some .flt => (decide (0x00040100 ≤ off) && decide (off < 0x00040500)) || !(fieldsAt off).isEmpty
    | _ => !(fieldsAt off).isEmpty

/-- Registers of a span as pairs of offset and value. -/
def Dev.regPairs (d : Dev) (lo hi : Nat) : List Byte :=
  (regOffsets lo hi).flatMap fun off => leBytes 4 off ++ leBytes 4 (d.peek .steward off)

/-- Section 1: the ring's slots, then the FLT registers below +0x100. -/
def Dev.dumpRing (d : Dev) : List Byte :=
  ((List.range 4096).flatMap fun i => (mget GlnRec.zero d.flt.ring i).bytes) ++ d.regPairs 0x00040000 0x00040100

/-- Section 2: the last-resort records. -/
def Dev.dumpLrl (d : Dev) : List Byte := (List.range 16).flatMap fun i => ((d.flt.lrl[i]?).getD GlnRec.zero).bytes

/-- Section 3: every register, or those of GEN, PWR and FLT in a reduced dump. -/
def Dev.dumpRegs (d : Dev) (reduced : Bool) : List Byte :=
  if reduced then d.regPairs 0 0x00010000 ++ d.regPairs 0x00030000 0x00050000 else d.regPairs 0 0x02000000

/-- Sections 4 and 5. -/
def Dev.dumpClm (d : Dev) : List Byte := (List.range 64).flatMap fun c => d.bytes (clmPlace c 0) clmSize
def Dev.dumpCsm (d : Dev) : List Byte := (List.range 8).flatMap fun x => d.bytes (csmPlace x 0) (2 ^ 23)

/-- A word between two places reads as uncorrectable. -/
def Dev.badBetween (d : Dev) (lo hi : Nat) : Bool :=
  d.sramEcc.any fun q => decide (lo ≤ q.1 * 8) && decide (q.1 * 8 < hi) && decide (q.2 = 2)

/-- The sections with their identifiers and flags. Whether the Gleaner's SRAM reads as uncorrectable once recording has left it is a free
value (log entry 1). -/
def Dev.dumpSections (reduced : Bool) (d : Dev) : List (Nat × Nat × List Byte) × Dev :=
  let (u, d) := if d.bit Reg.FLT_STATUS.LRL then d.freeBit else (false, d)
  let fl (b : Bool) : Nat := if b then 5 else 1
  let base := [(1, fl u, d.dumpRing), (2, 1, d.dumpLrl), (3, 1, d.dumpRegs reduced)]
  (if reduced then base
   else base ++ [(4, fl (d.badBetween (clmPlace 0 0) (clmPlace 64 0)), d.dumpClm), (5, fl (d.badBetween (csmPlace 0 0) (csmPlace 8 0)), d.dumpCsm)], d)

/-- Section table entries and the bodies with their padding, from an offset of the dump on. -/
def dumpLayout : Nat → List (Nat × Nat × List Byte) → List Byte × List Byte
  | _, [] => ([], [])
  | off, (id, fl, bs) :: r =>
    let at_ := ceilDiv off 64 * 64
    let (t, b) := dumpLayout (at_ + bs.length) r
    (leBytes 2 id ++ leBytes 2 fl ++ leBytes 4 0 ++ leBytes 8 at_ ++ leBytes 8 bs.length ++ leBytes 4 (crc32 bs).toNat ++ leBytes 4 0 ++ t,
     List.replicate (at_ - off) 0#8 ++ bs ++ b)

/-- The bytes of a dump; `whr`: 0 GDDR, 1 Granary, 2 sideband. -/
def Dev.dumpBytes (whr : Nat) (d : Dev) : List Byte × Dev :=
  let (secs, d) := d.dumpSections (decide (whr = 2))
  let (table, body) := dumpLayout (64 + 32 * secs.length) secs
  let (code, mt) := d.flt.fatal.getD (0, 0)
  let head := leBytes 4 0x50445845 ++ leBytes 2 1 ++ leBytes 2 secs.length ++ leBytes 8 mt ++ leBytes 2 code ++ leBytes 1 whr ++ leBytes 1 0
    ++ leBytes 2 d.node ++ leBytes 2 (d.get Reg.FAB_BLOCK_ID) ++ List.replicate 36 0#8
  (head ++ leBytes 4 (crc32 (head ++ table)).toNat ++ table ++ body, d)

/-- Whole codewords that a range of addresses covers are good again. -/
def Dev.goodRange (a n : Nat) (d : Dev) : Dev :=
  (List.range (n / 64)).foldl (fun (d : Dev) i =>
    match d.place (a + 64 * i) with
    | some p => d.goodWrite p 64
    | none => d) d

/-- Granary regions that take a dump in the second place. -/
def dumpGranary : List Nat := [382, 383]

/-- The place of a dump: the first that succeeds. A memory that has no power (R431) or has not passed its test (R414) fails. -/
def Dev.dumpWhere (d : Dev) (gddrOk granaryOk : Bool) : Nat :=
  let tested := decide (d.stg.dump ≠ []) && !d.bit Reg.PWR_STATUS.TRIPPED
  if tested && gddrOk then 0
  else if tested && granaryOk && dumpGranary.all fun g => decide (d.grnSpans g ≠ []) then 1
  else 2

/-- The dump is written and held, and its end recorded. -/
def Dev.writeDump (whr : Nat) (d : Dev) : Dev :=
  let (bs, d) := d.dumpBytes whr
  let a := if whr = 0 then d.dumpBase else 382 * 2 ^ 30
  let spans := if whr = 0 then d.stg.dump.flatMap d.gdmSpans else if whr = 1 then dumpGranary.flatMap d.grnSpans else []
  let d := if whr = 2 then d else (d.goodRange a bs.length).wrBytes a bs
  let d : Dev := { d with flt := { d.flt with dumping := false, held := spans, sideDump := if whr = 2 then bs else [] } }
  let d := ((d.setBit Reg.FLT_DUMP.VALID true).set Reg.FLT_DUMP.WHERE whr).setBit Reg.FLT_STATUS.DUMP true
  (d.log { code := Flt.FLT_DUMP_DONE }).sideEvent 1

/-- The dump is written. After a rail failure the internal reset, which PWR_OK asks for, begins now (R42, R44; log entry 33). -/
def execFatalDumpDone (gddrOk granaryOk : Bool) (s : State) : Out :=
  s.does fun d =>
    if !(d.flt.dumping && !d.pwr.held && !d.pwr.romBad) then d
    else
      let d := d.writeDump (d.dumpWhere gddrOk granaryOk)
      if d.pwr.pwrOk then d else d.holdReset

def execDumpRelease (_r : Requester) (s : State) : Out := s.does fun d => if d.pwr.held then d else d.dumpRelease

end Sys2Proof.Machine
end

