-- ==== Sys2Proof/Machine/Bringup.lean ====
section
/-! DEFINITION. The configuration image (R400 to R407) and bring-up's phases (R408 to R414). -/

namespace Sys2Proof.Machine

/-! ### Phases -/

def phSteward : Nat := 0
def phImage : Nat := 1
def phSelftest : Nat := 2
def phMemtrain : Nat := 3
def phMemtest : Nat := 4
def phHide : Nat := 5
def phReady : Nat := 6
def phFailed : Nat := 7

/-- A phase goes on. -/
def Dev.inPhase (d : Dev) (p : Nat) : Bool :=
  decide (d.get Reg.PWR_BOOT_STATUS.PHASE = p) && !d.pwr.held && !d.pwr.romBad && (d.pwr.booted || decide (p = phSteward))

def Dev.toPhase (p : Nat) (d : Dev) : Dev := d.set Reg.PWR_BOOT_STATUS.PHASE p

/-- Bring-up fails, R414. The time it took is a free value (log entry 1): no command tells it. -/
def Dev.bringFail (e : Ev) (d : Dev) : Dev :=
  let p := d.get Reg.PWR_BOOT_STATUS.PHASE
  let (t, d) := d.freeNat
  let d := (((d.set Reg.PWR_BOOT_STATUS.FAIL_PHASE p).set Reg.PWR_BOOT_STATUS.FAIL_CODE e.code).set Reg.PWR_BOOT_TIME t).toPhase phFailed
  (d.raise e).sideEvent 4

/-! ### STEWARD -/

/-- Readings of a kind all lie below a threshold. -/
def Dev.below (d : Dev) (kind : SensorKind) (t : Nat) : Bool := decide (d.hottest kind < t)

/-- After a trip bring-up waits for cool readings (R431). -/
def Dev.cool (d : Dev) : Bool := !d.pwr.afterTrip || (d.below .junction 105 && d.below .granary 95 && d.below .gddr 90)

def execStewardBootDone (romOk : Bool) (s : State) : Out :=
  s.does fun d =>
    if !d.inPhase phSteward || d.pwr.booted || !d.cool then d
    else if romOk then (Dev.toPhase phImage { d with pwr := { d.pwr with booted := true, afterTrip := false } }).set
      Reg.PWR_INPUT.MV10 d.pwr.mv10
    else { d with pwr := { d.pwr with romBad := true } }

/-! ### The image, R401 and R402 -/

def slotSize : Nat := 2 ^ 24

/-- A byte of the flash; one that nothing has written reads as erased. -/
def Dev.flashByte (d : Dev) (a : Nat) : Byte := mget 0xFF#8 d.img.flash a

/-- The first bytes of a slot. What a slot that is being erased reads as is a free value (log entry 1). -/
def Dev.slotBytes (d : Dev) (slot n : Nat) : List Byte :=
  (List.range n).map fun i =>
    if d.img.erasing = some slot then Config.freeByte d.freeIdx (slotSize * slot + i) else d.flashByte (slotSize * slot + i)

/-- A section: its identifier, offset and length. -/
structure Sect where
  id : Nat
  off : Nat
  len : Nat
  deriving DecidableEq, Repr

def imgSects (b : List Byte) : List Sect :=
  (List.range (recField b 6 2)).map fun i => ⟨recField b (64 + 16 * i) 2, recField b (68 + 16 * i) 4, recField b (72 + 16 * i) 4⟩

/-- The bytes of a section, if the image has it. -/
def imgSect (b : List Byte) (id : Nat) : Option (List Byte) :=
  ((imgSects b).find? fun x => decide (x.id = id)).map fun x => (b.drop x.off).take x.len

/-- Entries of 8 bytes. -/
def entries8 (b : List Byte) : List (List Byte) := (List.range (b.length / 8)).map fun i => (b.drop (8 * i)).take 8

def imgDefects (b : List Byte) : List Defect :=
  (entries8 ((imgSect b 1).getD [])).map fun e => ⟨recField e 0 1, recField e 1 1, recField e 2 2, recField e 4 4⟩

def imgSettings (b : List Byte) : List (Nat × Nat) := (entries8 ((imgSect b 2).getD [])).map fun e => (recField e 0 4, recField e 4 4)

def imgExpert (b : List Byte) : Nat := ((imgSect b 3).map fun x => recField x 0 4).getD 0

/-- FAB_GEOM, FAB_COORD, used links and roots of the link plan. -/
def imgPlan (b : List Byte) : Nat × Nat × Nat × Nat :=
  let x := (imgSect b 4).getD []
  (recField x 0 4, recField x 4 4, recField x 8 4, recField x 12 4)

/-- The memory test word: quick with one port where the section is absent. -/
def imgTest (b : List Byte) : Nat := ((imgSect b 6).map fun x => recField x 0 4).getD 4

/-! ### The checks of R403, each true when it passes -/

/-- Reason 1. -/
def imgMagic (b : List Byte) : Bool := decide (recField b 0 4 = 0x4E584B57) && decide (recField b 4 2 = 1)

/-- Reason 2; `b`: the header. -/
def imgFits (b : List Byte) : Bool :=
  let n := recField b 6 2
  decide (1 ≤ n) && decide (n ≤ 16) && decide (recField b 8 4 ≤ slotSize) && decide (64 + 16 * n ≤ recField b 8 4)

/-- Reason 3. -/
def imgCrcOk (b : List Byte) : Bool := decide ((crc32 (b.take 0x3C ++ b.drop 0x40)).toNat = recField b 0x3C 4)

/-- Bytes of a content that a section of an identifier must have: none for lists and the patch. -/
def sectLen : Nat → Option Nat
  | 3 => some 4
  | 4 => some 16
  | 6 => some 4
  | 7 => some 128
  | _ => none

/-- A section has the form of R402 (log entry 32). -/
def sectForm (x : Sect) : Bool :=
  decide (x.off % 8 = 0) && ((sectLen x.id).map fun n => decide (x.len = n)).getD true
    && (decide (x.id ≠ 1 ∧ x.id ≠ 2) || decide (x.len % 8 = 0))

/-- Two sections share a byte. -/
def sectClash (x y : Sect) : Bool := decide (x.off < y.off + y.len) && decide (y.off < x.off + x.len)

/-- Reserved bytes of the header, the table and the sections are 0, and no field there holds a reserved value. -/
def imgReserved (b : List Byte) : Bool :=
  let zero (o n : Nat) : Bool := decide (recField b o n = 0)
  let t := imgTest b
  let (geom, coord, used, roots) := imgPlan b
  zero 0x18 36 && decide (recField b 0xC 4 < 2)
    && (List.range (recField b 6 2)).all (fun i => zero (66 + 16 * i) 2 && zero (76 + 16 * i) 4)
    && decide (imgExpert b < 2 ^ 16) && decide (t < 2 ^ 8) && decide (t % 4 ≠ 3) && decide (1 ≤ t / 4) && decide (t / 4 ≤ 32)
    && decide (geom < 2 ^ 24) && decide (coord < 2 ^ 20) && decide (used < 2 ^ 24) && decide (roots / 2 ^ 14 % 4 = 0) && decide (roots < 2 ^ 30)

/-- Reason 4. -/
def imgShape (b : List Byte) : Bool :=
  let ss := imgSects b
  let len := recField b 8 4
  ss.all (fun x => decide (x.off + x.len ≤ len) && sectForm x)
    && (List.range ss.length).all (fun i => (List.range ss.length).all fun j =>
      match ss[i]?, ss[j]? with
      | some x, some y => decide (i = j) || (decide (x.id ≠ y.id) && !sectClash x y)
      | _, _ => true)
    && imgReserved b && (imgSect b 4).isSome
    && (ss.filter fun x => decide (x.id = 7)).all fun x => decide (x.off + x.len = len) && ss.all fun y => decide (y.off ≤ x.off)

/-- The signature verifies under the key of the slot, R407. -/
def imgSigned (key b : List Byte) : Bool :=
  match (imgSects b).find? fun x => decide (x.id = 7) with
  | some x =>
    let sec := (b.drop x.off).take 128
    decide (sha256 (sec.take 64) = key) && ecdsaVerify (sec.take 64) (sec.drop 64) (sha256 (b.take x.off))
  | none => false

/-- Reason 5. -/
def Dev.imgKeyOk (d : Dev) (b : List Byte) : Bool :=
  match d.img.key with
  | none => true
  | some k => imgSigned k b

/-- A length or coordinate of axis `k` in a link plan. -/
def planLen (geom k : Nat) : Nat := geom / 2 ^ (6 * k) % 64
def planCoord (coord k : Nat) : Nat := coord / 2 ^ (5 * k) % 32

/-- Reason 6. -/
def imgPlanOk (b : List Byte) : Bool :=
  let (geom, coord, _, roots) := imgPlan b
  let prod := planLen geom 0 * planLen geom 1 * planLen geom 2 * planLen geom 3
  (List.range 4).all (fun k => decide (1 ≤ planLen geom k) && decide (planLen geom k ≤ 32) && decide (planCoord coord k < planLen geom k))
    && decide (prod ≤ 16384) && decide (roots % 2 ^ 14 < prod) && decide (roots / 2 ^ 16 % 2 ^ 14 < prod)

/-- The block of an offset takes settings, R405; the piste table is of FAB's function and the tables are of GRN's (R385). -/
def settable (off : Nat) : Bool :=
  match blkOf off with
  | some .gen | some .pwr | some .flt | some .mtc | some (.lnk _) | some .fab | some .pst | some .col | some (.grn _) | some (.gdm _)
  | some (.core _) => true
  | some .tbl => decide (0x00281000 ≤ off)
  | _ => false

/-- A settings entry is valid, R405. -/
def settingOk (expert : Nat) (e : Nat × Nat) : Bool :=
  let fs := (fieldsAt e.1).filter fun x => decide (x.acc = .rw) || decide (x.acc = .rl) || decide (x.acc = .st)
  let gate := match blkOf e.1 with
    | some b => expert.testBit (b.expertBit (e.1 - b.base))
    | none => false
  decide (e.1 % 4 = 0) && settable e.1 && !fs.isEmpty && (gate || fs.all fun x => !x.expert)

/-- A defect entry lies in the ranges of R404. -/
def Defect.ok (x : Defect) : Bool :=
  match x.typ with
  | 1 => decide (x.unit < 8) && decide (x.index < 9) && decide (x.detail = 0)
  | 2 => decide (x.unit = 0) && decide (x.index < 32) && decide (x.detail = 0)
  | 3 => decide (x.unit < 8) && decide (x.index < 32)
  | 4 => decide (x.unit < 8) && decide (x.index < 32) && decide (x.detail < 74)
  | 5 => decide (x.unit < 24) && decide (x.index < 9) && decide (x.detail = 0)
  | _ => false

/-- The defects fused at the factory. -/
def fusedDefects : List Defect := (Config.fused.map fun x => ⟨x.1, x.2.1, x.2.2.1, x.2.2.2⟩).filter Defect.ok

/-- Reason 9: where the patch is to be applied (log entry 32). -/
def Dev.imgPatchOk (d : Dev) (b : List Byte) : Bool :=
  match d.img.key, imgSect b 5 with
  | some _, some p => Config.patchFits p
  | _, _ => true

/-- The reason for which a slot is refused, the first that applies; 0: the slot passes. -/
def Dev.slotReason (d : Dev) (slot : Nat) : Nat :=
  let h := d.slotBytes slot 64
  if !imgMagic h then 1
  else if !imgFits h then 2
  else
    let b := d.slotBytes slot (recField h 8 4)
    if !imgCrcOk b then 3
    else if !imgShape b then 4
    else if !d.imgKeyOk b then 5
    else if !imgPlanOk b then 6
    else if !((imgSettings b).all (settingOk (imgExpert b))) then 7
    else if !((imgDefects b).all Defect.ok) then 8
    else if !d.imgPatchOk b then 9
    else 0

/-! ### IMAGE -/

/-- The settings of a phase, written by the steward in order: the first that is refused ends them with its offset. -/
def Dev.writeSettings : List (Nat × Nat) → Dev → Option Nat × Dev
  | [], d => (none, d)
  | e :: r, d =>
    match d.ctlWrite .steward e.1 15 e.2 0 with
    | (true, d) => (some e.1, d)
    | (false, d) => Dev.writeSettings r d

/-- Settings applied, with one staged commit that must pass its check (R405): the offset of a refusal. -/
def Dev.applySettings (es : List (Nat × Nat)) (d : Dev) : Option Nat × Dev :=
  match d.writeSettings es with
  | (some off, d) => (some off, d)
  | (none, d) =>
    if d.shadow = [] then (none, d)
    else match d.stgResult with
      | some (off, _) => (some off, (d.set Reg.STG_STATUS.STATE stgChecking).stgCheckEnd)
      | none => (none, d.commit)

/-- A setting goes to the LNK, MTC and FAB blocks, whose settings IMAGE applies. -/
def early (e : Nat × Nat) : Bool :=
  match blkOf e.1 with
  | some (.lnk _) | some .mtc | some .fab | some .pst => true
  | _ => false

/-- What the steward takes from an image. The expert enable of the MTR block is always 0 (R385). -/
def Dev.takeImage (b : List Byte) (d : Dev) : Dev :=
  let t := imgTest b
  let d : Dev := { d with img := { d.img with
    defects := fusedDefects ++ imgDefects b, settings := imgSettings b, plan := imgPlan b, expert := imgExpert b &&& 0xFFBF, mode := t % 4, minPorts := t / 4,
    schema := recField b 4 2, crc := recField b 0x3C 4, signed := (imgSect b 7).isSome,
    verified := d.img.key.isSome && (imgSect b 7).isSome } }
  (d.set Reg.GEN_EXPERT d.img.expert).takePlan

/-- A setting was refused, or its commit failed the check. -/
def Dev.settingBad (off : Nat) (d : Dev) : Dev := d.bringFail { code := Flt.GEN_IMG_BAD, arg0 := 7, arg1 := off }

/-- The steward reads slot A, and slot B where A fails; bytes of a slot under erasure are drawn once. -/
def Dev.imagePhase (d : Dev) : Dev :=
  let ra := d.slotReason 0
  let rb := d.slotReason 1
  if ra ≠ 0 ∧ rb ≠ 0 then Dev.bringFail { code := Flt.GEN_IMG_BAD, arg0 := ra, arg1 := rb } { d with freeIdx := d.freeIdx + 1 }
  else
    let slot := if ra = 0 then 0 else 1
    let b := d.slotBytes slot (recField (d.slotBytes slot 64) 8 4)
    let d : Dev := { d with freeIdx := d.freeIdx + 1 }
    let d := (d.set Reg.PWR_BOOT_STATUS.SLOT slot).setBit Reg.PWR_BOOT_STATUS.SLOT_A_BAD (decide (ra ≠ 0))
    let d := d.takeImage b
    match d.applySettings (d.img.settings.filter early) with
    | (some off, d) => d.settingBad off
    | (none, d) => d.timeStart.toPhase phSelftest

def execImagePhase (s : State) : Out := s.does fun d => if d.inPhase phImage then d.imagePhase else d

/-! ### SELFTEST -/

/-- Defects of a type, fused or added by the image. -/
def Dev.added (d : Dev) (t : Nat) : List Defect := d.img.defects.filter fun x => decide (x.typ = t)

/-- Physical cores that failed or count as failed: cluster and core. -/
def Dev.badCores (d : Dev) (found : List (Fin 8 × Fin 9)) : List (Nat × Nat) :=
  (found.map (fun p => (p.1.val, p.2.val)) ++ (d.added 1).map fun x => (x.unit, x.index)).eraseDups

/-- A mask of clusters. -/
def clusterMask (f : Nat → Bool) : Nat := ((List.range 8).map fun c => if f c then 2 ^ c else 0).foldl (· + ·) 0

/-- The end of self-test; which number names a core as the failing unit the rule leaves open: a free value (log entry 1). -/
def Dev.selftest (cores : List (Fin 8 × Fin 9)) (other : Option (BitVec 64)) (d : Dev) : Dev :=
  let bad := d.badCores cores
  let count (c : Nat) : Nat := (bad.filter fun p => decide (p.1 = c)).length
  let two := clusterMask fun c => decide (2 ≤ count c)
  match other with
  | some u => d.bringFail { code := Flt.GEN_SELFTEST, arg0 := u.toNat, arg1 := two }
  | none =>
    if two ≠ 0 then
      let (u, d) := d.freeNat
      d.bringFail { code := Flt.GEN_SELFTEST, arg0 := u % 2 ^ 64, arg1 := two }
    else
      let d : Dev := { d with img := { d.img with spared := clusterMask fun c => bad.any fun p => decide (p.1 = c) && decide (p.2 < 8) } }
      let d := (List.range 64).foldl (fun d c => Dev.clmZero c d) d
      ((List.range 8).foldl (fun d x => Dev.csmZero x d) d).toPhase phMemtrain

def execSelftestDone (cores : List (Fin 8 × Fin 9)) (otherUnit : Option (BitVec 64)) (s : State) : Out :=
  s.does fun d => if d.inPhase phSelftest then d.selftest cores otherUnit else d

/-! ### MEMTRAIN and MEMTEST -/

/-- Lanes that are fused out or that the image adds. -/
def Dev.addedLanes (d : Dev) : List LaneId :=
  (d.added 4).map fun x => ⟨Fin.ofNat 8 x.unit, Fin.ofNat 32 x.index, Fin.ofNat 74 x.detail⟩

/-- A stack fails: the format of ARG1 is not stated, so it is a free value (log entry 1). -/
def Dev.stackFails (k : Nat) (d : Dev) : Dev :=
  let (v, d) := d.freeNat
  d.bringFail { code := Flt.GEN_MEMTEST, arg0 := k, arg1 := v % 2 ^ 64 }

/-- Ports that remain, as a mask. -/
def Dev.portMask (d : Dev) : Nat :=
  ((List.range 32).map fun p => if d.get (Reg.GDM_STATUS.STATE p) = 1 then 0 else 2 ^ p).foldl (· + ·) 0

/-- Ports are mapped out. -/
def Dev.mapOut (ps : List Nat) (d : Dev) : Dev := ps.foldl (fun (d : Dev) p => d.set (Reg.GDM_STATUS.STATE p) 1) d

/-- Lanes and ports that failed are hidden; the first stack beyond its limits, or too few ports, end bring-up; else the rest goes on. -/
def Dev.hideMem (lanes : List LaneId) (ports : List Nat) (go : Dev → Dev) (d : Dev) : Dev :=
  match (List.range 8).find? fun k => (laneLimit (mget {} d.grn k) k lanes).isSome with
  | some k => d.stackFails k
  | none =>
    let d := (List.range 8).foldl (fun (d : Dev) k => (d.stackTrained k lanes).setBit (Reg.GRN_STATUS.READY k) false) d
    let d := d.mapOut ports
    if ((List.range 32).filter fun p => d.portMask.testBit p).length < d.img.minPorts then
      d.bringFail { code := Flt.GEN_MEMTEST, arg0 := d.portMask }
    else go d

def execMemtrainDone (lanes : List LaneId) (ports : List PortId) (s : State) : Out :=
  s.does fun d =>
    if !d.inPhase phMemtrain then d
    else
      let d := (List.range 32).foldl (fun (d : Dev) p => d.set (Reg.GDM_STATUS.STATE p) 0) d
      d.hideMem (lanes ++ d.addedLanes) (ports.map Fin.val ++ (d.added 2).map Defect.index) fun d => d.toPhase phMemtest

/-- Rows that failed or count as failed: stack, channel, bank and row. -/
def Dev.badRows (d : Dev) (found : List RowId) : List (Nat × Nat × Nat × Nat) :=
  (found.map (fun (r : RowId) => (r.stack.val, r.channel.val, r.bank.toNat, r.row.toNat))
    ++ (d.added 3).map fun (x : Defect) => (x.unit, x.index, x.detail % 256, x.detail / 256)).eraseDups

/-- A stack with a bank that has more failing rows than its 16 spares. -/
def rowLimit (rows : List (Nat × Nat × Nat × Nat)) : Option Nat :=
  (rows.find? fun r => decide (16 < (rows.filter fun q => decide (q.1 = r.1 ∧ q.2.1 = r.2.1 ∧ q.2.2.1 = r.2.2.1)).length)).map Prod.fst

/-- Words that on-die ECC corrected in the march pass and count (R410): how many is a free value (log entry 1). -/
def Dev.odeCounts (d : Dev) : Dev :=
  if d.img.mode = 2 then d
  else (List.range 32).foldl (fun (d : Dev) p =>
    if d.get (Reg.GDM_STATUS.STATE p) = 1 then d
    else
      let (n, d) := d.freeNat
      (d.setBit (Reg.GDM_ERR.ODE_CE p) (decide (n % 256 ≠ 0))).set (Reg.GDM_ERR.ODE_CNT p) n) d

/-- The memory test has passed: stacks ready, memory zero but for a held dump, and HIDE begins. -/
def Dev.memPassed (rows : List (Nat × Nat × Nat × Nat)) (d : Dev) : Dev :=
  let d := d.set Reg.PWR_BOOT_ROWS rows.length
  let d := (List.range 8).foldl (fun (d : Dev) k => d.setBit (Reg.GRN_STATUS.READY k) true) d.odeCounts
  (d.dramZero.setBit Reg.PWR_BOOT_STATUS.DUMP_KEPT (decide (d.flt.held ≠ []))).toPhase phHide

/-- What the memory test finds: train only finds nothing new (R410). -/
def Dev.finds {α : Type} (d : Dev) (xs : List α) : List α := if d.img.mode = 2 then [] else xs

def execMemtestDone (lanes : List LaneId) (rows : List RowId) (ports : List PortId) (s : State) : Out :=
  s.does fun d =>
    if !d.inPhase phMemtest then d
    else
      let d := d.set Reg.PWR_BOOT_STATUS.MODE d.img.mode
      let rs := d.badRows (d.finds rows)
      match rowLimit rs with
      | some k => d.stackFails k
      | none => d.hideMem (d.finds lanes) (d.finds (ports.map Fin.val)) (Dev.memPassed rs)

/-! ### HIDE -/

/-- Lanes of all stacks replaced by spares, and marked as erasures. -/
def Dev.laneTotals (d : Dev) : Nat × Nat :=
  (((List.range 8).map fun k => (mget {} d.grn k).spared.length).foldl (· + ·) 0,
   ((List.range 8).map fun k => (mget {} d.grn k).erased.length).foldl (· + ·) 0)

/-- Tables, the dump's regions, the remaining settings and the capability list. -/
def Dev.hide (bootMs : Nat) (d : Dev) : Dev :=
  let d := d.tables
  let d : Dev := { d with stg := { d.stg with dump := d.topRegions } }
  match d.applySettings (d.img.settings.filter fun e => !early e) with
  | (some off, d) => (d.settingBad off).set Reg.PWR_BOOT_TIME bootMs
  | (none, d) =>
    let (sp, er) := d.laneTotals
    let d : Dev := { d with img := { d.img with caps := some (sp, er, d.portMask) } }
    (d.set Reg.PWR_BOOT_TIME bootMs).toPhase phReady

def execHideDone (bootMs : BitVec 32) (s : State) : Out :=
  s.does fun d => if d.inPhase phHide then d.hide bootMs.toNat else d

end Sys2Proof.Machine
end

