-- ==== Sys2Proof/Machine/Meter.lean ====
section
/-! DEFINITION. The Mirez metering island (R452 to R462): samples and intervals, block tags, counters and their commits, signed readings
and the status frame. -/

namespace Sys2Proof.Machine

def Dev.modMeter (f : Meter → Meter) (d : Dev) : Dev := { d with meter := f d.meter }

/-! ### Measurement -/

/-- A sample: its voltage, and the energy that the integration adds; nothing below 0.05 A or 20 V (R452, R454). -/
def execMeterSample (mv ma : BitVec 32) (energyMj : Nat) (s : State) : Out :=
  s.does (Dev.modMeter fun m =>
    if !m.on then m
    else { m with cur := ⟨m.cur.mv + mv.toNat, m.cur.n + 1,
      m.cur.mj + (if ma.toNat < 50 ∨ mv.toNat < 20000 then 0 else energyMj)⟩ })

/-- Add to a counter of a table. -/
def addAt (k n : Nat) (m : SMap Nat) : SMap Nat := mset 0 m k (mget 0 m k + n)

/-- The running interval is attributed, R456: to the block of a tag received within the last 2 ms, or to E_UNTAG. -/
def Meter.attribute (m : Meter) : Meter :=
  let e := m.cur.mj
  let c := { m.now with eTotal := m.now.eTotal + e }
  let c := match m.tag with
    | some (b, age) => if age < 2 then { c with eBlk := addAt b e c.eBlk } else { c with eUntag := c.eUntag + e }
    | none => { c with eUntag := c.eUntag + e }
  { m with now := { c with wBlk := m.work.foldl (fun w t => addAt t.1 t.2 w) c.wBlk }, work := [],
           tag := m.tag.map fun t => (t.1, t.2 + 1), past := m.cur :: m.past.take 999, cur := ⟨0, 0, 0⟩ }

/-- A millisecond of the meter's clock ends. -/
def execMeterInterval (s : State) : Out :=
  s.does (Dev.modMeter fun m => let m := { m with ms := m.ms + 1 }; if m.on then m.attribute else m)

def execMeterCommit (s : State) : Out := s.does (Dev.modMeter fun m => if m.on then { m with nv := m.now } else m)

/-- The input falls below 20 V: the energy so far counts, PLOSS rises, and the counters are committed. -/
def Meter.powerLoss (m : Meter) : Meter :=
  if !m.on then m
  else
    let m := m.attribute
    let c := { m.now with ploss := min (m.now.ploss + 1) 65535 }
    { m with now := c, nv := c, on := false, past := [], tag := none }

/-- The input is above 20 V again: counting resumes from the committed values. -/
def Meter.powerOn (m : Meter) : Meter := if m.on then m else { m with on := true, now := m.nv }

def execMeterPowerLoss (s : State) : Out := s.does (Dev.modMeter Meter.powerLoss)

def execTamper (s : State) : Out := s.does (Dev.modMeter fun m => { m with tamper := true })

/-! ### Block tags, R455 and R456 -/

/-- The die sends tags in G0, G1 and G2, while it is powered and has not tripped. -/
def Dev.tagging (d : Dev) : Bool :=
  decide (d.get Reg.PWR_STATUS.STATE ≤ 2) && !d.bit Reg.PWR_STATUS.TRIPPED && !d.pwr.held && d.pwr.pwrOk

/-- The first 20 bytes of a tag. -/
def Dev.tagBody (d : Dev) : List Byte :=
  leBytes 2 (d.get Reg.FAB_BLOCK_ID) ++ leBytes 1 (d.get Reg.PWR_STATUS.STATE) ++ leBytes 1 d.tagSeq ++ leBytes 4 (d.work / 2 ^ 20)
    ++ leBytes 8 d.mt ++ leBytes 4 0

def Dev.tagSend (d : Dev) : Dev :=
  let b := d.tagBody
  let d := d.emit (.tag (b ++ leBytes 4 (crc32 b).toNat))
  { d with tagSeq := (d.tagSeq + 1) % 256, tagBlk := d.get Reg.FAB_BLOCK_ID, work := d.work % 2 ^ 20 }

def execTagSend (s : State) : Out := s.does fun d => if d.tagging then d.tagSend else d

/-- A tag is good: its length, its CRC and its reserved bits. -/
def tagGood (b : List Byte) : Bool :=
  decide (b.length = 24) && decide ((crc32 (b.take 20)).toNat = recField b 0x14 4) && decide (recField b 0 2 < 1024)
    && decide (recField b 0x10 4 = 0)

def execTagReceive (data : List Byte) (s : State) : Out :=
  s.does (Dev.modMeter fun m =>
    if !m.on then m
    else if tagGood data then
      { m with tag := some (recField data 0 2, 0), work := m.work ++ [(recField data 0 2, recField data 4 4)], lastMt := recField data 8 8 }
    else { m with now := { m.now with tagLost := min (m.now.tagLost + 1) (2 ^ 32 - 1) } })

/-! ### Readings, R457 and R458 -/

/-- MFLAGS. -/
def Meter.flags (m : Meter) : Nat := (if Config.certified then 3 else 0) + (if m.tamper then 4 else 0)

/-- Mean voltage and power over the last second; before a first interval has ended they are free values (log entry 1). -/
def Dev.meterMeans (d : Dev) : Nat × Nat × Dev :=
  let p := d.meter.past
  let n := (p.map MeterIv.n).foldl (· + ·) 0
  let (v, d) := if n = 0 then d.freeNat else ((p.map MeterIv.mv).foldl (· + ·) 0 / n, d)
  let (w, d) := if p = [] then d.freeNat else ((p.map MeterIv.mj).foldl (· + ·) 0 * 1000 / p.length, d)
  (v, w, d)

/-- The signed part of a reading. -/
def Meter.reading (m : Meter) (blk nonce mv mw : Nat) : List Byte :=
  leBytes 2 1 ++ leBytes 2 m.flags ++ leBytes 4 Config.meterFw ++ leBytes 8 Config.meterSerial ++ leBytes 8 m.rseq
    ++ leBytes 8 (Config.meterAge + m.ms / 1000) ++ leBytes 8 nonce ++ leBytes 2 blk ++ leBytes 2 m.now.ploss ++ leBytes 4 m.now.tagLost
    ++ leBytes 8 (mget 0 m.now.eBlk blk) ++ leBytes 8 (mget 0 m.now.wBlk blk) ++ leBytes 8 m.now.eTotal ++ leBytes 8 m.now.eUntag
    ++ leBytes 8 m.lastMt ++ leBytes 4 mv ++ leBytes 4 mw ++ List.replicate 32 0#8

/-- A response: the request's start and command bytes, the length of the data, the status, the data and the CRC over all of these. -/
def meterFrame (cmd status : Nat) (data : List Byte) : List Byte :=
  let b := leBytes 1 0x55 ++ leBytes 1 cmd ++ leBytes 1 data.length ++ leBytes 1 status ++ data
  b ++ leBytes 4 (crc32 b).toNat

/-- The meter answers a request, while it is powered. -/
def Dev.meterAnswer (cmd : Nat) (crcOk : Bool) (f : Dev → Option (List Byte) × Dev) (d : Dev) : Dev :=
  if !d.meter.on then d
  else if !crcOk then d.emit (.meter (meterFrame cmd 1 []))
  else match f d with
    | (some bs, d) => d.emit (.meter (meterFrame cmd 0 bs))
    | (none, d) => d.emit (.meter (meterFrame cmd 2 []))

def execMeterRead (crcOk : Bool) (blk : BitVec 16) (nonce : DWord) (s : State) : Out :=
  s.does (Dev.meterAnswer 1 crcOk fun d =>
    if 1023 < blk.toNat then (none, d)
    else
      let (v, w, d) := d.meterMeans
      let d := d.modMeter fun m => { m with rseq := m.rseq + 1 }
      let b := d.meter.reading blk.toNat nonce.toNat v w
      (some (b ++ (List.range 64).map (Config.meterSign b)), d))

def execMeterPubkey (crcOk : Bool) (s : State) : Out :=
  s.does (Dev.meterAnswer 2 crcOk fun d =>
    (some ((List.range 64).map Config.meterPub ++ (List.range 64).map fun i => if Config.certified then Config.meterAttest i else 0#8), d))

def execMeterInfo (crcOk : Bool) (s : State) : Out :=
  s.does (Dev.meterAnswer 3 crcOk fun d => (some (leBytes 8 Config.meterSerial ++ leBytes 4 Config.meterFw ++ leBytes 2 d.meter.flags), d))

/-! ### The mirror, R462 -/

def Dev.mtrMirror (d : Dev) : Dev :=
  let m := d.meter
  let (_, w, d) := d.meterMeans
  let d := (((d.setBit Reg.MTR_STATUS.PRESENT true).setBit Reg.MTR_STATUS.SEALED Config.certified).setBit Reg.MTR_STATUS.CERT
    Config.certified).setBit Reg.MTR_STATUS.TAMPER m.tamper
  let d := ((d.setBit Reg.MTR_STATUS.FRESH true).set Reg.MTR_FWPFX Config.meterFw).set64 Reg.MTR_E_TOTAL_LO m.now.eTotal
  let d := (d.set64 Reg.MTR_E_BLK_LO (mget 0 m.now.eBlk d.tagBlk)).set64 Reg.MTR_E_UNTAG_LO m.now.eUntag
  let d := (d.set Reg.MTR_POWER w).set Reg.MTR_TAGLOST m.now.tagLost
  { d with mtrAt := d.mt }

def execMeterStatusFrame (s : State) : Out := s.does fun d => if d.meter.on && !d.pwr.held then d.mtrMirror else d

end Sys2Proof.Machine
end

