-- ==== Sys2Proof/Machine/Power.lean ====
section
/-! DEFINITION. Connectors, the input's protection, PWR_OK and RESET_N (R26 to R44). -/

namespace Sys2Proof.Machine

/-! ### Pins -/

/-- ALERT_N is driven low, R374, R432 and R450. -/
def Dev.alert (d : Dev) : Bool :=
  d.bit Reg.FLT_STATUS.LRL || d.bit Reg.FLT_STATUS.DRAIN || d.bit Reg.FLT_STATUS.DUMP || d.bit Reg.PWR_STATUS.TRIPPED || d.flt.alertThrottle
    || decide (d.flt.events ≠ 0)

/-! ### Power down and reset -/

/-- The power stages stop, R40: PWR_OK falls, every memory and a held dump are lost (R44). -/
def Dev.powerDown (d : Dev) : Dev :=
  let d := (d.setBit Reg.FLT_DUMP.VALID false).holdReset
  let d : Dev := { d with mem := [], sramEcc := [], grnBad := [] }
  d.modPwr fun w => { w with stages := false, pwrOk := false, afterTrip := false, sensors := [], inputLow := false, lowOwed := false }

/-- The low-input warning that an entry owes is given, as soon as the module is out of reset (R40; log entry 17). -/
def Dev.lowWarn (d : Dev) : Dev :=
  if d.pwr.lowOwed && !d.pwr.held then (d.modPwr fun w => { w with lowOwed := false }).raise { code := Flt.PWR_INPUT_LOW } else d

/-- The input voltage is told: inside the band below 48 V or not, with the warning that each entry owes. -/
def Dev.inputLevel (low : Bool) (mv10 : Nat) (d : Dev) : Dev :=
  let d := d.modPwr fun w => { w with mv10 := mv10, inputLow := low, lowOwed := low && (w.lowOwed || !w.inputLow) }
  if d.pwr.held then d else (d.set Reg.PWR_INPUT.MV10 mv10).lowWarn

/-- The internal reset ends: the STEWARD phase begins. -/
def Dev.releaseReset (d : Dev) : Dev :=
  if d.pwr.held && d.pwr.pwrOk && d.pwr.resetN then (d.modPwr fun w => { w with held := false }).lowWarn else d

/-- The input appears: the meter counts from 20 V on, a fuse that had opened conducts again, and the stages start above the rising threshold, which
lies between 44.5 V and 45.5 V (log entry 1). An input that runs the module below 48 V is an entry into the band of R40. -/
def Dev.inputOn (mv10 : Nat) (d : Dev) : Dev :=
  let d := (d.modMeter (if 2000 ≤ mv10 then Meter.powerOn else Meter.powerLoss)).modPwr fun w => { w with fuse := false, mv10 := mv10 }
  let d := if d.pwr.stages then d
    else
      let (b, d) := if mv10 < 4450 then (false, d) else if 4550 < mv10 then (true, d) else d.freeBit
      d.modPwr fun w => { w with stages := b, overV := false }
  if d.pwr.stages then d.inputLevel (decide (mv10 < 4800)) mv10 else d

/-! ### Insertion and removal -/

/-- GA3 to GA0 are latched later, as PWR_OK rises. -/
def execModuleInsertion (_ga : BitVec 4) (mv10 : BitVec 16) (s : State) : Out :=
  s.does fun d => if d.pwr.seated then d else (d.modPwr fun w => { w with seated := true }).inputOn mv10.toNat

/-- With the connectors parted the pull-downs of R35 hold RESET_N and TRST_N low. -/
def execModuleRemoval (inputMa : Nat) (s : State) : Out :=
  if 1000 < inputMa then .fault .brokenUnderLoad
  else s.does fun d => (d.modMeter Meter.powerLoss).powerDown.modPwr fun w => { w with seated := false, resetN := false, trstN := false }

def execPowerApplied (mv10 : BitVec 16) (s : State) : Out :=
  s.does fun d => if d.pwr.seated then d.inputOn mv10.toNat else d

/-! ### The input's protection, R40 -/

def execUndervoltageFall (s : State) : Out := s.does fun d => d.powerDown.modPwr fun w => { w with overV := false }

/-- The stages start; an input that was last told below 48 V is then in the band of R40. -/
def execUndervoltageRise (s : State) : Out :=
  s.does fun d =>
    if d.pwr.seated && !d.pwr.fuse && !d.pwr.overV && !d.pwr.stages then
      (d.modPwr fun w => { w with stages := true }).inputLevel (decide (d.pwr.mv10 < 4800)) d.pwr.mv10
    else d

def execOvervoltage (s : State) : Out := s.does fun d => d.powerDown.modPwr fun w => { w with overV := true }

def execOvercurrent (s : State) : Out := s.does fun d => d.powerDown.modPwr fun w => { w with fuse := true }

/-- One warning for each entry, whatever the hour (R40, R367). -/
def execInputLowEntry (mv10 : BitVec 16) (s : State) : Out :=
  s.does fun d => if d.pwr.stages then d.inputLevel true mv10.toNat else d

def execInputLowExit (mv10 : BitVec 16) (s : State) : Out := s.does (Dev.inputLevel false mv10.toNat)

/-! ### Rails, PWR_OK and RESET_N -/

/-- PWR_OK rises. Where a dump after a rail failure is still being written, the reset that goes with PWR_OK begins now (log entry 33). -/
def execRailsInRegulation (ga : BitVec 4) (s : State) : Out :=
  s.does fun d =>
    if d.pwr.stages && !d.pwr.pwrOk then
      (if d.pwr.held then d else d.holdReset).modPwr fun w => { w with pwrOk := true, ga := ga.toNat }
    else d

/-- A rail leaves regulation, R44: while the steward's rail holds, the fault is module-fatal and the steward writes the dump, with whose end the
internal reset begins (R42; log entry 33). Where the steward's rail fails with it, the spec says of the memories and of a held dump nothing: DESIGN
CHOICE, the module is reset and keeps both, since the input is not lost (log entry 33). -/
def execRailFault (stewardHolds : Bool) (s : State) : Out :=
  s.does fun d =>
    if !d.pwr.stages then d
    else
      let d := d.modPwr fun w => { w with pwrOk := false }
      if d.pwr.held then d
      else
        let d := if stewardHolds then d.raise { code := Flt.PWR_RAIL } else d
        if stewardHolds && d.flt.dumping && !d.pwr.romBad then d else d.holdReset

/-- A low level of 10 µs resets, one below 1 µs does not, and one between may or may not (R43). -/
def execResetNAssert (heldNs : Nat) (s : State) : Out :=
  s.does fun d =>
    let (acts, d) := if heldNs < 1000 then (false, d) else if 10000 ≤ heldNs then (true, d) else d.freeBit
    if acts then d.holdReset.modPwr fun w => { w with resetN := false } else d

/-- RESET_N rises. With PWR_OK high the reset then ends as soon as the 1 ms of R42 is over, which this command takes in. -/
def execResetNRelease (s : State) : Out :=
  s.does fun d => if d.pwr.seated then (d.modPwr fun w => { w with resetN := true }).releaseReset else d

def execInternalResetRelease (s : State) : Out := s.does Dev.releaseReset

end Sys2Proof.Machine
end

