-- ==== Sys2Proof/Machine/HostIf.lean ====
section
/-! DEFINITION. The host interface (R434 to R447), the I2C command set (R448 to R450) and the test port (R451). -/

namespace Sys2Proof.Machine

def Dev.modHost (f : HostIf → HostIf) (d : Dev) : Dev := { d with host := f d.host }

/-! ### PCIe -/

/-- The host interface is reset, R436: configuration space, MSI-X table and HST registers. -/
def Dev.hostReset (d : Dev) : Dev :=
  let d := d.modHost fun h => { perstLow := h.perstLow }
  (d.clearRegs Blk.hst.base (Blk.hst.base + 0x10000)).setBit Reg.HST_STATUS.PERST d.host.perstLow

/-- The link's status as HST_STATUS shows it. -/
def Dev.linkStatus (up : Bool) (speed width : Nat) (d : Dev) : Dev :=
  ((d.setBit Reg.HST_STATUS.LINK_UP up).set Reg.HST_STATUS.SPEED speed).set Reg.HST_STATUS.WIDTH width

def execPerstAssert (s : State) : Out :=
  s.does fun d =>
    let d := d.modHost fun h => { h with perstLow := true }
    if d.pwr.held then d else d.hostReset

def execPerstRelease (s : State) : Out :=
  s.does fun d => (d.modHost fun h => { h with perstLow := false }).setBit Reg.HST_STATUS.PERST false

/-- A Function Level Reset leaves the link as it is. -/
def execFunctionLevelReset (s : State) : Out :=
  s.does fun d =>
    if d.bit Reg.HST_STATUS.LINK_UP then
      let sp := d.get Reg.HST_STATUS.SPEED
      let w := d.get Reg.HST_STATUS.WIDTH
      d.hostReset.linkStatus true sp w
    else d

/-- The steward has brought PCIe up, and it answers. -/
def Dev.pcieOn (d : Dev) : Bool := d.pwr.booted && !d.pwr.held && !d.pwr.romBad && !d.host.perstLow && decide (d.get Reg.PWR_STATUS.STATE ≠ 4)

/-- The link trains, R435; one warning for each training. -/
def execPcieLinkTrained (width : BitVec 5) (speed : BitVec 3) (s : State) : Out :=
  s.does fun d =>
    let w := width.toNat
    let v := speed.toNat
    if !d.pcieOn ∨ w = 0 ∨ 16 < w ∨ v = 0 ∨ 6 < v then d
    else
      let d := d.linkStatus true v w
      if w < 16 ∨ v < 6 then ((d.setBit Reg.HST_ERR.WIDTH true).raise { code := Flt.HST_WIDTH, arg0 := w, arg1 := v }).hstMsix else d

/-- The module is in G4 or on its way there. -/
def Dev.stowing (d : Dev) : Bool :=
  decide (d.get Reg.PWR_STATUS.STATE = 4) || (d.bit Reg.PWR_STATUS.MOVING && decide (d.pwr.moveTo = 4))

/-- The link leaves L0. -/
def execHstLinkDown (s : State) : Out :=
  s.does fun d =>
    if !d.bit Reg.HST_STATUS.LINK_UP then d
    else
      let d := d.linkStatus false 0 0
      if d.host.perstLow ∨ d.stowing then d
      else (((d.setBit Reg.HST_ERR.LINK_DOWN true).raise { code := Flt.HST_LINK_DOWN }).sideEvent 5).hstMsix

def execHstCorr (s : State) : Out :=
  s.does fun d =>
    if d.bit Reg.HST_STATUS.LINK_UP then
      ((d.flag Reg.HST_ERR.CORR Reg.HST_ERR.CORR_CNT).raise { code := Flt.HST_CORR }).hstMsix
    else d

/-! ### BAR2, R438 and R445 -/

/-- An access that is turned away without a fault. -/
def Dev.hostAborted (how : Access) (d : Dev) : Dev :=
  match how with
  | .read _ => d.emit .hostAbort
  | .write _ => d

/-- A local address in the host window or in control space, which the host does not reach through BAR2, is unbacked. -/
def Dev.bar2Serve (off : Nat) (how : Access) (o : EccOutcome) (d : Dev) : Dev :=
  let a := d.get64 Reg.HST_BAR2_BASE_LO + off
  if d.memOn then Dev.hostReply .host how (d.eccAccess .host a how o) else d.hostAborted how

def execBar2Access (off : BitVec 36) (how : Access) (outcome : EccOutcome) (s : State) : Out :=
  s.does fun d =>
    if !d.bit Reg.HST_STATUS.LINK_UP ∨ d.pwr.held then d
    else if 2 ≤ d.get Reg.PWR_STATUS.STATE then d.hostAborted how
    else (if d.gliding then d.wake else d).bar2Serve off.toNat how outcome

/-! ### MSI-X and power management -/

/-- A pending message of an unmasked vector is sent. -/
def Dev.msixFlush (v : Nat) (d : Dev) : Dev :=
  if mget false d.host.msixPend v && mget false d.host.unmasked v && !d.host.d3hot && d.bit Reg.HST_STATUS.LINK_UP then
    (d.modHost fun h => { h with msixPend := mset false h.msixPend v false }).emit (.msix v)
  else d

def execMsixUnmask (v : BitVec 11) (s : State) : Out :=
  s.does fun d =>
    if d.bit Reg.HST_STATUS.LINK_UP then
      (d.modHost fun h => { h with unmasked := mset false h.unmasked v.toNat true }).msixFlush v.toNat
    else d

/-- D3hot stops the function from starting requests; messages kept meanwhile leave with its end (log entry 4). -/
def execD3hotTransition (toD3 : Bool) (s : State) : Out :=
  s.does fun d =>
    if !d.bit Reg.HST_STATUS.LINK_UP then d
    else
      let d := d.modHost fun h => { h with d3hot := toD3 }
      (d.host.msixPend.map Prod.fst).foldl (fun d v => Dev.msixFlush v d) d

/-! ### I2C, R448 and R449 -/

/-- The module answers on I2C. -/
def Dev.i2cOn (d : Dev) : Bool := d.pwr.booted && !d.pwr.held && !d.pwr.romBad

/-- A command to the address 0x60 + GA (R37) runs and answers with its status and data, or with 4 where its request had a PEC error; one to another
address is not answered. -/
def Dev.i2cRun (addr : Nat) (pecOk : Bool) (f : Dev → Nat × List Byte × Dev) (d : Dev) : Dev :=
  if !d.i2cOn ∨ addr ≠ 0x60 + d.pwr.ga then d
  else if !pecOk then d.emit (.i2c [4#8])
  else
    let (st, bs, d) := f d
    d.emit (.i2c (BitVec.ofNat 8 st :: bs))

/-- A word as a response carries it. -/
def Dev.i2cWord (d : Dev) (f : Fld) : List Byte := leBytes 4 (d.peek .i2c f.off)

def execI2cStatus (addr : BitVec 7) (pecOk : Bool) (s : State) : Out :=
  s.does (Dev.i2cRun addr.toNat pecOk fun d =>
    if d.img.erasing.isSome then (1, [], d)
    else (0, d.i2cWord Reg.PWR_BOOT_STATUS.PHASE ++ d.i2cWord Reg.PWR_STATUS.STATE ++ d.i2cWord Reg.FLT_STATUS.HL, d))

/-- `hw`: the bits that are set in the cycle of the read, which stay set. -/
def execI2cEvents (addr : BitVec 7) (pecOk : Bool) (hw : BitVec 6) (s : State) : Out :=
  s.does (Dev.i2cRun addr.toNat pecOk fun d => (0, leBytes 4 d.flt.events, { d with flt := { d.flt with events := hw.toNat } }))

def execI2cSensors (addr : BitVec 7) (pecOk : Bool) (s : State) : Out :=
  s.does (Dev.i2cRun addr.toNat pecOk fun d =>
    (0, d.i2cWord Reg.PWR_COOLANT.INLET ++ d.i2cWord Reg.PWR_TEMP.JUNCTION ++ d.i2cWord Reg.PWR_INPUT.MV10, d))

/-- An offset that is no multiple of 4 is a bad argument and an ACCESS error; one outside control space is a bad argument. -/
def execRegRead (addr : BitVec 7) (pecOk : Bool) (off : Word) (s : State) : Out :=
  s.does (Dev.i2cRun addr.toNat pecOk fun d =>
    if off.toNat % 4 ≠ 0 then (3, [], d.setBit Reg.GEN_ERR.ACCESS true)
    else if 2 ^ 28 ≤ off.toNat then (3, [], d)
    else
      let (v, d) := d.ctlRead .i2c off.toNat 15
      (0, leBytes 4 v, d))

def execRegWrite (addr : BitVec 7) (pecOk : Bool) (off value : Word) (s : State) : Out :=
  s.does (Dev.i2cRun addr.toNat pecOk fun d =>
    if off.toNat % 4 ≠ 0 then (3, [], d.setBit Reg.GEN_ERR.ACCESS true)
    else if 2 ^ 28 ≤ off.toNat then (3, [], d)
    else (0, [], (d.ctlWrite .i2c off.toNat 15 value.toNat 0).2))

def execDumpRead (addr : BitVec 7) (pecOk : Bool) (off : Word) (s : State) : Out :=
  s.does (Dev.i2cRun addr.toNat pecOk fun d => (0, (d.flt.sideDump.drop off.toNat).take 32, d))

/-- A flash command: refused in the IMAGE phase, busy while a slot is being erased, its slot A or B. -/
def Dev.flashRun (slot : Nat) (f : Dev → Nat × List Byte × Dev) (d : Dev) : Nat × List Byte × Dev :=
  if d.get Reg.PWR_BOOT_STATUS.PHASE = phImage then (2, [], d)
  else if d.img.erasing.isSome then (1, [], d)
  else if 1 < slot then (3, [], d)
  else f d

def execFlashRead (addr : BitVec 7) (pecOk : Bool) (slot : Byte) (off : Word) (s : State) : Out :=
  s.does (Dev.i2cRun addr.toNat pecOk (Dev.flashRun slot.toNat fun d =>
    if slotSize < off.toNat + 32 then (3, [], d)
    else (0, (List.range 32).map fun i => d.flashByte (slotSize * slot.toNat + off.toNat + i), d)))

def execFlashErase (addr : BitVec 7) (pecOk : Bool) (slot : Byte) (s : State) : Out :=
  s.does (Dev.i2cRun addr.toNat pecOk (Dev.flashRun slot.toNat fun d => (0, [], { d with img := { d.img with erasing := some slot.toNat } })))

def execFlashEraseDone (s : State) : Out :=
  s.does fun d =>
    match d.img.erasing with
    | some k => { d with img := { d.img with flash := mclear d.img.flash (slotSize * k) (slotSize * (k + 1)), erasing := none } }
    | none => d

def execFlashWrite (addr : BitVec 7) (pecOk : Bool) (slot : Byte) (off : Word) (data : List Byte) (s : State) : Out :=
  s.does (Dev.i2cRun addr.toNat pecOk (Dev.flashRun slot.toNat fun d =>
    if off.toNat % 32 ≠ 0 ∨ slotSize < off.toNat + 32 ∨ data.length ≠ 32 then (3, [], d)
    else
      let a := slotSize * slot.toNat + off.toNat
      (0, [], { d with img := { d.img with flash := data.zipIdx.foldl (fun m b => mset 0xFF#8 m (a + b.2) b.1) d.img.flash } })))

def execKeyWrite (addr : BitVec 7) (pecOk : Bool) (data : List Byte) (s : State) : Out :=
  s.does (Dev.i2cRun addr.toNat pecOk fun d =>
    if d.img.key.isSome then (2, [], d)
    else if data.length ≠ 32 then (3, [], d)
    else (0, [], { d with img := { d.img with key := some data } }))

def execKeyRead (addr : BitVec 7) (pecOk : Bool) (s : State) : Out :=
  s.does (Dev.i2cRun addr.toNat pecOk fun d =>
    (0, (if d.img.key.isSome then [1#8] else [0#8]) ++ d.img.key.getD (List.replicate 32 0#8), d))

/-! ### Test port, R451 -/

/-- An instruction of the test port. `trst`: the level of TRST_N; low, as the pull-down holds it with the connectors parted, it keeps the test logic
in reset, and TDO is not driven. -/
def Dev.tapRun (trst : Bool) (f : Dev → Dev) (d : Dev) : Dev :=
  let high := trst && d.pwr.seated
  let d := d.modPwr fun w => { w with trstN := high }
  if high then f d else d

/-- The bypass register delays the data by one bit and starts at 0. -/
def bypassed (tdi : List Bool) : List Bool := (false :: tdi).take tdi.length

/-- Bits captured at pins that the model does not hold: free values (log entry 1). -/
def Dev.captured (n : Nat) (d : Dev) : List Bool × Dev :=
  let (bs, d) := d.freeBytes n
  (bs.map fun b => b.getLsbD 0, d)

def execTapBypass (trst : Bool) (tdi : List Bool) (s : State) : Out := s.does (Dev.tapRun trst (Dev.emit (.tdo (bypassed tdi))))

def execTapIdcode (trst : Bool) (s : State) : Out :=
  s.does (Dev.tapRun trst (Dev.emit (.tdo ((List.range 32).map fun i => (0x10E4058B : Nat).testBit i))))

/-- The pins are sampled and shifted out, and the scan register takes what is shifted in. -/
def Dev.scanned (bits : List Bool) (d : Dev) : Dev :=
  let (o, d) := d.captured bits.length
  Dev.emit (.tdo o) { d with scan := bits }

def execTapSamplePreload (trst : Bool) (scan : List Bool) (s : State) : Out := s.does (Dev.tapRun trst (Dev.scanned scan))

def execTapExtest (trst : Bool) (tdi : List Bool) (s : State) : Out :=
  s.does (Dev.tapRun trst fun d => if d.pwr.resetN then d.emit (.tdo (bypassed tdi)) else d.scanned tdi)

end Sys2Proof.Machine
end

