-- ==== Sys2Proof/Machine/Dispatch.lean ====
section
/-! DEFINITION. The meaning of every command: one arm per constructor. -/

namespace Sys2Proof.Machine

def exec (i : Instr) (s : State) : Host.Outcome State Fault Refusal :=
  match i with
  | .moduleInsertion ga mv10 => Sys2Proof.Machine.execModuleInsertion ga mv10 s
  | .powerApplied mv10 => Sys2Proof.Machine.execPowerApplied mv10 s
  | .railsInRegulation ga => Sys2Proof.Machine.execRailsInRegulation ga s
  | .resetNAssert heldNs => Sys2Proof.Machine.execResetNAssert heldNs s
  | .resetNRelease => Sys2Proof.Machine.execResetNRelease s
  | .undervoltageFall => Sys2Proof.Machine.execUndervoltageFall s
  | .undervoltageRise => Sys2Proof.Machine.execUndervoltageRise s
  | .inputLowEntry mv10 => Sys2Proof.Machine.execInputLowEntry mv10 s
  | .overvoltage => Sys2Proof.Machine.execOvervoltage s
  | .overcurrent => Sys2Proof.Machine.execOvercurrent s
  | .railFault stewardHolds => Sys2Proof.Machine.execRailFault stewardHolds s
  | .stewardBootDone romOk => Sys2Proof.Machine.execStewardBootDone romOk s
  | .imagePhase => Sys2Proof.Machine.execImagePhase s
  | .selftestDone cores otherUnit => Sys2Proof.Machine.execSelftestDone cores otherUnit s
  | .memtrainDone lanes ports => Sys2Proof.Machine.execMemtrainDone lanes ports s
  | .memtestDone lanes rows ports => Sys2Proof.Machine.execMemtestDone lanes rows ports s
  | .hideDone bootMs => Sys2Proof.Machine.execHideDone bootMs s
  | .resetModule r force => Sys2Proof.Machine.execResetModule r force s
  | .resetCompute r force => Sys2Proof.Machine.execResetCompute r force s
  | .resetCluster r n force => Sys2Proof.Machine.execResetCluster r n force s
  | .resetCore r n force => Sys2Proof.Machine.execResetCore r n force s
  | .resetLink r n force => Sys2Proof.Machine.execResetLink r n force s
  | .resetGranary r n force => Sys2Proof.Machine.execResetGranary r n force s
  | .resetComplete lanes ports => Sys2Proof.Machine.execResetComplete lanes ports s
  | .ladderRequestG0 r => Sys2Proof.Machine.execLadderRequestG0 r s
  | .ladderRequestG1 r => Sys2Proof.Machine.execLadderRequestG1 r s
  | .ladderRequestG2 r => Sys2Proof.Machine.execLadderRequestG2 r s
  | .ladderRequestG3 r => Sys2Proof.Machine.execLadderRequestG3 r s
  | .ladderRequestG4 r => Sys2Proof.Machine.execLadderRequestG4 r s
  | .ladderMoveDone => Sys2Proof.Machine.execLadderMoveDone s
  | .g1Wake cause => Sys2Proof.Machine.execG1Wake cause s
  | .sprintGrant gapMs => Sys2Proof.Machine.execSprintGrant gapMs s
  | .sprintEnd ms => Sys2Proof.Machine.execSprintEnd ms s
  | .creditUpdate energyMj => Sys2Proof.Machine.execCreditUpdate energyMj s
  | .thermalReading kind idx temp => Sys2Proof.Machine.execThermalReading kind idx temp s
  | .powerLimiter watts msPassed => Sys2Proof.Machine.execPowerLimiter watts msPassed s
  | .throttleAlert => Sys2Proof.Machine.execThrottleAlert s
  | .lstart c ecc => Sys2Proof.Machine.execLstart c ecc s
  | .lstartProceed c => Sys2Proof.Machine.execLstartProceed c s
  | .lend c ecc => Sys2Proof.Machine.execLend c ecc s
  | .layerComplete c => Sys2Proof.Machine.execLayerComplete c s
  | .seqWdog c => Sys2Proof.Machine.execSeqWdog c s
  | .arrayTileDone c upsets => Sys2Proof.Machine.execArrayTileDone c upsets s
  | .ntileWrittenOut c upsets => Sys2Proof.Machine.execNtileWrittenOut c upsets s
  | .scaleScanDone c => Sys2Proof.Machine.execScaleScanDone c s
  | .mxaCtrclr c => Sys2Proof.Machine.execMxaCtrclr c s
  | .start r c => Sys2Proof.Machine.execStart r c s
  | .loadchkDone c errs => Sys2Proof.Machine.execLoadchkDone c errs s
  | .qreq r c => Sys2Proof.Machine.execQreq r c s
  | .quiesceDone c upsets => Sys2Proof.Machine.execQuiesceDone c upsets s
  | .resume r c => Sys2Proof.Machine.execResume r c s
  | .imemWrite c bank word hi value => Sys2Proof.Machine.execImemWrite c bank word hi value s
  | .eventSetWrite r c hi mask => Sys2Proof.Machine.execEventSetWrite r c hi mask s
  | .fpflagsClear c mask hw => Sys2Proof.Machine.execFpflagsClear c mask hw s
  | .idleclr r c => Sys2Proof.Machine.execIdleclr r c s
  | .add c ecc => Sys2Proof.Machine.execAdd c ecc s
  | .sub c ecc => Sys2Proof.Machine.execSub c ecc s
  | .andW c ecc => Sys2Proof.Machine.execAndW c ecc s
  | .orW c ecc => Sys2Proof.Machine.execOrW c ecc s
  | .xorW c ecc => Sys2Proof.Machine.execXorW c ecc s
  | .shl c ecc => Sys2Proof.Machine.execShl c ecc s
  | .shr c ecc => Sys2Proof.Machine.execShr c ecc s
  | .sar c ecc => Sys2Proof.Machine.execSar c ecc s
  | .mul c ecc => Sys2Proof.Machine.execMul c ecc s
  | .addi c ecc => Sys2Proof.Machine.execAddi c ecc s
  | .ldi c ecc => Sys2Proof.Machine.execLdi c ecc s
  | .sld c ecc => Sys2Proof.Machine.execSld c ecc s
  | .sst c ecc => Sys2Proof.Machine.execSst c ecc s
  | .sldw c ecc => Sys2Proof.Machine.execSldw c ecc s
  | .sstw c ecc => Sys2Proof.Machine.execSstw c ecc s
  | .br c ecc => Sys2Proof.Machine.execBr c ecc s
  | .beq c ecc => Sys2Proof.Machine.execBeq c ecc s
  | .bne c ecc => Sys2Proof.Machine.execBne c ecc s
  | .blt c ecc => Sys2Proof.Machine.execBlt c ecc s
  | .bge c ecc => Sys2Proof.Machine.execBge c ecc s
  | .bltu c ecc => Sys2Proof.Machine.execBltu c ecc s
  | .fblt c ecc => Sys2Proof.Machine.execFblt c ecc s
  | .fbge c ecc => Sys2Proof.Machine.execFbge c ecc s
  | .loopW c ecc => Sys2Proof.Machine.execLoopW c ecc s
  | .endl c ecc => Sys2Proof.Machine.execEndl c ecc s
  | .lwait c ecc => Sys2Proof.Machine.execLwait c ecc s
  | .waitmt c ecc => Sys2Proof.Machine.execWaitmt c ecc s
  | .waitmtTrigger c => Sys2Proof.Machine.execWaitmtTrigger c s
  | .waitev c ecc => Sys2Proof.Machine.execWaitev c ecc s
  | .waitConditionMet c => Sys2Proof.Machine.execWaitConditionMet c s
  | .seqWaitTimeout c => Sys2Proof.Machine.execSeqWaitTimeout c s
  | .setev c ecc => Sys2Proof.Machine.execSetev c ecc s
  | .clrev c ecc => Sys2Proof.Machine.execClrev c ecc s
  | .colgo c ecc => Sys2Proof.Machine.execColgo c ecc s
  | .colwait c ecc => Sys2Proof.Machine.execColwait c ecc s
  | .dmakick c ecc => Sys2Proof.Machine.execDmakick c ecc s
  | .ixg c ecc => Sys2Proof.Machine.execIxg c ecc s
  | .ixs c ecc => Sys2Proof.Machine.execIxs c ecc s
  | .indexOpDone c => Sys2Proof.Machine.execIndexOpDone c s
  | .ixwait c ecc => Sys2Proof.Machine.execIxwait c ecc s
  | .rdmt c ecc => Sys2Proof.Machine.execRdmt c ecc s
  | .stepset c ecc => Sys2Proof.Machine.execStepset c ecc s
  | .traceW c ecc => Sys2Proof.Machine.execTraceW c ecc s
  | .nop c ecc => Sys2Proof.Machine.execNop c ecc s
  | .halt c ecc => Sys2Proof.Machine.execHalt c ecc s
  | .vld c p => Sys2Proof.Machine.execVld c p s
  | .vlds c p => Sys2Proof.Machine.execVlds c p s
  | .vldx c p => Sys2Proof.Machine.execVldx c p s
  | .vst c p => Sys2Proof.Machine.execVst c p s
  | .vsts c p => Sys2Proof.Machine.execVsts c p s
  | .vstx c p => Sys2Proof.Machine.execVstx c p s
  | .vfence c p => Sys2Proof.Machine.execVfence c p s
  | .vadd c p => Sys2Proof.Machine.execVadd c p s
  | .vsub c p => Sys2Proof.Machine.execVsub c p s
  | .vmul c p => Sys2Proof.Machine.execVmul c p s
  | .vfma c p => Sys2Proof.Machine.execVfma c p s
  | .vmin c p => Sys2Proof.Machine.execVmin c p s
  | .vmax c p => Sys2Proof.Machine.execVmax c p s
  | .vcmp c p => Sys2Proof.Machine.execVcmp c p s
  | .vsel c p => Sys2Proof.Machine.execVsel c p s
  | .vexp c p => Sys2Proof.Machine.execVexp c p s
  | .vrcp c p => Sys2Proof.Machine.execVrcp c p s
  | .vrsq c p => Sys2Proof.Machine.execVrsq c p s
  | .vcvt c p => Sys2Proof.Machine.execVcvt c p s
  | .vbcast c p => Sys2Proof.Machine.execVbcast c p s
  | .viota c p => Sys2Proof.Machine.execViota c p s
  | .vmxp c p => Sys2Proof.Machine.execVmxp c p s
  | .vmxu c p => Sys2Proof.Machine.execVmxu c p s
  | .vmand c p => Sys2Proof.Machine.execVmand c p s
  | .vmor c p => Sys2Proof.Machine.execVmor c p s
  | .vmnot c p => Sys2Proof.Machine.execVmnot c p s
  | .vmpop c p => Sys2Proof.Machine.execVmpop c p s
  | .vperm c p => Sys2Proof.Machine.execVperm c p s
  | .vshuf c p => Sys2Proof.Machine.execVshuf c p s
  | .vpack c p => Sys2Proof.Machine.execVpack c p s
  | .vunpack c p => Sys2Proof.Machine.execVunpack c p s
  | .vrsum c p => Sys2Proof.Machine.execVrsum c p s
  | .vrmax c p => Sys2Proof.Machine.execVrmax c p s
  | .vrmin c p => Sys2Proof.Machine.execVrmin c p s
  | .vrnf c p => Sys2Proof.Machine.execVrnf c p s
  | .vsetvl c p => Sys2Proof.Machine.execVsetvl c p s
  | .vsri c p => Sys2Proof.Machine.execVsri c p s
  | .storeBufferDrain c => Sys2Proof.Machine.execStoreBufferDrain c s
  | .stalledLoadRead c => Sys2Proof.Machine.execStalledLoadRead c s
  | .vecCtrclr c => Sys2Proof.Machine.execVecCtrclr c s
  | .granaryAccess q addr how outcome => Sys2Proof.Machine.execGranaryAccess q addr how outcome s
  | .gddrAccess q addr how retries outcome => Sys2Proof.Machine.execGddrAccess q addr how retries outcome s
  | .gdmMargin p => Sys2Proof.Machine.execGdmMargin p s
  | .gddrPortFail p => Sys2Proof.Machine.execGddrPortFail p s
  | .scrub k offset outcome => Sys2Proof.Machine.execScrub k offset outcome s
  | .refresh u bank => Sys2Proof.Machine.execRefresh u bank s
  | .memorySensorRead u temp => Sys2Proof.Machine.execMemorySensorRead u temp s
  | .accumulateWrite q addr data => Sys2Proof.Machine.execAccumulateWrite q addr data s
  | .addendAccumulate k => Sys2Proof.Machine.execAddendAccumulate k s
  | .decisionArrive => Sys2Proof.Machine.execDecisionArrive s
  | .recipePassDone g => Sys2Proof.Machine.execRecipePassDone g s
  | .clearPassDone g => Sys2Proof.Machine.execClearPassDone g s
  | .mirrorRefreshDone g => Sys2Proof.Machine.execMirrorRefreshDone g s
  | .weightDigestDone g => Sys2Proof.Machine.execWeightDigestDone g s
  | .thrClear r g => Sys2Proof.Machine.execThrClear r g s
  | .thrExport r g => Sys2Proof.Machine.execThrExport r g s
  | .thrImportCheck r g => Sys2Proof.Machine.execThrImportCheck r g s
  | .thrCmdDone => Sys2Proof.Machine.execThrCmdDone s
  | .doorbell src c r value => Sys2Proof.Machine.execDoorbell src c r value s
  | .descriptorFetch c outcome responds => Sys2Proof.Machine.execDescriptorFetch c outcome responds s
  | .descriptorComplete c wbOk => Sys2Proof.Machine.execDescriptorComplete c wbOk s
  | .tgtTimeout c got extra => Sys2Proof.Machine.execTgtTimeout c got extra s
  | .lateResponse txid => Sys2Proof.Machine.execLateResponse txid s
  | .txidHoldExpire txid => Sys2Proof.Machine.execTxidHoldExpire txid s
  | .remoteResponse f => Sys2Proof.Machine.execRemoteResponse f s
  | .ringStop r c g => Sys2Proof.Machine.execRingStop r c g s
  | .ringAbort r c g moved => Sys2Proof.Machine.execRingAbort r c g moved s
  | .ringRestart r c g => Sys2Proof.Machine.execRingRestart r c g s
  | .ringEnable r c g => Sys2Proof.Machine.execRingEnable r c g s
  | .dmaCtrclr c => Sys2Proof.Machine.execDmaCtrclr c s
  | .trainStart l why => Sys2Proof.Machine.execTrainStart l why s
  | .retrain r l => Sys2Proof.Machine.execRetrain r l s
  | .lightDone l => Sys2Proof.Machine.execLightDone l s
  | .speakDone l node link vers => Sys2Proof.Machine.execSpeakDone l node link vers s
  | .lockDone l locked => Sys2Proof.Machine.execLockDone l locked s
  | .equaliseDone l => Sys2Proof.Machine.execEqualiseDone l s
  | .alignDone l failed peerFailed => Sys2Proof.Machine.execAlignDone l failed peerFailed s
  | .identDone l => Sys2Proof.Machine.execIdentDone l s
  | .latencyDone l lat rtt => Sys2Proof.Machine.execLatencyDone l lat rtt s
  | .trainStepTimeout l => Sys2Proof.Machine.execTrainStepTimeout l s
  | .darkBackoffExpire l => Sys2Proof.Machine.execDarkBackoffExpire l s
  | .codewordReceive l symErrs f tail => Sys2Proof.Machine.execCodewordReceive l symErrs f tail s
  | .dataFrame l f => Sys2Proof.Machine.execDataFrame l f s
  | .targetWriteDone => Sys2Proof.Machine.execTargetWriteDone s
  | .remoteReadServe => Sys2Proof.Machine.execRemoteReadServe s
  | .frameTransmit l => Sys2Proof.Machine.execFrameTransmit l s
  | .ctrlFrame l f => Sys2Proof.Machine.execCtrlFrame l f s
  | .rreqFrame l f => Sys2Proof.Machine.execRreqFrame l f s
  | .idleFrame l f => Sys2Proof.Machine.execIdleFrame l f s
  | .trainFrame l f => Sys2Proof.Machine.execTrainFrame l f s
  | .lmapFrame l f => Sys2Proof.Machine.execLmapFrame l f s
  | .mapMarker l nth => Sys2Proof.Machine.execMapMarker l nth s
  | .mapMarkerTimeout l => Sys2Proof.Machine.execMapMarkerTimeout l s
  | .ackDue l => Sys2Proof.Machine.execAckDue l s
  | .replayTimer l => Sys2Proof.Machine.execReplayTimer l s
  | .progressTimeout l => Sys2Proof.Machine.execProgressTimeout l s
  | .laneLockLoss l lanes => Sys2Proof.Machine.execLaneLockLoss l lanes s
  | .holdResume l unlocked rest => Sys2Proof.Machine.execHoldResume l unlocked rest s
  | .stallTimeout l unlocked => Sys2Proof.Machine.execStallTimeout l unlocked s
  | .laneLost l lane locked => Sys2Proof.Machine.execLaneLost l lane locked s
  | .l1Entry l => Sys2Proof.Machine.execL1Entry l s
  | .l1Exit l => Sys2Proof.Machine.execL1Exit l s
  | .powerState l f => Sys2Proof.Machine.execPowerState l f s
  | .linkMarginMeasure l lane m => Sys2Proof.Machine.execLinkMarginMeasure l lane m s
  | .entryLaunch => Sys2Proof.Machine.execEntryLaunch s
  | .countRecord f => Sys2Proof.Machine.execCountRecord f s
  | .dataRecord f => Sys2Proof.Machine.execDataRecord f s
  | .gridDataRecord f => Sys2Proof.Machine.execGridDataRecord f s
  | .abortRecord f => Sys2Proof.Machine.execAbortRecord f s
  | .collectiveStepDone => Sys2Proof.Machine.execCollectiveStepDone s
  | .entryComplete => Sys2Proof.Machine.execEntryComplete s
  | .orderStall => Sys2Proof.Machine.execOrderStall s
  | .poolGrant pool asking => Sys2Proof.Machine.execPoolGrant pool asking s
  | .sendBufferFree pool buf => Sys2Proof.Machine.execSendBufferFree pool buf s
  | .colPoolAlloc r pool => Sys2Proof.Machine.execColPoolAlloc r pool s
  | .colPoolFree r pool idx => Sys2Proof.Machine.execColPoolFree r pool idx s
  | .auditEntryDone => Sys2Proof.Machine.execAuditEntryDone s
  | .colCtrclr => Sys2Proof.Machine.execColCtrclr s
  | .mtTick ticks => Sys2Proof.Machine.execMtTick ticks s
  | .timeFrameSend => Sys2Proof.Machine.execTimeFrameSend s
  | .timeFrameReceive l f => Sys2Proof.Machine.execTimeFrameReceive l f s
  | .parentSwitch => Sys2Proof.Machine.execParentSwitch s
  | .syncAcquire => Sys2Proof.Machine.execSyncAcquire s
  | .mtcOffset => Sys2Proof.Machine.execMtcOffset s
  | .holdoverEnter => Sys2Proof.Machine.execHoldoverEnter s
  | .holdoverLimit => Sys2Proof.Machine.execHoldoverLimit s
  | .rootTakeover => Sys2Proof.Machine.execRootTakeover s
  | .rootReturn => Sys2Proof.Machine.execRootReturn s
  | .heartbeatSend => Sys2Proof.Machine.execHeartbeatSend s
  | .heartbeat l f => Sys2Proof.Machine.execHeartbeat l f s
  | .linkSilent l => Sys2Proof.Machine.execLinkSilent l s
  | .notice l f => Sys2Proof.Machine.execNotice l f s
  | .hlClose => Sys2Proof.Machine.execHlClose s
  | .hlDecide => Sys2Proof.Machine.execHlDecide s
  | .planProgramLoad c => Sys2Proof.Machine.execPlanProgramLoad c s
  | .hlCommit => Sys2Proof.Machine.execHlCommit s
  | .marginMonitor timing cluster monitor reading below => Sys2Proof.Machine.execMarginMonitor timing cluster monitor reading below s
  | .drainBucketAge => Sys2Proof.Machine.execDrainBucketAge s
  | .gleanerWrite us sramOk => Sys2Proof.Machine.execGleanerWrite us sramOk s
  | .fatalDumpDone gddrOk granaryOk => Sys2Proof.Machine.execFatalDumpDone gddrOk granaryOk s
  | .dumpRelease r => Sys2Proof.Machine.execDumpRelease r s
  | .stgCheck r => Sys2Proof.Machine.execStgCheck r s
  | .stgCheckDone => Sys2Proof.Machine.execStgCheckDone s
  | .stgArm r => Sys2Proof.Machine.execStgArm r s
  | .stgDisarm r => Sys2Proof.Machine.execStgDisarm r s
  | .stgDiscard r => Sys2Proof.Machine.execStgDiscard r s
  | .stgCommit => Sys2Proof.Machine.execStgCommit s
  | .controlWrite r off be value hw => Sys2Proof.Machine.execControlWrite r off be value hw s
  | .perstAssert => Sys2Proof.Machine.execPerstAssert s
  | .functionLevelReset => Sys2Proof.Machine.execFunctionLevelReset s
  | .pcieLinkTrained width speed => Sys2Proof.Machine.execPcieLinkTrained width speed s
  | .hstLinkDown => Sys2Proof.Machine.execHstLinkDown s
  | .hstCorr => Sys2Proof.Machine.execHstCorr s
  | .bar2Access off how outcome => Sys2Proof.Machine.execBar2Access off how outcome s
  | .msixUnmask v => Sys2Proof.Machine.execMsixUnmask v s
  | .i2cStatus addr pecOk => Sys2Proof.Machine.execI2cStatus addr pecOk s
  | .i2cEvents addr pecOk hw => Sys2Proof.Machine.execI2cEvents addr pecOk hw s
  | .i2cSensors addr pecOk => Sys2Proof.Machine.execI2cSensors addr pecOk s
  | .regRead addr pecOk off => Sys2Proof.Machine.execRegRead addr pecOk off s
  | .regWrite addr pecOk off value => Sys2Proof.Machine.execRegWrite addr pecOk off value s
  | .dumpRead addr pecOk off => Sys2Proof.Machine.execDumpRead addr pecOk off s
  | .flashRead addr pecOk slot off => Sys2Proof.Machine.execFlashRead addr pecOk slot off s
  | .flashErase addr pecOk slot => Sys2Proof.Machine.execFlashErase addr pecOk slot s
  | .flashEraseDone => Sys2Proof.Machine.execFlashEraseDone s
  | .flashWrite addr pecOk slot off data => Sys2Proof.Machine.execFlashWrite addr pecOk slot off data s
  | .keyWrite addr pecOk data => Sys2Proof.Machine.execKeyWrite addr pecOk data s
  | .keyRead addr pecOk => Sys2Proof.Machine.execKeyRead addr pecOk s
  | .tapBypass trst tdi => Sys2Proof.Machine.execTapBypass trst tdi s
  | .tapIdcode trst => Sys2Proof.Machine.execTapIdcode trst s
  | .tapSamplePreload trst scan => Sys2Proof.Machine.execTapSamplePreload trst scan s
  | .tapExtest trst tdi => Sys2Proof.Machine.execTapExtest trst tdi s
  | .meterSample mv ma energyMj => Sys2Proof.Machine.execMeterSample mv ma energyMj s
  | .meterInterval => Sys2Proof.Machine.execMeterInterval s
  | .tagSend => Sys2Proof.Machine.execTagSend s
  | .tagReceive data => Sys2Proof.Machine.execTagReceive data s
  | .meterCommit => Sys2Proof.Machine.execMeterCommit s
  | .meterPowerLoss => Sys2Proof.Machine.execMeterPowerLoss s
  | .tamper => Sys2Proof.Machine.execTamper s
  | .meterStatusFrame => Sys2Proof.Machine.execMeterStatusFrame s
  | .meterRead crcOk blk nonce => Sys2Proof.Machine.execMeterRead crcOk blk nonce s
  | .meterPubkey crcOk => Sys2Proof.Machine.execMeterPubkey crcOk s
  | .meterInfo crcOk => Sys2Proof.Machine.execMeterInfo crcOk s
  | .moduleRemoval inputMa => Sys2Proof.Machine.execModuleRemoval inputMa s
  | .internalResetRelease => Sys2Proof.Machine.execInternalResetRelease s
  | .inputLowExit mv10 => Sys2Proof.Machine.execInputLowExit mv10 s
  | .coolantReading inlet outlet => Sys2Proof.Machine.execCoolantReading inlet outlet s
  | .perstRelease => Sys2Proof.Machine.execPerstRelease s
  | .hostCompletion c reply => Sys2Proof.Machine.execHostCompletion c reply s
  | .d3hotTransition toD3 => Sys2Proof.Machine.execD3hotTransition toD3 s
  | .loReadLatch r off be => Sys2Proof.Machine.execLoReadLatch r off be s

end Sys2Proof.Machine
end

