-- ==== Sys2Proof/Machine/Tick.lean ====
section
/-! DEFINITION. One cycle of the core clock with no command waiting (log entry 9): the idle counters of R158, the cycles of a layer command,
the 24 cycles before the arrays start, the array and store-buffer counters, and one trace entry per core. -/

namespace Sys2Proof.Machine

/-- The word at the head of the vector queue cannot issue because of the store buffer, or a load waits for it (R119, R120). -/
def Core.sbStalled (k : Core) : Bool :=
  k.loadStall.isSome || !k.sbWait.isEmpty
    || (match k.vq with
        | w :: _ => isStore (vOp w.toNat) && decide (16 ≤ k.sb.length)
        | [] => false)

/-- The word at the head of the vector queue waits for a register with an earlier write under way (R116). -/
def Core.vDepends (k : Core) : Bool :=
  match k.vq with
  | w :: _ => (vNames w.toNat).any fun r => decide (mget 0 k.vlate r ≠ 0)
  | [] => false

/-- A vector pipe or port is busy: one that a word still occupies, the store port held by a store that waits for entries (R119), or the one that the
word at the head of the queue takes in this cycle. -/
def Core.vBusy (k : Core) : Bool :=
  !k.vpipe.isEmpty || !k.sbWait.isEmpty
    || (!k.vq.isEmpty && k.vecFree && !k.vDepends && decide (k.cuSwitch = 0) && !(k.vq.headD 0 |>.toNat |> k.vecHeld))

/-- The counter of R158 that a cycle goes to while a word waits. -/
def waitCause (op : Nat) : Nat :=
  if op = 0x31 ∨ op = 0x30 then 5 else if op = 0x2C then 6 else if op = 0x2D ∨ op = 0x2A then 7 else if op = 0x36 then 8 else 9

/-- The counter of R158 that a cycle goes to: the first cause of its table that applies. `stall`: a feeder or the weight bus cannot deliver (R82). -/
def Core.idleCause (k : Core) (stall : Bool) : Nat :=
  if k.occupies then (if stall then 1 else 0)
  else if k.vBusy then 2
  else if k.loadStall.isSome || (!k.vq.isEmpty && (k.vDepends || k.sbStalled || decide (k.cuSwitch = 0))) then 3
  else if decide (k.cuSwitch ≠ 0) || (k.cmd.map fun m => decide (0 < m.startIn)).getD false && decide (k.seq ≠ .quiesced) then 4
  else match k.seq with
    | .wait => waitCause (wOp k.word)
    | .run =>
      if k.lstartWait then (if k.colgo = [] then 9 else 5)
      else if (wOp k.word = 0x34 ∨ wOp k.word = 0x35) ∧ 4 ≤ k.ixq.length then 8
      else 9
    | .quiescing => 9
    | _ => 10

/-- Counts of cycles that are still to pass, one cycle later. -/
def countDown (m : SMap Nat) : SMap Nat := (m.map fun p => (p.1, p.2 - 1)).filter fun p => decide (p.2 ≠ 0)

/-- The cycle's share of what a core counts down or up: the open command's cycles and its start, a change of pipe B's role, pipes and results. A
QUIESCED core's command stands still. -/
def Core.pass (k : Core) : Core :=
  { k with
    cmd := if k.seq = .quiesced then k.cmd else k.cmd.map fun m => { m with cycles := m.cycles + 1, startIn := m.startIn - 1 },
    cuSwitch := k.cuSwitch - 1, vpipe := countDown k.vpipe, vlate := countDown k.vlate }

/-- A cycle in which the core's DMA engine waits, R242: for a tracker entry, or for a memory port or the router, of which R170 gives the shares and
not the requests of a cycle, so that this is open (log entry 9). -/
def Dev.dmaStall (c : Nat) (d : Dev) : Dev :=
  match (d.core c).dma with
  | none => d
  | some u =>
    let full := decide (u.code = 0) && decide (u.next < d.runCount u) && (d.dmaFull c || decide (65536 ≤ d.fab.txids.length))
    let (waits, d) := if full then (true, d) else d.freeBit
    if waits then d.add64 (Reg.CORE_DMA_STALL_LO c) 1 else d

/-- One core's share of a cycle. Whether a feeder loses a bank in it is open: R186 gives the banks and the priority, and the requests of a cycle
are not told (log entry 9); a cycle that stalls counts as FEED and moves no row. -/
def Dev.tickCore (d : Dev) (c : CoreId) : Dev :=
  let k := d.core c
  let (stall, d) := if k.occupies then d.freeBit else (false, d)
  let d := d.add64 (Reg.CORE_SEQ_IDLE_LO.COUNT c (k.idleCause stall)) 1
  let d := if k.occupies then d.add64 (Reg.CORE_MXA_BUSY_LO.COUNT c) 1 else d
  let d := if k.sbStalled then d.addSat (Reg.CORE_VEC_SBSTALL.COUNT c) 1 else d
  let d := d.modCore c Core.pass
  let d := if k.occupies && !stall && (k.engaged || k.tileOwed) then d.arrayCycle c else d
  let d := if (d.core c).cmd.isSome then d.mxaShow c else d
  (d.dmaStall c).traceDrain c

/-- One cycle of the core clock; nothing where the compute clocks stand. -/
def Dev.tick (d : Dev) : Dev := if d.coreOn then (List.finRange 64).foldl Dev.tickCore d else d

end Sys2Proof.Machine
end

