-- ==== Sys2Proof/Machine/Step.lean ====
section
/-! DEFINITION. The step: the command at the front of the queue acts with the queue's rest; on an empty queue a cycle of the core clock
passes (log entry 9). -/

namespace Sys2Proof.Machine

/-- One step. -/
def step (s : State) : Host.Outcome State Fault Refusal :=
  match s.pending with
  | [] => .next (s.on Dev.tick)
  | i :: r => exec i { s with pending := r }

/-- The state with a command in front of its queue. -/
def State.front (s : State) (i : Instr) : State := { s with pending := i :: s.pending }

/-- The state with the command that a word of the opcode table spells in front of its queue; the state itself where it spells none. -/
def State.withFetchWord (s : State) (nbits w : Nat) : State :=
  match decodeTableWord nbits w with
  | some i => s.front i
  | none => s

end Sys2Proof.Machine
end

