-- ==== Sys2Proof/Laws/Store.lean ====
section
/-! SUPPORT. What a sparse map's operations do: a read after a write, and the canonical form is kept. -/

namespace Sys2Proof.Machine

variable {α : Type}

theorem mrising_mono {m : SMap α} {a b : Nat} (h : mrising b m = true) (hab : a ≤ b) : mrising a m = true := by
  cases m with
  | nil => rfl
  | cons p r => simp [mrising] at *; exact ⟨by omega, h.2⟩

theorem mget_below {m : SMap α} {d : α} {lo k : Nat} (h : mrising lo m = true) (hk : k < lo) : mget d m k = d := by
  induction m generalizing lo with
  | nil => rfl
  | cons p r ih =>
    obtain ⟨k', v⟩ := p
    simp [mrising] at h
    have : k' ≠ k := by omega
    simp [mget, this]
    exact ih h.2 (by omega)

@[simp] theorem mget_mput_same (d : α) (m : SMap α) (k : Nat) (v : α) : mget d (mput m k v) k = v := by
  induction m with
  | nil => simp [mput, mget]
  | cons p r ih =>
    obtain ⟨k', v'⟩ := p
    simp only [mput]
    split
    · simp [mget]
    · split
      · simp [mget]
      · rename_i h _; simp [mget, h, ih]

theorem mget_mput_other (d : α) (m : SMap α) {k j : Nat} (v : α) (h : j ≠ k) :
    mget d (mput m k v) j = mget d m j := by
  induction m with
  | nil => simp [mput, mget, Ne.symm h]
  | cons p r ih =>
    obtain ⟨k', v'⟩ := p
    simp only [mput]
    split
    · rename_i hk; simp [mget, hk, Ne.symm h]
    · split
      · simp [mget, Ne.symm h]
      · simp [mget, ih]

theorem mget_filter (d : α) (m : SMap α) (q : Nat → Bool) (k : Nat) :
    mget d (m.filter fun p => q p.1) k = if q k then mget d m k else d := by
  induction m with
  | nil => simp [mget]
  | cons p r ih =>
    obtain ⟨k', v'⟩ := p
    by_cases hk : k' = k
    · subst hk; by_cases hq : q k' = true
      · simp [mget, hq]
      · simp only [List.filter_cons, hq]; simpa [hq] using ih
    · by_cases hq : q k' = true
      · simp only [List.filter_cons, hq]; simpa [mget, hk] using ih
      · simp only [List.filter_cons, hq]; simpa [mget, hk] using ih

@[simp] theorem mget_mdel_same (d : α) (m : SMap α) (k : Nat) : mget d (mdel m k) k = d := by
  rw [mdel, mget_filter d m (fun j => decide (j ≠ k))]; simp

theorem mget_mdel_other (d : α) (m : SMap α) {k j : Nat} (h : j ≠ k) : mget d (mdel m k) j = mget d m j := by
  rw [mdel, mget_filter d m (fun j => decide (j ≠ k))]; simp [h]

/-- A read after a span of keys was cleared. -/
theorem mget_mclear (d : α) (m : SMap α) (lo hi k : Nat) :
    mget d (mclear m lo hi) k = if lo ≤ k ∧ k < hi then d else mget d m k := by
  rw [mclear, mget_filter d m (fun j => !(decide (lo ≤ j) && decide (j < hi)))]
  by_cases h : lo ≤ k ∧ k < hi
  · simp [h.1, h.2]
  · rw [if_neg h]; simp; intro h1 h2; omega

theorem mrising_mput {m : SMap α} {lo k : Nat} {v : α} (h : mrising lo m = true) (hk : lo ≤ k) :
    mrising lo (mput m k v) = true := by
  induction m generalizing lo with
  | nil => simp [mput, mrising, hk]
  | cons p r ih =>
    obtain ⟨k', v'⟩ := p
    simp [mrising] at h
    simp only [mput]
    split
    · rename_i he; subst he; simp [mrising, h]
    · split
      · simp [mrising, hk]; exact ⟨by omega, h.2⟩
      · simp [mrising, h.1]; exact ih h.2 (by omega)

theorem mrising_filter {m : SMap α} {lo : Nat} (q : Nat × α → Bool) (h : mrising lo m = true) :
    mrising lo (m.filter q) = true := by
  induction m generalizing lo with
  | nil => rfl
  | cons p r ih =>
    obtain ⟨k', v'⟩ := p
    simp [mrising] at h
    simp only [List.filter_cons]
    split
    · simp [mrising, h.1, ih h.2]
    · exact mrising_mono (ih h.2) (by omega)

theorem mput_all {m : SMap α} {k : Nat} {v : α} {q : Nat × α → Bool} (h : m.all q = true) (hv : q (k, v) = true) :
    (mput m k v).all q = true := by
  induction m with
  | nil => simp [mput, hv]
  | cons p r ih =>
    obtain ⟨k', v'⟩ := p
    simp only [List.all_cons, Bool.and_eq_true] at h
    simp only [mput]
    split
    · simp only [List.all_cons, hv, h.2, Bool.and_self]
    · split
      · simp only [List.all_cons, hv, h.1, h.2, Bool.and_self]
      · simp only [List.all_cons, h.1, ih h.2, Bool.and_self]

theorem filter_all {m : SMap α} {q q' : Nat × α → Bool} (h : m.all q = true) : (m.filter q').all q = true := by
  simp only [List.all_eq_true, List.mem_filter] at *
  exact fun x hx => h x hx.1

/-- Entries taken out leave the canonical form. -/
theorem mwf_filter [DecidableEq α] {d : α} {m : SMap α} (q : Nat × α → Bool) (h : mwf d m = true) : mwf d (m.filter q) = true := by
  simp only [mwf, Bool.and_eq_true] at *
  exact ⟨mrising_filter q h.1, filter_all h.2⟩

/-- A cleared span leaves the canonical form. -/
theorem mwf_mclear [DecidableEq α] {d : α} {m : SMap α} (lo hi : Nat) (h : mwf d m = true) : mwf d (mclear m lo hi) = true :=
  mwf_filter _ h

/-- A write keeps the canonical form. -/
theorem mwf_mset [DecidableEq α] {d : α} {m : SMap α} (k : Nat) (v : α) (h : mwf d m = true) :
    mwf d (mset d m k v) = true := by
  unfold mset
  split
  · exact mwf_filter _ h
  · rename_i hv
    simp only [mwf, Bool.and_eq_true] at *
    exact ⟨mrising_mput h.1 (Nat.zero_le _), mput_all h.2 (by simp [hv])⟩

/-- A read of the key that was written gives the value written. -/
@[simp] theorem mget_mset_same [DecidableEq α] (d : α) (m : SMap α) (k : Nat) (v : α) : mget d (mset d m k v) k = v := by
  unfold mset
  split
  · rename_i hv; rw [hv]; exact mget_mdel_same d m k
  · exact mget_mput_same d m k v

/-- A read of any other key is unchanged by a write. -/
theorem mget_mset_other [DecidableEq α] (d : α) (m : SMap α) {k j : Nat} (v : α) (h : j ≠ k) :
    mget d (mset d m k v) j = mget d m j := by
  unfold mset
  split
  · exact mget_mdel_other d m h
  · exact mget_mput_other d m v h

/-- A read after a write. -/
theorem mget_mset [DecidableEq α] (d : α) (m : SMap α) (k j : Nat) (v : α) :
    mget d (mset d m k v) j = if j = k then v else mget d m j := by
  split
  · rename_i h; rw [h]; exact mget_mset_same d m k v
  · rename_i h; exact mget_mset_other d m v h

end Sys2Proof.Machine
end

