-- ==== Sys2Proof/Laws/State.lean ====
section
/-! SUPPORT. What each update of the State leaves alone, field by field, and what a register field reads after it was written. -/

namespace Sys2Proof.Machine

variable (d : Dev)

/-! ### set -/

@[simp] theorem Dev.set_shadow (f : Fld) (v : Nat) : (d.set f v).shadow = d.shadow := rfl
@[simp] theorem Dev.set_cores (f : Fld) (v : Nat) : (d.set f v).cores = d.cores := rfl
@[simp] theorem Dev.set_mem (f : Fld) (v : Nat) : (d.set f v).mem = d.mem := rfl
@[simp] theorem Dev.set_sramEcc (f : Fld) (v : Nat) : (d.set f v).sramEcc = d.sramEcc := rfl
@[simp] theorem Dev.set_grnBad (f : Fld) (v : Nat) : (d.set f v).grnBad = d.grnBad := rfl
@[simp] theorem Dev.set_grn (f : Fld) (v : Nat) : (d.set f v).grn = d.grn := rfl
@[simp] theorem Dev.set_gdmDead (f : Fld) (v : Nat) : (d.set f v).gdmDead = d.gdmDead := rfl
@[simp] theorem Dev.set_gdmCe (f : Fld) (v : Nat) : (d.set f v).gdmCe = d.gdmCe := rfl
@[simp] theorem Dev.set_accq (f : Fld) (v : Nat) : (d.set f v).accq = d.accq := rfl
@[simp] theorem Dev.set_mt (f : Fld) (v : Nat) : (d.set f v).mt = d.mt := rfl
@[simp] theorem Dev.set_time (f : Fld) (v : Nat) : (d.set f v).time = d.time := rfl
@[simp] theorem Dev.set_links (f : Fld) (v : Nat) : (d.set f v).links = d.links := rfl
@[simp] theorem Dev.set_fab (f : Fld) (v : Nat) : (d.set f v).fab = d.fab := rfl
@[simp] theorem Dev.set_usedLinks (f : Fld) (v : Nat) : (d.set f v).usedLinks = d.usedLinks := rfl
@[simp] theorem Dev.set_hl (f : Fld) (v : Nat) : (d.set f v).hl = d.hl := rfl
@[simp] theorem Dev.set_col (f : Fld) (v : Nat) : (d.set f v).col = d.col := rfl
@[simp] theorem Dev.set_rst (f : Fld) (v : Nat) : (d.set f v).rst = d.rst := rfl
@[simp] theorem Dev.set_thr (f : Fld) (v : Nat) : (d.set f v).thr = d.thr := rfl
@[simp] theorem Dev.set_flt (f : Fld) (v : Nat) : (d.set f v).flt = d.flt := rfl
@[simp] theorem Dev.set_host (f : Fld) (v : Nat) : (d.set f v).host = d.host := rfl
@[simp] theorem Dev.set_stg (f : Fld) (v : Nat) : (d.set f v).stg = d.stg := rfl
@[simp] theorem Dev.set_pwr (f : Fld) (v : Nat) : (d.set f v).pwr = d.pwr := rfl
@[simp] theorem Dev.set_img (f : Fld) (v : Nat) : (d.set f v).img = d.img := rfl
@[simp] theorem Dev.set_meter (f : Fld) (v : Nat) : (d.set f v).meter = d.meter := rfl
@[simp] theorem Dev.set_tagSeq (f : Fld) (v : Nat) : (d.set f v).tagSeq = d.tagSeq := rfl
@[simp] theorem Dev.set_tagBlk (f : Fld) (v : Nat) : (d.set f v).tagBlk = d.tagBlk := rfl
@[simp] theorem Dev.set_work (f : Fld) (v : Nat) : (d.set f v).work = d.work := rfl
@[simp] theorem Dev.set_mtrAt (f : Fld) (v : Nat) : (d.set f v).mtrAt = d.mtrAt := rfl
@[simp] theorem Dev.set_latch (f : Fld) (v : Nat) : (d.set f v).latch = d.latch := rfl
@[simp] theorem Dev.set_scan (f : Fld) (v : Nat) : (d.set f v).scan = d.scan := rfl
@[simp] theorem Dev.set_freeIdx (f : Fld) (v : Nat) : (d.set f v).freeIdx = d.freeIdx := rfl
@[simp] theorem Dev.set_out (f : Fld) (v : Nat) : (d.set f v).out = d.out := rfl
@[simp] theorem Dev.set_core' (f : Fld) (v : Nat) (x : Nat) : (d.set f v).core x = d.core x := rfl
@[simp] theorem Dev.set_link' (f : Fld) (v : Nat) (x : Nat) : (d.set f v).link x = d.link x := rfl
@[simp] theorem Dev.set_byte' (f : Fld) (v : Nat) (x : Nat) : (d.set f v).byte x = d.byte x := rfl

/-! ### setBit -/

@[simp] theorem Dev.setBit_shadow (f : Fld) (v : Bool) : (d.setBit f v).shadow = d.shadow := rfl
@[simp] theorem Dev.setBit_cores (f : Fld) (v : Bool) : (d.setBit f v).cores = d.cores := rfl
@[simp] theorem Dev.setBit_mem (f : Fld) (v : Bool) : (d.setBit f v).mem = d.mem := rfl
@[simp] theorem Dev.setBit_sramEcc (f : Fld) (v : Bool) : (d.setBit f v).sramEcc = d.sramEcc := rfl
@[simp] theorem Dev.setBit_grnBad (f : Fld) (v : Bool) : (d.setBit f v).grnBad = d.grnBad := rfl
@[simp] theorem Dev.setBit_grn (f : Fld) (v : Bool) : (d.setBit f v).grn = d.grn := rfl
@[simp] theorem Dev.setBit_gdmDead (f : Fld) (v : Bool) : (d.setBit f v).gdmDead = d.gdmDead := rfl
@[simp] theorem Dev.setBit_gdmCe (f : Fld) (v : Bool) : (d.setBit f v).gdmCe = d.gdmCe := rfl
@[simp] theorem Dev.setBit_accq (f : Fld) (v : Bool) : (d.setBit f v).accq = d.accq := rfl
@[simp] theorem Dev.setBit_mt (f : Fld) (v : Bool) : (d.setBit f v).mt = d.mt := rfl
@[simp] theorem Dev.setBit_time (f : Fld) (v : Bool) : (d.setBit f v).time = d.time := rfl
@[simp] theorem Dev.setBit_links (f : Fld) (v : Bool) : (d.setBit f v).links = d.links := rfl
@[simp] theorem Dev.setBit_fab (f : Fld) (v : Bool) : (d.setBit f v).fab = d.fab := rfl
@[simp] theorem Dev.setBit_usedLinks (f : Fld) (v : Bool) : (d.setBit f v).usedLinks = d.usedLinks := rfl
@[simp] theorem Dev.setBit_hl (f : Fld) (v : Bool) : (d.setBit f v).hl = d.hl := rfl
@[simp] theorem Dev.setBit_col (f : Fld) (v : Bool) : (d.setBit f v).col = d.col := rfl
@[simp] theorem Dev.setBit_rst (f : Fld) (v : Bool) : (d.setBit f v).rst = d.rst := rfl
@[simp] theorem Dev.setBit_thr (f : Fld) (v : Bool) : (d.setBit f v).thr = d.thr := rfl
@[simp] theorem Dev.setBit_flt (f : Fld) (v : Bool) : (d.setBit f v).flt = d.flt := rfl
@[simp] theorem Dev.setBit_host (f : Fld) (v : Bool) : (d.setBit f v).host = d.host := rfl
@[simp] theorem Dev.setBit_stg (f : Fld) (v : Bool) : (d.setBit f v).stg = d.stg := rfl
@[simp] theorem Dev.setBit_pwr (f : Fld) (v : Bool) : (d.setBit f v).pwr = d.pwr := rfl
@[simp] theorem Dev.setBit_img (f : Fld) (v : Bool) : (d.setBit f v).img = d.img := rfl
@[simp] theorem Dev.setBit_meter (f : Fld) (v : Bool) : (d.setBit f v).meter = d.meter := rfl
@[simp] theorem Dev.setBit_tagSeq (f : Fld) (v : Bool) : (d.setBit f v).tagSeq = d.tagSeq := rfl
@[simp] theorem Dev.setBit_tagBlk (f : Fld) (v : Bool) : (d.setBit f v).tagBlk = d.tagBlk := rfl
@[simp] theorem Dev.setBit_work (f : Fld) (v : Bool) : (d.setBit f v).work = d.work := rfl
@[simp] theorem Dev.setBit_mtrAt (f : Fld) (v : Bool) : (d.setBit f v).mtrAt = d.mtrAt := rfl
@[simp] theorem Dev.setBit_latch (f : Fld) (v : Bool) : (d.setBit f v).latch = d.latch := rfl
@[simp] theorem Dev.setBit_scan (f : Fld) (v : Bool) : (d.setBit f v).scan = d.scan := rfl
@[simp] theorem Dev.setBit_freeIdx (f : Fld) (v : Bool) : (d.setBit f v).freeIdx = d.freeIdx := rfl
@[simp] theorem Dev.setBit_out (f : Fld) (v : Bool) : (d.setBit f v).out = d.out := rfl
@[simp] theorem Dev.setBit_core' (f : Fld) (v : Bool) (x : Nat) : (d.setBit f v).core x = d.core x := rfl
@[simp] theorem Dev.setBit_link' (f : Fld) (v : Bool) (x : Nat) : (d.setBit f v).link x = d.link x := rfl
@[simp] theorem Dev.setBit_byte' (f : Fld) (v : Bool) (x : Nat) : (d.setBit f v).byte x = d.byte x := rfl

/-! ### set64 -/

@[simp] theorem Dev.set64_shadow (f : Fld) (v : Nat) : (d.set64 f v).shadow = d.shadow := rfl
@[simp] theorem Dev.set64_cores (f : Fld) (v : Nat) : (d.set64 f v).cores = d.cores := rfl
@[simp] theorem Dev.set64_mem (f : Fld) (v : Nat) : (d.set64 f v).mem = d.mem := rfl
@[simp] theorem Dev.set64_sramEcc (f : Fld) (v : Nat) : (d.set64 f v).sramEcc = d.sramEcc := rfl
@[simp] theorem Dev.set64_grnBad (f : Fld) (v : Nat) : (d.set64 f v).grnBad = d.grnBad := rfl
@[simp] theorem Dev.set64_grn (f : Fld) (v : Nat) : (d.set64 f v).grn = d.grn := rfl
@[simp] theorem Dev.set64_gdmDead (f : Fld) (v : Nat) : (d.set64 f v).gdmDead = d.gdmDead := rfl
@[simp] theorem Dev.set64_gdmCe (f : Fld) (v : Nat) : (d.set64 f v).gdmCe = d.gdmCe := rfl
@[simp] theorem Dev.set64_accq (f : Fld) (v : Nat) : (d.set64 f v).accq = d.accq := rfl
@[simp] theorem Dev.set64_mt (f : Fld) (v : Nat) : (d.set64 f v).mt = d.mt := rfl
@[simp] theorem Dev.set64_time (f : Fld) (v : Nat) : (d.set64 f v).time = d.time := rfl
@[simp] theorem Dev.set64_links (f : Fld) (v : Nat) : (d.set64 f v).links = d.links := rfl
@[simp] theorem Dev.set64_fab (f : Fld) (v : Nat) : (d.set64 f v).fab = d.fab := rfl
@[simp] theorem Dev.set64_usedLinks (f : Fld) (v : Nat) : (d.set64 f v).usedLinks = d.usedLinks := rfl
@[simp] theorem Dev.set64_hl (f : Fld) (v : Nat) : (d.set64 f v).hl = d.hl := rfl
@[simp] theorem Dev.set64_col (f : Fld) (v : Nat) : (d.set64 f v).col = d.col := rfl
@[simp] theorem Dev.set64_rst (f : Fld) (v : Nat) : (d.set64 f v).rst = d.rst := rfl
@[simp] theorem Dev.set64_thr (f : Fld) (v : Nat) : (d.set64 f v).thr = d.thr := rfl
@[simp] theorem Dev.set64_flt (f : Fld) (v : Nat) : (d.set64 f v).flt = d.flt := rfl
@[simp] theorem Dev.set64_host (f : Fld) (v : Nat) : (d.set64 f v).host = d.host := rfl
@[simp] theorem Dev.set64_stg (f : Fld) (v : Nat) : (d.set64 f v).stg = d.stg := rfl
@[simp] theorem Dev.set64_pwr (f : Fld) (v : Nat) : (d.set64 f v).pwr = d.pwr := rfl
@[simp] theorem Dev.set64_img (f : Fld) (v : Nat) : (d.set64 f v).img = d.img := rfl
@[simp] theorem Dev.set64_meter (f : Fld) (v : Nat) : (d.set64 f v).meter = d.meter := rfl
@[simp] theorem Dev.set64_tagSeq (f : Fld) (v : Nat) : (d.set64 f v).tagSeq = d.tagSeq := rfl
@[simp] theorem Dev.set64_tagBlk (f : Fld) (v : Nat) : (d.set64 f v).tagBlk = d.tagBlk := rfl
@[simp] theorem Dev.set64_work (f : Fld) (v : Nat) : (d.set64 f v).work = d.work := rfl
@[simp] theorem Dev.set64_mtrAt (f : Fld) (v : Nat) : (d.set64 f v).mtrAt = d.mtrAt := rfl
@[simp] theorem Dev.set64_latch (f : Fld) (v : Nat) : (d.set64 f v).latch = d.latch := rfl
@[simp] theorem Dev.set64_scan (f : Fld) (v : Nat) : (d.set64 f v).scan = d.scan := rfl
@[simp] theorem Dev.set64_freeIdx (f : Fld) (v : Nat) : (d.set64 f v).freeIdx = d.freeIdx := rfl
@[simp] theorem Dev.set64_out (f : Fld) (v : Nat) : (d.set64 f v).out = d.out := rfl
@[simp] theorem Dev.set64_core' (f : Fld) (v : Nat) (x : Nat) : (d.set64 f v).core x = d.core x := rfl
@[simp] theorem Dev.set64_link' (f : Fld) (v : Nat) (x : Nat) : (d.set64 f v).link x = d.link x := rfl
@[simp] theorem Dev.set64_byte' (f : Fld) (v : Nat) (x : Nat) : (d.set64 f v).byte x = d.byte x := rfl

/-! ### add64 -/

@[simp] theorem Dev.add64_shadow (f : Fld) (v : Nat) : (d.add64 f v).shadow = d.shadow := rfl
@[simp] theorem Dev.add64_cores (f : Fld) (v : Nat) : (d.add64 f v).cores = d.cores := rfl
@[simp] theorem Dev.add64_mem (f : Fld) (v : Nat) : (d.add64 f v).mem = d.mem := rfl
@[simp] theorem Dev.add64_sramEcc (f : Fld) (v : Nat) : (d.add64 f v).sramEcc = d.sramEcc := rfl
@[simp] theorem Dev.add64_grnBad (f : Fld) (v : Nat) : (d.add64 f v).grnBad = d.grnBad := rfl
@[simp] theorem Dev.add64_grn (f : Fld) (v : Nat) : (d.add64 f v).grn = d.grn := rfl
@[simp] theorem Dev.add64_gdmDead (f : Fld) (v : Nat) : (d.add64 f v).gdmDead = d.gdmDead := rfl
@[simp] theorem Dev.add64_gdmCe (f : Fld) (v : Nat) : (d.add64 f v).gdmCe = d.gdmCe := rfl
@[simp] theorem Dev.add64_accq (f : Fld) (v : Nat) : (d.add64 f v).accq = d.accq := rfl
@[simp] theorem Dev.add64_mt (f : Fld) (v : Nat) : (d.add64 f v).mt = d.mt := rfl
@[simp] theorem Dev.add64_time (f : Fld) (v : Nat) : (d.add64 f v).time = d.time := rfl
@[simp] theorem Dev.add64_links (f : Fld) (v : Nat) : (d.add64 f v).links = d.links := rfl
@[simp] theorem Dev.add64_fab (f : Fld) (v : Nat) : (d.add64 f v).fab = d.fab := rfl
@[simp] theorem Dev.add64_usedLinks (f : Fld) (v : Nat) : (d.add64 f v).usedLinks = d.usedLinks := rfl
@[simp] theorem Dev.add64_hl (f : Fld) (v : Nat) : (d.add64 f v).hl = d.hl := rfl
@[simp] theorem Dev.add64_col (f : Fld) (v : Nat) : (d.add64 f v).col = d.col := rfl
@[simp] theorem Dev.add64_rst (f : Fld) (v : Nat) : (d.add64 f v).rst = d.rst := rfl
@[simp] theorem Dev.add64_thr (f : Fld) (v : Nat) : (d.add64 f v).thr = d.thr := rfl
@[simp] theorem Dev.add64_flt (f : Fld) (v : Nat) : (d.add64 f v).flt = d.flt := rfl
@[simp] theorem Dev.add64_host (f : Fld) (v : Nat) : (d.add64 f v).host = d.host := rfl
@[simp] theorem Dev.add64_stg (f : Fld) (v : Nat) : (d.add64 f v).stg = d.stg := rfl
@[simp] theorem Dev.add64_pwr (f : Fld) (v : Nat) : (d.add64 f v).pwr = d.pwr := rfl
@[simp] theorem Dev.add64_img (f : Fld) (v : Nat) : (d.add64 f v).img = d.img := rfl
@[simp] theorem Dev.add64_meter (f : Fld) (v : Nat) : (d.add64 f v).meter = d.meter := rfl
@[simp] theorem Dev.add64_tagSeq (f : Fld) (v : Nat) : (d.add64 f v).tagSeq = d.tagSeq := rfl
@[simp] theorem Dev.add64_tagBlk (f : Fld) (v : Nat) : (d.add64 f v).tagBlk = d.tagBlk := rfl
@[simp] theorem Dev.add64_work (f : Fld) (v : Nat) : (d.add64 f v).work = d.work := rfl
@[simp] theorem Dev.add64_mtrAt (f : Fld) (v : Nat) : (d.add64 f v).mtrAt = d.mtrAt := rfl
@[simp] theorem Dev.add64_latch (f : Fld) (v : Nat) : (d.add64 f v).latch = d.latch := rfl
@[simp] theorem Dev.add64_scan (f : Fld) (v : Nat) : (d.add64 f v).scan = d.scan := rfl
@[simp] theorem Dev.add64_freeIdx (f : Fld) (v : Nat) : (d.add64 f v).freeIdx = d.freeIdx := rfl
@[simp] theorem Dev.add64_out (f : Fld) (v : Nat) : (d.add64 f v).out = d.out := rfl
@[simp] theorem Dev.add64_core' (f : Fld) (v : Nat) (x : Nat) : (d.add64 f v).core x = d.core x := rfl
@[simp] theorem Dev.add64_link' (f : Fld) (v : Nat) (x : Nat) : (d.add64 f v).link x = d.link x := rfl
@[simp] theorem Dev.add64_byte' (f : Fld) (v : Nat) (x : Nat) : (d.add64 f v).byte x = d.byte x := rfl

/-! ### addSat -/

@[simp] theorem Dev.addSat_shadow (f : Fld) (v : Nat) : (d.addSat f v).shadow = d.shadow := rfl
@[simp] theorem Dev.addSat_cores (f : Fld) (v : Nat) : (d.addSat f v).cores = d.cores := rfl
@[simp] theorem Dev.addSat_mem (f : Fld) (v : Nat) : (d.addSat f v).mem = d.mem := rfl
@[simp] theorem Dev.addSat_sramEcc (f : Fld) (v : Nat) : (d.addSat f v).sramEcc = d.sramEcc := rfl
@[simp] theorem Dev.addSat_grnBad (f : Fld) (v : Nat) : (d.addSat f v).grnBad = d.grnBad := rfl
@[simp] theorem Dev.addSat_grn (f : Fld) (v : Nat) : (d.addSat f v).grn = d.grn := rfl
@[simp] theorem Dev.addSat_gdmDead (f : Fld) (v : Nat) : (d.addSat f v).gdmDead = d.gdmDead := rfl
@[simp] theorem Dev.addSat_gdmCe (f : Fld) (v : Nat) : (d.addSat f v).gdmCe = d.gdmCe := rfl
@[simp] theorem Dev.addSat_accq (f : Fld) (v : Nat) : (d.addSat f v).accq = d.accq := rfl
@[simp] theorem Dev.addSat_mt (f : Fld) (v : Nat) : (d.addSat f v).mt = d.mt := rfl
@[simp] theorem Dev.addSat_time (f : Fld) (v : Nat) : (d.addSat f v).time = d.time := rfl
@[simp] theorem Dev.addSat_links (f : Fld) (v : Nat) : (d.addSat f v).links = d.links := rfl
@[simp] theorem Dev.addSat_fab (f : Fld) (v : Nat) : (d.addSat f v).fab = d.fab := rfl
@[simp] theorem Dev.addSat_usedLinks (f : Fld) (v : Nat) : (d.addSat f v).usedLinks = d.usedLinks := rfl
@[simp] theorem Dev.addSat_hl (f : Fld) (v : Nat) : (d.addSat f v).hl = d.hl := rfl
@[simp] theorem Dev.addSat_col (f : Fld) (v : Nat) : (d.addSat f v).col = d.col := rfl
@[simp] theorem Dev.addSat_rst (f : Fld) (v : Nat) : (d.addSat f v).rst = d.rst := rfl
@[simp] theorem Dev.addSat_thr (f : Fld) (v : Nat) : (d.addSat f v).thr = d.thr := rfl
@[simp] theorem Dev.addSat_flt (f : Fld) (v : Nat) : (d.addSat f v).flt = d.flt := rfl
@[simp] theorem Dev.addSat_host (f : Fld) (v : Nat) : (d.addSat f v).host = d.host := rfl
@[simp] theorem Dev.addSat_stg (f : Fld) (v : Nat) : (d.addSat f v).stg = d.stg := rfl
@[simp] theorem Dev.addSat_pwr (f : Fld) (v : Nat) : (d.addSat f v).pwr = d.pwr := rfl
@[simp] theorem Dev.addSat_img (f : Fld) (v : Nat) : (d.addSat f v).img = d.img := rfl
@[simp] theorem Dev.addSat_meter (f : Fld) (v : Nat) : (d.addSat f v).meter = d.meter := rfl
@[simp] theorem Dev.addSat_tagSeq (f : Fld) (v : Nat) : (d.addSat f v).tagSeq = d.tagSeq := rfl
@[simp] theorem Dev.addSat_tagBlk (f : Fld) (v : Nat) : (d.addSat f v).tagBlk = d.tagBlk := rfl
@[simp] theorem Dev.addSat_work (f : Fld) (v : Nat) : (d.addSat f v).work = d.work := rfl
@[simp] theorem Dev.addSat_mtrAt (f : Fld) (v : Nat) : (d.addSat f v).mtrAt = d.mtrAt := rfl
@[simp] theorem Dev.addSat_latch (f : Fld) (v : Nat) : (d.addSat f v).latch = d.latch := rfl
@[simp] theorem Dev.addSat_scan (f : Fld) (v : Nat) : (d.addSat f v).scan = d.scan := rfl
@[simp] theorem Dev.addSat_freeIdx (f : Fld) (v : Nat) : (d.addSat f v).freeIdx = d.freeIdx := rfl
@[simp] theorem Dev.addSat_out (f : Fld) (v : Nat) : (d.addSat f v).out = d.out := rfl
@[simp] theorem Dev.addSat_core' (f : Fld) (v : Nat) (x : Nat) : (d.addSat f v).core x = d.core x := rfl
@[simp] theorem Dev.addSat_link' (f : Fld) (v : Nat) (x : Nat) : (d.addSat f v).link x = d.link x := rfl
@[simp] theorem Dev.addSat_byte' (f : Fld) (v : Nat) (x : Nat) : (d.addSat f v).byte x = d.byte x := rfl

/-! ### flag -/

@[simp] theorem Dev.flag_shadow (f g : Fld) : (d.flag f g).shadow = d.shadow := rfl
@[simp] theorem Dev.flag_cores (f g : Fld) : (d.flag f g).cores = d.cores := rfl
@[simp] theorem Dev.flag_mem (f g : Fld) : (d.flag f g).mem = d.mem := rfl
@[simp] theorem Dev.flag_sramEcc (f g : Fld) : (d.flag f g).sramEcc = d.sramEcc := rfl
@[simp] theorem Dev.flag_grnBad (f g : Fld) : (d.flag f g).grnBad = d.grnBad := rfl
@[simp] theorem Dev.flag_grn (f g : Fld) : (d.flag f g).grn = d.grn := rfl
@[simp] theorem Dev.flag_gdmDead (f g : Fld) : (d.flag f g).gdmDead = d.gdmDead := rfl
@[simp] theorem Dev.flag_gdmCe (f g : Fld) : (d.flag f g).gdmCe = d.gdmCe := rfl
@[simp] theorem Dev.flag_accq (f g : Fld) : (d.flag f g).accq = d.accq := rfl
@[simp] theorem Dev.flag_mt (f g : Fld) : (d.flag f g).mt = d.mt := rfl
@[simp] theorem Dev.flag_time (f g : Fld) : (d.flag f g).time = d.time := rfl
@[simp] theorem Dev.flag_links (f g : Fld) : (d.flag f g).links = d.links := rfl
@[simp] theorem Dev.flag_fab (f g : Fld) : (d.flag f g).fab = d.fab := rfl
@[simp] theorem Dev.flag_usedLinks (f g : Fld) : (d.flag f g).usedLinks = d.usedLinks := rfl
@[simp] theorem Dev.flag_hl (f g : Fld) : (d.flag f g).hl = d.hl := rfl
@[simp] theorem Dev.flag_col (f g : Fld) : (d.flag f g).col = d.col := rfl
@[simp] theorem Dev.flag_rst (f g : Fld) : (d.flag f g).rst = d.rst := rfl
@[simp] theorem Dev.flag_thr (f g : Fld) : (d.flag f g).thr = d.thr := rfl
@[simp] theorem Dev.flag_flt (f g : Fld) : (d.flag f g).flt = d.flt := rfl
@[simp] theorem Dev.flag_host (f g : Fld) : (d.flag f g).host = d.host := rfl
@[simp] theorem Dev.flag_stg (f g : Fld) : (d.flag f g).stg = d.stg := rfl
@[simp] theorem Dev.flag_pwr (f g : Fld) : (d.flag f g).pwr = d.pwr := rfl
@[simp] theorem Dev.flag_img (f g : Fld) : (d.flag f g).img = d.img := rfl
@[simp] theorem Dev.flag_meter (f g : Fld) : (d.flag f g).meter = d.meter := rfl
@[simp] theorem Dev.flag_tagSeq (f g : Fld) : (d.flag f g).tagSeq = d.tagSeq := rfl
@[simp] theorem Dev.flag_tagBlk (f g : Fld) : (d.flag f g).tagBlk = d.tagBlk := rfl
@[simp] theorem Dev.flag_work (f g : Fld) : (d.flag f g).work = d.work := rfl
@[simp] theorem Dev.flag_mtrAt (f g : Fld) : (d.flag f g).mtrAt = d.mtrAt := rfl
@[simp] theorem Dev.flag_latch (f g : Fld) : (d.flag f g).latch = d.latch := rfl
@[simp] theorem Dev.flag_scan (f g : Fld) : (d.flag f g).scan = d.scan := rfl
@[simp] theorem Dev.flag_freeIdx (f g : Fld) : (d.flag f g).freeIdx = d.freeIdx := rfl
@[simp] theorem Dev.flag_out (f g : Fld) : (d.flag f g).out = d.out := rfl
@[simp] theorem Dev.flag_core' (f g : Fld) (x : Nat) : (d.flag f g).core x = d.core x := rfl
@[simp] theorem Dev.flag_link' (f g : Fld) (x : Nat) : (d.flag f g).link x = d.link x := rfl
@[simp] theorem Dev.flag_byte' (f g : Fld) (x : Nat) : (d.flag f g).byte x = d.byte x := rfl

/-! ### emit -/

@[simp] theorem Dev.emit_regs (e : Emit) : (d.emit e).regs = d.regs := rfl
@[simp] theorem Dev.emit_shadow (e : Emit) : (d.emit e).shadow = d.shadow := rfl
@[simp] theorem Dev.emit_cores (e : Emit) : (d.emit e).cores = d.cores := rfl
@[simp] theorem Dev.emit_mem (e : Emit) : (d.emit e).mem = d.mem := rfl
@[simp] theorem Dev.emit_sramEcc (e : Emit) : (d.emit e).sramEcc = d.sramEcc := rfl
@[simp] theorem Dev.emit_grnBad (e : Emit) : (d.emit e).grnBad = d.grnBad := rfl
@[simp] theorem Dev.emit_grn (e : Emit) : (d.emit e).grn = d.grn := rfl
@[simp] theorem Dev.emit_gdmDead (e : Emit) : (d.emit e).gdmDead = d.gdmDead := rfl
@[simp] theorem Dev.emit_gdmCe (e : Emit) : (d.emit e).gdmCe = d.gdmCe := rfl
@[simp] theorem Dev.emit_accq (e : Emit) : (d.emit e).accq = d.accq := rfl
@[simp] theorem Dev.emit_mt (e : Emit) : (d.emit e).mt = d.mt := rfl
@[simp] theorem Dev.emit_time (e : Emit) : (d.emit e).time = d.time := rfl
@[simp] theorem Dev.emit_links (e : Emit) : (d.emit e).links = d.links := rfl
@[simp] theorem Dev.emit_fab (e : Emit) : (d.emit e).fab = d.fab := rfl
@[simp] theorem Dev.emit_usedLinks (e : Emit) : (d.emit e).usedLinks = d.usedLinks := rfl
@[simp] theorem Dev.emit_hl (e : Emit) : (d.emit e).hl = d.hl := rfl
@[simp] theorem Dev.emit_col (e : Emit) : (d.emit e).col = d.col := rfl
@[simp] theorem Dev.emit_rst (e : Emit) : (d.emit e).rst = d.rst := rfl
@[simp] theorem Dev.emit_thr (e : Emit) : (d.emit e).thr = d.thr := rfl
@[simp] theorem Dev.emit_flt (e : Emit) : (d.emit e).flt = d.flt := rfl
@[simp] theorem Dev.emit_host (e : Emit) : (d.emit e).host = d.host := rfl
@[simp] theorem Dev.emit_stg (e : Emit) : (d.emit e).stg = d.stg := rfl
@[simp] theorem Dev.emit_pwr (e : Emit) : (d.emit e).pwr = d.pwr := rfl
@[simp] theorem Dev.emit_img (e : Emit) : (d.emit e).img = d.img := rfl
@[simp] theorem Dev.emit_meter (e : Emit) : (d.emit e).meter = d.meter := rfl
@[simp] theorem Dev.emit_tagSeq (e : Emit) : (d.emit e).tagSeq = d.tagSeq := rfl
@[simp] theorem Dev.emit_tagBlk (e : Emit) : (d.emit e).tagBlk = d.tagBlk := rfl
@[simp] theorem Dev.emit_work (e : Emit) : (d.emit e).work = d.work := rfl
@[simp] theorem Dev.emit_mtrAt (e : Emit) : (d.emit e).mtrAt = d.mtrAt := rfl
@[simp] theorem Dev.emit_latch (e : Emit) : (d.emit e).latch = d.latch := rfl
@[simp] theorem Dev.emit_scan (e : Emit) : (d.emit e).scan = d.scan := rfl
@[simp] theorem Dev.emit_freeIdx (e : Emit) : (d.emit e).freeIdx = d.freeIdx := rfl
@[simp] theorem Dev.emit_get' (e : Emit) (x : Fld) : (d.emit e).get x = d.get x := rfl
@[simp] theorem Dev.emit_bit' (e : Emit) (x : Fld) : (d.emit e).bit x = d.bit x := rfl
@[simp] theorem Dev.emit_get64' (e : Emit) (x : Fld) : (d.emit e).get64 x = d.get64 x := rfl
@[simp] theorem Dev.emit_lnkState' (e : Emit) (x : Nat) : (d.emit e).lnkState x = d.lnkState x := rfl
@[simp] theorem Dev.emit_core' (e : Emit) (x : Nat) : (d.emit e).core x = d.core x := rfl
@[simp] theorem Dev.emit_link' (e : Emit) (x : Nat) : (d.emit e).link x = d.link x := rfl
@[simp] theorem Dev.emit_byte' (e : Emit) (x : Nat) : (d.emit e).byte x = d.byte x := rfl

/-! ### setCore -/

@[simp] theorem Dev.setCore_regs (c : Nat) (k : Core) : (d.setCore c k).regs = d.regs := rfl
@[simp] theorem Dev.setCore_shadow (c : Nat) (k : Core) : (d.setCore c k).shadow = d.shadow := rfl
@[simp] theorem Dev.setCore_mem (c : Nat) (k : Core) : (d.setCore c k).mem = d.mem := rfl
@[simp] theorem Dev.setCore_sramEcc (c : Nat) (k : Core) : (d.setCore c k).sramEcc = d.sramEcc := rfl
@[simp] theorem Dev.setCore_grnBad (c : Nat) (k : Core) : (d.setCore c k).grnBad = d.grnBad := rfl
@[simp] theorem Dev.setCore_grn (c : Nat) (k : Core) : (d.setCore c k).grn = d.grn := rfl
@[simp] theorem Dev.setCore_gdmDead (c : Nat) (k : Core) : (d.setCore c k).gdmDead = d.gdmDead := rfl
@[simp] theorem Dev.setCore_gdmCe (c : Nat) (k : Core) : (d.setCore c k).gdmCe = d.gdmCe := rfl
@[simp] theorem Dev.setCore_accq (c : Nat) (k : Core) : (d.setCore c k).accq = d.accq := rfl
@[simp] theorem Dev.setCore_mt (c : Nat) (k : Core) : (d.setCore c k).mt = d.mt := rfl
@[simp] theorem Dev.setCore_time (c : Nat) (k : Core) : (d.setCore c k).time = d.time := rfl
@[simp] theorem Dev.setCore_links (c : Nat) (k : Core) : (d.setCore c k).links = d.links := rfl
@[simp] theorem Dev.setCore_fab (c : Nat) (k : Core) : (d.setCore c k).fab = d.fab := rfl
@[simp] theorem Dev.setCore_usedLinks (c : Nat) (k : Core) : (d.setCore c k).usedLinks = d.usedLinks := rfl
@[simp] theorem Dev.setCore_hl (c : Nat) (k : Core) : (d.setCore c k).hl = d.hl := rfl
@[simp] theorem Dev.setCore_col (c : Nat) (k : Core) : (d.setCore c k).col = d.col := rfl
@[simp] theorem Dev.setCore_rst (c : Nat) (k : Core) : (d.setCore c k).rst = d.rst := rfl
@[simp] theorem Dev.setCore_thr (c : Nat) (k : Core) : (d.setCore c k).thr = d.thr := rfl
@[simp] theorem Dev.setCore_flt (c : Nat) (k : Core) : (d.setCore c k).flt = d.flt := rfl
@[simp] theorem Dev.setCore_host (c : Nat) (k : Core) : (d.setCore c k).host = d.host := rfl
@[simp] theorem Dev.setCore_stg (c : Nat) (k : Core) : (d.setCore c k).stg = d.stg := rfl
@[simp] theorem Dev.setCore_pwr (c : Nat) (k : Core) : (d.setCore c k).pwr = d.pwr := rfl
@[simp] theorem Dev.setCore_img (c : Nat) (k : Core) : (d.setCore c k).img = d.img := rfl
@[simp] theorem Dev.setCore_meter (c : Nat) (k : Core) : (d.setCore c k).meter = d.meter := rfl
@[simp] theorem Dev.setCore_tagSeq (c : Nat) (k : Core) : (d.setCore c k).tagSeq = d.tagSeq := rfl
@[simp] theorem Dev.setCore_tagBlk (c : Nat) (k : Core) : (d.setCore c k).tagBlk = d.tagBlk := rfl
@[simp] theorem Dev.setCore_work (c : Nat) (k : Core) : (d.setCore c k).work = d.work := rfl
@[simp] theorem Dev.setCore_mtrAt (c : Nat) (k : Core) : (d.setCore c k).mtrAt = d.mtrAt := rfl
@[simp] theorem Dev.setCore_latch (c : Nat) (k : Core) : (d.setCore c k).latch = d.latch := rfl
@[simp] theorem Dev.setCore_scan (c : Nat) (k : Core) : (d.setCore c k).scan = d.scan := rfl
@[simp] theorem Dev.setCore_freeIdx (c : Nat) (k : Core) : (d.setCore c k).freeIdx = d.freeIdx := rfl
@[simp] theorem Dev.setCore_out (c : Nat) (k : Core) : (d.setCore c k).out = d.out := rfl
@[simp] theorem Dev.setCore_get' (c : Nat) (k : Core) (x : Fld) : (d.setCore c k).get x = d.get x := rfl
@[simp] theorem Dev.setCore_bit' (c : Nat) (k : Core) (x : Fld) : (d.setCore c k).bit x = d.bit x := rfl
@[simp] theorem Dev.setCore_get64' (c : Nat) (k : Core) (x : Fld) : (d.setCore c k).get64 x = d.get64 x := rfl
@[simp] theorem Dev.setCore_lnkState' (c : Nat) (k : Core) (x : Nat) : (d.setCore c k).lnkState x = d.lnkState x := rfl
@[simp] theorem Dev.setCore_link' (c : Nat) (k : Core) (x : Nat) : (d.setCore c k).link x = d.link x := rfl
@[simp] theorem Dev.setCore_byte' (c : Nat) (k : Core) (x : Nat) : (d.setCore c k).byte x = d.byte x := rfl

/-! ### modCore -/

@[simp] theorem Dev.modCore_regs (c : Nat) (g : Core → Core) : (d.modCore c g).regs = d.regs := rfl
@[simp] theorem Dev.modCore_shadow (c : Nat) (g : Core → Core) : (d.modCore c g).shadow = d.shadow := rfl
@[simp] theorem Dev.modCore_mem (c : Nat) (g : Core → Core) : (d.modCore c g).mem = d.mem := rfl
@[simp] theorem Dev.modCore_sramEcc (c : Nat) (g : Core → Core) : (d.modCore c g).sramEcc = d.sramEcc := rfl
@[simp] theorem Dev.modCore_grnBad (c : Nat) (g : Core → Core) : (d.modCore c g).grnBad = d.grnBad := rfl
@[simp] theorem Dev.modCore_grn (c : Nat) (g : Core → Core) : (d.modCore c g).grn = d.grn := rfl
@[simp] theorem Dev.modCore_gdmDead (c : Nat) (g : Core → Core) : (d.modCore c g).gdmDead = d.gdmDead := rfl
@[simp] theorem Dev.modCore_gdmCe (c : Nat) (g : Core → Core) : (d.modCore c g).gdmCe = d.gdmCe := rfl
@[simp] theorem Dev.modCore_accq (c : Nat) (g : Core → Core) : (d.modCore c g).accq = d.accq := rfl
@[simp] theorem Dev.modCore_mt (c : Nat) (g : Core → Core) : (d.modCore c g).mt = d.mt := rfl
@[simp] theorem Dev.modCore_time (c : Nat) (g : Core → Core) : (d.modCore c g).time = d.time := rfl
@[simp] theorem Dev.modCore_links (c : Nat) (g : Core → Core) : (d.modCore c g).links = d.links := rfl
@[simp] theorem Dev.modCore_fab (c : Nat) (g : Core → Core) : (d.modCore c g).fab = d.fab := rfl
@[simp] theorem Dev.modCore_usedLinks (c : Nat) (g : Core → Core) : (d.modCore c g).usedLinks = d.usedLinks := rfl
@[simp] theorem Dev.modCore_hl (c : Nat) (g : Core → Core) : (d.modCore c g).hl = d.hl := rfl
@[simp] theorem Dev.modCore_col (c : Nat) (g : Core → Core) : (d.modCore c g).col = d.col := rfl
@[simp] theorem Dev.modCore_rst (c : Nat) (g : Core → Core) : (d.modCore c g).rst = d.rst := rfl
@[simp] theorem Dev.modCore_thr (c : Nat) (g : Core → Core) : (d.modCore c g).thr = d.thr := rfl
@[simp] theorem Dev.modCore_flt (c : Nat) (g : Core → Core) : (d.modCore c g).flt = d.flt := rfl
@[simp] theorem Dev.modCore_host (c : Nat) (g : Core → Core) : (d.modCore c g).host = d.host := rfl
@[simp] theorem Dev.modCore_stg (c : Nat) (g : Core → Core) : (d.modCore c g).stg = d.stg := rfl
@[simp] theorem Dev.modCore_pwr (c : Nat) (g : Core → Core) : (d.modCore c g).pwr = d.pwr := rfl
@[simp] theorem Dev.modCore_img (c : Nat) (g : Core → Core) : (d.modCore c g).img = d.img := rfl
@[simp] theorem Dev.modCore_meter (c : Nat) (g : Core → Core) : (d.modCore c g).meter = d.meter := rfl
@[simp] theorem Dev.modCore_tagSeq (c : Nat) (g : Core → Core) : (d.modCore c g).tagSeq = d.tagSeq := rfl
@[simp] theorem Dev.modCore_tagBlk (c : Nat) (g : Core → Core) : (d.modCore c g).tagBlk = d.tagBlk := rfl
@[simp] theorem Dev.modCore_work (c : Nat) (g : Core → Core) : (d.modCore c g).work = d.work := rfl
@[simp] theorem Dev.modCore_mtrAt (c : Nat) (g : Core → Core) : (d.modCore c g).mtrAt = d.mtrAt := rfl
@[simp] theorem Dev.modCore_latch (c : Nat) (g : Core → Core) : (d.modCore c g).latch = d.latch := rfl
@[simp] theorem Dev.modCore_scan (c : Nat) (g : Core → Core) : (d.modCore c g).scan = d.scan := rfl
@[simp] theorem Dev.modCore_freeIdx (c : Nat) (g : Core → Core) : (d.modCore c g).freeIdx = d.freeIdx := rfl
@[simp] theorem Dev.modCore_out (c : Nat) (g : Core → Core) : (d.modCore c g).out = d.out := rfl
@[simp] theorem Dev.modCore_get' (c : Nat) (g : Core → Core) (x : Fld) : (d.modCore c g).get x = d.get x := rfl
@[simp] theorem Dev.modCore_bit' (c : Nat) (g : Core → Core) (x : Fld) : (d.modCore c g).bit x = d.bit x := rfl
@[simp] theorem Dev.modCore_get64' (c : Nat) (g : Core → Core) (x : Fld) : (d.modCore c g).get64 x = d.get64 x := rfl
@[simp] theorem Dev.modCore_lnkState' (c : Nat) (g : Core → Core) (x : Nat) : (d.modCore c g).lnkState x = d.lnkState x := rfl
@[simp] theorem Dev.modCore_link' (c : Nat) (g : Core → Core) (x : Nat) : (d.modCore c g).link x = d.link x := rfl
@[simp] theorem Dev.modCore_byte' (c : Nat) (g : Core → Core) (x : Nat) : (d.modCore c g).byte x = d.byte x := rfl

/-! ### setLink -/

@[simp] theorem Dev.setLink_regs (l : Nat) (k : Link) : (d.setLink l k).regs = d.regs := rfl
@[simp] theorem Dev.setLink_shadow (l : Nat) (k : Link) : (d.setLink l k).shadow = d.shadow := rfl
@[simp] theorem Dev.setLink_cores (l : Nat) (k : Link) : (d.setLink l k).cores = d.cores := rfl
@[simp] theorem Dev.setLink_mem (l : Nat) (k : Link) : (d.setLink l k).mem = d.mem := rfl
@[simp] theorem Dev.setLink_sramEcc (l : Nat) (k : Link) : (d.setLink l k).sramEcc = d.sramEcc := rfl
@[simp] theorem Dev.setLink_grnBad (l : Nat) (k : Link) : (d.setLink l k).grnBad = d.grnBad := rfl
@[simp] theorem Dev.setLink_grn (l : Nat) (k : Link) : (d.setLink l k).grn = d.grn := rfl
@[simp] theorem Dev.setLink_gdmDead (l : Nat) (k : Link) : (d.setLink l k).gdmDead = d.gdmDead := rfl
@[simp] theorem Dev.setLink_gdmCe (l : Nat) (k : Link) : (d.setLink l k).gdmCe = d.gdmCe := rfl
@[simp] theorem Dev.setLink_accq (l : Nat) (k : Link) : (d.setLink l k).accq = d.accq := rfl
@[simp] theorem Dev.setLink_mt (l : Nat) (k : Link) : (d.setLink l k).mt = d.mt := rfl
@[simp] theorem Dev.setLink_time (l : Nat) (k : Link) : (d.setLink l k).time = d.time := rfl
@[simp] theorem Dev.setLink_fab (l : Nat) (k : Link) : (d.setLink l k).fab = d.fab := rfl
@[simp] theorem Dev.setLink_usedLinks (l : Nat) (k : Link) : (d.setLink l k).usedLinks = d.usedLinks := rfl
@[simp] theorem Dev.setLink_hl (l : Nat) (k : Link) : (d.setLink l k).hl = d.hl := rfl
@[simp] theorem Dev.setLink_col (l : Nat) (k : Link) : (d.setLink l k).col = d.col := rfl
@[simp] theorem Dev.setLink_rst (l : Nat) (k : Link) : (d.setLink l k).rst = d.rst := rfl
@[simp] theorem Dev.setLink_thr (l : Nat) (k : Link) : (d.setLink l k).thr = d.thr := rfl
@[simp] theorem Dev.setLink_flt (l : Nat) (k : Link) : (d.setLink l k).flt = d.flt := rfl
@[simp] theorem Dev.setLink_host (l : Nat) (k : Link) : (d.setLink l k).host = d.host := rfl
@[simp] theorem Dev.setLink_stg (l : Nat) (k : Link) : (d.setLink l k).stg = d.stg := rfl
@[simp] theorem Dev.setLink_pwr (l : Nat) (k : Link) : (d.setLink l k).pwr = d.pwr := rfl
@[simp] theorem Dev.setLink_img (l : Nat) (k : Link) : (d.setLink l k).img = d.img := rfl
@[simp] theorem Dev.setLink_meter (l : Nat) (k : Link) : (d.setLink l k).meter = d.meter := rfl
@[simp] theorem Dev.setLink_tagSeq (l : Nat) (k : Link) : (d.setLink l k).tagSeq = d.tagSeq := rfl
@[simp] theorem Dev.setLink_tagBlk (l : Nat) (k : Link) : (d.setLink l k).tagBlk = d.tagBlk := rfl
@[simp] theorem Dev.setLink_work (l : Nat) (k : Link) : (d.setLink l k).work = d.work := rfl
@[simp] theorem Dev.setLink_mtrAt (l : Nat) (k : Link) : (d.setLink l k).mtrAt = d.mtrAt := rfl
@[simp] theorem Dev.setLink_latch (l : Nat) (k : Link) : (d.setLink l k).latch = d.latch := rfl
@[simp] theorem Dev.setLink_scan (l : Nat) (k : Link) : (d.setLink l k).scan = d.scan := rfl
@[simp] theorem Dev.setLink_freeIdx (l : Nat) (k : Link) : (d.setLink l k).freeIdx = d.freeIdx := rfl
@[simp] theorem Dev.setLink_out (l : Nat) (k : Link) : (d.setLink l k).out = d.out := rfl
@[simp] theorem Dev.setLink_get' (l : Nat) (k : Link) (x : Fld) : (d.setLink l k).get x = d.get x := rfl
@[simp] theorem Dev.setLink_bit' (l : Nat) (k : Link) (x : Fld) : (d.setLink l k).bit x = d.bit x := rfl
@[simp] theorem Dev.setLink_get64' (l : Nat) (k : Link) (x : Fld) : (d.setLink l k).get64 x = d.get64 x := rfl
@[simp] theorem Dev.setLink_lnkState' (l : Nat) (k : Link) (x : Nat) : (d.setLink l k).lnkState x = d.lnkState x := rfl
@[simp] theorem Dev.setLink_core' (l : Nat) (k : Link) (x : Nat) : (d.setLink l k).core x = d.core x := rfl
@[simp] theorem Dev.setLink_byte' (l : Nat) (k : Link) (x : Nat) : (d.setLink l k).byte x = d.byte x := rfl

/-! ### modLink -/

@[simp] theorem Dev.modLink_regs (l : Nat) (g : Link → Link) : (d.modLink l g).regs = d.regs := rfl
@[simp] theorem Dev.modLink_shadow (l : Nat) (g : Link → Link) : (d.modLink l g).shadow = d.shadow := rfl
@[simp] theorem Dev.modLink_cores (l : Nat) (g : Link → Link) : (d.modLink l g).cores = d.cores := rfl
@[simp] theorem Dev.modLink_mem (l : Nat) (g : Link → Link) : (d.modLink l g).mem = d.mem := rfl
@[simp] theorem Dev.modLink_sramEcc (l : Nat) (g : Link → Link) : (d.modLink l g).sramEcc = d.sramEcc := rfl
@[simp] theorem Dev.modLink_grnBad (l : Nat) (g : Link → Link) : (d.modLink l g).grnBad = d.grnBad := rfl
@[simp] theorem Dev.modLink_grn (l : Nat) (g : Link → Link) : (d.modLink l g).grn = d.grn := rfl
@[simp] theorem Dev.modLink_gdmDead (l : Nat) (g : Link → Link) : (d.modLink l g).gdmDead = d.gdmDead := rfl
@[simp] theorem Dev.modLink_gdmCe (l : Nat) (g : Link → Link) : (d.modLink l g).gdmCe = d.gdmCe := rfl
@[simp] theorem Dev.modLink_accq (l : Nat) (g : Link → Link) : (d.modLink l g).accq = d.accq := rfl
@[simp] theorem Dev.modLink_mt (l : Nat) (g : Link → Link) : (d.modLink l g).mt = d.mt := rfl
@[simp] theorem Dev.modLink_time (l : Nat) (g : Link → Link) : (d.modLink l g).time = d.time := rfl
@[simp] theorem Dev.modLink_fab (l : Nat) (g : Link → Link) : (d.modLink l g).fab = d.fab := rfl
@[simp] theorem Dev.modLink_usedLinks (l : Nat) (g : Link → Link) : (d.modLink l g).usedLinks = d.usedLinks := rfl
@[simp] theorem Dev.modLink_hl (l : Nat) (g : Link → Link) : (d.modLink l g).hl = d.hl := rfl
@[simp] theorem Dev.modLink_col (l : Nat) (g : Link → Link) : (d.modLink l g).col = d.col := rfl
@[simp] theorem Dev.modLink_rst (l : Nat) (g : Link → Link) : (d.modLink l g).rst = d.rst := rfl
@[simp] theorem Dev.modLink_thr (l : Nat) (g : Link → Link) : (d.modLink l g).thr = d.thr := rfl
@[simp] theorem Dev.modLink_flt (l : Nat) (g : Link → Link) : (d.modLink l g).flt = d.flt := rfl
@[simp] theorem Dev.modLink_host (l : Nat) (g : Link → Link) : (d.modLink l g).host = d.host := rfl
@[simp] theorem Dev.modLink_stg (l : Nat) (g : Link → Link) : (d.modLink l g).stg = d.stg := rfl
@[simp] theorem Dev.modLink_pwr (l : Nat) (g : Link → Link) : (d.modLink l g).pwr = d.pwr := rfl
@[simp] theorem Dev.modLink_img (l : Nat) (g : Link → Link) : (d.modLink l g).img = d.img := rfl
@[simp] theorem Dev.modLink_meter (l : Nat) (g : Link → Link) : (d.modLink l g).meter = d.meter := rfl
@[simp] theorem Dev.modLink_tagSeq (l : Nat) (g : Link → Link) : (d.modLink l g).tagSeq = d.tagSeq := rfl
@[simp] theorem Dev.modLink_tagBlk (l : Nat) (g : Link → Link) : (d.modLink l g).tagBlk = d.tagBlk := rfl
@[simp] theorem Dev.modLink_work (l : Nat) (g : Link → Link) : (d.modLink l g).work = d.work := rfl
@[simp] theorem Dev.modLink_mtrAt (l : Nat) (g : Link → Link) : (d.modLink l g).mtrAt = d.mtrAt := rfl
@[simp] theorem Dev.modLink_latch (l : Nat) (g : Link → Link) : (d.modLink l g).latch = d.latch := rfl
@[simp] theorem Dev.modLink_scan (l : Nat) (g : Link → Link) : (d.modLink l g).scan = d.scan := rfl
@[simp] theorem Dev.modLink_freeIdx (l : Nat) (g : Link → Link) : (d.modLink l g).freeIdx = d.freeIdx := rfl
@[simp] theorem Dev.modLink_out (l : Nat) (g : Link → Link) : (d.modLink l g).out = d.out := rfl
@[simp] theorem Dev.modLink_get' (l : Nat) (g : Link → Link) (x : Fld) : (d.modLink l g).get x = d.get x := rfl
@[simp] theorem Dev.modLink_bit' (l : Nat) (g : Link → Link) (x : Fld) : (d.modLink l g).bit x = d.bit x := rfl
@[simp] theorem Dev.modLink_get64' (l : Nat) (g : Link → Link) (x : Fld) : (d.modLink l g).get64 x = d.get64 x := rfl
@[simp] theorem Dev.modLink_lnkState' (l : Nat) (g : Link → Link) (x : Nat) : (d.modLink l g).lnkState x = d.lnkState x := rfl
@[simp] theorem Dev.modLink_core' (l : Nat) (g : Link → Link) (x : Nat) : (d.modLink l g).core x = d.core x := rfl
@[simp] theorem Dev.modLink_byte' (l : Nat) (g : Link → Link) (x : Nat) : (d.modLink l g).byte x = d.byte x := rfl

/-! ### setByte -/

@[simp] theorem Dev.setByte_regs (p : Nat) (b : Byte) : (d.setByte p b).regs = d.regs := rfl
@[simp] theorem Dev.setByte_shadow (p : Nat) (b : Byte) : (d.setByte p b).shadow = d.shadow := rfl
@[simp] theorem Dev.setByte_cores (p : Nat) (b : Byte) : (d.setByte p b).cores = d.cores := rfl
@[simp] theorem Dev.setByte_sramEcc (p : Nat) (b : Byte) : (d.setByte p b).sramEcc = d.sramEcc := rfl
@[simp] theorem Dev.setByte_grnBad (p : Nat) (b : Byte) : (d.setByte p b).grnBad = d.grnBad := rfl
@[simp] theorem Dev.setByte_grn (p : Nat) (b : Byte) : (d.setByte p b).grn = d.grn := rfl
@[simp] theorem Dev.setByte_gdmDead (p : Nat) (b : Byte) : (d.setByte p b).gdmDead = d.gdmDead := rfl
@[simp] theorem Dev.setByte_gdmCe (p : Nat) (b : Byte) : (d.setByte p b).gdmCe = d.gdmCe := rfl
@[simp] theorem Dev.setByte_accq (p : Nat) (b : Byte) : (d.setByte p b).accq = d.accq := rfl
@[simp] theorem Dev.setByte_mt (p : Nat) (b : Byte) : (d.setByte p b).mt = d.mt := rfl
@[simp] theorem Dev.setByte_time (p : Nat) (b : Byte) : (d.setByte p b).time = d.time := rfl
@[simp] theorem Dev.setByte_links (p : Nat) (b : Byte) : (d.setByte p b).links = d.links := rfl
@[simp] theorem Dev.setByte_fab (p : Nat) (b : Byte) : (d.setByte p b).fab = d.fab := rfl
@[simp] theorem Dev.setByte_usedLinks (p : Nat) (b : Byte) : (d.setByte p b).usedLinks = d.usedLinks := rfl
@[simp] theorem Dev.setByte_hl (p : Nat) (b : Byte) : (d.setByte p b).hl = d.hl := rfl
@[simp] theorem Dev.setByte_col (p : Nat) (b : Byte) : (d.setByte p b).col = d.col := rfl
@[simp] theorem Dev.setByte_rst (p : Nat) (b : Byte) : (d.setByte p b).rst = d.rst := rfl
@[simp] theorem Dev.setByte_thr (p : Nat) (b : Byte) : (d.setByte p b).thr = d.thr := rfl
@[simp] theorem Dev.setByte_flt (p : Nat) (b : Byte) : (d.setByte p b).flt = d.flt := rfl
@[simp] theorem Dev.setByte_host (p : Nat) (b : Byte) : (d.setByte p b).host = d.host := rfl
@[simp] theorem Dev.setByte_stg (p : Nat) (b : Byte) : (d.setByte p b).stg = d.stg := rfl
@[simp] theorem Dev.setByte_pwr (p : Nat) (b : Byte) : (d.setByte p b).pwr = d.pwr := rfl
@[simp] theorem Dev.setByte_img (p : Nat) (b : Byte) : (d.setByte p b).img = d.img := rfl
@[simp] theorem Dev.setByte_meter (p : Nat) (b : Byte) : (d.setByte p b).meter = d.meter := rfl
@[simp] theorem Dev.setByte_tagSeq (p : Nat) (b : Byte) : (d.setByte p b).tagSeq = d.tagSeq := rfl
@[simp] theorem Dev.setByte_tagBlk (p : Nat) (b : Byte) : (d.setByte p b).tagBlk = d.tagBlk := rfl
@[simp] theorem Dev.setByte_work (p : Nat) (b : Byte) : (d.setByte p b).work = d.work := rfl
@[simp] theorem Dev.setByte_mtrAt (p : Nat) (b : Byte) : (d.setByte p b).mtrAt = d.mtrAt := rfl
@[simp] theorem Dev.setByte_latch (p : Nat) (b : Byte) : (d.setByte p b).latch = d.latch := rfl
@[simp] theorem Dev.setByte_scan (p : Nat) (b : Byte) : (d.setByte p b).scan = d.scan := rfl
@[simp] theorem Dev.setByte_freeIdx (p : Nat) (b : Byte) : (d.setByte p b).freeIdx = d.freeIdx := rfl
@[simp] theorem Dev.setByte_out (p : Nat) (b : Byte) : (d.setByte p b).out = d.out := rfl
@[simp] theorem Dev.setByte_get' (p : Nat) (b : Byte) (x : Fld) : (d.setByte p b).get x = d.get x := rfl
@[simp] theorem Dev.setByte_bit' (p : Nat) (b : Byte) (x : Fld) : (d.setByte p b).bit x = d.bit x := rfl
@[simp] theorem Dev.setByte_get64' (p : Nat) (b : Byte) (x : Fld) : (d.setByte p b).get64 x = d.get64 x := rfl
@[simp] theorem Dev.setByte_lnkState' (p : Nat) (b : Byte) (x : Nat) : (d.setByte p b).lnkState x = d.lnkState x := rfl
@[simp] theorem Dev.setByte_core' (p : Nat) (b : Byte) (x : Nat) : (d.setByte p b).core x = d.core x := rfl
@[simp] theorem Dev.setByte_link' (p : Nat) (b : Byte) (x : Nat) : (d.setByte p b).link x = d.link x := rfl

/-! ### sideEvent -/

@[simp] theorem Dev.sideEvent_regs (b : Nat) : (d.sideEvent b).regs = d.regs := rfl
@[simp] theorem Dev.sideEvent_shadow (b : Nat) : (d.sideEvent b).shadow = d.shadow := rfl
@[simp] theorem Dev.sideEvent_cores (b : Nat) : (d.sideEvent b).cores = d.cores := rfl
@[simp] theorem Dev.sideEvent_mem (b : Nat) : (d.sideEvent b).mem = d.mem := rfl
@[simp] theorem Dev.sideEvent_sramEcc (b : Nat) : (d.sideEvent b).sramEcc = d.sramEcc := rfl
@[simp] theorem Dev.sideEvent_grnBad (b : Nat) : (d.sideEvent b).grnBad = d.grnBad := rfl
@[simp] theorem Dev.sideEvent_grn (b : Nat) : (d.sideEvent b).grn = d.grn := rfl
@[simp] theorem Dev.sideEvent_gdmDead (b : Nat) : (d.sideEvent b).gdmDead = d.gdmDead := rfl
@[simp] theorem Dev.sideEvent_gdmCe (b : Nat) : (d.sideEvent b).gdmCe = d.gdmCe := rfl
@[simp] theorem Dev.sideEvent_accq (b : Nat) : (d.sideEvent b).accq = d.accq := rfl
@[simp] theorem Dev.sideEvent_mt (b : Nat) : (d.sideEvent b).mt = d.mt := rfl
@[simp] theorem Dev.sideEvent_time (b : Nat) : (d.sideEvent b).time = d.time := rfl
@[simp] theorem Dev.sideEvent_links (b : Nat) : (d.sideEvent b).links = d.links := rfl
@[simp] theorem Dev.sideEvent_fab (b : Nat) : (d.sideEvent b).fab = d.fab := rfl
@[simp] theorem Dev.sideEvent_usedLinks (b : Nat) : (d.sideEvent b).usedLinks = d.usedLinks := rfl
@[simp] theorem Dev.sideEvent_hl (b : Nat) : (d.sideEvent b).hl = d.hl := rfl
@[simp] theorem Dev.sideEvent_col (b : Nat) : (d.sideEvent b).col = d.col := rfl
@[simp] theorem Dev.sideEvent_rst (b : Nat) : (d.sideEvent b).rst = d.rst := rfl
@[simp] theorem Dev.sideEvent_thr (b : Nat) : (d.sideEvent b).thr = d.thr := rfl
@[simp] theorem Dev.sideEvent_host (b : Nat) : (d.sideEvent b).host = d.host := rfl
@[simp] theorem Dev.sideEvent_stg (b : Nat) : (d.sideEvent b).stg = d.stg := rfl
@[simp] theorem Dev.sideEvent_pwr (b : Nat) : (d.sideEvent b).pwr = d.pwr := rfl
@[simp] theorem Dev.sideEvent_img (b : Nat) : (d.sideEvent b).img = d.img := rfl
@[simp] theorem Dev.sideEvent_meter (b : Nat) : (d.sideEvent b).meter = d.meter := rfl
@[simp] theorem Dev.sideEvent_tagSeq (b : Nat) : (d.sideEvent b).tagSeq = d.tagSeq := rfl
@[simp] theorem Dev.sideEvent_tagBlk (b : Nat) : (d.sideEvent b).tagBlk = d.tagBlk := rfl
@[simp] theorem Dev.sideEvent_work (b : Nat) : (d.sideEvent b).work = d.work := rfl
@[simp] theorem Dev.sideEvent_mtrAt (b : Nat) : (d.sideEvent b).mtrAt = d.mtrAt := rfl
@[simp] theorem Dev.sideEvent_latch (b : Nat) : (d.sideEvent b).latch = d.latch := rfl
@[simp] theorem Dev.sideEvent_scan (b : Nat) : (d.sideEvent b).scan = d.scan := rfl
@[simp] theorem Dev.sideEvent_freeIdx (b : Nat) : (d.sideEvent b).freeIdx = d.freeIdx := rfl
@[simp] theorem Dev.sideEvent_out (b : Nat) : (d.sideEvent b).out = d.out := rfl
@[simp] theorem Dev.sideEvent_get' (b : Nat) (x : Fld) : (d.sideEvent b).get x = d.get x := rfl
@[simp] theorem Dev.sideEvent_bit' (b : Nat) (x : Fld) : (d.sideEvent b).bit x = d.bit x := rfl
@[simp] theorem Dev.sideEvent_get64' (b : Nat) (x : Fld) : (d.sideEvent b).get64 x = d.get64 x := rfl
@[simp] theorem Dev.sideEvent_lnkState' (b : Nat) (x : Nat) : (d.sideEvent b).lnkState x = d.lnkState x := rfl
@[simp] theorem Dev.sideEvent_core' (b : Nat) (x : Nat) : (d.sideEvent b).core x = d.core x := rfl
@[simp] theorem Dev.sideEvent_link' (b : Nat) (x : Nat) : (d.sideEvent b).link x = d.link x := rfl
@[simp] theorem Dev.sideEvent_byte' (b : Nat) (x : Nat) : (d.sideEvent b).byte x = d.byte x := rfl

/-! ### modMeter -/

@[simp] theorem Dev.modMeter_regs (g : Meter → Meter) : (d.modMeter g).regs = d.regs := rfl
@[simp] theorem Dev.modMeter_shadow (g : Meter → Meter) : (d.modMeter g).shadow = d.shadow := rfl
@[simp] theorem Dev.modMeter_cores (g : Meter → Meter) : (d.modMeter g).cores = d.cores := rfl
@[simp] theorem Dev.modMeter_mem (g : Meter → Meter) : (d.modMeter g).mem = d.mem := rfl
@[simp] theorem Dev.modMeter_sramEcc (g : Meter → Meter) : (d.modMeter g).sramEcc = d.sramEcc := rfl
@[simp] theorem Dev.modMeter_grnBad (g : Meter → Meter) : (d.modMeter g).grnBad = d.grnBad := rfl
@[simp] theorem Dev.modMeter_grn (g : Meter → Meter) : (d.modMeter g).grn = d.grn := rfl
@[simp] theorem Dev.modMeter_gdmDead (g : Meter → Meter) : (d.modMeter g).gdmDead = d.gdmDead := rfl
@[simp] theorem Dev.modMeter_gdmCe (g : Meter → Meter) : (d.modMeter g).gdmCe = d.gdmCe := rfl
@[simp] theorem Dev.modMeter_accq (g : Meter → Meter) : (d.modMeter g).accq = d.accq := rfl
@[simp] theorem Dev.modMeter_mt (g : Meter → Meter) : (d.modMeter g).mt = d.mt := rfl
@[simp] theorem Dev.modMeter_time (g : Meter → Meter) : (d.modMeter g).time = d.time := rfl
@[simp] theorem Dev.modMeter_links (g : Meter → Meter) : (d.modMeter g).links = d.links := rfl
@[simp] theorem Dev.modMeter_fab (g : Meter → Meter) : (d.modMeter g).fab = d.fab := rfl
@[simp] theorem Dev.modMeter_usedLinks (g : Meter → Meter) : (d.modMeter g).usedLinks = d.usedLinks := rfl
@[simp] theorem Dev.modMeter_hl (g : Meter → Meter) : (d.modMeter g).hl = d.hl := rfl
@[simp] theorem Dev.modMeter_col (g : Meter → Meter) : (d.modMeter g).col = d.col := rfl
@[simp] theorem Dev.modMeter_rst (g : Meter → Meter) : (d.modMeter g).rst = d.rst := rfl
@[simp] theorem Dev.modMeter_thr (g : Meter → Meter) : (d.modMeter g).thr = d.thr := rfl
@[simp] theorem Dev.modMeter_flt (g : Meter → Meter) : (d.modMeter g).flt = d.flt := rfl
@[simp] theorem Dev.modMeter_host (g : Meter → Meter) : (d.modMeter g).host = d.host := rfl
@[simp] theorem Dev.modMeter_stg (g : Meter → Meter) : (d.modMeter g).stg = d.stg := rfl
@[simp] theorem Dev.modMeter_pwr (g : Meter → Meter) : (d.modMeter g).pwr = d.pwr := rfl
@[simp] theorem Dev.modMeter_img (g : Meter → Meter) : (d.modMeter g).img = d.img := rfl
@[simp] theorem Dev.modMeter_tagSeq (g : Meter → Meter) : (d.modMeter g).tagSeq = d.tagSeq := rfl
@[simp] theorem Dev.modMeter_tagBlk (g : Meter → Meter) : (d.modMeter g).tagBlk = d.tagBlk := rfl
@[simp] theorem Dev.modMeter_work (g : Meter → Meter) : (d.modMeter g).work = d.work := rfl
@[simp] theorem Dev.modMeter_mtrAt (g : Meter → Meter) : (d.modMeter g).mtrAt = d.mtrAt := rfl
@[simp] theorem Dev.modMeter_latch (g : Meter → Meter) : (d.modMeter g).latch = d.latch := rfl
@[simp] theorem Dev.modMeter_scan (g : Meter → Meter) : (d.modMeter g).scan = d.scan := rfl
@[simp] theorem Dev.modMeter_freeIdx (g : Meter → Meter) : (d.modMeter g).freeIdx = d.freeIdx := rfl
@[simp] theorem Dev.modMeter_out (g : Meter → Meter) : (d.modMeter g).out = d.out := rfl
@[simp] theorem Dev.modMeter_get' (g : Meter → Meter) (x : Fld) : (d.modMeter g).get x = d.get x := rfl
@[simp] theorem Dev.modMeter_bit' (g : Meter → Meter) (x : Fld) : (d.modMeter g).bit x = d.bit x := rfl
@[simp] theorem Dev.modMeter_get64' (g : Meter → Meter) (x : Fld) : (d.modMeter g).get64 x = d.get64 x := rfl
@[simp] theorem Dev.modMeter_lnkState' (g : Meter → Meter) (x : Nat) : (d.modMeter g).lnkState x = d.lnkState x := rfl
@[simp] theorem Dev.modMeter_core' (g : Meter → Meter) (x : Nat) : (d.modMeter g).core x = d.core x := rfl
@[simp] theorem Dev.modMeter_link' (g : Meter → Meter) (x : Nat) : (d.modMeter g).link x = d.link x := rfl
@[simp] theorem Dev.modMeter_byte' (g : Meter → Meter) (x : Nat) : (d.modMeter g).byte x = d.byte x := rfl

/-! ### modPwr -/

@[simp] theorem Dev.modPwr_regs (g : Power → Power) : (d.modPwr g).regs = d.regs := rfl
@[simp] theorem Dev.modPwr_shadow (g : Power → Power) : (d.modPwr g).shadow = d.shadow := rfl
@[simp] theorem Dev.modPwr_cores (g : Power → Power) : (d.modPwr g).cores = d.cores := rfl
@[simp] theorem Dev.modPwr_mem (g : Power → Power) : (d.modPwr g).mem = d.mem := rfl
@[simp] theorem Dev.modPwr_sramEcc (g : Power → Power) : (d.modPwr g).sramEcc = d.sramEcc := rfl
@[simp] theorem Dev.modPwr_grnBad (g : Power → Power) : (d.modPwr g).grnBad = d.grnBad := rfl
@[simp] theorem Dev.modPwr_grn (g : Power → Power) : (d.modPwr g).grn = d.grn := rfl
@[simp] theorem Dev.modPwr_gdmDead (g : Power → Power) : (d.modPwr g).gdmDead = d.gdmDead := rfl
@[simp] theorem Dev.modPwr_gdmCe (g : Power → Power) : (d.modPwr g).gdmCe = d.gdmCe := rfl
@[simp] theorem Dev.modPwr_accq (g : Power → Power) : (d.modPwr g).accq = d.accq := rfl
@[simp] theorem Dev.modPwr_mt (g : Power → Power) : (d.modPwr g).mt = d.mt := rfl
@[simp] theorem Dev.modPwr_time (g : Power → Power) : (d.modPwr g).time = d.time := rfl
@[simp] theorem Dev.modPwr_links (g : Power → Power) : (d.modPwr g).links = d.links := rfl
@[simp] theorem Dev.modPwr_fab (g : Power → Power) : (d.modPwr g).fab = d.fab := rfl
@[simp] theorem Dev.modPwr_usedLinks (g : Power → Power) : (d.modPwr g).usedLinks = d.usedLinks := rfl
@[simp] theorem Dev.modPwr_hl (g : Power → Power) : (d.modPwr g).hl = d.hl := rfl
@[simp] theorem Dev.modPwr_col (g : Power → Power) : (d.modPwr g).col = d.col := rfl
@[simp] theorem Dev.modPwr_rst (g : Power → Power) : (d.modPwr g).rst = d.rst := rfl
@[simp] theorem Dev.modPwr_thr (g : Power → Power) : (d.modPwr g).thr = d.thr := rfl
@[simp] theorem Dev.modPwr_flt (g : Power → Power) : (d.modPwr g).flt = d.flt := rfl
@[simp] theorem Dev.modPwr_host (g : Power → Power) : (d.modPwr g).host = d.host := rfl
@[simp] theorem Dev.modPwr_stg (g : Power → Power) : (d.modPwr g).stg = d.stg := rfl
@[simp] theorem Dev.modPwr_img (g : Power → Power) : (d.modPwr g).img = d.img := rfl
@[simp] theorem Dev.modPwr_meter (g : Power → Power) : (d.modPwr g).meter = d.meter := rfl
@[simp] theorem Dev.modPwr_tagSeq (g : Power → Power) : (d.modPwr g).tagSeq = d.tagSeq := rfl
@[simp] theorem Dev.modPwr_tagBlk (g : Power → Power) : (d.modPwr g).tagBlk = d.tagBlk := rfl
@[simp] theorem Dev.modPwr_work (g : Power → Power) : (d.modPwr g).work = d.work := rfl
@[simp] theorem Dev.modPwr_mtrAt (g : Power → Power) : (d.modPwr g).mtrAt = d.mtrAt := rfl
@[simp] theorem Dev.modPwr_latch (g : Power → Power) : (d.modPwr g).latch = d.latch := rfl
@[simp] theorem Dev.modPwr_scan (g : Power → Power) : (d.modPwr g).scan = d.scan := rfl
@[simp] theorem Dev.modPwr_freeIdx (g : Power → Power) : (d.modPwr g).freeIdx = d.freeIdx := rfl
@[simp] theorem Dev.modPwr_out (g : Power → Power) : (d.modPwr g).out = d.out := rfl
@[simp] theorem Dev.modPwr_get' (g : Power → Power) (x : Fld) : (d.modPwr g).get x = d.get x := rfl
@[simp] theorem Dev.modPwr_bit' (g : Power → Power) (x : Fld) : (d.modPwr g).bit x = d.bit x := rfl
@[simp] theorem Dev.modPwr_get64' (g : Power → Power) (x : Fld) : (d.modPwr g).get64 x = d.get64 x := rfl
@[simp] theorem Dev.modPwr_lnkState' (g : Power → Power) (x : Nat) : (d.modPwr g).lnkState x = d.lnkState x := rfl
@[simp] theorem Dev.modPwr_core' (g : Power → Power) (x : Nat) : (d.modPwr g).core x = d.core x := rfl
@[simp] theorem Dev.modPwr_link' (g : Power → Power) (x : Nat) : (d.modPwr g).link x = d.link x := rfl
@[simp] theorem Dev.modPwr_byte' (g : Power → Power) (x : Nat) : (d.modPwr g).byte x = d.byte x := rfl

/-! ### modHost -/

@[simp] theorem Dev.modHost_regs (g : HostIf → HostIf) : (d.modHost g).regs = d.regs := rfl
@[simp] theorem Dev.modHost_shadow (g : HostIf → HostIf) : (d.modHost g).shadow = d.shadow := rfl
@[simp] theorem Dev.modHost_cores (g : HostIf → HostIf) : (d.modHost g).cores = d.cores := rfl
@[simp] theorem Dev.modHost_mem (g : HostIf → HostIf) : (d.modHost g).mem = d.mem := rfl
@[simp] theorem Dev.modHost_sramEcc (g : HostIf → HostIf) : (d.modHost g).sramEcc = d.sramEcc := rfl
@[simp] theorem Dev.modHost_grnBad (g : HostIf → HostIf) : (d.modHost g).grnBad = d.grnBad := rfl
@[simp] theorem Dev.modHost_grn (g : HostIf → HostIf) : (d.modHost g).grn = d.grn := rfl
@[simp] theorem Dev.modHost_gdmDead (g : HostIf → HostIf) : (d.modHost g).gdmDead = d.gdmDead := rfl
@[simp] theorem Dev.modHost_gdmCe (g : HostIf → HostIf) : (d.modHost g).gdmCe = d.gdmCe := rfl
@[simp] theorem Dev.modHost_accq (g : HostIf → HostIf) : (d.modHost g).accq = d.accq := rfl
@[simp] theorem Dev.modHost_mt (g : HostIf → HostIf) : (d.modHost g).mt = d.mt := rfl
@[simp] theorem Dev.modHost_time (g : HostIf → HostIf) : (d.modHost g).time = d.time := rfl
@[simp] theorem Dev.modHost_links (g : HostIf → HostIf) : (d.modHost g).links = d.links := rfl
@[simp] theorem Dev.modHost_fab (g : HostIf → HostIf) : (d.modHost g).fab = d.fab := rfl
@[simp] theorem Dev.modHost_usedLinks (g : HostIf → HostIf) : (d.modHost g).usedLinks = d.usedLinks := rfl
@[simp] theorem Dev.modHost_hl (g : HostIf → HostIf) : (d.modHost g).hl = d.hl := rfl
@[simp] theorem Dev.modHost_col (g : HostIf → HostIf) : (d.modHost g).col = d.col := rfl
@[simp] theorem Dev.modHost_rst (g : HostIf → HostIf) : (d.modHost g).rst = d.rst := rfl
@[simp] theorem Dev.modHost_thr (g : HostIf → HostIf) : (d.modHost g).thr = d.thr := rfl
@[simp] theorem Dev.modHost_flt (g : HostIf → HostIf) : (d.modHost g).flt = d.flt := rfl
@[simp] theorem Dev.modHost_stg (g : HostIf → HostIf) : (d.modHost g).stg = d.stg := rfl
@[simp] theorem Dev.modHost_pwr (g : HostIf → HostIf) : (d.modHost g).pwr = d.pwr := rfl
@[simp] theorem Dev.modHost_img (g : HostIf → HostIf) : (d.modHost g).img = d.img := rfl
@[simp] theorem Dev.modHost_meter (g : HostIf → HostIf) : (d.modHost g).meter = d.meter := rfl
@[simp] theorem Dev.modHost_tagSeq (g : HostIf → HostIf) : (d.modHost g).tagSeq = d.tagSeq := rfl
@[simp] theorem Dev.modHost_tagBlk (g : HostIf → HostIf) : (d.modHost g).tagBlk = d.tagBlk := rfl
@[simp] theorem Dev.modHost_work (g : HostIf → HostIf) : (d.modHost g).work = d.work := rfl
@[simp] theorem Dev.modHost_mtrAt (g : HostIf → HostIf) : (d.modHost g).mtrAt = d.mtrAt := rfl
@[simp] theorem Dev.modHost_latch (g : HostIf → HostIf) : (d.modHost g).latch = d.latch := rfl
@[simp] theorem Dev.modHost_scan (g : HostIf → HostIf) : (d.modHost g).scan = d.scan := rfl
@[simp] theorem Dev.modHost_freeIdx (g : HostIf → HostIf) : (d.modHost g).freeIdx = d.freeIdx := rfl
@[simp] theorem Dev.modHost_out (g : HostIf → HostIf) : (d.modHost g).out = d.out := rfl
@[simp] theorem Dev.modHost_get' (g : HostIf → HostIf) (x : Fld) : (d.modHost g).get x = d.get x := rfl
@[simp] theorem Dev.modHost_bit' (g : HostIf → HostIf) (x : Fld) : (d.modHost g).bit x = d.bit x := rfl
@[simp] theorem Dev.modHost_get64' (g : HostIf → HostIf) (x : Fld) : (d.modHost g).get64 x = d.get64 x := rfl
@[simp] theorem Dev.modHost_lnkState' (g : HostIf → HostIf) (x : Nat) : (d.modHost g).lnkState x = d.lnkState x := rfl
@[simp] theorem Dev.modHost_core' (g : HostIf → HostIf) (x : Nat) : (d.modHost g).core x = d.core x := rfl
@[simp] theorem Dev.modHost_link' (g : HostIf → HostIf) (x : Nat) : (d.modHost g).link x = d.link x := rfl
@[simp] theorem Dev.modHost_byte' (g : HostIf → HostIf) (x : Nat) : (d.modHost g).byte x = d.byte x := rfl

/-! ### Reads after writes -/

/-- A field after a write of a field. -/
theorem Dev.get_set (f g : Fld) (v : Nat) :
    (d.set f v).get g = if g.key = f.key then (v % 2 ^ f.width ^^^ f.reset ^^^ g.reset) % 2 ^ g.width else d.get g := by
  simp only [Dev.get, Dev.set, mget_mset]; split <;> rfl

/-- A field stays within its width. -/
theorem Dev.get_lt (f : Fld) : d.get f < 2 ^ f.width := Nat.mod_lt _ (Nat.two_pow_pos _)

@[simp] theorem Dev.get_set_same (f : Fld) (v : Nat) : (d.set f v).get f = v % 2 ^ f.width := by
  rw [Dev.get_set, if_pos rfl, Nat.xor_assoc, Nat.xor_self, Nat.xor_zero, Nat.mod_mod]

theorem Dev.get_set_other {f g : Fld} (v : Nat) (h : g.key ≠ f.key) : (d.set f v).get g = d.get g := by
  rw [Dev.get_set, if_neg h]

theorem Dev.get_setBit_other {f g : Fld} (b : Bool) (h : g.key ≠ f.key) : (d.setBit f b).get g = d.get g := Dev.get_set_other d _ h

theorem Dev.bit_set_other {f g : Fld} (v : Nat) (h : g.key ≠ f.key) : (d.set f v).bit g = d.bit g := by
  simp only [Dev.bit, Dev.get_set_other d v h]

theorem Dev.bit_setBit_other {f g : Fld} (b : Bool) (h : g.key ≠ f.key) : (d.setBit f b).bit g = d.bit g := Dev.bit_set_other d _ h

/-- A flag that was written reads as written. -/
theorem Dev.bit_setBit_same {f : Fld} (b : Bool) (h : 0 < f.width) : (d.setBit f b).bit f = b := by
  have h2 : 2 ^ f.width % 2 = 0 := by
    obtain ⟨n, hn⟩ : ∃ n, f.width = n + 1 := ⟨f.width - 1, by omega⟩
    rw [hn, Nat.pow_succ]; omega
  have h1 : 1 < 2 ^ f.width := Nat.one_lt_two_pow (by omega)
  cases b <;> simp [Dev.bit, Dev.setBit, Nat.mod_eq_of_lt h1]

/-! ### Units after writes -/

@[simp] theorem Dev.core_setCore_same (c : Nat) (k : Core) : (d.setCore c k).core c = k := by
  simp [Dev.core, Dev.setCore]

theorem Dev.core_setCore_other {c x : Nat} (k : Core) (h : x ≠ c) : (d.setCore c k).core x = d.core x := by
  simp only [Dev.core, Dev.setCore, mget_mset_other _ _ _ h]

@[simp] theorem Dev.core_modCore_same (c : Nat) (g : Core → Core) : (d.modCore c g).core c = g (d.core c) :=
  Dev.core_setCore_same d c _

theorem Dev.core_modCore_other {c x : Nat} (g : Core → Core) (h : x ≠ c) : (d.modCore c g).core x = d.core x :=
  Dev.core_setCore_other d _ h

@[simp] theorem Dev.link_setLink_same (l : Nat) (k : Link) : (d.setLink l k).link l = k := by
  simp [Dev.link, Dev.setLink]

theorem Dev.link_setLink_other {l x : Nat} (k : Link) (h : x ≠ l) : (d.setLink l k).link x = d.link x := by
  simp only [Dev.link, Dev.setLink, mget_mset_other _ _ _ h]

@[simp] theorem Dev.byte_setByte_same (p : Nat) (b : Byte) : (d.setByte p b).byte p = b := by
  simp [Dev.byte, Dev.setByte]

theorem Dev.byte_setByte_other {p x : Nat} (b : Byte) (h : x ≠ p) : (d.setByte p b).byte x = d.byte x := by
  simp only [Dev.byte, Dev.setByte, mget_mset_other _ _ _ h]

/-! ### The outcome of a command -/

@[simp] theorem State.does_eq (s : State) (f : Dev → Dev) : s.does f = .next (s.on f) := rfl
@[simp] theorem State.on_dev (s : State) (f : Dev → Dev) : (s.on f).dev = f s.dev := rfl
@[simp] theorem State.on_pending (s : State) (f : Dev → Dev) : (s.on f).pending = s.pending := rfl

end Sys2Proof.Machine
end

