-- ==== Sys2Proof/WellFormed.lean ====
section
/-! DEFINITION. Checks on commands as syntax: lengths of data operands and of frames that the spec fixes. -/

namespace Sys2Proof

/-- A frame has a body of 224 bytes, and BLEN counts at most those (R253). -/
def Frame.wellFormed (f : Frame) : Bool := decide (f.body.length = 224) && decide (f.blen.toNat ≤ 224)

/-- An access covers at least one byte. -/
def Access.wellFormed : Access → Bool
  | .read n => decide (0 < n)
  | .write bs => !bs.isEmpty

/-- Bytes that begin a frame and do not complete it (R248). -/
def partFrame (b : List Byte) : Bool := decide (b.length < 256)

/-- The check of a command: every operand that is data has a length the spec allows. -/
def Instr.wellFormed : Instr → Bool
  | .granaryAccess _ _ how _ => how.wellFormed
  | .gddrAccess _ _ how _ _ => how.wellFormed
  | .bar2Access _ how _ => how.wellFormed
  | .accumulateWrite _ _ data => !data.isEmpty
  | .codewordReceive _ errs f tail => errs.Nodup && (f.map Frame.wellFormed).getD true && partFrame tail
  | .remoteResponse f => f.wellFormed
  | .dataFrame _ f => f.wellFormed
  | .ctrlFrame _ f => f.wellFormed
  | .rreqFrame _ f => f.wellFormed
  | .idleFrame _ f => f.wellFormed
  | .trainFrame _ f => f.wellFormed
  | .lmapFrame _ f => f.wellFormed
  | .powerState _ f => f.wellFormed
  | .countRecord f => f.wellFormed
  | .dataRecord f => f.wellFormed
  | .gridDataRecord f => f.wellFormed
  | .abortRecord f => f.wellFormed
  | .timeFrameReceive _ f => f.wellFormed
  | .heartbeat _ f => f.wellFormed
  | .notice _ f => f.wellFormed
  | .selftestDone cores _ => cores.Nodup
  | .memtrainDone lanes ports => lanes.Nodup && ports.Nodup
  | .memtestDone lanes rows ports => lanes.Nodup && rows.Nodup && ports.Nodup
  | .resetComplete lanes ports => lanes.Nodup && ports.Nodup
  | .poolGrant _ asking => asking.Nodup && !asking.isEmpty
  | .holdResume _ _ rest => decide (rest.length ≤ 256)
  | .flashWrite _ _ _ _ data => decide (data.length = 32)
  | .keyWrite _ _ data => decide (data.length = 32)
  | _ => true

end Sys2Proof
end

