-- ==== Sys2Proof/Safety.lean ====
section
/-! DEFINITION. What counts as a safe run, and the terms that the statements use: canonical form, what a command leaves as it was, and
when a core issues a word. -/

namespace Sys2Proof.Machine

/-- The outcome is a next state. -/
def Completes (o : Out) : Prop := ∃ t, o = .next t

/-- The canonical form of every sparse map that holds addressed or numbered state of the module. -/
def Dev.wf (d : Dev) : Bool :=
  Memory.wf d.mem && mwf 0 d.regs && mwf Core.reset d.cores

/-- The form that every step keeps: the module's sparse maps are in canonical form, and every command that waits passes its check. -/
def State.Inv (s : State) : Prop := s.dev.wf = true ∧ ∀ i ∈ s.pending, i.wellFormed = true

/-- A state from which `n` steps run without a fault or a refusal. -/
def SafeFor : Nat → State → Prop
  | 0, _ => True
  | n + 1, s => ∃ t, step s = .next t ∧ SafeFor n t

/-! ### Frames -/

/-- The command answers a next state whose queue is unchanged and whose module satisfies `post`. -/
def Does (i : Instr) (s : State) (post : Dev → Prop) : Prop := ∃ e, exec i s = .next { s with dev := e } ∧ post e

/-- Every register field outside `fs` reads as before. -/
def regsBut (fs : List Fld) (d e : Dev) : Prop := ∀ g : Fld, (∀ f ∈ fs, g.key ≠ f.key) → e.get g = d.get g

/-- Every byte outside the `n` bytes at place `p` reads as before. -/
def bytesBut (p n : Nat) (d e : Dev) : Prop := ∀ a, ¬(p ≤ a ∧ a < p + n) → e.byte a = d.byte a

/-- Memory after a write of `bs` at the local addresses from `a` on: each place that an address of the range leads to holds the last byte written
there, every other byte reads as before. -/
def wroteBytes (a : Nat) (bs : List Byte) (d e : Dev) : Prop :=
  ∀ p, e.byte p = match (List.range bs.length).reverse.find? fun i => decide (d.place (a + i) = some p) with
    | some i => bs.getD i 0#8
    | none => d.byte p

/-- Every other core is as before. -/
def coresBut (c : Nat) (d e : Dev) : Prop := ∀ j, j ≠ c → e.core j = d.core j

/-- Every other link is as before. -/
def linksBut (l : Nat) (d e : Dev) : Prop := ∀ j, j ≠ l → e.link j = d.link j

/-- Nothing but register fields among `fs` differs. -/
def onlyRegs (fs : List Fld) (d e : Dev) : Prop := e = { d with regs := e.regs } ∧ regsBut fs d e

/-- Nothing but one core differs. -/
def onlyCore (c : Nat) (d e : Dev) : Prop := e = { d with cores := e.cores } ∧ coresBut c d e

/-! ### When a core acts -/

/-- The cores take steps and the module is not on its way into G1 (R375, R423, R424). -/
def awake (d : Dev) : Prop := d.coreOn = true ∧ d.gliding = false


/-- The module after core `c` has fetched the word at its program counter: as it was, or with the corrected error noted and logged (R127). -/
def fetched (d : Dev) (c : Nat) (ecc : WordEcc) : Dev := (d.fetchEcc c ecc).2

/-- Core `c` issues the scalar word `w`: it is in RUN with no LSTART stalled, the word lies at the program counter and can be read, its reserved
bits are zero, and no S register among `regs` has a vector result outstanding (R122, R127, R131 to R133). -/
structure Issues (d : Dev) (c : Nat) (ecc : WordEcc) (w : Nat) (regs : List Nat) : Prop where
  on : d.coreOn = true
  run : (d.core c).seq = .run
  free : (d.core c).lstartWait = false
  inProg : (d.core c).inProg = true
  word : (d.core c).word = w
  read : (d.fetchEcc c ecc).1 = true
  scalar : wClass w = 0
  zeros : wRes w = 0
  ready : ∀ n ∈ regs, (d.core c).outstanding n = false

/-- The rows of the scalar words (R133): operation, the S registers that the word names, and the command. -/
def scalarRows (c : CoreId) (ecc : WordEcc) : List (Nat × (Nat → List Nat) × Instr) :=
  [(0x01, usesAlu, .add c ecc), (0x02, usesAlu, .sub c ecc), (0x03, usesAlu, .andW c ecc), (0x04, usesAlu, .orW c ecc),
   (0x05, usesAlu, .xorW c ecc), (0x06, usesAlu, .shl c ecc), (0x07, usesAlu, .shr c ecc), (0x08, usesAlu, .sar c ecc),
   (0x09, usesAlu, .mul c ecc), (0x0A, usesRdRa, .addi c ecc), (0x0B, usesRd, .ldi c ecc), (0x10, usesRdRa, .sld c ecc),
   (0x11, usesRaRb, .sst c ecc), (0x12, usesRdRa, .sldw c ecc), (0x13, usesRaRb, .sstw c ecc), (0x18, usesNone, .br c ecc),
   (0x19, usesRaRb, .beq c ecc), (0x1A, usesRaRb, .bne c ecc), (0x1B, usesRaRb, .blt c ecc), (0x1C, usesRaRb, .bge c ecc),
   (0x1D, usesRaRb, .bltu c ecc), (0x1E, usesRaRb, .fblt c ecc), (0x1F, usesRaRb, .fbge c ecc), (0x20, usesRa, .loopW c ecc)] ++
  [(0x21, usesNone, .endl c ecc), (0x28, usesRa, .lstart c ecc), (0x29, usesNone, .lend c ecc), (0x2A, usesNone, .lwait c ecc),
   (0x2C, usesRa, .waitmt c ecc), (0x2D, usesNone, .waitev c ecc), (0x2E, usesNone, .setev c ecc), (0x2F, usesNone, .clrev c ecc),
   (0x30, usesRa, .colgo c ecc), (0x31, usesRa, .colwait c ecc), (0x32, usesRa, .dmakick c ecc), (0x34, usesRa, .ixg c ecc),
   (0x35, usesRa, .ixs c ecc), (0x36, usesNone, .ixwait c ecc), (0x38, usesRd, .rdmt c ecc), (0x39, usesRa, .stepset c ecc),
   (0x3A, usesRaRb, .traceW c ecc), (0x3B, usesNone, .nop c ecc), (0x3C, usesNone, .halt c ecc)]

/-- The core enters FAULT at its word with the job stopped: the open command ends and the queued vector words go (R133, R143, R362). -/
def stopsAt (c : Nat) (d e : Dev) : Prop :=
  (e.core c).seq = .fault ∧ (e.core c).cmd = none ∧ (e.core c).vq = [] ∧ (e.core c).pc = (d.core c).pc ∧
    (e.core c).sreg = (d.core c).sreg ∧ e.bit (Reg.CORE_SEQ_ERR.FAULT c) = true ∧ e.get Reg.FLT_STATUS.HL = hlStopped

/-! ### A core's next vector word -/

/-- The rows of the vector words (R109): operation and command. -/
def vectorRows (c : CoreId) (p : VecStep) : List (Nat × Instr) :=
  [(0x01, .vld c p), (0x02, .vlds c p), (0x03, .vldx c p), (0x04, .vst c p), (0x05, .vsts c p), (0x06, .vstx c p), (0x07, .vfence c p),
   (0x10, .vadd c p), (0x11, .vsub c p), (0x12, .vmul c p), (0x13, .vfma c p), (0x14, .vmin c p), (0x15, .vmax c p), (0x16, .vcmp c p),
   (0x17, .vsel c p), (0x18, .vexp c p), (0x19, .vrcp c p), (0x1A, .vrsq c p), (0x1B, .vcvt c p)] ++
  [(0x1C, .vbcast c p), (0x1D, .viota c p), (0x1E, .vmxp c p), (0x1F, .vmxu c p), (0x20, .vmand c p), (0x21, .vmor c p), (0x22, .vmnot c p),
   (0x23, .vmpop c p), (0x30, .vperm c p), (0x31, .vshuf c p), (0x32, .vpack c p), (0x33, .vunpack c p), (0x38, .vrsum c p),
   (0x39, .vrmax c p), (0x3A, .vrmin c p), (0x3B, .vrnf c p), (0x3C, .vsetvl c p), (0x3D, .vsri c p)]

/-- The sequencer of core `c` passes the vector word at its program counter: the word is a row of operation `op` and can be read, and a layer
command with USE_VEC is open (R108, R127). -/
structure Passes (d : Dev) (c : Nat) (ecc : WordEcc) (op : Nat) : Prop where
  on : d.coreOn = true
  issuing : (d.core c).issuing = true
  inProg : (d.core c).inProg = true
  read : (d.fetchEcc c ecc).1 = true
  vector : wClass (d.core c).word = 3
  row : vOp (d.core c).word = op
  isOpen : (d.core c).isOpen = true
  useVec : ((d.core c).cmd.map fun m => recUseVec m.record).getD false = true

/-- The module after the word `w` has left the head of the queue of core `c`: it occupies its pipe, and each corrected error among the registers it
reads, with those that have arisen by then, is counted and logged (R116, R117, R125). -/
def taken (d : Dev) (c : Nat) (w : DWord) (rest : List DWord) (u : List RfUpset) : Dev :=
  let k := (d.core c).rfUpsets u
  (k.rfHits w.toNat).foldl (fun d _ => d.rfCorrected c) (d.setCore c (Core.occupy w.toNat { k with vq := rest }))

/-- The vector engine of core `c` issues the word `w` at the head of its queue for the command `m`: nothing holds it, it is legal, pipe B has
the role it needs, and what it reads holds no uncorrectable error (R108, R109, R115, R119, R125). -/
structure VecIssues (d : Dev) (c op : Nat) (w : DWord) (rest : List DWord) (m : LayerCmd) (u : List RfUpset) : Prop where
  on : d.coreOn = true
  queue : (d.core c).vq = w :: rest
  cmd : (d.core c).cmd = some m
  free : (d.core c).vecFree = true
  held : (d.core c).vecHeld w.toNat = false
  row : vOp w.toNat = op
  legal : vIllegal w.toNat (d.core c).vl.val = false
  unit : isPermute op = true → (d.core c).cu = true
  clean : ((d.core c).rfUpsets u).rfMark w.toNat ≠ 2

/-- The flag and counter fields of a core's arithmetic flags. -/
def fpFields (c : Nat) : List Fld :=
  [Reg.CORE_SEQ_FPFLAGS.INVALID c, Reg.CORE_SEQ_FPEVENTS.INVALID_CNT c, Reg.CORE_SEQ_FPFLAGS.DIVZERO c,
   Reg.CORE_SEQ_FPEVENTS.DIVZERO_CNT c, Reg.CORE_SEQ_FPFLAGS.OVERFLOW c, Reg.CORE_SEQ_FPEVENTS.OVERFLOW_CNT c,
   Reg.CORE_SEQ_FPFLAGS.UNDERFLOW c, Reg.CORE_SEQ_FPEVENTS.UNDERFLOW_CNT c, Reg.CORE_SEQ_FPFLAGS.INEXACT c]

/-- The sticky flags of a core with those of `f` raised (R67). -/
def raisesFlags (c : Nat) (f : Flags) (d e : Dev) : Prop :=
  e.bit (Reg.CORE_SEQ_FPFLAGS.INVALID c) = (d.bit (Reg.CORE_SEQ_FPFLAGS.INVALID c) || f.invalid) ∧
  e.bit (Reg.CORE_SEQ_FPFLAGS.DIVZERO c) = (d.bit (Reg.CORE_SEQ_FPFLAGS.DIVZERO c) || f.divzero) ∧
  e.bit (Reg.CORE_SEQ_FPFLAGS.OVERFLOW c) = (d.bit (Reg.CORE_SEQ_FPFLAGS.OVERFLOW c) || f.overflow) ∧
  e.bit (Reg.CORE_SEQ_FPFLAGS.UNDERFLOW c) = (d.bit (Reg.CORE_SEQ_FPFLAGS.UNDERFLOW c) || f.underflow) ∧
  e.bit (Reg.CORE_SEQ_FPFLAGS.INEXACT c) = (d.bit (Reg.CORE_SEQ_FPFLAGS.INEXACT c) || f.inexact)

/-- What a vector word that writes no memory leaves as it was once it has left the queue: everything but one core and the flag fields `fs`; in that
core, everything but the destination kinds, the stochastic identity and the command's flags. -/
def vecFrame (c : Nat) (fs : List Fld) (d e : Dev) : Prop :=
  e = { d with regs := e.regs, cores := e.cores } ∧ coresBut c d e ∧ regsBut fs d e ∧
    e.core c = { d.core c with
      vreg := (e.core c).vreg, vmask := (e.core c).vmask, sreg := (e.core c).sreg, rfEcc := (e.core c).rfEcc, vl := (e.core c).vl,
      srTid := (e.core c).srTid, srBase := (e.core c).srBase, srStep := (e.core c).srStep, cmd := (e.core c).cmd }

/-- A vector register as destination, R107: the active elements below VL take `f`, those that ZM names become zero, the others and every other
vector register, the mask registers, the S registers and VL keep their values. -/
def vecDest (c : Nat) (w : DWord) (size : Nat) (f : Nat → Nat) (d e : Dev) : Prop :=
  let k := d.core c
  let k' := e.core c
  let n := w.toNat
  (∀ i, i < 1024 → k'.vElem size (vVd n) i =
    if k.isActive n i then f i % 2 ^ (8 * size)
    else if decide (i < k.vl.val) && vMen n && vZm n then 0 else k.vElem size (vVd n) i) ∧
  (∀ r i, r ≠ vVd n → i < 4096 → k'.vByte r i = k.vByte r i) ∧
  k'.vmask = k.vmask ∧ k'.sreg = k.sreg ∧ k'.vl = k.vl ∧ k'.srTid = k.srTid ∧ k'.srStep = k.srStep

/-- A mask register as destination, R106 and R107: the active bits below VL take `f`, those that ZM names become 0, the others and every other
mask register, the vector and the S registers keep their values. -/
def maskDest (c : Nat) (w : DWord) (f : Nat → Bool) (d e : Dev) : Prop :=
  let k := d.core c
  let k' := e.core c
  let n := w.toNat
  (∀ i, i < 1024 → k'.maskBit (vVd n) i =
    if k.isActive n i then f i else if decide (i < k.vl.val) && vZm n then false else k.maskBit (vVd n) i) ∧
  (∀ m, m ≠ vVd n → k'.mask m = k.mask m) ∧
  k'.vreg = k.vreg ∧ k'.sreg = k.sreg ∧ k'.vl = k.vl ∧ k'.srTid = k.srTid ∧ k'.srBase = k.srBase ∧ k'.srStep = k.srStep

/-- An S register as destination, R135: it takes the low 32 bits of `v`, S0 discards them, and the vector and mask registers keep their values. -/
def sDest (c : Nat) (w : DWord) (v : Nat) (d e : Dev) : Prop :=
  let k := d.core c
  let k' := e.core c
  (∀ n, k'.s n = if n = vVd w.toNat ∧ n ≠ 0 then v % 2 ^ 32 else k.s n) ∧ k'.vreg = k.vreg ∧ k'.vmask = k.vmask ∧
    k'.srTid = k.srTid ∧ k'.srStep = k.srStep

/-- The flags of the active elements together. -/
def laneFlags (k : Core) (w : DWord) (f : Nat → Flags) : Flags :=
  (k.active w.toNat).foldl (fun a i => a.or (f i)) Flags.zero

end Sys2Proof.Machine
end

