-- ==== Sys2Proof/Certificates/Slice0/Obligations.lean ====
section
/-! DEFINITION. The statements for the provers. -/

open Sys2Proof Sys2Proof.Machine

/-- A step takes the command at the front of the queue and runs it with the queue's rest. -/
def Obligations.StepRunsFront : Prop :=
  ∀ (i : Instr) (s : State), step { s with pending := i :: s.pending } = exec i s

/-- Every command completes from every state, and leaves the commands behind it in the queue; only a removal of the module under more than 1 A
faults, since R27 places that outside the manual's conditions. -/
def Obligations.EveryCommandCompletes : Prop :=
  ∀ (i : Instr) (s : State),
    (∀ m : Nat, i = .moduleRemoval m → 1000 < m → exec i s = .fault .brokenUnderLoad) ∧
    ((∀ m : Nat, i = .moduleRemoval m → m ≤ 1000) → ∃ e, exec i s = .next { s with dev := e })

/-- The canonical form of memory, registers and cores, and the form of the waiting commands, are kept by every step, whatever the state. -/
def Obligations.StepKeepsForm : Prop :=
  ∀ s t : State, s.Inv → step s = .next t → t.Inv

/-- The state after reset has that form, no command waits, every register field reads as its reset value, every core is in IDLE at word 0 with its
S registers 0, and memory lists nothing. -/
def Obligations.ResetForm : Prop :=
  State.reset.Inv ∧ State.reset.pending = [] ∧ State.reset.dev.mem = [] ∧
    (∀ f : Fld, State.reset.dev.get f = f.reset % 2 ^ f.width) ∧
    ∀ c : Nat, (State.reset.dev.core c).seq = .idle ∧ (State.reset.dev.core c).pc = 0 ∧ (∀ n, (State.reset.dev.core c).s n = 0) ∧
      (State.reset.dev.core c).cmd = none

/-- The model's choice of log entry 9: on an empty queue one cycle of the core clock passes. It does nothing while the compute clocks stand; with them
running, each core's idle counter of the cause that holds goes up by one and no other (R158), and its open layer command counts the cycle unless the
core is QUIESCED. Machine time, the links and, where no trace entry waits, memory stand still. Its premises set aside a cycle in which an array
meets an error of its accumulators or of CLM. -/
def Obligations.IdleTick : Prop :=
  ∀ s : State, s.pending = [] →
    let d := s.dev
    (∃ e, step s = .next { s with dev := e }) ∧
    (d.coreOn = false → step s = .next s) ∧
    (d.coreOn = true → d.sramEcc = [] → (∀ c, c < 64 → (d.core c).accEcc = [] ∧ (d.core c).traceQ = []) →
      ∃ e, step s = .next { s with dev := e } ∧ e.mt = d.mt ∧ e.links = d.links ∧ e.mem = d.mem ∧
        ∀ c, c < 64 →
          (e.core c).seq = (d.core c).seq ∧ (e.core c).sreg = (d.core c).sreg ∧ (e.core c).pc = (d.core c).pc ∧
          ((d.core c).seq = .quiesced → (e.core c).cmd = (d.core c).cmd) ∧
          ((d.core c).seq ≠ .quiesced → ((e.core c).cmd.map fun m => (m.record, m.tag, m.cycles, m.startIn, m.ntile, m.pass, m.kchunk)) =
            (d.core c).cmd.map fun m => (m.record, m.tag, m.cycles + 1, m.startIn - 1, m.ntile, m.pass, m.kchunk)) ∧
          ∃ stall : Bool, ((d.core c).occupies = false → stall = false) ∧
            ∀ n, n < 11 → e.get64 (Reg.CORE_SEQ_IDLE_LO.COUNT c n) =
              if n = (d.core c).idleCause stall then (d.get64 (Reg.CORE_SEQ_IDLE_LO.COUNT c n) + 1) % 2 ^ 64
              else d.get64 (Reg.CORE_SEQ_IDLE_LO.COUNT c n))

/-- R131: a fetch of word 0, or of a word beyond LENGTH, is an illegal instruction: no word's row acts there but the one that stands for illegal words
(log entry 5), and where the word can be read it takes the core to FAULT with SEQ_ILLEGAL. -/
def Obligations.IllegalFetch : Prop :=
  ∀ (s : State) (c : CoreId) (ecc : WordEcc),
    let d := s.dev
    let k := d.core c
    d.coreOn = true → k.seq = .run → k.lstartWait = false → k.pc = 0 ∨ k.progLen k.bank < k.pc →
      ((d.fetchEcc c ecc).1 = true → Does (.nop c ecc) s fun e => e = (fetched d c ecc).seqFault c Flt.SEQ_ILLEGAL k.pc ∧ stopsAt c d e) ∧
      (∀ x ∈ scalarRows c ecc, x.1 ≠ opNop → Does x.2.2 s fun e => e = d) ∧
      (∀ x ∈ vectorRows c (.pass ecc), Does x.2 s fun e => e = d)

/-- R421: of the moves of the power ladder, a request is accepted only for a deeper state, from G1, G2 or G3 for G0, and from G4 for G3; a request
for any other move is refused with REASON 7 and moves nothing; a move that ends has entered the state asked for. Its premises set
aside a request that repeats TARGET (it does not count, R464) and one that R422 refuses for an earlier cause. -/
def Obligations.LadderGraph : Prop :=
  ∀ (s : State) (r : Requester),
    let d := s.dev
    let st := d.get Reg.PWR_STATUS.STATE
    let allowed (t : Nat) : Prop := st < t ∨ (t = 0 ∧ (st = 1 ∨ st = 2 ∨ st = 3)) ∨ (t = 3 ∧ st = 4)
    let asks (i : Instr) (t : Nat) : Prop :=
      (Does i s fun e => e.get Reg.PWR_STATUS.STATE = st ∧ (e ≠ d → e.bit Reg.PWR_LADDER.REJ = false → d.bit Reg.PWR_LADDER.REJ = false → allowed t)) ∧
      (r ≠ .planLoader → d.pwr.held = false → d.get Reg.PWR_LADDER.TARGET ≠ t → d.ladderBarred = false →
        ¬allowed t → Does i s fun e =>
          onlyRegs [Reg.PWR_LADDER.REJ, Reg.PWR_LADDER.REJ_CNT, Reg.PWR_LADDER.REASON] d e ∧ e.get Reg.PWR_LADDER.REASON = 7) ∧
      (r ≠ .planLoader → d.pwr.held = false → d.get Reg.PWR_LADDER.TARGET ≠ t → d.ladderBarred = false →
        (∀ c, c < 64 → d.coreBusy c = false) → d.inSomeBlock = false → d.linksBar t = false → d.groupBusy = false →
        d.get Reg.STG_STATUS.STATE ≠ stgArmed → d.bit Reg.COL_CTL.EN = false →
        allowed t → Does i s fun e => e.get Reg.PWR_LADDER.TARGET = t ∧ e.bit Reg.PWR_STATUS.MOVING = true ∧ e.pwr.moveTo = t)
    asks (.ladderRequestG0 r) 0 ∧ asks (.ladderRequestG1 r) 1 ∧ asks (.ladderRequestG2 r) 2 ∧ asks (.ladderRequestG3 r) 3 ∧
      asks (.ladderRequestG4 r) 4 ∧
      (d.pwr.moveTo ≤ 4 → Does .ladderMoveDone s fun e => e.get Reg.PWR_STATUS.STATE = st ∨ e.get Reg.PWR_STATUS.STATE = d.pwr.moveTo)

/-- R50: a NaN is produced in one canonical form per format, whatever the payload and the sign of the NaN it comes from. -/
def Obligations.CanonicalNan : Prop :=
  ∀ (src : FpFmt) (w : Nat) (rnd : Rnd) (sat : Bool), (src.decode w).isNan = true →
    (∀ p : FpFmt × Nat, p ∈ [(fp32, 0x7FC00000), (fp16, 0x7E00), (bf16, 0x7FC0), (e4m3, 0x7F), (e5m2, 0x7E)] →
      (p.1.roundArith rnd (src.decode w)).1 = p.2 ∧ (p.1.convert rnd sat (src.decode w)).1 = p.2) ∧
    ∀ v : Val, ((src.decode w).add v).1 = .nan ∧ (v.add (src.decode w)).1 = .nan ∧ ((src.decode w).mul v).1 = .nan ∧
      (v.mul (src.decode w)).1 = .nan

/-- R133: the 64-bit arithmetic words write S[RD] from S[RA] and S[RB] (or a sign-extended immediate); S0 discards the write; the program
counter moves to the next word; nothing else of the module changes but for the log of a corrected fetch (R127). -/
def Obligations.ScalarArithmetic : Prop :=
  ∀ (s : State) (c : CoreId) (ecc : WordEcc) (w : Nat),
    let d := fetched s.dev c ecc
    let k := d.core c
    let goal (i : Instr) (v : DWord) : Prop := Does i s fun e =>
      onlyCore c d e ∧ e.core c = { k with sreg := (e.core c).sreg, pc := (k.pc + 1) % 4096 } ∧
        ∀ n, (e.core c).s n = if n = wRd w ∧ n ≠ 0 then v.toNat else k.s n
    let a : DWord := BitVec.ofNat 64 (k.s (wRa w))
    let b : DWord := BitVec.ofNat 64 (k.s (wRb w))
    let imm : DWord := (BitVec.ofNat 32 w).signExtend 64
    (Issues s.dev c ecc w [wRd w, wRa w, wRb w] →
      (wOp w = 0x01 → goal (.add c ecc) (a + b)) ∧ (wOp w = 0x02 → goal (.sub c ecc) (a - b)) ∧
      (wOp w = 0x03 → goal (.andW c ecc) (a &&& b)) ∧ (wOp w = 0x04 → goal (.orW c ecc) (a ||| b)) ∧
      (wOp w = 0x05 → goal (.xorW c ecc) (a ^^^ b)) ∧ (wOp w = 0x06 → goal (.shl c ecc) (a <<< (k.s (wRb w) % 64))) ∧
      (wOp w = 0x07 → goal (.shr c ecc) (a >>> (k.s (wRb w) % 64))) ∧
      (wOp w = 0x08 → goal (.sar c ecc) (a.sshiftRight (k.s (wRb w) % 64))) ∧ (wOp w = 0x09 → goal (.mul c ecc) (a * b))) ∧
    (Issues s.dev c ecc w [wRd w, wRa w] → wOp w = 0x0A → goal (.addi c ecc) (a + imm)) ∧
    (Issues s.dev c ecc w [wRd w] → wOp w = 0x0B → goal (.ldi c ecc) imm)

/-- R136, R186: a scalar load whose address is aligned and lies below 3 MiB, in words that can be read, puts the little-endian value into S[RD] and
logs a corrected word; a store writes the low bytes of S[RB] (log entry 6) there and nowhere else; an access that breaks the rule, and a load of an
uncorrectable word, stop the core. -/
def Obligations.ScalarMemory : Prop :=
  ∀ (s : State) (c : CoreId) (ecc : WordEcc) (w : Nat),
    let d := fetched s.dev c ecc
    let k := d.core c
    let a := (BitVec.ofNat 64 (k.s (wRa w)) + (BitVec.ofNat 32 w).signExtend 64).toNat
    let load (i : Instr) (n : Nat) : Prop :=
      (a % n = 0 → a + n ≤ clmSize → d.clmUe c a n = false → Does i s fun e =>
        let d' := d.clmCorrected c a n
        onlyCore c d' e ∧ e.core c = { k with sreg := (e.core c).sreg, pc := (k.pc + 1) % 4096 } ∧
          ∀ r, (e.core c).s r = if r = wRd w ∧ r ≠ 0 then leNat (d.bytes (clmPlace c a) n) else k.s r) ∧
      (a % n ≠ 0 ∨ clmSize < a + n ∨ d.clmUe c a n = true → Does i s (stopsAt c d))
    let store (i : Instr) (n : Nat) : Prop :=
      (a % n = 0 → a + n ≤ clmSize → Does i s fun e =>
        e = { d with mem := e.mem, sramEcc := e.sramEcc, grnBad := e.grnBad, cores := e.cores } ∧ coresBut c d e ∧
          e.core c = { k with pc := (k.pc + 1) % 4096 } ∧ bytesBut (clmPlace c a) n d e ∧
          ∀ j, j < n → e.byte (clmPlace c a + j) = BitVec.ofNat 8 (k.s (wRb w) / 2 ^ (8 * j))) ∧
      (a % n ≠ 0 ∨ clmSize < a + n → Does i s (stopsAt c d))
    (Issues s.dev c ecc w [wRd w, wRa w] → (wOp w = 0x10 → load (.sld c ecc) 8) ∧ (wOp w = 0x12 → load (.sldw c ecc) 4)) ∧
    (Issues s.dev c ecc w [wRa w, wRb w] → (wOp w = 0x11 → store (.sst c ecc) 8) ∧ (wOp w = 0x13 → store (.sstw c ecc) 4))

/-- R133: branches go to their target where their condition on S[RA] and S[RB] holds, and on to the next word otherwise; LOOP and ENDL
count a loop register. Nothing else changes but for the log of a corrected fetch (R127). -/
def Obligations.Branches : Prop :=
  ∀ (s : State) (c : CoreId) (ecc : WordEcc) (w : Nat),
    let d := fetched s.dev c ecc
    let k := d.core c
    let goal (i : Instr) (taken : Prop) (loops : SMap Nat) : Prop := Does i s fun e =>
      onlyCore c d e ∧ (taken → e.core c = { k with pc := wTarget w, loops := loops }) ∧
        (¬taken → e.core c = { k with pc := (k.pc + 1) % 4096, loops := loops })
    let a := k.s (wRa w)
    let b := k.s (wRb w)
    let sa : Int := (BitVec.ofNat 64 a).toInt
    let sb : Int := (BitVec.ofNat 64 b).toInt
    let x := fp32.decode (a % 2 ^ 32)
    let y := fp32.decode (b % 2 ^ 32)
    let num := x.isNan = false ∧ y.isNan = false
    (Issues s.dev c ecc w [wRa w, wRb w] →
      (wOp w = 0x19 → goal (.beq c ecc) (a = b) k.loops) ∧ (wOp w = 0x1A → goal (.bne c ecc) (a ≠ b) k.loops) ∧
      (wOp w = 0x1B → goal (.blt c ecc) (sa < sb) k.loops) ∧ (wOp w = 0x1C → goal (.bge c ecc) (sb ≤ sa) k.loops) ∧
      (wOp w = 0x1D → goal (.bltu c ecc) (a < b) k.loops) ∧ (wOp w = 0x1E → goal (.fblt c ecc) (num ∧ Val.cmp x y < 0) k.loops) ∧
      (wOp w = 0x1F → goal (.fbge c ecc) (num ∧ 0 ≤ Val.cmp x y) k.loops)) ∧
    (Issues s.dev c ecc w [] → wOp w = 0x18 → goal (.br c ecc) True k.loops) ∧
    (Issues s.dev c ecc w [wRa w] → wOp w = 0x20 → goal (.loopW c ecc) (a % 2 ^ 32 = 0) (mset 0 k.loops (wLc w) (a % 2 ^ 32))) ∧
    (Issues s.dev c ecc w [] → wOp w = 0x21 →
      let n := (mget 0 k.loops (wLc w) + 2 ^ 32 - 1) % 2 ^ 32
      goal (.endl c ecc) (n ≠ 0) (mset 0 k.loops (wLc w) n))

/-- R138, R141 to R144: LSTART of a well-formed record (at once, or when its stall ends) snapshots it and opens the command with its tag; it
stalls while the previous command or a COLGO entry is incomplete; a malformed record, and an LSTART or LEND out of place, stop the core. LEND closes
the command. A command that meets R142's conditions completes with CMP_STATUS = 1 and its event; the watchdog ends it with a fault. -/
def Obligations.LayerCommands : Prop :=
  ∀ (s : State) (c : CoreId) (ecc : WordEcc) (w : Nat),
    let opens (i : Instr) (d : Dev) : Prop :=
      let k := d.core c
      let off := k.s (wRa w) % 2 ^ 22
      let tag := k.progId k.bank * 2 ^ 20 + wImm w % 2 ^ 20
      let r := d.clm c off 256
      (off + 256 ≤ clmSize → d.sramMark (clmPlace c off) 256 = 0 → recOk c k.chain off r = true → Does i s fun e =>
        coresBut c d e ∧ (e.core c).pc = (k.pc + 1) % 4096 ∧ (e.core c).lstartWait = false ∧
          (∃ m, (e.core c).cmd = some m ∧ m.record = r ∧ m.recOff = off ∧ m.tag = tag ∧ m.isOpen = true ∧ m.cycles = 0 ∧ m.startIn = 24 ∧
            m.ntile = 0 ∧ m.pass = 0 ∧ m.kchunk = 0 ∧ m.due = [] ∧ m.step = d.get64 (Reg.CORE_SEQ_STEP_LO.STEP c)) ∧
          e.get (Reg.CORE_SEQ_TAG.TAG c) = tag ∧ e.get (Reg.CORE_SEQ_NFCOUNT.COUNT c) = 0 ∧
          (∀ j, j < 4 → e.byte (clmPlace c (off + 0xE8) + j) = 0#8) ∧ bytesBut (clmPlace c (off + 0xE8)) 4 d e ∧
          (recUseVec r = true → (e.core c).vl = 1024) ∧ (∀ n, (e.core c).s n = k.s n) ∧
          regsBut [Reg.CORE_SEQ_TAG.TAG c, Reg.CORE_SEQ_NFCOUNT.COUNT c, Reg.CORE_MXA_STATUS.MODE c, Reg.CORE_SEQ_TRACE_DROP.COUNT c] d e) ∧
      (clmSize < off + 256 ∨ d.clmUe c off 256 = true ∨ (d.sramMark (clmPlace c off) 256 = 0 ∧ recOk c k.chain off r = false) →
        Does i s fun e => (e.core c).seq = .fault ∧ (e.core c).cmd = none ∧ e.bit (Reg.CORE_SEQ_ERR.FAULT c) = true ∧
          e.get Reg.FLT_STATUS.HL = hlStopped)
    let d := fetched s.dev c ecc
    let k := d.core c
    (Issues s.dev c ecc w [wRa w] → wOp w = 0x28 →
      (wImm w % 2 ^ 20 ≠ 0 → k.isOpen = false →
        (k.cmd = none → k.colgo = [] → opens (.lstart c ecc) d) ∧
        (k.cmd ≠ none ∨ k.colgo ≠ [] → Does (.lstart c ecc) s fun e => onlyCore c d e ∧ e.core c = { k with lstartWait := true })) ∧
      (wImm w % 2 ^ 20 = 0 ∨ k.isOpen = true → Does (.lstart c ecc) s (stopsAt c d))) ∧
    (Issues s.dev c ecc w [] → wOp w = 0x29 →
      (∀ m, k.cmd = some m → m.isOpen = true → Does (.lend c ecc) s fun e =>
        onlyCore c d e ∧ e.core c = { k with pc := (k.pc + 1) % 4096, cmd := some { m with isOpen := false } }) ∧
      (k.isOpen = false → Does (.lend c ecc) s (stopsAt c d))) ∧
    (let d := s.dev
     let k := d.core c
     (d.coreOn = true → k.seq = .run → k.lstartWait = true → k.word = w → k.cmd = none → k.colgo = [] → opens (.lstartProceed c) d) ∧
     ∀ m, k.cmd = some m → d.coreOn = true → k.seq ≠ .quiesced →
      (k.canComplete m = true → m.recOff + 256 ≤ clmSize →
        Does (.layerComplete c) s fun e =>
          coresBut c d e ∧ (e.core c).cmd = none ∧ (e.core c).seq = k.seq ∧ (e.core c).pc = k.pc ∧
            e.byte (clmPlace c (m.recOff + 0xE8)) = 1#8 ∧ bytesBut (clmPlace c (m.recOff + 0xE8)) 24 d e ∧
            (recEvtDone m.record < 64 → e.event c (recEvtDone m.record) = true) ∧
            (recUseMxa m.record = true → e.bit (Reg.CORE_MXA_STATUS.BUSY c) = false ∧
              e.bit (Reg.CORE_MXA_STATUS.KEPT c) = !(arrRec m.record).writeOut)) ∧
      (recWdog m.record ≠ 0 → Does (.seqWdog c) s (stopsAt c d)))

/-- R137, R142, R145 to R147: a wait word whose condition holds goes on at once, otherwise the core waits at it; a waiting core goes on when
its condition holds or its machine time comes, and faults at CORE_SEQ_WAITLIM. A machine time that has passed counts a late wait. -/
def Obligations.WaitWords : Prop :=
  ∀ (s : State) (c : CoreId) (ecc : WordEcc) (w : Nat),
    let goOn (d : Dev) (i : Instr) : Prop := Does i s fun e =>
      coresBut c d e ∧ (e.core c).pc = ((d.core c).pc + 1) % 4096 ∧ (e.core c).seq = .run ∧ (e.core c).cmd = (d.core c).cmd ∧ e.mem = d.mem
    let clears (d : Dev) (i : Instr) : Prop := Does i s fun e =>
      ∀ n, n < 64 → e.event c n = (d.event c n && !(decide (n = wImm w % 64) && (wImm w).testBit 8))
    let marks (d : Dev) (i : Instr) : Prop := Does i s fun e =>
      coresBut c d e ∧ (e.core c).pc = ((d.core c).pc + 1) % 4096 ∧ (e.core c).seq = .run ∧
        (e.core c).colgo = (d.core c).colgo ++ [(d.core c).s (wRa w)] ∧ e.mem = d.mem
    let halts (d : Dev) (i : Instr) : Prop := Does i s fun e =>
      coresBut c d e ∧ (e.core c).pc = ((d.core c).pc + 1) % 4096 ∧ e.mem = d.mem ∧
        (e.core c).seq = if (wImm w).testBit 0 then .loadchk else .halted
    (let d := fetched s.dev c ecc
     let k := d.core c
     let ra := k.s (wRa w)
     let stay (i : Instr) : Prop := Does i s fun e =>
       coresBut c d e ∧ (e.core c).pc = k.pc ∧ (e.core c).seq = .wait ∧ (e.core c).cmd = k.cmd ∧ e.mem = d.mem ∧
         regsBut [Reg.CORE_SEQ_TRACE_DROP.COUNT c] d e
     (Issues s.dev c ecc w [] →
       (wOp w = 0x2A → (k.cmd = none → goOn d (.lwait c ecc)) ∧ (k.cmd ≠ none → stay (.lwait c ecc))) ∧
       (wOp w = 0x2D → (d.event c (wImm w % 64) = true → goOn d (.waitev c ecc) ∧ clears d (.waitev c ecc)) ∧
         (d.event c (wImm w % 64) = false → stay (.waitev c ecc))) ∧
       (wOp w = 0x36 → (k.ixq = [] → goOn d (.ixwait c ecc)) ∧ (k.ixq ≠ [] → stay (.ixwait c ecc))) ∧
       (wOp w = 0x3C → (k.cmd = none → k.ixq = [] → halts d (.halt c ecc)) ∧ (k.cmd ≠ none ∨ k.ixq ≠ [] → stay (.halt c ecc)))) ∧
     (Issues s.dev c ecc w [wRa w] →
       (wOp w = 0x31 → (ra ∉ k.colgo → goOn d (.colwait c ecc)) ∧ (ra ∈ k.colgo → stay (.colwait c ecc))) ∧
       (wOp w = 0x30 → (k.cmd = none → marks d (.colgo c ecc)) ∧
         (k.cmd ≠ none → (s.dev.core c).isOpen = false → stay (.colgo c ecc)) ∧
         ((s.dev.core c).isOpen = true → Does (.colgo c ecc) s (stopsAt c d))) ∧
       (wOp w = 0x2C →
         let t := (ra + 15) / 16 * 16
         (t < d.mt → Does (.waitmt c ecc) s fun e => onlyCore c { d with regs := e.regs } e ∧ e.core c = k.next ∧
           e.bit (Reg.CORE_SEQ_ERR.LATE c) = true ∧ e.get (Reg.CORE_SEQ_ERR.LATE_CNT c) = min (d.get (Reg.CORE_SEQ_ERR.LATE_CNT c) + 1)
             (2 ^ (Reg.CORE_SEQ_ERR.LATE_CNT c).width - 1)) ∧
         (d.mt = t → Does (.waitmt c ecc) s fun e => onlyCore c d e ∧ e.core c = k.next) ∧
         (d.mt < t → stay (.waitmt c ecc))))) ∧
    (let d := s.dev
     let k := d.core c
     let ra := k.s (wRa w)
     d.coreOn = true → k.seq = .wait → k.word = w →
      (wOp w = 0x2C → (ra + 15) / 16 * 16 ≤ d.mt → goOn d (.waitmtTrigger c)) ∧
      (wOp w = 0x2A → k.cmd = none → goOn d (.waitConditionMet c)) ∧
      (wOp w = 0x2D → d.event c (wImm w % 64) = true → goOn d (.waitConditionMet c) ∧ clears d (.waitConditionMet c)) ∧
      (wOp w = 0x36 → k.ixq = [] → goOn d (.waitConditionMet c)) ∧
      (wOp w = 0x31 → ra ∉ k.colgo → goOn d (.waitConditionMet c)) ∧
      (wOp w = 0x30 → k.cmd = none → marks d (.waitConditionMet c)) ∧
      (wOp w = 0x3C → k.cmd = none → k.ixq = [] → halts d (.waitConditionMet c)) ∧
      ((wOp w = 0x2A ∧ k.cmd ≠ none) ∨ (wOp w = 0x2D ∧ d.event c (wImm w % 64) = false) ∨ (wOp w = 0x36 ∧ k.ixq ≠ []) →
        d.get (Reg.CORE_SEQ_WAITLIM.US c) ≠ 0 → Does (.seqWaitTimeout c) s (stopsAt c d)))

/-- R133, R145, R156: the remaining words. SETEV and CLREV set and clear one event, RDMT reads machine time, STEPSET sets the step number,
TRACE offers a trace entry with two S registers, NOP only goes on. -/
def Obligations.EventAndStepWords : Prop :=
  ∀ (s : State) (c : CoreId) (ecc : WordEcc) (w : Nat),
    let d := fetched s.dev c ecc
    let k := d.core c
    let ev := wImm w % 64
    let evs := [Reg.CORE_SEQ_EVT_LO.EVT c, Reg.CORE_SEQ_EVT_HI.EVT c]
    (Issues s.dev c ecc w [] →
      (wOp w = 0x2E → Does (.setev c ecc) s fun e =>
        e = { d with regs := e.regs, cores := e.cores } ∧ coresBut c d e ∧ e.core c = k.next ∧ regsBut evs d e ∧
          ∀ n, n < 64 → e.event c n = (decide (n = ev) || d.event c n)) ∧
      (wOp w = 0x2F → Does (.clrev c ecc) s fun e =>
        e = { d with regs := e.regs, cores := e.cores } ∧ coresBut c d e ∧ e.core c = k.next ∧ regsBut evs d e ∧
          ∀ n, n < 64 → e.event c n = (decide (n ≠ ev) && d.event c n)) ∧
      (wOp w = 0x3B → Does (.nop c ecc) s fun e => onlyCore c d e ∧ e.core c = k.next)) ∧
    (Issues s.dev c ecc w [wRd w] → wOp w = 0x38 → Does (.rdmt c ecc) s fun e =>
      onlyCore c d e ∧ e.core c = { k with sreg := (e.core c).sreg, pc := (k.pc + 1) % 4096 } ∧
        ∀ n, (e.core c).s n = if n = wRd w ∧ n ≠ 0 then d.mt % 2 ^ 64 else k.s n) ∧
    (Issues s.dev c ecc w [wRa w] → wOp w = 0x39 → Does (.stepset c ecc) s fun e =>
      e = { d with regs := e.regs, cores := e.cores } ∧ coresBut c d e ∧ e.core c = k.next ∧
        e.get64 (Reg.CORE_SEQ_STEP_LO.STEP c) = k.s (wRa w) ∧
        regsBut [Reg.CORE_SEQ_STEP_LO.STEP c, (Reg.CORE_SEQ_STEP_LO.STEP c).hi] d e) ∧
    (Issues s.dev c ecc w [wRa w, wRb w] → wOp w = 0x3A → Does (.traceW c ecc) s fun e =>
      coresBut c d e ∧ (e.core c).pc = (k.pc + 1) % 4096 ∧ e.mem = d.mem ∧ regsBut [Reg.CORE_SEQ_TRACE_DROP.COUNT c] d e ∧
        (d.bit (Reg.CORE_SEQ_TRACE_CTL.EN c) = false → e.core c = k.next) ∧
        (d.bit (Reg.CORE_SEQ_TRACE_CTL.EN c) = true → d.bit (Reg.CORE_SEQ_TRACE_CTL.STOP c) = false → k.traceQ.length < 16 →
          (e.core c).traceQ = k.traceQ ++ [leBytes 8 d.mt ++ leBytes 4 k.tagNow ++ leBytes 1 10 ++ leBytes 1 c ++
            leBytes 2 k.traceSeq ++ leBytes 8 (k.s (wRa w)) ++ leBytes 8 (k.s (wRb w))]))

/-- R127 to R130: a start request is accepted in IDLE, HALTED and QUIESCED and otherwise rejected with a flag; a passed check swaps the banks
and runs the core from word 1 with resume state gone; a failed one, an uncorrectable word among them, returns to the earlier state, sets START_FAIL
and stops the job. A write to an instruction bank lands in the inactive bank only. -/
def Obligations.StartAndImem : Prop :=
  ∀ (s : State) (c : CoreId) (r : Requester),
    let d := s.dev
    let k := d.core c
    (awake d →
      (k.seq = .idle ∨ k.seq = .halted ∨ k.seq = .quiesced → Does (.start r c) s fun e =>
        onlyCore c d e ∧ e.core c = { k with prev := k.seq, seq := .loadchk }) ∧
      (¬(k.seq = .idle ∨ k.seq = .halted ∨ k.seq = .quiesced) → Does (.start r c) s fun e =>
        onlyRegs [Reg.CORE_SEQ_ERR.START_REJ c] d e ∧ e.bit (Reg.CORE_SEQ_ERR.START_REJ c) = true) ∧
      ∀ (bank : Bool) (word : BitVec 12) (hi : Bool) (v : Word),
        (bank ≠ k.bank → k.seq ≠ .loadchk → Does (.imemWrite c bank word hi v) s fun e =>
          onlyCore c d e ∧ e.core c = { k with imem0 := (e.core c).imem0, imem1 := (e.core c).imem1, imemEcc := (e.core c).imemEcc } ∧
            (∀ j, j ≠ word.toNat → (e.core c).imem bank j = k.imem bank j) ∧ (∀ j, (e.core c).imem k.bank j = k.imem k.bank j) ∧
            (hi = true → (e.core c).imem bank word.toNat = k.imem bank word.toNat % 2 ^ 32 + 2 ^ 32 * v.toNat) ∧
            (hi = false → (e.core c).imem bank word.toNat = k.imem bank word.toNat / 2 ^ 32 % 2 ^ 32 * 2 ^ 32 + v.toNat)) ∧
        (bank = k.bank ∨ k.seq = .loadchk → Does (.imemWrite c bank word hi v) s fun e =>
          onlyRegs [Reg.CORE_SEQ_ERR.IMEM_BUSY c] d e ∧ e.bit (Reg.CORE_SEQ_ERR.IMEM_BUSY c) = true)) ∧
    (∀ errs, d.coreOn = true → k.seq = .loadchk → d.bit (Reg.CORE_SEQ_CTRL.QREQ c) = false →
      let kb := k.bankUpsets errs
      (kb.bankOk (!k.bank) = true → Does (.loadchkDone c errs) s fun e =>
        coresBut c d e ∧ e.mem = d.mem ∧ (e.core c).bank = (!k.bank) ∧ (e.core c).pc = 1 ∧ (e.core c).seq = .run ∧
          (e.core c).cmd = none ∧ (e.core c).ixq = [] ∧ (∀ n, (e.core c).s n = k.s n) ∧
          regsBut [Reg.CORE_SEQ_TRACE_DROP.COUNT c, Reg.CORE_MXA_STATUS.BUSY c, Reg.CORE_MXA_STATUS.ACTIVE c, Reg.CORE_MXA_STATUS.KEPT c] d e) ∧
      (kb.bankOk (!k.bank) = false → k.prev = .idle ∨ k.prev = .halted ∨ k.prev = .quiesced → Does (.loadchkDone c errs) s fun e =>
        (e.core c).seq = k.prev ∧ (e.core c).bank = k.bank ∧ e.bit (Reg.CORE_SEQ_ERR.START_FAIL c) = true ∧
          e.get Reg.FLT_STATUS.HL = hlStopped))

/-- R97, R98, R152 to R154: a quiesce request stops a running core and is acknowledged at once by a stopped one, with the resume record; the drained
core reports QUIESCED with its resume record, after the spill of a partial N-tile; a resume with a good record continues at its PC, and one outside
QUIESCED, or with a record that cannot be read or fails its checks, is refused. -/
def Obligations.QuiesceAndResume : Prop :=
  ∀ (s : State) (c : CoreId) (r : Requester),
    let d := s.dev
    let k := d.core c
    let p := clmPlace c (d.get (Reg.CORE_SEQ_RESUME_ADDR.ADDR c) * 64)
    let b := d.bytes p 64
    (awake d →
      (k.seq = .run ∨ k.seq = .wait → Does (.qreq r c) s fun e =>
        e = { d with regs := e.regs, cores := e.cores } ∧ coresBut c d e ∧ (e.core c).seq = .quiescing ∧ (e.core c).pc = k.pc ∧
          (e.core c).sreg = k.sreg ∧ regsBut [Reg.CORE_SEQ_CTRL.QREQ c] d e ∧ e.bit (Reg.CORE_SEQ_CTRL.QREQ c) = true ∧
          (e.core c).tileOwed = (k.wActive.isSome && (k.cmd.map LayerCmd.tileReady).getD false)) ∧
      (k.seq = .idle ∨ k.seq = .halted ∨ k.seq = .fault → Does (.qreq r c) s fun e =>
        e = { d with mem := e.mem, sramEcc := e.sramEcc, grnBad := e.grnBad } ∧ bytesBut p 64 d e ∧ e.bytes p 64 = d.resumeBytes c) ∧
      (k.seq = .quiesced → Does (.qreq r c) s fun e => e = d) ∧
      (k.seq = .loadchk ∨ k.seq = .quiescing → Does (.qreq r c) s fun e =>
        onlyRegs [Reg.CORE_SEQ_CTRL.QREQ c] d e ∧ e.bit (Reg.CORE_SEQ_CTRL.QREQ c) = true) ∧
      (k.seq ≠ .quiesced → Does (.resume r c) s fun e =>
        onlyRegs [Reg.CORE_SEQ_ERR.RESUME_REJ c] d e ∧ e.bit (Reg.CORE_SEQ_ERR.RESUME_REJ c) = true) ∧
      (k.seq = .quiesced → d.sramEcc = [] → d.resumeOk c b = true → Does (.resume r c) s fun e =>
        coresBut c d e ∧ e.mem = d.mem ∧ (e.core c).seq = .run ∧ (e.core c).pc = recField b 8 4 % 4096 ∧ (e.core c).sreg = k.sreg ∧
          (e.core c).cmd.isSome = (recField b 4 4).testBit 0) ∧
      (k.seq = .quiesced → d.clmUe c (d.resumeOff c) 64 = true ∨ d.resumeOk c b = false → Does (.resume r c) s fun e =>
        (e.core c).seq = .quiesced ∧ e.get Reg.FLT_STATUS.HL = hlStopped)) ∧
    ∀ upsets,
      let d := s.dev.accUpset c upsets
      let k := d.core c
      d.coreOn = true → k.seq = .quiescing → k.drained = true → k.ixq = [] →
        ((∀ m, k.cmd = some m → m.spills = false) → Does (.quiesceDone c upsets) s fun e =>
          coresBut c d e ∧ (e.core c).seq = .quiesced ∧ (e.core c).draining = false ∧ (e.core c).pc = k.pc ∧ (e.core c).sreg = k.sreg ∧
            e.bit (Reg.CORE_SEQ_CTRL.QREQ c) = false ∧
            (k.cmd = none → bytesBut p 64 d e ∧ e.bytes p 64 = d.resumeBytes c)) ∧
        (∀ m, k.cmd = some m → m.spills = true →
          let es := (arrRec m.record).spillEntries m.ntile
          ((∀ x ∈ es, mget 0 k.accEcc x = 0) → Does (.quiesceDone c upsets) s fun e =>
            coresBut c d e ∧ (e.core c).seq = .quiesced ∧ (e.core c).pc = k.pc ∧ e.bit (Reg.CORE_SEQ_CTRL.QREQ c) = false ∧
              ∃ m', (e.core c).cmd = some m' ∧ m'.spilled = true ∧ m'.record = m.record) ∧
          ((∃ x ∈ es, mget 0 k.accEcc x = 2) → Does (.quiesceDone c upsets) s fun e =>
            (e.core c).seq = .fault ∧ e.bit (Reg.CORE_MXA_ERR.ACC_UE c) = true ∧ e.get Reg.FLT_STATUS.HL = hlStopped))

/-- R69, R145, R159: software sets events by writing ones; a flag clear takes the flag and its counter to 0, or to 1 where hardware raises the
flag in the same cycle; IDLECLR zeroes the eleven idle counters. Nothing else changes. -/
def Obligations.CoreRegisterCommands : Prop :=
  ∀ (s : State) (c : CoreId) (r : Requester), awake s.dev →
    let d := s.dev
    (∀ (hi : Bool) (mask : Word), Does (.eventSetWrite r c hi mask) s fun e =>
      onlyRegs [if hi then Reg.CORE_SEQ_EVT_HI.EVT c else Reg.CORE_SEQ_EVT_LO.EVT c] d e ∧
        ∀ n, n < 64 → e.event c n = (d.event c n || (decide (hi = decide (32 ≤ n)) && mask.toNat.testBit (n % 32)))) ∧
    (∀ (mask hw : BitVec 6), Does (.fpflagsClear c mask hw) s fun e =>
      e = { d with regs := e.regs } ∧
        ∀ x ∈ [(0, Reg.CORE_SEQ_FPFLAGS.INVALID c, Reg.CORE_SEQ_FPEVENTS.INVALID_CNT c),
            (1, Reg.CORE_SEQ_FPFLAGS.DIVZERO c, Reg.CORE_SEQ_FPEVENTS.DIVZERO_CNT c),
            (2, Reg.CORE_SEQ_FPFLAGS.OVERFLOW c, Reg.CORE_SEQ_FPEVENTS.OVERFLOW_CNT c),
            (3, Reg.CORE_SEQ_FPFLAGS.UNDERFLOW c, Reg.CORE_SEQ_FPEVENTS.UNDERFLOW_CNT c),
            (5, Reg.CORE_SEQ_FPFLAGS.NONFINITE c, Reg.CORE_SEQ_FPEVENTS.NONFINITE_CNT c)],
          (mask.toNat.testBit x.1 = true → hw.toNat.testBit x.1 = false → e.bit x.2.1 = false ∧ e.get x.2.2 = 0) ∧
          (mask.toNat.testBit x.1 = true → hw.toNat.testBit x.1 = true → e.bit x.2.1 = true ∧ e.get x.2.2 = 1) ∧
          (mask.toNat.testBit x.1 = false → hw.toNat.testBit x.1 = false → e.bit x.2.1 = d.bit x.2.1 ∧ e.get x.2.2 = d.get x.2.2)) ∧
    Does (.idleclr r c) s fun e =>
      onlyRegs ((List.range 11).flatMap fun n =>
        [Reg.CORE_SEQ_IDLE_LO.COUNT c n, (Reg.CORE_SEQ_IDLE_LO.COUNT c n).hi]) d e ∧
        ∀ n, n < 11 → e.get64 (Reg.CORE_SEQ_IDLE_LO.COUNT c n) = 0

/-- R148 to R151: IXG and IXS queue a copy of their descriptor and stall on a full queue; ACC = 1 on IXG, and a descriptor that cannot be read, stop
the core. A well-formed gather copies each named row to its place in CLM and zeros where an index names none, a scatter copies each row to its
place in the table, the last one winning; an index at or above BOUND is flagged; the operation then leaves the queue with its event. A malformed one
stops the core. -/
def Obligations.IndexUnit : Prop :=
  ∀ (s : State) (c : CoreId) (ecc : WordEcc) (w : Nat),
    (let d := fetched s.dev c ecc
     let k := d.core c
     let a := k.s (wRa w)
     let inClm := a % 32 = 0 ∧ a + 32 ≤ clmSize
     let queues (i : Instr) (scatter : Bool) : Prop :=
       (k.ixq.length < 4 →
         (inClm → d.clmUe c a 32 = false → Does i s fun e =>
           onlyCore c (d.clmCorrected c a 32) e ∧ e.core c = { k with
             pc := (k.pc + 1) % 4096,
             ixq := k.ixq ++ [⟨d.bytes (clmPlace c a) 32, scatter, wImm w % 128, (wImm w).testBit 8, 0⟩] }) ∧
         (inClm → d.clmUe c a 32 = true → Does i s (stopsAt c d)) ∧
         (¬inClm → Does i s fun e => onlyCore c d e ∧ e.core c = { k with
             pc := (k.pc + 1) % 4096, ixq := k.ixq ++ [⟨[], scatter, wImm w % 128, (wImm w).testBit 8, 0⟩] })) ∧
       (4 ≤ k.ixq.length → Does i s fun e => e = d)
     Issues s.dev c ecc w [wRa w] →
       (wOp w = 0x34 → ((wImm w).testBit 8 = false → queues (.ixg c ecc) false) ∧
         ((wImm w).testBit 8 = true → Does (.ixg c ecc) s (stopsAt c d))) ∧
       (wOp w = 0x35 → queues (.ixs c ecc) true)) ∧
    (let d := s.dev
     let k := d.core c
     ∀ (o : IxOp) (rest : List IxOp), k.ixq = o :: rest → d.coreOn = true → k.draining = false → k.seq ≠ .quiesced → k.seq ≠ .loadchk →
      (o.ok = false → Does (.indexOpDone c) s fun e =>
        (e.core c).seq = .fault ∧ (e.core c).ixq = rest ∧ e.get Reg.FLT_STATUS.HL = hlStopped) ∧
      (o.ok = true →
        let x := ixDesc o.desc
        let n := x.count
        let idx (j : Nat) : Nat := d.clmNat c (x.idxAddr + 4 * j) 4
        let named (j : Nat) : Prop := idx j ≠ 0xFFFFFFFF ∧ idx j < x.bound
        let at_ (j : Nat) : Nat := x.table + idx j * x.rowStride
        let row (j : Nat) : Nat := clmPlace c (x.clmAddr + j * x.rowBytes)
        let oob := ((List.range n).filter fun j => decide (o.done ≤ j ∧ idx j ≠ 0xFFFFFFFF ∧ x.bound ≤ idx j)).length
        let ended (e : Dev) : Prop :=
          coresBut c d e ∧ e.core c = { k with ixq := rest } ∧ (∀ v, v < 64 → e.event c v = (decide (v = o.event) || d.event c v)) ∧
            e.bit (Reg.CORE_SEQ_ERR.IDX_OOB c) = (d.bit (Reg.CORE_SEQ_ERR.IDX_OOB c) || decide (oob ≠ 0)) ∧
            e.get (Reg.CORE_SEQ_ERR.OOB_CNT c) = min (d.get (Reg.CORE_SEQ_ERR.OOB_CNT c) + oob) (2 ^ (Reg.CORE_SEQ_ERR.OOB_CNT c).width - 1)
        d.sramEcc = [] → d.grnBad = [] → d.gdmDead = [] → (∀ j, j < n → named j → d.memRange (at_ j) x.rowBytes = true) →
          (o.scatter = false → x.idxAddr + 4 * n ≤ x.clmAddr ∨ x.clmAddr + n * x.rowBytes ≤ x.idxAddr → Does (.indexOpDone c) s fun e =>
            ended e ∧ bytesBut (row o.done) ((n - o.done) * x.rowBytes) d e ∧
              ∀ j i, o.done ≤ j → j < n → i < x.rowBytes →
                (named j → e.byte (row j + i) = d.rd (at_ j + i)) ∧ (¬named j → e.byte (row j + i) = 0#8)) ∧
          (o.scatter = true → (∀ i, i < 256 → d.bit (Reg.GRN_RBT_CTL.EN i) = false) → Does (.indexOpDone c) s fun e =>
            ended e ∧
              (∀ q, (∀ j i, o.done ≤ j → j < n → named j → i < x.rowBytes → d.place (at_ j + i) ≠ some q) → e.byte q = d.byte q) ∧
              ∀ j i q, o.done ≤ j → j < n → named j → i < x.rowBytes → d.place (at_ j + i) = some q →
                (∀ j' i', j < j' → j' < n → named j' → i' < x.rowBytes → d.place (at_ j' + i') ≠ some q) →
                (∀ i', i < i' → i' < x.rowBytes → d.place (at_ j + i') ≠ some q) →
                  e.byte q = d.byte (row j + i))))

/-- R108, R127: a vector word that can be read is passed to the issue queue in program order; with the queue full the sequencer stalls; one that
cannot be read, and one that is passed with no layer command of the vector engine open, stop the core. -/
def Obligations.VectorPass : Prop :=
  ∀ (s : State) (c : CoreId) (ecc : WordEcc),
    let k0 := s.dev.core c
    let d := fetched s.dev c ecc
    let k := d.core c
    ∀ x ∈ vectorRows c (.pass ecc),
      (Passes s.dev c ecc x.1 →
        (k0.vq.length < 32 → Does x.2 s fun e => onlyCore c d e ∧
          e.core c = { k with pc := (k.pc + 1) % 4096, vq := k.vq ++ [BitVec.ofNat 64 k0.word] }) ∧
        (32 ≤ k0.vq.length → Does x.2 s fun e => e = d)) ∧
      (s.dev.coreOn = true → k0.issuing = true → k0.inProg = true → wClass k0.word = 3 → vOp k0.word = x.1 →
        (s.dev.fetchEcc c ecc).1 = false ∨ k0.isOpen = false ∨ ((k0.cmd.map fun m => recUseVec m.record).getD false) = false →
          Does x.2 s (stopsAt c s.dev))

/-- R107, R109, R114, R123: the element arithmetic words. An INT32 lane wraps at 32 bits; a floating-point lane is the exact result rounded once by
the word's RND; the flags of the active lanes are raised; a stochastic word advances SR_BASE. -/
def Obligations.VectorArithmetic : Prop :=
  ∀ (s : State) (c : CoreId) (w : DWord) (rest : List DWord) (m : LayerCmd) (u : List RfUpset),
    let d := taken s.dev c w rest u
    let k := d.core c
    let n := w.toNat
    let t := vTyp n
    let size := laneSize t
    let fmt := laneFmt t
    let a (i : Nat) : Nat := k.vElem size (vVa n) i
    let b (i : Nat) : Nat := k.opB n i
    let int (i : Instr) (f : Word → Word → Word) : Prop := t = 1 → Does i s fun e =>
      vecFrame c [] d e ∧ vecDest c w 4 (fun j => (f (BitVec.ofNat 32 (a j)) (BitVec.ofNat 32 (b j))).toNat) d e ∧
        (e.core c).srBase = k.srBase
    let flt (i : Instr) (f : Nat → Val × Bool) : Prop := t ≠ 1 → Does i s fun e =>
      let r (j : Nat) := fpResult fmt (k.vRound n m.step j) (f j)
      vecFrame c (fpFields c) d e ∧ vecDest c w size (fun j => (r j).1) d e ∧
        raisesFlags c ((laneFlags k w fun j => (r j).2).or (k.scalarFlags n)) d e ∧
        (e.core c).srBase = if vRnd n = 2 then (k.srBase + k.vl.val * k.srStep) % 2 ^ 64 else k.srBase
    let va (j : Nat) : Val := fmt.decode (a j)
    let vb (j : Nat) : Val := fmt.decode (b j)
    (VecIssues s.dev c 0x10 w rest m u → int (.vadd c (.issue u)) (· + ·) ∧ flt (.vadd c (.issue u)) fun j => Val.add (va j) (vb j)) ∧
    (VecIssues s.dev c 0x11 w rest m u → int (.vsub c (.issue u)) (· - ·) ∧ flt (.vsub c (.issue u)) fun j => Val.add (va j) (vb j).neg) ∧
    (VecIssues s.dev c 0x12 w rest m u → int (.vmul c (.issue u)) (· * ·) ∧ flt (.vmul c (.issue u)) fun j => Val.mul (va j) (vb j)) ∧
    (VecIssues s.dev c 0x13 w rest m u →
      flt (.vfma c (.issue u)) fun j => fmaVal (va j) (vb j) (fmt.decode (k.vElem size (vVc n) j)))

/-- R65, R106, R107, R109: comparison, selection and mask words. VMIN and VMAX of INT32 lanes compare as signed numbers; VCMP and the mask words
write a mask register; VMPOP counts. None raises an arithmetic flag but for converting a broadcast scalar. -/
def Obligations.VectorCompareAndMask : Prop :=
  ∀ (s : State) (c : CoreId) (w : DWord) (rest : List DWord) (m : LayerCmd) (u : List RfUpset),
    let d := taken s.dev c w rest u
    let k := d.core c
    let n := w.toNat
    let size := laneSize (vTyp n)
    let fmt := laneFmt (vTyp n)
    let a (i : Nat) : Nat := k.vElem size (vVa n) i
    let b (i : Nat) : Nat := k.opB n i
    let lanes (i : Instr) (f : Nat → Nat) : Prop := Does i s fun e =>
      vecFrame c (fpFields c) d e ∧ vecDest c w size f d e ∧ raisesFlags c (k.scalarFlags n) d e ∧ (e.core c).srBase = k.srBase
    let pick (i : Instr) (g : Int → Int → Bool) (h : Val → Val → Val) : Prop :=
      (vTyp n = 1 → lanes i fun j =>
        if g (BitVec.ofNat 32 (a j)).toInt (BitVec.ofNat 32 (b j)).toInt then a j else b j) ∧
      (vTyp n ≠ 1 → lanes i fun j => (fmt.roundArith .nearest (h (fmt.decode (a j)) (fmt.decode (b j)))).1)
    let bits (i : Instr) (f : Nat → Bool) : Prop := Does i s fun e => vecFrame c [] d e ∧ maskDest c w f d e
    (VecIssues s.dev c 0x14 w rest m u → pick (.vmin c (.issue u)) (fun x y => decide (x ≤ y)) minVal) ∧
    (VecIssues s.dev c 0x15 w rest m u → pick (.vmax c (.issue u)) (fun x y => decide (y ≤ x)) maxVal) ∧
    (VecIssues s.dev c 0x16 w rest m u → Does (.vcmp c (.issue u)) s fun e =>
      vecFrame c (fpFields c) d e ∧ maskDest c w (fun j => vcmpCond n (a j) (b j)) d e ∧
        raisesFlags c (if vImm n % 8 = 7 then Flags.zero else k.scalarFlags n) d e) ∧
    (VecIssues s.dev c 0x17 w rest m u → lanes (.vsel c (.issue u)) fun j => if k.maskBit (vMsk n) j then a j else b j) ∧
    (VecIssues s.dev c 0x20 w rest m u → bits (.vmand c (.issue u)) fun j => k.maskBit (vVa n) j && k.maskBit (vVb n) j) ∧
    (VecIssues s.dev c 0x21 w rest m u → bits (.vmor c (.issue u)) fun j => k.maskBit (vVa n) j || k.maskBit (vVb n) j) ∧
    (VecIssues s.dev c 0x22 w rest m u → bits (.vmnot c (.issue u)) fun j => !k.maskBit (vVa n) j) ∧
    (VecIssues s.dev c 0x23 w rest m u → Does (.vmpop c (.issue u)) s fun e =>
      vecFrame c [] d e ∧
        sDest c w ((List.range k.vl.val).filter fun j => k.isActive n j && k.maskBit (vVa n) j).length d e)

/-- R108 to R114: the approximate functions, conversion, broadcast, index generation and the MX words. Each active lane takes its own result and the
flags of the active lanes are raised; VMXP writes packed elements to vd and one scale byte per block of 32 to vc. -/
def Obligations.VectorConversion : Prop :=
  ∀ (s : State) (c : CoreId) (w : DWord) (rest : List DWord) (m : LayerCmd) (u : List RfUpset),
    let d := taken s.dev c w rest u
    let k := d.core c
    let n := w.toNat
    let size := laneSize (vTyp n)
    let fmt := laneFmt (vTyp n)
    let advanced (e : Dev) : Prop :=
      (e.core c).srBase = if vRnd n = 2 then (k.srBase + k.vl.val * k.srStep) % 2 ^ 64 else k.srBase
    let approx (i : Instr) (g : Val → Val × Flags) : Prop := Does i s fun e =>
      let v (j : Nat) := g (fmt.decode (k.vElem size (vVa n) j))
      let r (j : Nat) := fmt.roundArith (k.vRound n m.step j) (v j).1
      vecFrame c (fpFields c) d e ∧ vecDest c w size (fun j => (r j).1) d e ∧
        raisesFlags c (laneFlags k w fun j => (v j).2.or (r j).2) d e ∧ advanced e
    let src := vImm n % 16
    let dst := vImm n / 16 % 16
    let blocks := (List.range (k.vl.val / 32)).map fun j =>
      mxWrite src (fun i => k.vRound n m.step (32 * j + i)) ((List.range 32).map fun i => fp32.decode (k.vElem 4 (vVa n) (32 * j + i)))
    let data := packBits (elemBitsOf src) (blocks.flatMap fun x => x.2.1)
    (VecIssues s.dev c 0x18 w rest m u → approx (.vexp c (.issue u)) expVal) ∧
    (VecIssues s.dev c 0x19 w rest m u → approx (.vrcp c (.issue u)) rcpVal) ∧
    (VecIssues s.dev c 0x1A w rest m u → approx (.vrsq c (.issue u)) rsqVal) ∧
    (VecIssues s.dev c 0x1B w rest m u → Does (.vcvt c (.issue u)) s fun e =>
      let r (j : Nat) := convertTo dst (k.vRound n m.step j) (vSat n) (elemVal src 0x7F (k.vElem (elemBitsOf src / 8) (vVa n) j))
      vecFrame c (fpFields c) d e ∧ vecDest c w (elemBitsOf dst / 8) (fun j => (r j).1) d e ∧
        raisesFlags c (laneFlags k w fun j => (r j).2) d e ∧ advanced e) ∧
    (VecIssues s.dev c 0x1C w rest m u → Does (.vbcast c (.issue u)) s fun e =>
      vecFrame c (fpFields c) d e ∧ vecDest c w size (fun _ => (k.scalarB n).1) d e ∧
        raisesFlags c (laneFlags k w fun _ => (k.scalarB n).2) d e ∧ (e.core c).srBase = k.srBase) ∧
    (VecIssues s.dev c 0x1D w rest m u → Does (.viota c (.issue u)) s fun e =>
      vecFrame c [] d e ∧
        vecDest c w 4 (fun j => (BitVec.ofNat 32 j + (BitVec.ofNat 19 (vImm n)).signExtend 32).toNat) d e ∧ (e.core c).srBase = k.srBase) ∧
    (VecIssues s.dev c 0x1E w rest m u → Does (.vmxp c (.issue u)) s fun e =>
      vecFrame c (fpFields c) d e ∧
        (∀ j, j < k.vl.val / 32 → (e.core c).vByte (vVc n) j = BitVec.ofNat 8 ((blocks.map fun x => x.1).getD j 0)) ∧
        (vVd n ≠ vVc n → ∀ j, j < data.length → (e.core c).vByte (vVd n) j = data.getD j 0#8) ∧
        (∀ r j, r ≠ vVd n → r ≠ vVc n → j < 4096 → (e.core c).vByte r j = k.vByte r j) ∧
        raisesFlags c (blocks.foldl (fun f x => f.or x.2.2) Flags.zero) d e ∧ advanced e) ∧
    (VecIssues s.dev c 0x1F w rest m u → Does (.vmxu c (.issue u)) s fun e =>
      let bw := elemBitsOf src
      let x (j : Nat) := bitsOf (k.vElem 1 (vVa n) (j * bw / 8) + 256 * k.vElem 1 (vVa n) (j * bw / 8 + 1)) (j * bw % 8) bw
      let r (j : Nat) := fp32.roundArith .nearest (mxVal src (k.vElem 1 (vVc n) (j / 32)) (x j))
      vecFrame c (fpFields c) d e ∧ vecDest c w 4 (fun j => (r j).1) d e ∧
        raisesFlags c (laneFlags k w fun j => (r j).2) d e ∧ (e.core c).srBase = k.srBase)

/-- R109: the permutes take elements from anywhere in their sources and raise no flag; VPACK gathers the elements its mask names and gives their
number, VUNPACK spreads them. -/
def Obligations.VectorPermutes : Prop :=
  ∀ (s : State) (c : CoreId) (w : DWord) (rest : List DWord) (m : LayerCmd) (u : List RfUpset),
    let d := taken s.dev c w rest u
    let k := d.core c
    let n := w.toNat
    let size := laneSize (vTyp n)
    let picked := (List.range k.vl.val).filter fun j => k.maskBit (vMsk n) j
    (VecIssues s.dev c 0x30 w rest m u → Does (.vperm c (.issue u)) s fun e =>
      vecFrame c [] d e ∧ (e.core c).srBase = k.srBase ∧ vecDest c w size (fun j =>
        if k.vElem 4 (vVb n) j < 1024 then k.vElem size (vVa n) (k.vElem 4 (vVb n) j) else 0) d e) ∧
    (VecIssues s.dev c 0x31 w rest m u → Does (.vshuf c (.issue u)) s fun e =>
      vecFrame c [] d e ∧ (e.core c).srBase = k.srBase ∧ vecDest c w size (fun j =>
        match shufSrc k.vl.val (vImm n % 8) (vImm n / 256 % 2048) j with
        | some (b, i) => k.vElem size (if b then vVb n else vVa n) i
        | none => 0) d e) ∧
    (VecIssues s.dev c 0x32 w rest m u → Does (.vpack c (.issue u)) s fun e =>
      vecFrame c [] d e ∧
        (∀ j, j < 1024 → (e.core c).vElem size (vVd n) j =
          if j < k.vl.val then (if h : j < picked.length then k.vElem size (vVa n) picked[j] else 0) else k.vElem size (vVd n) j) ∧
        (∀ r j, r ≠ vVd n → j < 4096 → (e.core c).vByte r j = k.vByte r j) ∧
        (∀ r, (e.core c).s r = if r = vSa n ∧ r ≠ 0 then picked.length else k.s r)) ∧
    (VecIssues s.dev c 0x33 w rest m u → Does (.vunpack c (.issue u)) s fun e =>
      vecFrame c [] d e ∧ (e.core c).sreg = k.sreg ∧
        (∀ j, j < 1024 → (e.core c).vElem size (vVd n) j =
          if j < k.vl.val then
            (if k.maskBit (vMsk n) j then k.vElem size (vVa n) ((List.range j).filter fun i => k.maskBit (vMsk n) i).length
             else if vZm n then 0 else k.vElem size (vVd n) j)
          else k.vElem size (vVd n) j) ∧
        (∀ r j, r ≠ vVd n → j < 4096 → (e.core c).vByte r j = k.vByte r j))

/-- R109, R121, R135: the reductions reduce the active elements in the order of R121 into an S register; VRNF counts non-finite elements; VSETVL sets
VL and returns it; VSRI sets the stochastic identity. -/
def Obligations.VectorReductions : Prop :=
  ∀ (s : State) (c : CoreId) (w : DWord) (rest : List DWord) (m : LayerCmd) (u : List RfUpset),
    let d := taken s.dev c w rest u
    let k := d.core c
    let n := w.toNat
    let fmt := laneFmt (vTyp n)
    let size := laneSize (vTyp n)
    let act (j : Nat) : Bool := k.isActive n j
    let iv (j : Nat) : Option Int := if act j then some (BitVec.ofNat 32 (k.vElem 4 (vVa n) j)).toInt else none
    let fv (j : Nat) : Option Val := if act j then some (fmt.decode (k.vElem size (vVa n) j)) else none
    let whole (i : Instr) (v : Nat) : Prop := Does i s fun e =>
      vecFrame c [] d e ∧ sDest c w v d e ∧ (e.core c).vl = k.vl ∧ (e.core c).srBase = k.srBase
    let ends (i : Instr) (v : Val) (f : Flags) : Prop :=
      ((vImm n).testBit 0 = false → Does i s fun e =>
        vecFrame c (fpFields c) d e ∧ sDest c w (bits32 v) d e ∧ raisesFlags c f d e ∧ (e.core c).srBase = k.srBase) ∧
      ((vImm n).testBit 0 = true → Does i s fun e =>
        let r := rcpVal v
        let p := fp32.roundArith (k.vRound n m.step 0) r.1
        vecFrame c (fpFields c) d e ∧ sDest c w p.1 d e ∧ raisesFlags c ((f.or r.2).or p.2) d e ∧
          (e.core c).srBase = if vRnd n = 2 then (k.srBase + k.srStep) % 2 ^ 64 else k.srBase)
    let sum := treeReduce (fun (a b : Val × Flags) =>
      let t := Val.add a.1 b.1
      let r := fp32.roundArith .nearest t.1
      (fp32.decode r.1, ((a.2.or b.2).or r.2).or (Flags.inv t.2))) (Val.zero, Flags.zero) k.vl.val (fun j => (fv j).map fun x => (x, Flags.zero))
    (VecIssues s.dev c 0x38 w rest m u →
      (vTyp n = 1 → whole (.vrsum c (.issue u))
        (((List.range k.vl.val).filter act).foldl (fun t j => t + k.vElem 4 (vVa n) j) 0)) ∧
      (vTyp n ≠ 1 → ends (.vrsum c (.issue u)) sum.1 sum.2)) ∧
    (VecIssues s.dev c 0x39 w rest m u →
      (vTyp n = 1 → whole (.vrmax c (.issue u)) (BitVec.ofInt 32 (treeReduce max (-2 ^ 31) k.vl.val iv)).toNat) ∧
      (vTyp n ≠ 1 → ends (.vrmax c (.issue u)) (treeReduce maxVal (.inf true) k.vl.val fv) Flags.zero)) ∧
    (VecIssues s.dev c 0x3A w rest m u →
      (vTyp n = 1 → whole (.vrmin c (.issue u)) (BitVec.ofInt 32 (treeReduce min (2 ^ 31 - 1) k.vl.val iv)).toNat) ∧
      (vTyp n ≠ 1 → ends (.vrmin c (.issue u)) (treeReduce minVal (.inf false) k.vl.val fv) Flags.zero)) ∧
    (VecIssues s.dev c 0x3B w rest m u → whole (.vrnf c (.issue u))
      (if vTyp n = 1 then 0 else
        ((List.range k.vl.val).filter fun j => act j && !(fmt.decode (k.vElem size (vVa n) j)).isFinite).length)) ∧
    (VecIssues s.dev c 0x3C w rest m u → Does (.vsetvl c (.issue u)) s fun e =>
      let len := min (if vImm n % 2048 = 0 then k.s32 (vSa n) else vImm n % 2048) 1024
      vecFrame c [] d e ∧ (e.core c).vl.val = len ∧ sDest c w len d e) ∧
    (VecIssues s.dev c 0x3D w rest m u → Does (.vsri c (.issue u)) s fun e =>
      vecFrame c [] d e ∧ (e.core c).vreg = k.vreg ∧ (e.core c).vmask = k.vmask ∧ (e.core c).sreg = k.sreg ∧ (e.core c).vl = k.vl ∧
        (e.core c).srTid = k.s32 (vSa n) ∧ (e.core c).srBase = k.s32 (vImm n % 32) + 2 ^ 32 * k.s32 (vImm n % 32 + 1) ∧
        (e.core c).srStep = ((BitVec.ofNat 32 (k.s32 (vImm n / 32 % 32))).signExtend 64).toNat)

/-- R118 to R120, R186: a load whose active elements are aligned and lie below 3 MiB reads each byte as the youngest store-buffer byte or CLM, or
waits for drains where a piece only partly forwards; a stalled load reads once its drains are done. A load with an element elsewhere, and one that
reads an uncorrectable word, stop the core. -/
def Obligations.VectorLoads : Prop :=
  ∀ (s : State) (c : CoreId) (w : DWord) (rest : List DWord) (m : LayerCmd) (u : List RfUpset),
    (let d := taken s.dev c w rest u
     let k := d.core c
     let n := w.toNat
     let size := laneSize (vTyp n)
     let seen (a : Nat) : Nat := leNat ((List.range size).map fun b => d.clmSeen c (a + b))
     let probes (op : Nat) := (loadPieces op size (k.vAddrs n)).map fun q => probe q k.sb.zipIdx.reverse
     let load (i : Instr) (op : Nat) : Prop :=
       VecIssues s.dev c op w rest m u →
         ((∀ j, k.isActive n j = true → vAddrOk (k.vAddr n j) size = true) →
           (stallOf (probes op) = none →
             ((∀ p ∈ k.loadSpans op size (k.vAddrs n), d.sramMark (clmPlace c p.1) p.2 = 0) → Does i s fun e =>
               vecFrame c [Reg.CORE_VEC_SBFWD.COUNT c] d e ∧ vecDest c w size (fun j => seen (k.vAddr n j).toNat) d e) ∧
             ((∃ p ∈ k.loadSpans op size (k.vAddrs n), d.clmUe c p.1 p.2 = true) → Does i s (stopsAt c d))) ∧
           (∀ x, stallOf (probes op) = some x → Does i s fun e =>
             e = { d with regs := e.regs, cores := e.cores } ∧ coresBut c d e ∧ regsBut [Reg.CORE_VEC_SBFWD.COUNT c] d e ∧
               e.core c = { k with loadStall := some ⟨w, x, k.vAddrs n⟩ })) ∧
         ((∃ j, k.isActive n j = true ∧ vAddrOk (k.vAddr n j) size = false) →
           Does i s fun e => stopsAt c d e ∧ e.bit (Reg.CORE_VEC_ERR.ADDR c) = true)
     load (.vld c (.issue u)) 0x01 ∧ load (.vlds c (.issue u)) 0x02 ∧ load (.vldx c (.issue u)) 0x03) ∧
    (let d := s.dev
     let k := d.core c
     ∀ l, k.loadStall = some l → d.coreOn = true → l.drains = 0 → l.addrs = k.vAddrs l.word.toNat →
      let n := l.word.toNat
      let spans := k.loadSpans (vOp n) (laneSize (vTyp n)) l.addrs
      ((∀ p ∈ spans, d.sramMark (clmPlace c p.1) p.2 = 0) → Does (.stalledLoadRead c) s fun e =>
        onlyCore c d e ∧ (e.core c).loadStall = none ∧ (e.core c).vq = k.vq ∧ (e.core c).sb = k.sb ∧
          vecDest c l.word (laneSize (vTyp n)) (fun j =>
            leNat ((List.range (laneSize (vTyp n))).map fun b => d.clmSeen c ((k.vAddr n j).toNat + b))) d e) ∧
      ((∃ p ∈ spans, d.clmUe c p.1 p.2 = true) → Does (.stalledLoadRead c) s (stopsAt c d)))

/-- R109, R118, R119, R123: a store puts the bytes of its active elements into the store buffer in order and writes no memory, and one with an
element that is misaligned or outside the CLM stops the core; the oldest entry drains to CLM, last byte winning, and counts its non-finite elements;
VFENCE issues once the buffer is empty; VEC_CTRCLR zeroes both counters. -/
def Obligations.VectorStores : Prop :=
  ∀ (s : State) (c : CoreId) (w : DWord) (rest : List DWord) (m : LayerCmd) (u : List RfUpset),
    (let d := taken s.dev c w rest u
     let k := d.core c
     let n := w.toNat
     let size := laneSize (vTyp n)
     let store (i : Instr) (op : Nat) : Prop :=
       VecIssues s.dev c op w rest m u →
         ((∀ j, k.isActive n j = true → vAddrOk (k.vAddr n j) size = true) → Does i s fun e =>
           onlyCore c d e ∧
             e.core c = { k with sb := (e.core c).sb, sbWait := (e.core c).sbWait } ∧
             ((e.core c).sbWait = [] ∨ 16 ≤ (e.core c).sb.length) ∧
             ((e.core c).sb ++ (e.core c).sbWait).flatMap SbEntry.bytes = k.sb.flatMap SbEntry.bytes ++
               (k.active n).flatMap fun j => (List.range size).map fun b =>
                 ((k.vAddr n j).toNat + b, BitVec.ofNat 8 (k.vElem size (vVd n) j / 2 ^ (8 * b)))) ∧
         ((∃ j, k.isActive n j = true ∧ vAddrOk (k.vAddr n j) size = false) →
           Does i s fun e => stopsAt c d e ∧ e.bit (Reg.CORE_VEC_ERR.ADDR c) = true)
     store (.vst c (.issue u)) 0x04 ∧ store (.vsts c (.issue u)) 0x05 ∧ store (.vstx c (.issue u)) 0x06 ∧
     (VecIssues s.dev c 0x07 w rest m u → Does (.vfence c (.issue u)) s fun e => e = d ∧ k.sb = [])) ∧
    (let d := s.dev
     let k := d.core c
     (∀ x r, k.sb = x :: r → d.coreOn = true → Does (.storeBufferDrain c) s fun e =>
       e = { d with regs := e.regs, cores := e.cores, mem := e.mem, sramEcc := e.sramEcc } ∧ coresBut c d e ∧ (∀ q ∈ e.sramEcc, q ∈ d.sramEcc) ∧
         (∀ p, e.byte p = match x.bytes.reverse.find? fun b => decide (clmPlace c b.1 = p) with
           | some b => b.2
           | none => d.byte p) ∧
         (e.core c).sb = r ++ k.sbWait.take (16 - r.length) ∧ (e.core c).sbWait = k.sbWait.drop (16 - r.length) ∧
         (e.core c).loadStall = k.loadStall.map (fun l => { l with drains := l.drains - 1 }) ∧
         regsBut [Reg.CORE_SEQ_FPFLAGS.NONFINITE c, Reg.CORE_SEQ_FPEVENTS.NONFINITE_CNT c, Reg.CORE_SEQ_NFCOUNT.COUNT c] d e ∧
         e.bit (Reg.CORE_SEQ_FPFLAGS.NONFINITE c) = (d.bit (Reg.CORE_SEQ_FPFLAGS.NONFINITE c) || decide (x.nonfinite ≠ 0)) ∧
         e.get (Reg.CORE_SEQ_NFCOUNT.COUNT c) = min (d.get (Reg.CORE_SEQ_NFCOUNT.COUNT c) + x.nonfinite) (2 ^ 32 - 1)) ∧
     (awake d → Does (.vecCtrclr c) s fun e =>
       onlyRegs [Reg.CORE_VEC_SBSTALL.COUNT c, Reg.CORE_VEC_SBFWD.COUNT c] d e ∧
         e.get (Reg.CORE_VEC_SBSTALL.COUNT c) = 0 ∧ e.get (Reg.CORE_VEC_SBFWD.COUNT c) = 0))

/-- R109, R115, R122, R125, R127, R131, R132: where words stop or wait. A word outside the program, of an unlisted operation or with a reserved bit
set is illegal and stops the core and the job; an uncorrectable instruction word does so too; a scalar word waits for a vector result it names; an
illegal vector word, a permute with pipe B in the wrong role and an uncorrectable register stop the core. -/
def Obligations.WordsThatStop : Prop :=
  ∀ (s : State) (c : CoreId),
    let d := s.dev
    let k := d.core c
    let w := k.word
    (∀ ecc, d.coreOn = true → k.seq = .run → k.lstartWait = false →
      let read := (d.fetchEcc c ecc).1
      let stops (i : Instr) : Prop := Does i s (stopsAt c d)
      (read = true → k.inProg = false ∨ (k.inProg = true ∧ (wClass w = 1 ∨ wClass w = 2 ∨ (wClass w = 0 ∧ wOp w ∉ seqOps))) →
        stops (.nop c ecc)) ∧
      (k.inProg = true → wClass w = 0 → ∀ x ∈ scalarRows c ecc, wOp w = x.1 →
        ((∀ r ∈ x.2.1 w, k.outstanding r = false) → read = false ∨ wRes w ≠ 0 → stops x.2.2) ∧
        (∀ r ∈ x.2.1 w, k.outstanding r = true → Does x.2.2 s fun e => e = d))) ∧
    ∀ (v : DWord) (rest : List DWord) (m : LayerCmd) (u : List RfUpset), d.coreOn = true → k.vq = v :: rest → k.cmd = some m →
      k.vecFree = true → k.vecHeld v.toNat = false →
      let ill := vIllegal v.toNat k.vl.val
      let stops (i : Instr) (f : Fld) : Prop := Does i s fun e => stopsAt c d e ∧ e.bit f = true
      (vOp v.toNat ∉ vecOps → stops (.vadd c (.issue u)) (Reg.CORE_VEC_ERR.ILLEGAL c)) ∧
      ∀ x ∈ vectorRows c (.issue u), vOp v.toNat = x.1 →
        (ill = true → stops x.2 (Reg.CORE_VEC_ERR.ILLEGAL c)) ∧
        (ill = false → isPermute x.1 = true → k.cu = false → stops x.2 (Reg.CORE_VEC_ERR.UNIT c)) ∧
        (ill = false → (isPermute x.1 = true → k.cu = true) → (k.rfUpsets u).rfMark v.toNat = 2 → stops x.2 (Reg.CORE_VEC_ERR.RF_UE c))

/-- R61 to R64, R79 to R83, R92 to R97, R103: the rest of a weight tile loads, its rows that have not entered replace the accumulator entries of their
outputs by their sums with the flags that raises, and the next tile is swapped in; an N-tile's write-out stores its converted elements and nothing
else; an uncorrectable accumulator entry stops the core; the scale scan fixes the kind of accumulation; MXA_CTRCLR zeroes both counters. -/
def Obligations.MatrixArrays : Prop :=
  ∀ (s : State) (c : CoreId) (upsets : List AccUpset),
    (let d := s.dev.accUpset c upsets
     let k := d.core c
     ∀ m, k.cmd = some m → d.coreOn = true →
      let a := arrRec m.record
      (m.tileReady = true → k.engaged = true ∨ k.tileOwed = true → d.sramEcc = [] →
        let t := d.loadRows a (k.curTile m) a.depth
        let es := d.rowResults c m t m.fed a.ma
        let m' := m.advance
        let next := d.loadRows a ((if k.wActive.isSome then k.wShadow else none).getD m'.emptyTile) a.depth
        ((∀ x ∈ m.rowReads m.fed a.ma, mget 0 k.accEcc x = 0) → Does (.arrayTileDone c upsets) s fun e =>
          e = { d with regs := e.regs, cores := e.cores, work := e.work } ∧ coresBut c d e ∧
            e.core c = { k with
              acc := (e.core c).acc, accEcc := (e.core c).accEcc, cmd := (e.core c).cmd, tileOwed := (e.core c).tileOwed,
              wActive := if k.streamsOn m' then some next else none, wShadow := none } ∧
            (∀ x, mget 0 (e.core c).acc x = match es.reverse.find? fun p => decide (p.1 = x) with
              | some p => p.2.1
              | none => mget 0 k.acc x) ∧
            (∃ v, (e.core c).cmd = some v ∧ v.ntile = m'.ntile ∧ v.pass = m'.pass ∧ v.kchunk = m'.kchunk ∧ v.fed = m'.fed ∧
              v.due = m'.due ∧ v.isOpen = m.isOpen) ∧
            raisesFlags c (es.foldl (fun f p => f.or p.2.2) Flags.zero) d e ∧
            e.work = d.work + es.length * a.cellRows m.kchunk ∧
            e.get64 (Reg.CORE_MXA_USEFUL_LO.COUNT c) =
              (d.get64 (Reg.CORE_MXA_USEFUL_LO.COUNT c) + es.length * a.cellRows m.kchunk) % 2 ^ 64 ∧
            regsBut ((Reg.CORE_MXA_USEFUL_LO.COUNT c) :: (Reg.CORE_MXA_USEFUL_LO.COUNT c).hi :: Reg.CORE_MXA_STATUS.BUSY c ::
              Reg.CORE_MXA_STATUS.ACTIVE c :: fpFields c) d e) ∧
        ((∃ x ∈ m.rowReads m.fed a.ma, mget 0 k.accEcc x = 2) → Does (.arrayTileDone c upsets) s fun e =>
          stopsAt c d e ∧ e.bit (Reg.CORE_MXA_ERR.ACC_UE c) = true)) ∧
      (∀ j rest, m.due = j :: rest → k.engaged = true ∨ k.seq = .quiescing →
        ((∀ x ∈ a.tileElems j, mget 0 k.accEcc (a.entry x.1 x.2) = 0) → Does (.ntileWrittenOut c upsets) s fun e =>
          let at_ (x : Nat × Nat) : Nat := clmPlace c (a.oAddr - clmAddr c 0 + x.1 * a.oStride + x.2 * outBytes a.ofmt)
          let sz := outBytes a.ofmt
          e = { d with regs := e.regs, cores := e.cores, mem := e.mem, sramEcc := e.sramEcc, grnBad := e.grnBad } ∧ coresBut c d e ∧
            (∃ m', (e.core c).cmd = some m' ∧ m'.due = rest ∧ m'.record = m.record) ∧ (e.core c).acc = k.acc ∧
            (∀ p, (∀ x ∈ a.tileElems j, ¬(at_ x ≤ p ∧ p < at_ x + sz)) → e.byte p = d.byte p) ∧
            (∀ x ∈ a.tileElems j, (∀ y ∈ a.tileElems j, y ≠ x → at_ y + sz ≤ at_ x ∨ at_ x + sz ≤ at_ y) →
              ∀ i, i < sz → e.byte (at_ x + i) = BitVec.ofNat 8 ((d.outElem c m x.1 x.2).1 / 2 ^ (8 * i))) ∧
            (recEvtTile m.record < 64 → e.event c (recEvtTile m.record) = true)) ∧
        ((∃ x ∈ a.tileElems j, mget 0 k.accEcc (a.entry x.1 x.2) = 2) → Does (.ntileWrittenOut c upsets) s fun e =>
          stopsAt c d e ∧ e.bit (Reg.CORE_MXA_ERR.ACC_UE c) = true))) ∧
    (let d := s.dev
     let k := d.core c
     (∀ m, k.cmd = some m → d.coreOn = true → k.engaged = true → m.scanDue = true →
       let a := arrRec m.record
       let int := d.scalesAllOne a
       ((∀ p ∈ a.scanSpans c, d.sramMark (clmPlace c p.1) p.2 = 0) →
         (scanConflict k.chain a int = false → Does (.scaleScanDone c) s fun e =>
           onlyCore c d e ∧ e.core c = { k with cmd := some { m with scanDue := false, intAcc := int } }) ∧
         (scanConflict k.chain a int = true → Does (.scaleScanDone c) s (stopsAt c d))) ∧
       ((∃ p ∈ a.scanSpans c, d.clmUe c p.1 p.2 = true) → Does (.scaleScanDone c) s (stopsAt c d))) ∧
     (awake d → Does (.mxaCtrclr c) s fun e =>
       onlyRegs [Reg.CORE_MXA_USEFUL_LO.COUNT c, (Reg.CORE_MXA_USEFUL_LO.COUNT c).hi, Reg.CORE_MXA_BUSY_LO.COUNT c,
         (Reg.CORE_MXA_BUSY_LO.COUNT c).hi] d e ∧
         e.get64 (Reg.CORE_MXA_USEFUL_LO.COUNT c) = 0 ∧ e.get64 (Reg.CORE_MXA_BUSY_LO.COUNT c) = 0))

/-- R161, R164, R165, R173 to R181: an access whose memory is good reads or writes exactly its bytes at the places the address maps give; the host
gets its data, an abort where nothing is mapped, or a poisoned completion of an uncorrectable codeword, which the memory's error register notes; a
corrected codeword is counted and its data delivered; a failing lane is spared where its channel has room; a retry of a port is counted. -/
def Obligations.MemoryAccesses : Prop :=
  ∀ (s : State) (q : MemRequester) (addr : DWord),
    let d := s.dev
    let a := addr.toNat
    let reads (i : Nat → Instr) : Prop := ∀ n, d.readErr a n = none →
      (q = .host → Does (i n) s fun e => e = d.emit (.hostData (d.rdBytes a n) false)) ∧ (q ≠ .host → Does (i n) s fun e => e = d)
    let writes (i : List Byte → Instr) : Prop := ∀ bs, d.writeErr a bs = none → d.rbtHit a bs.length = [] →
      Does (i bs) s fun e => e = { d with mem := e.mem, grnBad := e.grnBad, sramEcc := e.sramEcc } ∧ wroteBytes a bs d e
    let unmapped (i : Nat → Instr) : Prop := ∀ n x, d.firstUnmapped a n = some x →
      (q = .host → Does (i n) s fun e => e = (d.raise { code := Flt.MEM_UNMAPPED, arg0 := x }).emit .hostAbort) ∧
      (∀ c r u, q = .dma c r → (d.core c).dma = some u → u.ring = r.val → u.code = 0 → Does (i n) s fun e =>
        onlyCore c d e ∧ e.core c = { d.core c with dma := some { u with code := 3, errAddr := x } }) ∧
      ((∀ c r, q ≠ .dma c r) → Does (i n) s fun e => e.get Reg.FLT_STATUS.HL = hlStopped)
    let dataLast (n : Nat) (e : Dev) : Prop := q = .host → e.out.getLast? = some (.hostData (d.rdBytes a n) false)
    d.memOn = true →
      (isGddr a = false →
        reads (fun n => .granaryAccess q addr (.read n) .good) ∧ writes (fun bs => .granaryAccess q addr (.write bs) .good) ∧
        (∀ o, unmapped fun n => .granaryAccess q addr (.read n) o) ∧
        (∀ n p, 0 < n → d.readErr a n = none → d.place a = some p → isGrnPlace p = true →
          Does (.granaryAccess q addr (.read n) .corrected) s (fun e =>
            e.bit (Reg.GRN_ERR.CE (stackOf p)) = true ∧ e.mem = d.mem ∧ e.cores = d.cores ∧ e.grnBad = d.grnBad ∧ dataLast n e ∧
              e.get (Reg.GRN_ERR.CE_CNT (stackOf p)) =
                min (d.get (Reg.GRN_ERR.CE_CNT (stackOf p)) + 1) (2 ^ (Reg.GRN_ERR.CE_CNT (stackOf p)).width - 1)) ∧
          (∀ id : LaneId, isGranary a = true → (mget {} d.grn (stackOf p)).erased.contains (id.channel.val, id.lane.val) = false →
            (mget {} d.grn (stackOf p)).inChannel id.channel < 2 →
            Does (.granaryAccess q addr (.read n) (.lane id)) s fun e =>
              e.bit (Reg.GRN_ERR.LANE (stackOf p)) = true ∧ e.mem = d.mem ∧ e.cores = d.cores ∧ dataLast n e ∧
                (mget {} e.grn (stackOf p)).erased = (mget {} d.grn (stackOf p)).erased ++ [(id.channel.val, id.lane.val)])) ∧
        (∀ n p, q = .host → 0 < n → d.firstUnmapped a n = none → d.place a = some p → isGrnPlace p = true →
          Does (.granaryAccess q addr (.read n) .uncorrectable) s fun e =>
            e.bit (Reg.GRN_ERR.UE (stackOf p)) = true ∧ mget 0 e.grnBad (p / 64) = 1 ∧ e.mem = d.mem ∧
              (d.bit Reg.FLT_CTL.INT3 = false → e.out = d.out ++ [.hostData [] true]))) ∧
      (isGddr a = true →
        reads (fun n => .gddrAccess q addr (.read n) 0 .good) ∧ writes (fun bs => .gddrAccess q addr (.write bs) 0 .good) ∧
        (∀ o, unmapped fun n => .gddrAccess q addr (.read n) 0 o) ∧
        (∀ (n : Nat) (p : Nat) (r : BitVec 2), d.place a = some p → isGdmPlace p = true → isGrnPlace p = false → r ≠ 0 → d.readErr a n = none →
          Does (.gddrAccess q addr (.read n) r .good) s fun e =>
            e.bit (Reg.GDM_ERR.CRC (portOf p)) = true ∧ e.mem = d.mem ∧ dataLast n e ∧
              e.get (Reg.GDM_ERR.CRC_CNT (portOf p)) =
                min (d.get (Reg.GDM_ERR.CRC_CNT (portOf p)) + r.toNat) (2 ^ (Reg.GDM_ERR.CRC_CNT (portOf p)).width - 1)) ∧
        (∀ (n : Nat) (p : Nat) (r : BitVec 2), q = .host → d.place a = some p → isGdmPlace p = true → isGrnPlace p = false →
          d.firstUnmapped a n = none → Does (.gddrAccess q addr (.read n) r .uncorrectable) s fun e =>
            e.bit (Reg.GDM_ERR.UE (portOf p)) = true ∧ e.mem = d.mem ∧ e.out.getLast? = some (.hostData [] true)))

/-- R177, R181, R187, R196, R197, R199: a refresh changes nothing; a failed port is dead; a margin warning is recorded once an hour; a scrub counts a
corrected codeword and marks an uncorrectable one; a write into an open group's buffer queues its addends and leaves the buffer's bytes to the lane,
which adds the oldest one to its element. -/
def Obligations.MemoryUnits : Prop :=
  ∀ (s : State),
    let d := s.dev
    (∀ u b, Does (.refresh u b) s fun e => e = d) ∧
    (∀ p, Does (.gddrPortFail p) s fun e =>
      e = { d with gdmDead := e.gdmDead } ∧ ∀ j, mget false e.gdmDead j = (decide (j = p.val) || mget false d.gdmDead j)) ∧
    (d.memOn = true →
      (∀ p : PortId, mget 0 d.flt.rate (p.val * 65536 + Flt.GDM_MARGIN) = 0 → d.flt.pend.length < 32 → Does (.gdmMargin p) s fun e =>
        e.mem = d.mem ∧ e.cores = d.cores ∧ ∃ r ∈ e.flt.pend, r.code = Flt.GDM_MARGIN ∧ r.source = p.val ∧ r.last = d.mt) ∧
      (∀ (p : PortId) l, mget 0 d.flt.rate (p.val * 65536 + Flt.GDM_MARGIN) = l + 1 → d.mt < l + 3600000000 * ticksPerUs →
        Does (.gdmMargin p) s fun e => e = d) ∧
      (∀ (k : StackId) (o : BitVec 36), d.bit (Reg.GRN_SCRUB.EN k) = true →
        (mget 0 d.grnBad (grnPlace k o.toNat / 64) = 0 →
          (Does (.scrub k o .good) s fun e => e = { d with freeIdx := e.freeIdx }) ∧
          (Does (.scrub k o .corrected) s fun e =>
            e.bit (Reg.GRN_ERR.CE k) = true ∧ e.mem = d.mem ∧ e.grnBad = d.grnBad ∧ e.cores = d.cores ∧
              e.get (Reg.GRN_ERR.CE_CNT k) = min (d.get (Reg.GRN_ERR.CE_CNT k) + 1) (2 ^ (Reg.GRN_ERR.CE_CNT k).width - 1))) ∧
        (Does (.scrub k o .uncorrectable) s fun e =>
          e.bit (Reg.GRN_ERR.UE k) = true ∧ mget 0 e.grnBad (grnPlace k o.toNat / 64) = 1 ∧ e.mem = d.mem ∧ e.cores = d.cores)) ∧
      (∀ (q : MemRequester) (addr : DWord) (bs : List Byte),
        let a := addr.toNat
        let hit := d.rbtHit a bs.length
        let adds := hit.flatMap fun i => d.rbtAddends q i a bs
        hit ≠ [] →
          (d.writeErr a bs = none → d.accq.length + adds.length ≤ 128 → Does (.accumulateWrite q addr bs) s fun e =>
            e = { d with mem := e.mem, grnBad := e.grnBad, sramEcc := e.sramEcc, accq := d.accq ++ adds } ∧
              ∀ p, (∀ i, i < bs.length → d.place (a + i) = some p → d.inRbt hit (a + i) = true) → e.byte p = d.byte p) ∧
          (∀ x, d.writeErr a bs = some (.partialRb x) → Does (.accumulateWrite q addr bs) s fun e =>
            e.bit (Reg.GRN_THR_ERR.RB_PARTIAL (d.memSource x)) = true ∧ e.accq = d.accq ∧ e.get Reg.FLT_STATUS.HL = hlStopped) ∧
          (∀ x, d.writeErr a bs = some (.lateRb x) → Does (.accumulateWrite q addr bs) s fun e =>
            e.bit (Reg.GRN_THR_ERR.RB_LATE (d.memSource x)) = true ∧ e.accq = d.accq ∧ e.get Reg.FLT_STATUS.HL = hlStopped)) ∧
      (∀ (k : StackId) (x : Addend) r, takeAddend k d.accq = some (x, r) → mget 0 d.grnBad (x.place / 64) = 0 →
        Does (.addendAccumulate k) s fun e =>
          let fmt := d.get (Reg.GRN_RBT_CTL.FMT x.rbt)
          let u := rbtUpdate fmt (d.get (Reg.GRN_RBT_CTL.AFMT x.rbt)) (d.get (Reg.GRN_RBS_FLAGS.GRIDE x.rbt))
            (leNat (d.bytes x.place (rbtElem fmt))) x.bits
          e = { d with regs := e.regs, mem := e.mem, accq := r } ∧ bytesBut x.place (rbtElem fmt) d e ∧
            (∀ i, i < rbtElem fmt → e.byte (x.place + i) = BitVec.ofNat 8 (u.1 / 2 ^ (8 * i))) ∧
            e.get64 (Reg.GRN_THR_ACC_LO (stackOf x.place)) = (d.get64 (Reg.GRN_THR_ACC_LO (stackOf x.place)) + 1) % 2 ^ 64 ∧
            e.get64 (Reg.GRN_THR_BUSY_LO (stackOf x.place)) =
              (d.get64 (Reg.GRN_THR_BUSY_LO (stackOf x.place)) + if fmt = 13 then 4 else 1) % 2 ^ 64))

/-- R226 to R228, R236, R240, R241, R439, R445: ring commands. A doorbell adds to the pending count or, past the ring's size, halts the ring with code
0x15; one that reaches a sleeping module is noted; STOP, ABORT, RESTART and EN move the ring's state; CTRCLR zeroes the counters. -/
def Obligations.DmaRings : Prop :=
  ∀ (s : State) (c : CoreId) (g : RingId) (q : Requester),
    let d := s.dev
    let k := d.core c
    let st := Reg.CORE_DMA_RING_STATUS.STATE c g
    let pend := Reg.CORE_DMA_RING_STATUS.PEND c g
    let slots (d : Dev) := 2 ^ d.get (Reg.CORE_DMA_RING_CTL.SIZE_LOG2 c g)
    let halts (d e : Dev) : Prop :=
      e.get st = 3 ∧ e.get (Reg.CORE_DMA_RING_FBSTAT.CODE c g) = 0x15 ∧ e.get pend = d.get pend ∧ e.mem = d.mem ∧ coresBut c d e
    let rings (i : Instr) (n : Nat) : Prop := slots d ≤ 65536 →
      (d.get pend + n ≤ slots d → Does i s fun e => onlyRegs [pend] d e ∧ e.get pend = d.get pend + n) ∧
      (slots d < d.get pend + n → Does i s (halts d))
    (d.coreOn = true → ∀ v : Word, rings (.doorbell .kick c g v) v.toNat) ∧
    (awake d → ∀ v : Word, rings (.doorbell (.reg q) c g v) (v.toNat % 2 ^ 17)) ∧
    (∀ (off : BitVec 18) (v : Word), d.bit Reg.HST_STATUS.LINK_UP = true → off.toNat = c * 0x1000 + 4 * g → v ≠ 0 → v.toNat < 2 ^ 17 →
      (awake d → rings (.doorbell (.bar4 off) c g v) v.toNat) ∧
      (d.get Reg.PWR_STATUS.STATE = 2 ∨ d.get Reg.PWR_STATUS.STATE = 3 → Does (.doorbell (.bar4 off) c g v) s fun e =>
        e.bit Reg.HST_ERR.DB_ASLEEP = true ∧ e.cores = d.cores ∧ e.mem = d.mem ∧ regsBut [Reg.HST_ERR.DB_ASLEEP] d e)) ∧
    (∀ ecc w, Issues d c ecc w [wRa w] → wOp w = 0x32 → wImm w % 128 = g.val →
      let d := fetched s.dev c ecc
      let k := d.core c
      slots d ≤ 65536 →
        (d.get pend + k.s (wRa w) ≤ slots d → Does (.dmakick c ecc) s fun e =>
          e = { d with regs := e.regs, cores := e.cores } ∧ coresBut c d e ∧ regsBut [pend] d e ∧ e.core c = k.next ∧
            e.get pend = d.get pend + k.s (wRa w)) ∧
        (slots d < d.get pend + k.s (wRa w) → Does (.dmakick c ecc) s fun e => halts d e ∧ (e.core c).pc = (k.pc + 1) % 4096)) ∧
    (awake d →
      (k.serves g.val = false →
        (d.get st = 1 →
          (Does (.ringStop q c g) s fun e => onlyRegs [st] d e ∧ e.get st = 2) ∧
          (∀ n, Does (.ringAbort q c g n) s fun e => onlyRegs [st] d e ∧ e.get st = 2)) ∧
        (d.get st ≠ 1 → ∀ n, Does (.ringAbort q c g n) s fun e => e = d)) ∧
      (k.serves g.val = true →
        (d.get st = 1 → Does (.ringStop q c g) s fun e =>
          onlyCore c d e ∧ e.core c = { k with stopReq := (e.core c).stopReq } ∧
            mget 0 (e.core c).stopReq g.val = max 1 (mget 0 k.stopReq g.val)) ∧
        (k.dma = none → ∀ n, Does (.ringAbort q c g n) s fun e =>
          onlyCore c d e ∧ e.core c = { k with stopReq := (e.core c).stopReq } ∧ mget 0 (e.core c).stopReq g.val = 2)) ∧
      (d.get st ≠ 1 → Does (.ringStop q c g) s fun e => e = d) ∧
      (d.get st = 2 ∨ d.get st = 3 → Does (.ringRestart q c g) s fun e =>
        onlyRegs [st, Reg.CORE_DMA_RING_FBSTAT.CODE c g, Reg.CORE_DMA_RING_FBADDR_LO c g, (Reg.CORE_DMA_RING_FBADDR_LO c g).hi] d e ∧
          e.get st = 1 ∧ e.get (Reg.CORE_DMA_RING_FBSTAT.CODE c g) = 0 ∧ e.get64 (Reg.CORE_DMA_RING_FBADDR_LO c g) = 0) ∧
      (d.get st = 0 ∨ d.get st = 1 → Does (.ringRestart q c g) s fun e => e = d) ∧
      (d.bit (Reg.CORE_DMA_RING_CTL.EN c g) = false → Does (.ringEnable q c g) s fun e =>
        e = { d with regs := e.regs, cores := e.cores } ∧ coresBut c d e ∧ e.bit (Reg.CORE_DMA_RING_CTL.EN c g) = true ∧
          e.get st = 1 ∧ e.get pend = 0 ∧ e.get (Reg.CORE_DMA_RING_HEAD.INDEX c g) = 0 ∧ e.get (Reg.CORE_DMA_RING_CPL.COUNT c g) = 0 ∧
          mget ⟨0, 0⟩ (e.core c).chains g.val = ⟨0, 0⟩) ∧
      (d.bit (Reg.CORE_DMA_RING_CTL.EN c g) = true → Does (.ringEnable q c g) s fun e => e = d) ∧
      Does (.dmaCtrclr c) s fun e =>
        onlyRegs [Reg.CORE_DMA_BYTES_LO c, (Reg.CORE_DMA_BYTES_LO c).hi, Reg.CORE_DMA_STALL_LO c, (Reg.CORE_DMA_STALL_LO c).hi,
          Reg.CORE_DMA_LATE c] d e ∧
          e.get64 (Reg.CORE_DMA_BYTES_LO c) = 0 ∧ e.get64 (Reg.CORE_DMA_STALL_LO c) = 0 ∧ e.get (Reg.CORE_DMA_LATE c) = 0)

/-- R227, R230, R234 to R240: descriptors. The ring whose turn it is gives its descriptor, which runs or, where it cannot be read or is not the
engine's, halts the ring; a move of one local piece delivers its bytes, writes DONE and STATUS back, clears OWN and moves the ring on; host data reach
their destination, in any order; a reply or a bound that fails gives the descriptor its status, one that nothing waits for is counted; ABORT sets the
4 KiB boundary at which the transfer ends. -/
def Obligations.DmaDescriptors : Prop :=
  ∀ (s : State) (c : CoreId),
    let d := s.dev
    let k := d.core c
    let late := Reg.CORE_DMA_LATE c
    let runs (g a code : Nat) (b : List Byte) (e : Dev) : Prop :=
      coresBut c d e ∧ (e.core c).dma = some { ring := g, at_ := a, desc := b, code := code } ∧ e.bit (Reg.CORE_DMA_STATUS.BUSY c) = true ∧
        e.get (Reg.CORE_DMA_STATUS.RING c) = g ∧ e.mem = d.mem
    let halts (g code : Nat) (e : Dev) : Prop :=
      e.get (Reg.CORE_DMA_RING_STATUS.STATE c g) = 3 ∧ e.get (Reg.CORE_DMA_RING_FBSTAT.CODE c g) = code ∧ (e.core c).dma = none ∧
        (e.core c).dmaFetch = none
    let read (i : Instr) (g a : Nat) (b : List Byte) : Prop :=
      (dOwn b = true → mget 0 k.stopReq g ≠ 2 →
        (dMalformed b = true → Does i s (runs g a 2 b)) ∧ (dMalformed b = false → d.dmaInside b = true → Does i s (runs g a 0 b))) ∧
      (dOwn b = false → Does i s (halts g 0x12))
    (d.coreOn = true → k.dma = none → k.dmaFetch = none →
      (d.nextRing c = none → ∀ o x, Does (.descriptorFetch c o x) s fun e => e = d) ∧
      ∀ g, d.nextRing c = some g →
        let a := d.descAddr c g
        (inHost a = false →
          (d.readErr a 64 = none → read (.descriptorFetch c .good true) g a (d.rdBytes a 64)) ∧
          (d.firstUnmapped a 64 = none → Does (.descriptorFetch c .uncorrectable true) s (halts g 0x11)) ∧
          (∀ o, Does (.descriptorFetch c o false) s (halts g 0x10))) ∧
        (inHost a = true → d.host.d3hot = false → ∀ o x,
          (d.bit Reg.HST_STATUS.LINK_UP = true → a - hostBase + 64 ≤ d.get Reg.HST_HWIN_SIZE * 2 ^ 30 →
            Does (.descriptorFetch c o x) s fun e =>
              onlyCore c { d with out := e.out } e ∧ (e.core c).dmaFetch = some (g, a) ∧
                e.out = d.out ++ [.hostRead (d.get64 Reg.HST_HWIN_BUS_LO + (a - hostBase)) 64 false]) ∧
          (d.bit Reg.HST_STATUS.LINK_UP = false ∨ d.get Reg.HST_HWIN_SIZE * 2 ^ 30 < a - hostBase + 64 →
            Does (.descriptorFetch c o x) s (halts g 0x10)))) ∧
    (∀ g a b, d.coreOn = true → k.dmaFetch = some (g, a) → k.dma = none → g < 128 →
      (b.length = 64 → read (.hostCompletion c (.data b)) g a b) ∧
      Does (.hostCompletion c .timeout) s (halts g 0x10) ∧ Does (.hostCompletion c .error) s (halts g 0x10) ∧
      (∀ n, n ≠ 0 → Does (.hostCompletion c (.data b n)) s fun e =>
        onlyRegs [late] d e ∧ e.get late = min (d.get late + 1) (2 ^ late.width - 1))) ∧
    (∀ u, k.dma = some u → d.coreOn = true → k.dmaFetch = none →
      (∀ n bs, takeNth n u.host = none → u.fence = false → Does (.hostCompletion c (.data bs n)) s fun e =>
        onlyRegs [late] d e ∧ e.get late = min (d.get late + 1) (2 ^ late.width - 1)) ∧
      (d.runCount u ≤ u.next ∨ u.code ≠ 0 ∨ u.ended ≠ none → d.dmaMet u = true → dBarrier u.desc = false → inHost u.at_ = false → ∀ wb,
        Does (.descriptorComplete c wb) s fun e => (e.core c).dma = none ∧ e.bit (Reg.CORE_DMA_STATUS.BUSY c) = false)) ∧
    (∀ u, k.dma = some u → d.coreOn = true → u.code = 0 → u.ended = none →
      (k.dmaFetch = none →
        (∀ t rest, u.host = t :: rest → Does (.hostCompletion c .timeout) s fun e =>
          ∃ v, (e.core c).dma = some v ∧ v.code = 5 ∧ v.host = [] ∧ v.txids = []) ∧
        (∀ n t rest, takeNth n u.host = some (t, rest) →
          (Does (.hostCompletion c (.error n)) s fun e => ∃ v, (e.core c).dma = some v ∧ v.code = 6 ∧ v.host = rest) ∧
          (∀ bs,
            let a := (d.dPieceAt u.desc t).dst
            bs.length = (d.runPiece u t).n → d.runCount u ≤ u.next → dCvt u.desc = false → dRows u.desc = 1 → isRemote a = false →
              inHost a = false → imemWindow a = none → d.writeErr a bs = none → d.rbtHit a bs.length = [] → bs ≠ [] →
              Does (.hostCompletion c (.data bs n)) s fun e =>
                coresBut c d e ∧ wroteBytes a bs d e ∧
                  e.get64 (Reg.CORE_DMA_BYTES_LO c) = (d.get64 (Reg.CORE_DMA_BYTES_LO c) + bs.length) % 2 ^ 64 ∧
                  ∃ v, (e.core c).dma = some v ∧ v.code = 0 ∧ v.host = rest ∧ mget [] v.parts t = bs))) ∧
      (∀ n x,
        (d.dmaInside u.desc = false → Does (.tgtTimeout c n x) s fun e =>
          ∃ v, (e.core c).dma = some v ∧ v.code = 4 ∧ v.txids = [] ∧ v.host = [] ∧ ∃ p, v.ended = some (min n (d.dmaDone u).1, p)) ∧
        (d.dmaInside u.desc = true → Does (.tgtTimeout c n x) s fun e => ∃ v, (e.core c).dma = some v ∧ v.code ≠ 0)) ∧
      (∀ q (g : RingId) n, awake d → u.ring = g.val → u.limit = none → d.host.d3hot = false →
        let m := if d.dmaInside u.desc then min n (runTotal u) else min (d.dPieceAt u.desc u.next).off (runTotal u)
        (d.get (Reg.CORE_DMA_RING_STATUS.STATE c g) = 1 → d.dmaInside u.desc = true → d.dmaFull c = false → u.host = [] → u.txids = [] →
          u.fence = false → inHost (dDst u.desc) = false → Does (.ringAbort q c g n) s fun e =>
            (e.core c).dma = none ∧ e.bit (Reg.CORE_DMA_STATUS.BUSY c) = false ∧
              (e.get (Reg.CORE_DMA_RING_STATUS.STATE c g) = 2 ∨ e.get (Reg.CORE_DMA_RING_STATUS.STATE c g) = 3)) ∧
        (Does (.ringAbort q c g n) s fun e =>
          (e.core c).dma = none ∨ ∃ v, (e.core c).dma = some v ∧ v.limit = some (abortAt u.desc (dRows u.desc) m) ∧
            mget 0 (e.core c).stopReq g.val = 1)) ∧
      (let b := u.desc
       let src := dSrc b
       let dst := dDst b
       let n := dLen b
       let g := u.ring
       u.next = 0 → u.parts = [] → u.fence = false → u.limit = none → u.halted = false → g < 128 → dMalformed b = false → dOwn b = true →
       b.length = 64 → dCvt b = false → dChain b = false → dInt b = false → dDsel b = 0 → dRows b = 1 → n ≤ 256 →
       dBarrier b = false ∨ d.accq = [] → isRemote src = false → isRemote dst = false → inHost src = false → inHost dst = false →
       imemWindow dst = none → inHost u.at_ = false → imemWindow u.at_ = none → d.grnBad = [] → d.sramEcc = [] → d.gdmDead = [] →
       d.memRange src n = true → d.memRange dst n = true → d.memRange u.at_ 64 = true → d.rbtHit dst n = [] → d.rbtHit u.at_ 64 = [] →
       mget 0 k.stopReq g = 0 → u.host = [] → u.txids = [] → d.dmaFull c = false →
       Does (.descriptorComplete c true) s fun e =>
         (e.core c).dma = none ∧ coresBut c d e ∧ e.bit (Reg.CORE_DMA_STATUS.BUSY c) = false ∧
           (∀ i p, i < n → d.place (dst + i) = some p → (∀ j, j < n → j ≠ i → d.place (dst + j) ≠ some p) →
             (∀ j, j < 64 → d.place (u.at_ + j) ≠ some p) → e.byte p = d.rd (src + i)) ∧
           (∀ p, (∀ i, i < n → d.place (dst + i) ≠ some p) → (∀ j, j < 64 → d.place (u.at_ + j) ≠ some p) → e.byte p = d.byte p) ∧
           (∀ i p, d.place (u.at_ + i) = some p → (∀ j, j < 64 → j ≠ i → d.place (u.at_ + j) ≠ some p) →
             (i = 3 → e.byte p = b.getD 3 0#8 - 0x80#8) ∧
             (0x30 ≤ i → i < 0x40 → e.byte p = (leBytes 8 n ++ leBytes 4 1 ++ leBytes 4 0).getD (i - 0x30) 0#8)) ∧
           e.get (Reg.CORE_DMA_RING_STATUS.PEND c g) = d.get (Reg.CORE_DMA_RING_STATUS.PEND c g) - 1 ∧
           e.get (Reg.CORE_DMA_RING_CPL.COUNT c g) = (d.get (Reg.CORE_DMA_RING_CPL.COUNT c g) + 1) % 2 ^ 32 ∧
           e.get64 (Reg.CORE_DMA_BYTES_LO c) = (d.get64 (Reg.CORE_DMA_BYTES_LO c) + n) % 2 ^ 64 ∧
           (dEvt b < 64 → e.event c (dEvt b) = true)))

/-- R202, R203, R216, R217, R223: a decision arms its groups, one step further or skipped, with the loss scale, the counts and the grids of the next
step; a thresher command is accepted from IDLE or OPEN and ends with DONE, and with FAIL where it failed; CLEAR and a clear pass leave the group's
buffers zero. -/
def Obligations.ThresherCommands : Prop :=
  ∀ (s : State) (g : Fin 16) (q : Requester),
    let d := s.dev
    let state := Reg.GRN_GRP_STATE.STATE g
    let st := d.get state
    let cmd (i : Instr) (op : Nat) : Prop :=
      (d.bit Reg.GRN_THR_CMDSTAT.BUSY = false → st = grpIdle ∨ st = grpOpen → Does i s fun e =>
        e = { d with regs := e.regs, thr := { d.thr with cmd := some (op, g.val) } } ∧ e.bit Reg.GRN_THR_CMDSTAT.BUSY = true ∧
          regsBut [Reg.GRN_THR_CMDSTAT.BUSY, state] d e ∧ e.get state = if op = 1 ∧ st = grpOpen then grpClearing else st) ∧
      (d.bit Reg.GRN_THR_CMDSTAT.BUSY = true ∨ ¬(st = grpIdle ∨ st = grpOpen) → Does i s fun e =>
        onlyRegs [Reg.GRN_GRP_STATE.CMD_REJ g] d e ∧ e.bit (Reg.GRN_GRP_STATE.CMD_REJ g) = true)
    let buffer (x : Nat) : Prop := ∃ i ∈ d.grpEntries g, d.rbtLo i ≤ x ∧ x < d.rbtHi i
    let zeroed (e : Dev) : Prop := ∀ x, buffer x → e.rd x = 0#8
    let kept (e : Dev) : Prop := ∀ p, (∀ x, buffer x → d.place x ≠ some p) → e.byte p = d.byte p
    cmd (.thrClear q g) 1 ∧ cmd (.thrExport q g) 2 ∧ cmd (.thrImportCheck q g) 3 ∧
    (d.memOn = true →
      (d.thr.cmd = some (1, g.val) → Does .thrCmdDone s fun e =>
        e.thr.cmd = none ∧ e.bit Reg.GRN_THR_CMDSTAT.BUSY = false ∧ e.bit Reg.GRN_THR_CMDSTAT.DONE = true ∧ zeroed e ∧ kept e ∧
          e.cores = d.cores ∧ (st = grpClearing → e.get state = grpOpen)) ∧
      (∀ op, d.thr.cmd = some (op, g.val) →
        let r := Dev.thrEffect op g { d with thr := { d.thr with cmd := none } }
        Does .thrCmdDone s fun e =>
          e.thr.cmd = none ∧ e.bit Reg.GRN_THR_CMDSTAT.BUSY = false ∧ e.bit Reg.GRN_THR_CMDSTAT.DONE = true ∧
            e.bit Reg.GRN_THR_CMDSTAT.FAIL = (d.bit Reg.GRN_THR_CMDSTAT.FAIL || !r.1) ∧
            (op = 2 → r.1 = true → e.cores = d.cores ∧ e.links = d.links) ∧
            (op = 3 → r.1 = true → e = { d with regs := e.regs, thr := e.thr })) ∧
      (∀ p r, d.thr.passQ = p :: r → d.thr.running = true → p.group = g.val → p.skip = true →
        Does (.clearPassDone g) s (fun e =>
          (∀ x, buffer x → isGranary x = true → e.rd x = 0#8) ∧
            ((∀ y ∈ r, y.group ≠ g.val) →
              e.get state = grpOpen ∨ (d.bit (Reg.GRN_GRP_CTL.MIR_EN g) = true ∧ e.get state = grpMirroring))) ∧
        (r = [] → d.bit (Reg.GRN_GRP_CTL.MIR_EN g) = false → Does (.clearPassDone g) s fun e =>
          e.thr.passQ = [] ∧ e.thr.running = false ∧ e.get state = grpOpen ∧ zeroed e ∧ kept e ∧ e.cores = d.cores ∧
            regsBut [state] d e))) ∧
    (∀ x, d.col.entry = some x → recField x.raw 0 1 = 6 → x.steps = [] → x.decided = false → (recField x.raw 0x2A 2).testBit g = true →
      let mask := recField x.raw 0x2A 2
      let ls := Reg.GRN_GRP_LS.LS_EXP g
      let good := (d.get (Reg.GRN_GRP_GROW.GOOD g) + 1) % 65536
      let iv := d.get (Reg.GRN_GRP_GROW.INTERVAL g)
      Does .decisionArrive s fun e =>
        (e.col.entry = none ∨ ∃ y, e.col.entry = some y ∧ y.decided = true) ∧
          (∀ i ∈ d.grpEntries g, e.bit (Reg.GRN_RBS_FLAGS.NONFIN i) = false ∧ e.bit (Reg.GRN_RBS_FLAGS.GRID_RANGE i) = false ∧
            e.get (Reg.GRN_RBS_FLAGS.MAXEXP i) = 0 ∧ e.get (Reg.GRN_RBS_NFCNT.COUNT i) = 0) ∧
          (∀ j i m : Nat, (d.gridEntries mask)[j]? = some i → x.maxima[j]? = some m →
            e.get (Reg.GRN_RBS_FLAGS.GRIDE i) = (m + 14) % 2 ^ (Reg.GRN_RBS_FLAGS.GRIDE i).width) ∧
          (x.skip = true ∨ x.range = true →
            e.bit (Reg.GRN_GRP_STATE.SKIPPED g) = true ∧ e.get (Reg.GRN_GRP_GROW.GOOD g) = 0 ∧
              e.get (Reg.GRN_GRP_APPLIED g) = d.get (Reg.GRN_GRP_APPLIED g) ∧
              e.get ls = lsBits (max (lsInt (d.get ls) - 1) (lsInt (d.get (Reg.GRN_GRP_LS.LS_MIN g))))) ∧
          (x.skip = false → x.range = false → (∀ j ∈ groupsOf mask, (d.paramRead j).1.isSome = true) →
            e.bit (Reg.GRN_GRP_STATE.SKIPPED g) = false ∧ e.get (Reg.GRN_GRP_APPLIED g) = (d.get (Reg.GRN_GRP_APPLIED g) + 1) % 2 ^ 32 ∧
              (iv ≠ 0 ∧ iv ≤ good → e.get (Reg.GRN_GRP_GROW.GOOD g) = 0 ∧
                e.get ls = lsBits (min (lsInt (d.get ls) + 1) (lsInt (d.get (Reg.GRN_GRP_LS.LS_MAX g))))) ∧
              (iv = 0 ∨ good < iv → e.get (Reg.GRN_GRP_GROW.GOOD g) = good ∧ e.get ls = d.get ls)))

/-- R204 to R219, R278: a recipe pass ends with its buffers zero and its group open again or refreshing its mirror; a mirror refresh sends its last two
writes and opens the group; a weight digest becomes the group's share of the module's sum; a response reaches the request that it names, and only that
one. -/
def Obligations.ThresherPasses : Prop :=
  ∀ (s : State) (g : Fin 16),
    let d := s.dev
    let state := Reg.GRN_GRP_STATE.STATE g
    (d.memOn = true →
      (∀ p r, d.thr.passQ = p :: r → d.thr.running = true → p.group = g.val → p.skip = false → Does (.recipePassDone g) s fun e =>
        (∀ i ∈ d.grpEntries g, ∀ x, d.rbtLo i ≤ x → x < d.rbtHi i → isGranary x = true → e.rd x = 0#8) ∧
          ((∀ y ∈ r, y.group ≠ g.val) →
            e.get state = grpOpen ∨ (d.bit (Reg.GRN_GRP_CTL.MIR_EN g) = true ∧ e.get state = grpMirroring)) ∧
          (d.bit (Reg.GRN_GRP_CTL.DIG_EN g) = false → mget 0 e.thr.digDue g = mget 0 d.thr.digDue g ∧ mget 0 e.thr.digSum g = 0) ∧
          (r = [] → e.thr.passQ = [] ∧ e.thr.running = false)) ∧
      (∀ m, d.mirror g = some m → m.closing = false → m.todo = [] → m.wait = [] → d.thr.passQ = [] → d.get state = grpMirroring →
        Does (.mirrorRefreshDone g) s fun e =>
          e.get state = grpOpen ∧
            (e.mirror g = none ∨ ∃ v, e.mirror g = some v ∧ v.closing = true ∧ v.todo.length ≤ 2 ∧ v.step = m.step)) ∧
      (∀ l v, mget 0 d.thr.digDue g ≠ 0 → d.thr.passQ = [] → (d.listRead g).1 = some l → (d.digSumOf (l.map optDesc)).1 = some v →
        Does (.weightDigestDone g) s fun e =>
          e = { d with regs := e.regs, thr := e.thr } ∧ regsBut ((List.range 8).map Reg.GRN_DIG_W) d e ∧
            mget 0 e.thr.digDue g = 0 ∧ mget 0 e.thr.digSum g = v ∧ (∀ j, j ≠ g.val → mget 0 e.thr.digSum j = mget 0 d.thr.digSum j) ∧
            e.get256 Reg.GRN_DIG_W =
              (((List.range 16).filter fun j => d.bit (Reg.GRN_GRP_CTL.DIG_EN j)).map fun j => mget 0 e.thr.digSum j).sum % 2 ^ 256)) ∧
    (∀ f : Frame, f ∈ d.fab.rspQ →
      (mget none d.fab.txids f.txid = none → Does (.remoteResponse f) s fun e =>
        e = { d with fab := { d.fab with rspQ := d.fab.rspQ.erase f } }) ∧
      (∀ r, mget none d.fab.txids f.txid = some r → r.abandoned = true → r.owner < 64 → Does (.remoteResponse f) s fun e =>
        e = { d with regs := e.regs, fab := { d.fab with rspQ := d.fab.rspQ.erase f } } ∧
          regsBut [Reg.CORE_DMA_LATE r.owner] d e ∧ e.get (Reg.CORE_DMA_LATE r.owner) = min (d.get (Reg.CORE_DMA_LATE r.owner) + 1) (2 ^ 32 - 1)) ∧
      (∀ r u t, mget none d.fab.txids f.txid = some r → r.abandoned = false → r.owner < 64 → (d.core r.owner).dma = some u →
        u.txids.find? (fun x => decide (x.1 = f.txid)) = some (f.txid, t) →
        let got := mget [] u.come t ++ f.payload
        let n := (d.runPiece u t).n
        (f.op = 4 → u.code = 0 → recField f.payload 0 1 ≠ 0 → Does (.remoteResponse f) s fun e =>
          ∃ v, (e.core r.owner).dma = some v ∧ v.code = recField f.payload 0 1 ∧ v.txids = u.txids.filter (fun x => decide (x.1 ≠ f.txid)) ∧ mget none e.fab.txids f.txid = none) ∧
        (f.op = 2 → got.length < n → Does (.remoteResponse f) s fun e =>
          e = { d with cores := e.cores, fab := { d.fab with rspQ := d.fab.rspQ.erase f } } ∧ coresBut r.owner d e ∧
            ∃ v, (e.core r.owner).dma = some v ∧ v = { u with come := v.come } ∧ mget [] v.come t = got)))

/-- R162, R238, R274 to R281: a frame that the target or the router answers leaves its queue; a remote write to good memory lands byte by byte and is
acknowledged, a remote read is answered with its bytes, and one that names the host window or control space changes no memory; a late response counts
and its number stays held; a held number frees at its bound. -/
def Obligations.FabricTarget : Prop :=
  ∀ (s : State),
    let d := s.dev
    (∀ f r, d.fab.tgtQ = f :: r → remoteDenied f.addr = false → d.writeErr f.addr f.payload = none → d.rbtHit f.addr f.payload.length = [] →
      Does .targetWriteDone s fun e =>
        e.fab.tgtQ = r ∧ e.cores = d.cores ∧ wroteBytes f.addr f.payload d e ∧
          ∃ m : Dev, m = { d with mem := m.mem, grnBad := m.grnBad, sramEcc := m.sramEcc, fab := { d.fab with tgtQ := r } } ∧
            e = (m.originate f.src 3 f.txid f.addr []).2) ∧
    (∀ f r, d.fab.tgtQ = f :: r → remoteDenied f.addr = true → Does .targetWriteDone s fun e =>
      e.mem = d.mem ∧ e.cores = d.cores ∧ e.fab.tgtQ = r) ∧
    (∀ f r, d.fab.readQ = f :: r →
      (Does .remoteReadServe s fun e => e.mem = d.mem ∧ e.cores = d.cores ∧ e.fab.readQ = r) ∧
      (∀ n, n = leNat f.payload → remoteDenied f.addr = false → 0 < n → n ≤ 224 → d.readErr f.addr n = none → Does .remoteReadServe s fun e =>
        e = Dev.sendData f 2 f.addr (d.rdBytes f.addr n) { d with fab := { d.fab with readQ := r } })) ∧
    (∀ t : BitVec 16,
      (∀ r, mget none d.fab.txids t.toNat = some r → r.abandoned = true →
        (r.owner < 64 → Does (.lateResponse t) s fun e =>
          onlyRegs [Reg.CORE_DMA_LATE r.owner] d e ∧
            e.get (Reg.CORE_DMA_LATE r.owner) = min (d.get (Reg.CORE_DMA_LATE r.owner) + 1) (2 ^ 32 - 1)) ∧
        Does (.txidHoldExpire t) s fun e =>
          e = { d with fab := { d.fab with txids := e.fab.txids } } ∧ mget none e.fab.txids t.toNat = none ∧
            ∀ j, j ≠ t.toNat → mget none e.fab.txids j = mget none d.fab.txids j) ∧
      ((∀ r, mget none d.fab.txids t.toNat = some r → r.abandoned = false) → Does (.txidHoldExpire t) s fun e => e = d))

/-- R249 to R252, R265, R267, R288: training. Each step moves the link to the next state with what it has found; too many failed lanes or a step's bound
fail the attempt, and the third failure takes the link down; wiring that does not match the plan stops it; after a link has gone down it comes back
held unless admitted. -/
def Obligations.LinkTraining : Prop :=
  ∀ (s : State) (l : LinkId) (q : Requester),
    let d := s.dev
    let k := d.link l
    let st := d.lnkState l
    let only (e : Dev) : Prop := e = { d with regs := e.regs, links := e.links } ∧ linksBut l d e
    let moves (i : Instr) (new : Nat) : Prop := Does i s fun e =>
      onlyRegs [Reg.LNK_STATUS.STATE l, Reg.FAB_STATUS.LINKS] d e ∧ e.lnkState l = new
    let starts (e : Dev) : Prop :=
      only e ∧ e.lnkState l = lLight ∧ e.get (Reg.LNK_STATUS.VER l) = 0 ∧ e.get (Reg.LNK_STATUS.LOST l) = 0 ∧
        e.bit (Reg.LNK_STATUS.SPARE l) = false ∧ e.bit (Reg.LNK_STATUS.NARROW l) = false ∧
        (∀ i, i < 9 → e.bit (Reg.LNK_LANE.LOCK l i) = false) ∧
        (e.link l).replay = [] ∧ (e.link l).credits = [] ∧ (e.link l).txq = k.txq ∧ (e.link l).downed = k.downed ∧ (e.link l).backoff = false
    let trains (i : Instr) : Prop := d.linkUsed l = true → Does i s starts
    let fails (i : Instr) : Prop := Does i s fun e =>
      linksBut l d e ∧ e.mem = d.mem ∧ e.cores = d.cores ∧
        (k.attempts < 2 → e.lnkState l = lDark ∧ (e.link l).attempts = k.attempts + 1 ∧ (e.link l).backoff = true) ∧
        (2 ≤ k.attempts → e.lnkState l = lDown ∧ (e.link l).attempts = 0)
    let wiring (i : Instr) : Prop := Does i s fun e =>
      e.lnkState l = lDown ∧ e.bit (Reg.LNK_ERR.WIRING l) = true ∧ e.links = d.links ∧ e.mem = d.mem
    (st = lDark → k.backoff = false → trains (.trainStart l .linkReset) ∧ trains (.trainStart l .imageEnd)) ∧
    trains (.retrain q l) ∧ trains (.trainStart l .retrain) ∧ (d.linkUsed l = false → Does (.retrain q l) s fun e => e = d) ∧
    (st = lL2 → trains (.trainStart l .leaveL2)) ∧
    (st = lLight → moves (.lightDone l) lSpeak) ∧ (st = lEqualise → moves (.equaliseDone l) lAlign) ∧
    (∀ (n : BitVec 14) (p : BitVec 5) (v : BitVec 2), st = lSpeak →
      let ver := min (d.get (Reg.LNK_CTL.VERMAX l)) v.toNat
      (ver ≠ 0 → Does (.speakDone l n p v) s fun e =>
        e = { d with regs := e.regs } ∧ e.lnkState l = lLock ∧ e.get (Reg.LNK_STATUS.VER l) = min ver 2 ∧
          e.get (Reg.LNK_PEER.NODE l) = n.toNat ∧ e.get (Reg.LNK_PEER.LINK l) = p.toNat ∧ e.get (Reg.LNK_PEER.VERS l) = v.toNat) ∧
      (ver = 0 → wiring (.speakDone l n p v))) ∧
    (∀ m : BitVec 9, st = lLock → Does (.lockDone l m) s fun e =>
      e = { d with regs := e.regs } ∧ e.lnkState l = lEqualise ∧
        ∀ i, i < 9 → e.bit (Reg.LNK_LANE.LOCK l i) = (decide (i ∈ d.lanes l) && m.getLsbD i)) ∧
    (∀ m peer : BitVec 9, st = lAlign →
      let failed := d.failedLanes l m
      let bad (f : Nat) := (d.lanes l).filter f.testBit
      let work (f : Nat) := (bad f).filter (· < 8)
      let spare (f : Nat) : Prop := 8 ∈ d.lanes l ∧ 8 ∉ bad f
      let assigned (f : Nat) (r : List Nat) : Prop :=
        (work f = [] ∧ r = [0, 1, 2, 3, 4, 5, 6, 7]) ∨
        (∃ x, work f = [x] ∧ ((spare f ∧ r = [0, 1, 2, 3, 4, 5, 6, 7].map fun p => if p = x then 8 else p) ∨
          (¬spare f ∧ r = [0, 1, 2, 3, 4, 5, 6, 7].map fun p => if p = x then 9 else p))) ∨
        (∃ x y, work f = [x, y] ∧ spare f ∧ r = [0, 1, 2, 3, 4, 5, 6, 7].map fun p => if p = x then 8 else if p = y then 9 else p)
      let tooMany (f : Nat) : Prop := 3 ≤ (work f).length ∨ ((work f).length = 2 ∧ ¬spare f)
      (∀ rx tx, assigned failed rx → assigned peer.toNat tx → Does (.alignDone l m peer) s fun e =>
        only e ∧ e.lnkState l = lIdent ∧ (e.link l).rxMap = rx ∧ (e.link l).txMap = tx ∧ (e.link l).maps = [] ∧
          e.get (Reg.LNK_STATUS.LOST l) = failed ∧ e.bit (Reg.LNK_STATUS.SPARE l) = decide (8 ∈ rx) ∧
          e.bit (Reg.LNK_STATUS.NARROW l) = decide (9 ∈ rx) ∧ e.bit (Reg.LNK_STATUS.PNARROW l) = decide (9 ∈ tx)) ∧
      (tooMany failed ∨ tooMany peer.toNat → fails (.alignDone l m peer))) ∧
    (st = lIdent →
      let ok := d.get (Reg.LNK_PEER.NODE l) = d.linkPeer l ∧ d.get (Reg.LNK_PEER.LINK l) = 3 * ((l.val / 3) ^^^ 1) + l.val % 3
      (ok → Does (.identDone l) s fun e => only e ∧ e.lnkState l = lLatency ∧ ∀ v, v < 4 → mget 0 (e.link l).credits v = 512) ∧
      (¬ok → wiring (.identDone l))) ∧
    (∀ x y : BitVec 24, st = lLatency → Does (.latencyDone l x y) s fun e =>
      only e ∧ e.get (Reg.LNK_LAT l) = x.toNat ∧ e.get (Reg.LNK_RTT l) = y.toNat ∧
        e.lnkState l = (if k.downed = true ∧ d.bit (Reg.LNK_CTL.ADMIT l) = false then lUpHeld else lUp) ∧
        (e.link l).expected = 0 ∧ (e.link l).next = 0 ∧ (e.link l).una = 0 ∧ (e.link l).replay = [] ∧ (e.link l).credits = k.credits ∧
        (e.link l).pos = 0 ∧ (e.link l).ctl = if d.get (Reg.LNK_CTL.PSTATE l) = 2 then k.ctl ++ [powerBody false] else k.ctl) ∧
    (lLight ≤ st → st ≤ lLatency → fails (.trainStepTimeout l)) ∧
    (st = lDark → k.backoff = true → d.linkUsed l = true → Does (.darkBackoffExpire l) s fun e =>
      starts e ∧ (e.link l).attempts = k.attempts)

/-- R248, R253 to R257, R263, R265, R266, R268, R281, R331: what arrives on a link. A codeword counts its corrections for their lanes, or is discarded;
a frame that fails its check is only counted; an acknowledgement in the window frees what it covers; a sequenced frame is taken in order and a duplicate
only counted. -/
def Obligations.LinkReceive : Prop :=
  ∀ (s : State) (l : LinkId) (f : Frame),
    let d := s.dev
    let k := d.link l
    let counts (i : Instr) (c : Fld) : Prop := Does i s fun e => onlyRegs [c, c.hi] d e ∧ e.get64 c = (d.get64 c + 1) % 2 ^ 64
    let bad (i : Instr) (typ : Nat) : Prop := d.receives l typ = true → f.typ.toNat = typ → f.ok = false → counts i (Reg.LNK_CRCF_LO l)
    let good (typ : Nat) : Prop := d.receives l typ = true ∧ f.typ.toNat = typ ∧ f.ok = true
    let n := (f.ack.toNat + 65536 - k.una) % 65536
    let links (e : Dev) : Prop := e = { d with links := e.links } ∧ linksBut l d e
    (∀ (errs : List (Fin 544)) (x : Option Frame) (tail : List Byte), d.codewordLock l = true →
      let cnt (c : Fld) (up : Bool) (e : Dev) : Prop := e.get64 c = (d.get64 c + if up then 1 else 0) % 2 ^ 64
      let fecu := Reg.LNK_FECU_LO l
      let fecc := Reg.LNK_FECC_LO l
      let crcf := Reg.LNK_CRCF_LO l
      (15 < errs.length → Does (.codewordReceive l errs x tail) s fun e =>
        e = { d with regs := e.regs, links := e.links } ∧ linksBut l d e ∧ regsBut [fecu, fecu.hi] d e ∧ cnt fecu true e ∧
          e.link l = { k with part := [] }) ∧
      (errs.length ≤ 15 → Does (.codewordReceive l errs x tail) s fun e =>
        e = { d with regs := e.regs, links := e.links } ∧ linksBut l d e ∧ regsBut [fecc, fecc.hi, crcf, crcf.hi] d e ∧
          (errs ≠ [] → cnt fecc true e) ∧ (errs = [] → e.get64 fecc = d.get64 fecc) ∧
          ((∃ g, x = some g ∧ g.ok = false) → cnt crcf true e) ∧ ((∀ g, x = some g → g.ok = true) → e.get64 crcf = d.get64 crcf) ∧
          e.link l = { k with part := tail, symErrs := (e.link l).symErrs } ∧
          ∀ j, mget 0 (e.link l).symErrs j = mget 0 k.symErrs j + (errs.filter fun i => decide (k.symbolLane i.val = j)).length)) ∧
    bad (.ctrlFrame l f) frameCtrl ∧ bad (.rreqFrame l f) frameRreq ∧ bad (.idleFrame l f) frameIdle ∧ bad (.lmapFrame l f) frameLmap ∧
    bad (.dataFrame l f) frameData ∧
    (good frameCtrl → f.ackv = false →
      (f.seq.toNat = k.expected → Does (.ctrlFrame l f) s fun e =>
        e = { d with links := e.links, fab := e.fab } ∧ linksBut l d e ∧
          e.link l = { k with expected := (k.expected + 1) % 65536, ackOwed := true } ∧
          (recField f.body 0 1 ≠ 2 → e.fab = { d.fab with ctlQ := d.fab.ctlQ ++ [(l.val, f)] }) ∧
          (recField f.body 0 1 = 2 → d.get (Reg.LNK_STATUS.VER l) ≠ 1 → e.fab = { d.fab with timeQ := d.fab.timeQ ++ [(l.val, d.mt, f)] }) ∧
          (recField f.body 0 1 = 2 → d.get (Reg.LNK_STATUS.VER l) = 1 → e.fab = d.fab)) ∧
      (32768 ≤ (f.seq.toNat + 65536 - k.expected) % 65536 → Does (.ctrlFrame l f) s fun e =>
        e = { d with regs := e.regs, links := e.links } ∧ linksBut l d e ∧ e.link l = { k with ackOwed := true } ∧
          e.get64 (Reg.LNK_DUP_LO l) = (d.get64 (Reg.LNK_DUP_LO l) + 1) % 2 ^ 64)) ∧
    (good frameIdle →
      (f.ackv = false → Does (.idleFrame l f) s fun e => links e ∧ e.link l = k) ∧
      (f.ackv = true → n ≤ (k.next + 65536 - k.una) % 65536 → Does (.idleFrame l f) s fun e =>
        links e ∧ (e.link l).una = f.ack.toNat ∧ (e.link l).replay = k.replay.drop n ∧ (e.link l).next = k.next ∧
          mget 0 (e.link l).credits f.crdVc.toNat = mget 0 k.credits f.crdVc.toNat + f.crdCnt.toNat)) ∧
    (good frameRreq → n ≤ (k.next + 65536 - k.una) % 65536 → 0 < (k.next + 65536 - f.ack.toNat) % 65536 → Does (.rreqFrame l f) s fun e =>
      links e ∧ (e.link l).una = f.ack.toNat ∧ (e.link l).resend = some f.ack.toNat ∧ (e.link l).replay = k.replay.drop n) ∧
    (lSpeak ≤ d.lnkState l → d.lnkState l ≤ lLatency →
      (f.ok = false → counts (.trainFrame l f) (Reg.LNK_CRCF_LO l)) ∧ (f.ok = true → Does (.trainFrame l f) s fun e => e = d)) ∧
    (good frameLmap → f.ackv = false → k.txMap ≠ (f.body.take 8).map BitVec.toNat → Does (.lmapFrame l f) s fun e =>
      e = { d with regs := e.regs, links := e.links, out := d.out ++ [.marker l] } ∧ linksBut l d e ∧
        (e.link l).txMap = (f.body.take 8).map BitVec.toNat ∧ e.bit (Reg.LNK_STATUS.PNARROW l) = ((f.body.take 8).map BitVec.toNat).contains 9) ∧
    (good frameData → f.ackv = false → f.seq.toNat = k.expected → d.flt.fatal = none → f.blk = d.get Reg.FAB_BLOCK_ID → f.blk ≠ 0 →
      f.nest = 0 → d.headerOk f = true → f.piste = false → f.mc = false → f.dst = d.node → Does (.dataFrame l f) s fun e =>
        e = { d with regs := e.regs, links := e.links, fab := e.fab } ∧ linksBut l d e ∧
          (e.link l).expected = (k.expected + 1) % 65536 ∧ mget 0 (e.link l).owed f.vc.toNat = mget 0 k.owed f.vc.toNat + 1 ∧
          e.get64 Reg.FAB_DELIV_LO = (d.get64 Reg.FAB_DELIV_LO + 1) % 2 ^ 64 ∧
          (f.op = 0 → e.fab.tgtQ = d.fab.tgtQ ++ [f]) ∧ (f.op = 1 → e.fab.readQ = d.fab.readQ ++ [f]) ∧
          (2 ≤ f.op → f.op < 8 → e.fab.rspQ = d.fab.rspQ ++ [f]) ∧ (8 ≤ f.op → e.fab.colQ = d.fab.colQ ++ [f]))

/-- R256 to R259, R265 to R267, R285, R288, R291, R352: what leaves a link. A replayed frame, the piste frame of a reserved position, RREQ, LMAP, a
waiting CTRL frame, a DATA frame with a credit, or IDLE goes out with the sender's expected sequence number; a withdrawn module drops the DATA frames
that wait; timers start a replay or take the link down; L1 and L2 are entered and left. -/
def Obligations.LinkSend : Prop :=
  ∀ (s : State) (l : LinkId) (f : Frame),
    let d := s.dev
    let k := d.link l
    let fresh : Prop := d.linkSends l = true ∧ d.flt.fatal = none ∧ k.resendFrame = none
    let up : Prop := d.sendState l = lUp
    let calm : Prop := fresh ∧ (up → d.reservedTx l = none ∧ k.rreqOwed = false ∧ k.lmapOwed = 0)
    let room : Prop := (k.next + 65536 - k.una) % 65536 < 8192
    let sent (e : Dev) (typ seq : Nat) : Prop :=
      linksBut l d e ∧ e.mem = d.mem ∧ e.cores = d.cores ∧ ∃ g, e.out = d.out ++ [.frame l g] ∧ g.typ.toNat = typ ∧
        g.seq = BitVec.ofNat 16 seq ∧ g.ack = BitVec.ofNat 16 k.expected ∧ g.ackv = true ∧ g.crc = crc32 g.covered
    let sentData (t : TxItem) (rest : List TxItem) (e : Dev) : Prop :=
      sent e frameData k.next ∧ (e.link l).txq = rest ∧ (e.link l).next = (k.next + 1) % 65536 ∧
        mget 0 (e.link l).credits t.f.vc.toNat = mget 0 k.credits t.f.vc.toNat - 1
    let down (i : Instr) : Prop := Does i s fun e =>
      e.bit (Reg.LNK_ERR.DOWN l) = true ∧ e.get (Reg.LNK_ERR.DOWN_CNT l) = min (d.get (Reg.LNK_ERR.DOWN_CNT l) + 1) 255 ∧
        e.bit (Reg.LNK_CTL.ADMIT l) = false ∧ (e.link l).downed = true ∧ e.mem = d.mem ∧ e.cores = d.cores ∧
        e.lnkState l = if d.linkUsed l then lLight else lDown
    let turns (i : Instr) (new : Nat) : Prop := Does i s fun e =>
      onlyRegs [Reg.LNK_STATUS.STATE l, Reg.FAB_STATUS.LINKS] d e ∧ e.lnkState l = new
    (calm → room → ∀ b r, k.ctl = b :: r → Does (.frameTransmit l) s fun e =>
      sent e frameCtrl k.next ∧ (e.link l).ctl = r ∧ (e.link l).next = (k.next + 1) % 65536 ∧ (e.link l).replay.length = k.replay.length + 1 ∧
        (b = powerBody true → e.lnkState l = lL2) ∧ (b ≠ powerBody true → e.lnkState l = d.lnkState l)) ∧
    (calm → k.ctl = [] → k.txq = [] →
      (Does (.frameTransmit l) s fun e => sent e frameIdle 0 ∧ (e.link l).next = k.next ∧ (e.link l).replay = k.replay) ∧
      (k.ackOwed = true → Does (.ackDue l) s fun e => sent e frameIdle 0 ∧ (e.link l).ackOwed = false)) ∧
    (calm → room → k.ctl = [] → up → ∀ t, k.txq = [t] → t.f.typ.toNat = frameData →
      t.hold = none → 0 < mget 0 k.credits t.f.vc.toNat → Does (.frameTransmit l) s fun e =>
        sentData t [] e ∧ (e.link l).pisteTurn = !t.f.piste) ∧
    (fresh → room → up → ∀ t r, d.reservedTx l = some (t, r) → t.f.typ.toNat = frameData → t.hold = none → Does (.frameTransmit l) s fun e =>
      sentData t r e ∧ e.get64 Reg.FAB_PISTE_LO = (d.get64 Reg.FAB_PISTE_LO + 1) % 2 ^ 64) ∧
    (fresh → up → d.reservedTx l = none →
      (k.rreqOwed = true → Does (.frameTransmit l) s fun e => sent e frameRreq 0 ∧ (e.link l).rreqOwed = false) ∧
      (k.rreqOwed = false → 0 < k.lmapOwed → Does (.frameTransmit l) s fun e => sent e frameLmap 0 ∧ (e.link l).lmapOwed = k.lmapOwed - 1)) ∧
    (∀ r g, d.linkSends l = true → d.flt.fatal = none → k.resendFrame = some (r, g) → up ∨ g.typ.toNat = frameCtrl →
      Does (.frameTransmit l) s fun e =>
        sent e g.typ.toNat r ∧ e.get64 (Reg.LNK_REPLAY_LO l) = (d.get64 (Reg.LNK_REPLAY_LO l) + 1) % 2 ^ 64 ∧
          (e.link l).resend = if (r + 1) % 65536 = k.next then none else some ((r + 1) % 65536)) ∧
    (d.linkSends l = true → d.flt.fatal.isSome = true → Does (.frameTransmit l) s fun e =>
      (e.link l).txq = [] ∧ e.mem = d.mem ∧
        e.get Reg.FAB_DROP_ROUTE = min (d.get Reg.FAB_DROP_ROUTE + k.txq.length) (2 ^ Reg.FAB_DROP_ROUTE.width - 1)) ∧
    (d.linkSends l = true →
      (k.una ≠ k.next → (Does (.replayTimer l) s fun e =>
          e = { d with links := e.links } ∧ linksBut l d e ∧ e.link l = { k with resend := some k.una }) ∧
        down (.progressTimeout l)) ∧
      (k.una = k.next → (Does (.replayTimer l) s fun e => e = { d with links := e.links } ∧ linksBut l d e ∧ e.link l = k) ∧
        Does (.progressTimeout l) s fun e => e = d)) ∧
    (d.lnkState l = lUp → d.get (Reg.LNK_CTL.PSTATE l) = 1 → k.txq = [] → k.resend = none → turns (.l1Entry l) lL1) ∧
    (d.lnkState l = lL1 → turns (.l1Exit l) lUp) ∧
    ((l.val, f) ∈ d.fab.ctlQ → recField f.body 0 1 = 4 →
      let took := { d.fab with ctlQ := d.fab.ctlQ.erase (l.val, f) }
      (d.get (Reg.LNK_CTL.PSTATE l) = 2 → d.linkSends l = true →
        (recField f.body 1 1 = 0 → Does (.powerState l f) s fun e =>
          e = { d with links := e.links, fab := took } ∧ linksBut l d e ∧ e.link l = { k with ctl := k.ctl ++ [powerBody true] }) ∧
        (recField f.body 1 1 ≠ 0 → Does (.powerState l f) s fun e =>
          e = { d with regs := e.regs, fab := took } ∧ regsBut [Reg.LNK_STATUS.STATE l, Reg.FAB_STATUS.LINKS] d e ∧ e.lnkState l = lL2)) ∧
      (d.get (Reg.LNK_CTL.PSTATE l) ≠ 2 ∨ d.linkSends l = false → Does (.powerState l f) s fun e => e = { d with fab := took })) ∧
    (k.maps ≠ [] → d.lnkState l ≠ lHold → down (.mapMarkerTimeout l))

/-- R260 to R264, R268: lanes. Three or more lanes without lock hold the receiver; it resumes with the frame it had begun, or goes down after STALL_US;
a lost lane moves to the spare, else is dropped, else takes the link down; a map changes at its marker; a margin measurement updates the lane's
registers and its flag. -/
def Obligations.LinkLanes : Prop :=
  ∀ (s : State) (l : LinkId) (lane : Fin 9),
    let d := s.dev
    let k := d.link l
    let st := d.lnkState l
    let lost := d.get (Reg.LNK_STATUS.LOST l)
    let m := k.lastMap
    let moved (x : Nat) : List Nat := m.map fun p => if p = lane.val then x else p
    let locks := (List.range 9).map (Reg.LNK_LANE.LOCK l)
    let only (e : Dev) : Prop := e = { d with regs := e.regs, links := e.links } ∧ linksBut l d e
    let isDown (e : Dev) : Prop :=
      e.bit (Reg.LNK_ERR.DOWN l) = true ∧ (e.link l).downed = true ∧ e.lnkState l = if d.linkUsed l then lLight else lDown
    (∀ x : BitVec 9, st = lUp ∨ st = lUpHeld →
      let unlocks (e : Dev) : Prop := ∀ i, i < 9 → e.bit (Reg.LNK_LANE.LOCK l i) = (d.bit (Reg.LNK_LANE.LOCK l i) && !x.getLsbD i)
      (3 ≤ (k.inService x.toNat).length → Does (.laneLockLoss l x) s fun e =>
        only e ∧ e.link l = { k with heldFrom := st } ∧ e.lnkState l = lHold ∧ unlocks e) ∧
      ((k.inService x.toNat).length < 3 → Does (.laneLockLoss l x) s fun e => onlyRegs locks d e ∧ unlocks e)) ∧
    (∀ b : Bool, st = lUp ∨ st = lUpHeld → lost.testBit lane = false →
      let spare : Prop := d.get (Reg.LNK_STATUS.VER l) = 2 ∧ 8 ∉ m ∧ lost.testBit 8 = false
      let noted (e : Dev) : Prop := e.get (Reg.LNK_STATUS.LOST l) = lost ||| 2 ^ lane.val ∧ e.bit (Reg.LNK_LANE.LOCK l lane) = b
      let changes (y : Nat) (e : Dev) : Prop :=
        e.lnkState l = st ∧ (e.link l).maps = k.maps ++ [moved y] ∧ (e.link l).rxMap = k.rxMap ∧ (e.link l).lmapOwed = 4 ∧
          e.bit (Reg.LNK_STATUS.SPARE l) = decide (8 ∈ moved y) ∧ e.bit (Reg.LNK_STATUS.NARROW l) = decide (9 ∈ moved y) ∧
          linksBut l d e ∧ e.mem = d.mem ∧ e.cores = d.cores
      (lane.val ∉ m → Does (.laneLost l lane b) s fun e =>
        onlyRegs [Reg.LNK_STATUS.LOST l, Reg.LNK_LANE.LOCK l lane] d e ∧ noted e) ∧
      (lane.val ∈ m → spare → Does (.laneLost l lane b) s fun e => noted e ∧ changes 8 e ∧ e.bit (Reg.LNK_ERR.SPARED l) = true) ∧
      (lane.val ∈ m → ¬spare → 9 ∉ m → Does (.laneLost l lane b) s fun e => noted e ∧ changes 9 e ∧ e.bit (Reg.LNK_ERR.NARROW l) = true) ∧
      (lane.val ∈ m → ¬spare → 9 ∈ m → Does (.laneLost l lane b) s isDown)) ∧
    (lost.testBit lane = true ∨ ¬(st = lUp ∨ st = lUpHeld) → ∀ b, Does (.laneLost l lane b) s fun e => e = d) ∧
    (st = lHold →
      (∀ bs,
        let whole := k.part ++ bs
        let back (e : Dev) : Prop :=
          e.lnkState l = k.heldFrom % 16 ∧ ∀ i, i < 9 → e.bit (Reg.LNK_LANE.LOCK l i) = decide (i ∈ d.lanes l)
        (k.part = [] → Does (.holdResume l 0 bs) s fun e => only e ∧ back e ∧ e.link l = k) ∧
        (k.part ≠ [] → whole.length < 256 → Does (.holdResume l 0 bs) s fun e => only e ∧ back e ∧ e.link l = { k with part := whole }) ∧
        (k.part ≠ [] → whole.length = 256 → k.heldFrom = lUp → (Frame.ofBytes whole).ok = false → Does (.holdResume l 0 bs) s fun e =>
          only e ∧ back e ∧ e.link l = { k with part := [] } ∧
            e.get64 (Reg.LNK_CRCF_LO l) = (d.get64 (Reg.LNK_CRCF_LO l) + 1) % 2 ^ 64)) ∧
      (∀ (x : BitVec 9) (bs : List Byte), 3 ≤ (k.inService x.toNat).length → Does (.holdResume l x bs) s fun e => e = d) ∧
      (∀ x : BitVec 9, (k.inService x.toNat).length < 3 → Does (.stallTimeout l x) s fun e =>
        e.lnkState l = k.heldFrom % 16 ∧ e.link l = { k with part := [], rreqOwed := true, rreqAt := d.mt + 1 } ∧
          e.bit (Reg.LNK_ERR.STALL l) = true ∧ linksBut l d e ∧ e.mem = d.mem) ∧
      (∀ x : BitVec 9, 3 ≤ (k.inService x.toNat).length → Does (.stallTimeout l x) s isDown)) ∧
    (∀ n, Does (.mapMarker l n) s fun e =>
      e = { d with links := e.links } ∧ linksBut l d e ∧
        (∀ x r, k.maps.drop n = x :: r → e.link l = { k with rxMap := x, maps := r }) ∧ (k.maps.drop n = [] → e.link l = k)) ∧
    (∀ x : LaneMeasure, d.linkCarries l = true → Does (.linkMarginMeasure l lane x) s fun e =>
      e.get (Reg.LNK_LANE.EYE_H l lane) = x.eyeH.toNat ∧ e.get (Reg.LNK_LANE.EYE_W l lane) = x.eyeW.toNat ∧
        e.get (Reg.LNK_LANE.SYMERR l lane) = min (mget 0 k.symErrs lane) (2 ^ 32 - 1) ∧ linksBut l d e ∧ e.mem = d.mem ∧
        mget 0 (e.link l).symErrs lane = 0 ∧ (∀ j, j ≠ lane.val → mget 0 (e.link l).symErrs j = mget 0 k.symErrs j) ∧
        (x.eyeH.toNat < 15 ∨ x.eyeW.toNat < 150 ∨ x.biasHigh = true ∨ x.berHigh = true → e.bit (Reg.LNK_ERR.MARGIN l) = true))

/-- R320 to R322, R328, R464: staging pools. A free buffer goes to the queue or requester that asks (the lowest one: log entry 27), 0xFFFF says that none
is free; a send queue's buffer holds what it sends; a freed buffer passes to the next waiting queue or becomes free, a free of a buffer that is not in
use sets POOL alone, and a 0 written to FREE is no write. -/
def Obligations.StagingPools : Prop :=
  ∀ (s : State) (n : Fin 16) (r : Requester),
    let d := s.dev
    let p := d.pool n
    let free (b : Nat) : Prop := b < d.get (Reg.COL_POOL_CFG.COUNT n) ∧ b ∉ p.used
    let only (e : Dev) : Prop := e = { d with col := e.col, out := e.out } ∧ (∀ m, m ≠ n.val → e.pool m = d.pool m) ∧
      e.col = { d.col with pools := e.col.pools, last := e.col.last }
    let allocs (i : Instr) : Prop :=
      (∀ b, free b → (∀ j, j < b → ¬free j) → Does i s fun e =>
        only e ∧ e.out = d.out ++ [.regRead b] ∧ (e.pool n).used = p.used ++ [b] ∧ e.col.last = 24 ∧
          (e.pool n).waiting = p.waiting.filter fun x => decide (x ≠ 24)) ∧
      ((∀ b, ¬free b) → Does i s fun e => e = d.emit (.regRead 0xFFFF))
    allocs (.colPoolAlloc r n) ∧ allocs (.poolGrant n [24]) ∧
    (∀ i : BitVec 16,
      (i = 0 → Does (.colPoolFree r n i) s fun e => e = d) ∧
      (i ≠ 0 → d.pwr.held = false → d.get Reg.PWR_STATUS.STATE < 3 →
        (i.toNat ∉ p.used → Does (.colPoolFree r n i) s fun e => onlyRegs [Reg.COL_ERR.POOL] d e ∧ e.bit Reg.COL_ERR.POOL = true) ∧
        (i.toNat ∈ p.used → p.waiting.filter d.wantsBuf = [] → Does (.colPoolFree r n i) s fun e =>
          only e ∧ e.out = d.out ∧ e.col.last = d.col.last ∧ (e.pool n).used = p.used.filter fun x => decide (x ≠ i.toNat)))) ∧
    (∀ b : BitVec 9, (∃ x ∈ d.col.bufs, x.1 = b.toNat) → (∀ l, l < 24 → ∀ t ∈ (d.link l).txq, t.buf ≠ some (0, b.toNat)) →
      let p := d.pool 0
      let left := d.col.bufs.filter fun x => decide (x.1 ≠ b.toNat)
      let used := p.used.filter fun x => decide (x ≠ b.toNat)
      let asks := p.waiting.filter (Dev.wantsBuf { d with col := { d.col with bufs := left } })
      (asks = [] → Does (.sendBufferFree 0 b) s fun e =>
        e = { d with col := e.col } ∧ e.col = { d.col with bufs := left, pools := e.col.pools } ∧ (e.pool 0).used = used) ∧
      (∀ l rest, rotate d.col.last asks = l :: rest → Does (.sendBufferFree 0 b) s fun e =>
        (e.pool 0).used = used ++ [b.toNat] ∧ e.col.last = l ∧ l ∉ (e.pool 0).waiting ∧ ∃ x, e.col.bufs = left ++ [(b.toNat, l, x)])) ∧
    (∀ (b : BitVec 9) (l : Fin 24), ∀ t ∈ (d.link l).txq, t.buf = some (0, b.toNat) → Does (.sendBufferFree 0 b) s fun e => e = d) ∧
    (∀ l : Fin 25, l.val < 24 → d.wantsBuf l = true →
      (∀ en x q b, d.col.entry = some en → d.col.sendq = [x] → d.recLane en.raw en.seq x = some (l.val, q) →
        x.len ≤ 2 ^ d.get (Reg.COL_POOL_CFG.SIZE_LOG2 0) → x.zero = false → d.readErr x.src x.len = none → d.freeBuf 0 = some b →
        let a := d.bufAddr 0 b
        let bs := d.rdBytes x.src x.len
        d.writeErr a bs = none → d.rbtHit a x.len = [] → Does (.poolGrant 0 [l]) s fun e =>
          e.col.bufs = d.col.bufs ++ [(b, l.val, q)] ∧ e.col.sendq = [] ∧ (e.pool 0).used = (d.pool 0).used ++ [b] ∧ e.col.last = l ∧
            wroteBytes a bs d e ∧ e.cores = d.cores ∧ (e.link l).txq.length = (d.link l).txq.length + 1 ∧
            e.get64 Reg.COL_TX_LO = (d.get64 Reg.COL_TX_LO + x.len) % 2 ^ 64) ∧
      (d.freeBuf 0 = none → l.val ∉ (d.pool 0).waiting → Does (.poolGrant 0 [l]) s fun e =>
        e = { d with col := e.col } ∧ e.col = { d.col with pools := e.col.pools } ∧
          e.pool 0 = { d.pool 0 with waiting := (d.pool 0).waiting ++ [l.val] })) ∧
    (n ≠ 0 → ∀ ls : List (Fin 25), 24 ∉ ls → Does (.poolGrant n ls) s fun e => e = d)

/-- R199, R306, R312 to R316, R319: what a record does that the collective unit takes. A count or data record of the launched entry is counted and
combined or stored; a count record of a later entry is held; a record that names nothing stops the unit with STRAY; an abort record of the launched
entry stops it with ABORTED; a stopped unit discards every record. -/
def Obligations.CollectiveRecords : Prop :=
  ∀ (s : State) (f : Frame),
    let d := s.dev
    let b := f.payload
    let comm := recField b 0 1
    let gone (i : Instr) : Prop := Does i s fun e => e = { d with fab := { d.fab with colQ := d.fab.colQ.erase f } }
    let took (e : Dev) : Prop := e.fab = { d.fab with colQ := d.fab.colQ.erase f } ∧ e.cores = d.cores
    let stops (i : Instr) (bit : Fld) : Prop := Does i s fun e =>
      e.bit bit = true ∧ e.bit Reg.COL_ERR.ABORTED = true ∧ e.bit Reg.COL_STATUS.STOPPED = true ∧ e.bit Reg.COL_STATUS.BUSY = false ∧
        e.col.entry = none ∧ e.col.held = [] ∧ e.get Reg.FLT_STATUS.HL = hlStopped
    let heard (e : Dev) : Prop := e.get64 Reg.COL_RX_LO = (d.get64 Reg.COL_RX_LO + f.plen) % 2 ^ 64 ∧ e.col.lastAt = d.mt
    f ∈ d.fab.colQ →
      (d.bit Reg.COL_STATUS.STOPPED = true →
        (f.op = 8 → gone (.countRecord f)) ∧ (f.op = 9 → gone (.dataRecord f)) ∧ (f.op = 10 → gone (.gridDataRecord f)) ∧
        (f.op = 11 → gone (.abortRecord f))) ∧
      (d.bit Reg.COL_STATUS.STOPPED = false →
        (f.op = 8 →
          (∀ en st, d.col.entry = some en → eComm en.raw = comm → en.seq = crSeq b → st ∈ en.steps → st.num = crStep b →
            (∃ p ∈ st.peers, p.node = f.src) → (eGrid en.raw = true → crGride b = d.entryGride en.raw) →
            (eKind en.raw = 6 → crPstep b = eAux en.raw) → en.placed = true → en.counted = true → en.unsent = [] →
            let c : ColCount := ⟨f.src, crStep b, crFlags b, crBytes b, recField b 0x14 2,
              (List.range (recField b 0x12 2)).map fun i => recField b (0x20 + 2 * i) 2⟩
            ColEntry.overrun { en with counts := en.counts ++ [c] } f.src = false → Does (.countRecord f) s fun e =>
              took e ∧ e.mem = d.mem ∧ heard e ∧
                ∃ e', e.col.entry = some e' ∧ e' = { en with counts := en.counts ++ [c], queued := e'.queued }) ∧
          (d.isCurrent comm (crSeq b) = false → (d.laterSeqs comm).contains (crSeq b) = true → d.col.held.length < 64 →
            (∀ en, d.col.entry = some en → en.owes f.src = false) → Does (.countRecord f) s fun e =>
              e = { d with regs := e.regs, fab := { d.fab with colQ := d.fab.colQ.erase f }, col := { d.col with held := d.col.held ++ [f] } } ∧
                regsBut [Reg.COL_STATUS.HELD] d e ∧ e.get Reg.COL_STATUS.HELD = d.col.held.length + 1) ∧
          (∀ en, d.col.entry = some en → d.isCurrent comm (crSeq b) = false → (d.laterSeqs comm).contains (crSeq b) = true →
            d.col.held.length < 64 → en.owes f.src = true → stops (.countRecord f) Reg.COL_ERR.ORDER_CROSS) ∧
          (d.isCurrent comm (crSeq b) = false → (d.laterSeqs comm).contains (crSeq b) = false →
            seqPast (mget 0 d.col.seqs comm) (crSeq b) 32 = false → stops (.countRecord f) Reg.COL_ERR.STRAY)) ∧
        (∀ en, d.col.entry = some en → eComm en.raw = f.txid % 64 → en.seq % 1024 = f.txid / 64 % 1024 →
          (∃ st ∈ en.steps, ∃ p ∈ st.peers, p.node = f.src) →
          let en' : ColEntry := { en with rx := mset 0 en.rx f.src (en.got f.src + f.plen) }
          en'.overrun f.src = false →
            (f.op = 9 → en.placed = true → ¬(eKind en.raw = 4 ∧ eDyn en.raw = true ∧ eArg en.raw = 0) → remoteDenied f.addr = false →
              d.writeErr f.addr b = none → d.rbtHit f.addr b.length = [] → Does (.dataRecord f) s fun e =>
                took e ∧ heard e ∧ e.col.entry = some en' ∧ wroteBytes f.addr b d e) ∧
            (∀ i, f.op = 10 → d.gridBuffer f.addr = some i → (f.addr - d.rbtLo i) % 8 = 0 → b.length = 8 → f.addr + 8 ≤ d.rbtHi i →
              d.rbtTakes i = true → d.firstBad f.addr 8 = none → (∀ x ∈ d.accq, x.rbt ≠ i) → Does (.gridDataRecord f) s fun e =>
                let sum := gridAdd (BitVec.ofNat 64 (d.rdNat f.addr 8)) (BitVec.ofNat 64 (leNat b))
                took e ∧ heard e ∧ e.col.entry = some en' ∧ wroteBytes f.addr (leBytes 8 sum.1.toNat) d e ∧
                  (∀ p, d.place f.addr = some p →
                    let k := stackOf p
                    e.get64 (Reg.GRN_THR_ACC_LO k) = (d.get64 (Reg.GRN_THR_ACC_LO k) + 1) % 2 ^ 64 ∧
                      e.get64 (Reg.GRN_THR_BUSY_LO k) = (d.get64 (Reg.GRN_THR_BUSY_LO k) + 4) % 2 ^ 64) ∧
                  (sum.2 = true → e.bit (Reg.GRN_RBS_FLAGS.GRID_RANGE i) = true))) ∧
        (f.op = 11 →
          (d.isCurrent comm (crSeq b) = true → stops (.abortRecord f) Reg.COL_ERR.ABORTED) ∧
          (d.isCurrent comm (crSeq b) = false → (∀ h ∈ d.col.held, ¬(recField h.payload 0 1 = comm ∧ crSeq h.payload = crSeq b)) →
            gone (.abortRecord f))))

/-- R201, R302 to R306, R309, R310, R314, R317, R346, R347: an entry that is ready at its instant launches with its schedule, one that no schedule fits
stops the unit; a step whose partners have declared and sent everything combines and gives way to the next; an entry with nothing left completes,
its communicator's counter and the script move on; neither goes on while an addend of the unit waits; the stall limit stops the unit; the audit's record is stored; CTRCLR zeroes the counters. -/
def Obligations.CollectiveScript : Prop :=
  ∀ (s : State),
    let d := s.dev
    let idx := d.entryIdx
    let raw := d.entryRaw idx
    let stops (i : Instr) (bit : Fld) : Prop := Does i s fun e =>
      e.bit bit = true ∧ e.bit Reg.COL_ERR.ABORTED = true ∧ e.bit Reg.COL_STATUS.STOPPED = true ∧ e.col.entry = none ∧
        e.get Reg.FLT_STATUS.HL = hlStopped
    (d.colReady = false → Does .entryLaunch s fun e => e = d) ∧
    (d.colReady = true → d.readErr (d.entryAddr idx) 64 = none →
      (∀ t, d.bit Reg.MTC_DETERMINISM.EARLY = false → d.entryInstant raw = some t → d.mt < t → Does .entryLaunch s fun e => e = d) ∧
      (∀ count map, d.bit Reg.MTC_DETERMINISM.EARLY = true ∨ (∀ t, d.entryInstant raw = some t → t ≤ d.mt) →
        (d.launchReads raw).1 = some (count, map) →
        (d.schedule raw count map = none → stops .entryLaunch Reg.COL_ERR.ENTRY_BAD) ∧
        (eKind raw = 6 → (d.schedule raw count map).isSome = true →
          (∀ g ∈ groupsOf (eArg raw), d.grpState g = grpOpen ∨ d.grpState g = grpDeciding ∨ d.grpState g = grpMirroring) →
          Does .entryLaunch s fun e => ∀ g ∈ groupsOf (eArg raw), e.grpState g = grpDeciding) ∧
        (∀ p steps, d.schedule raw count map = some (p, steps) →
          (∀ h ∈ d.col.held, ¬(recField h.payload 0 1 = eComm raw ∧ crSeq h.payload = mget 0 d.col.seqs (eComm raw))) →
          let launches (post : Dev → Prop) : Prop := Does .entryLaunch s fun e =>
            (∃ en, e.col.entry = some en ∧ en.raw = raw ∧ en.idx = idx ∧ en.seq = mget 0 d.col.seqs (eComm raw) ∧ en.steps = steps ∧
              en.counts = [] ∧ en.rx = []) ∧
            e.bit Reg.COL_STATUS.BUSY = true ∧ e.col.lastAt = d.mt ∧ e.col.held = d.col.held ∧ e.cores = d.cores ∧ post e
          (p.kind = 1 ∨ p.kind = 5 → launches fun e => e.mem = d.mem) ∧
          (p.kind = 2 →
            let c := p.chunkAt (axesRank p.axes)
            d.readErr p.src c.2 = none → d.writeErr (p.dst + c.1) (d.rdBytes p.src c.2) = none →
            d.rbtHit (p.dst + c.1) c.2 = [] → launches (wroteBytes (p.dst + c.1) (d.rdBytes p.src c.2) d)) ∧
          (p.kind = 3 → axesRank p.axes ≠ eArg raw → launches fun e => e.mem = d.mem) ∧
          (p.kind = 7 → launches fun e =>
            e.mem = d.mem ∧ e.get256 Reg.GRN_DIG_IN = 0 ∧ e.get256 Reg.GRN_DIG_PROG = 0 ∧ ∀ en, e.col.entry = some en →
              en.sums = [d.get256 Reg.GRN_DIG_W, d.get256 Reg.GRN_DIG_IN, d.get256 Reg.GRN_DIG_PROG]) ∧
          (∀ t, p.kind = 1 → d.entryInstant raw = some t → d.col.readyAt ≠ 0 → t < d.col.readyAt - 1 →
            launches fun e => e.bit Reg.COL_ERR.LATE = true)))) ∧
    (∀ en st rest, d.col.entry = some en → en.steps = st :: rest →
      (en.counted = true → d.colArrived = true → en.unsent = [] → en.stepDone st = true → (∀ p ∈ st.peers, en.queued.contains p.node = true) →
        Does .collectiveStepDone s fun e =>
          e.mem = d.mem ∧ e.cores = d.cores ∧ ∃ e', e.col.entry = some e' ∧
            e' = { st.peers.foldl (ColEntry.combine st.num) en with
              steps := rest, counted := e'.counted, unsent := e'.unsent, queued := e'.queued }) ∧
      (en.stepDone st = false ∨ d.colArrived = false → Does .collectiveStepDone s fun e => e = d)) ∧
    (∀ en, d.col.entry = some en →
      (en.steps = [] → d.colArrived = true → en.unsent = [] → d.col.sendq = [] → d.col.bufs = [] → (eKind en.raw = 6 → en.decided = true) →
        (eKind en.raw = 7 → en.audited = true) → Does .entryComplete s fun e =>
          let last : Prop := d.get Reg.COL_SCRIPT_LEN ≤ en.idx + 1
          e = { d with regs := e.regs, col := e.col, cores := e.cores } ∧ regsBut [Reg.COL_STATUS.BUSY, Reg.COL_STATUS.ENTRY] d e ∧
            e.col.entry = none ∧ e.bit Reg.COL_STATUS.BUSY = false ∧
            e.col.seqs = mset 0 d.col.seqs (eComm en.raw) ((en.seq + 1) % 2 ^ 32) ∧
            (last → e.get Reg.COL_STATUS.ENTRY = 0 ∧ e.col.pass = d.col.pass + 1) ∧
            (¬last → e.get Reg.COL_STATUS.ENTRY = en.idx + 1 ∧ e.col.pass = d.col.pass) ∧
            ∀ c, e.core c = if c < 64 ∧ (eCores en.raw).testBit c then { d.core c with colgo := (d.core c).colgo.erase en.idx } else d.core c) ∧
      (en.steps ≠ [] ∨ d.colArrived = false ∨ en.unsent ≠ [] ∨ d.col.sendq ≠ [] ∨ d.col.bufs ≠ [] → Does .entryComplete s fun e => e = d) ∧
      (d.get Reg.COL_WAIT_LIMIT ≠ 0 → d.col.lastAt + d.get Reg.COL_WAIT_LIMIT * ticksPerUs ≤ d.mt →
        stops .orderStall Reg.COL_ERR.ORDER_STALL ∧
        Does .orderStall s fun e => e.bit Reg.COL_ERR_COMM.NONE2 = d.col.held.isEmpty ∧
          e.get Reg.COL_ERR_COMM.COMM1 = eComm en.raw % 2 ^ Reg.COL_ERR_COMM.COMM1.width) ∧
      (d.get Reg.COL_WAIT_LIMIT = 0 ∨ d.mt < d.col.lastAt + d.get Reg.COL_WAIT_LIMIT * ticksPerUs → Does .orderStall s fun e => e = d) ∧
      (eKind en.raw = 7 → en.steps = [] → en.audited = false → d.writeErr (eDst en.raw) (d.auditRecord en) = none →
        d.rbtHit (eDst en.raw) (d.auditRecord en).length = [] → Does .auditEntryDone s fun e =>
          e = { d with mem := e.mem, grnBad := e.grnBad, sramEcc := e.sramEcc, col := { d.col with entry := some { en with audited := true } } } ∧
            wroteBytes (eDst en.raw) (d.auditRecord en) d e)) ∧
    (let cs := [Reg.COL_TX_LO, Reg.COL_RX_LO, Reg.COL_WAIT_PART_LO, Reg.COL_WAIT_POOL_LO, Reg.COL_WAIT_LAUNCH_LO]
     Does .colCtrclr s fun e => onlyRegs (cs ++ cs.map Fld.hi) d e ∧ ∀ f ∈ cs, e.get64 f = 0)

/-- R329, R331, R332, R334: machine time advances by a cycle's ticks once started, 16 unless it is steered (log entry 54); a time frame goes to every Twivin 2 link that carries frames; one
that arrives updates its link's information, makes the module follow its link where that is the parent or the only candidate, and is a sample whose
filtered offset is open (log entry 1); a lower-ranked parent takes over. -/
def Obligations.MachineTime : Prop :=
  ∀ (s : State),
    let d := s.dev
    let follows (e : Dev) (l : Nat) (i : TimeInfo) : Prop :=
      e.time.parent = some l ∧ e.time.rootNode = i.root ∧ e.get Reg.MTC_STATUS.HOPS = (i.hops + 1) % 128 ∧
        e.get Reg.MTC_STATUS.ROOTSEL = i.sel % 2 ∧ e.get Reg.MTC_STATUS.PLINK = l % 32 ∧ e.bit Reg.MTC_STATUS.HOLD = false ∧
        (d.time.last ≠ none → d.time.last ≠ some l → e.bit Reg.MTC_ERR.PARENT = true ∧
          e.get Reg.MTC_ERR.PCHG_CNT = min (d.get Reg.MTC_ERR.PCHG_CNT + 1) 255)
    let moved : List Fld := [Reg.MTC_STATUS.HOPS, Reg.MTC_STATUS.ROOTSEL, Reg.MTC_STATUS.PLINK, Reg.MTC_STATUS.HOLD, Reg.MTC_ERR.PARENT,
      Reg.MTC_ERR.PCHG_CNT]
    (∀ n, d.time.started = true →
      let off := bitsInt 32 (d.get Reg.MTC_OFFSET)
      let steered : Prop := d.time.sampled = true ∧ d.node ≠ d.get Reg.MTC_ROOT.ROOT0 ∧ 624 ≤ d.time.steady
      let paced : Prop := n = 16 ∨ (n = 15 ∧ steered ∧ off ≤ 0) ∨ (n = 17 ∧ steered ∧ 0 ≤ off)
      (paced → Does (.mtTick n) s fun e =>
        e.mt = (d.mt + n) % 2 ^ 64 ∧ e.mem = d.mem ∧ e.cores = d.cores ∧
          e.time = { d.time with steady := if n = 16 then min (d.time.steady + 1) 625 else 0 }) ∧
      (¬paced → Does (.mtTick n) s fun e => e = d)) ∧
    (∀ n, d.time.started = false → Does (.mtTick n) s fun e => e = d) ∧
    (d.time.started = true → Does .timeFrameSend s fun e =>
      e = { d with links := e.links } ∧ ∀ l, e.link l =
        if l < 24 ∧ d.linkCarries l = true ∧ d.get (Reg.LNK_STATUS.VER l) = 2 then { d.link l with ctl := (d.link l).ctl ++ [d.timeBody] }
        else d.link l) ∧
    (∀ (l : LinkId) (f : Frame) (at_ : Nat), d.fab.timeQ.find? (fun p => decide (p.1 = l.val) && decide (p.2.2 = f)) = some (l.val, at_, f) →
      d.time.started = true → d.get (Reg.LNK_STATUS.VER l) = 2 →
        let b := f.body
        let i : TimeInfo := ⟨at_, (recField b 1 1).testBit 0, recField b 1 1 / 2 % 2, recField b 2 1, recField b 4 2⟩
        let took := { d.fab with timeQ := d.fab.timeQ.erase (l.val, at_, f) }
        let d1 : Dev := { d with fab := took, time := { d.time with frames := mset none d.time.frames l (some i) } }
        let sample : Int := (recField b 8 8 : Int) + (d.get (Reg.LNK_LAT l) : Int) - (at_ : Int)
        let ps := bitsInt 32 (Config.freeNat d.freeIdx)
        let stepped : Prop := d.time.sampled = false ∨ 1000000 < ps
        let by_ : Nat := if d.time.sampled = false then sample.toNat else (ps / 250).toNat
        (d.isRoot = true → Does (.timeFrameReceive l f) s fun e => e = d1) ∧
        (∀ p, d.isRoot = false → d.time.parent = some p → p ≠ l.val → d1.candidate p = true → Does (.timeFrameReceive l f) s fun e => e = d1) ∧
        (d.isRoot = false → d1.candidate l = true →
          d.time.parent = some l.val ∨ (d.time.parent = none ∧ ∀ j, j < 24 → j ≠ l.val → d1.candidate j = false) →
          Does (.timeFrameReceive l f) s fun e =>
            regsBut (Reg.MTC_OFFSET :: moved) d e ∧ follows e l i ∧ e.get Reg.MTC_OFFSET = Config.freeNat d.freeIdx % 2 ^ 32 ∧
              e.time.sampled = true ∧ e.mem = d.mem ∧ e.cores = d.cores ∧ e.freeIdx = d.freeIdx + 1 ∧
              (stepped → e.mt = (d.mt + by_) % 2 ^ 64 ∧ mget none e.time.frames l = some { i with at_ := at_ + by_ }) ∧
              (¬stepped → e = { d1 with regs := e.regs, time := e.time, freeIdx := e.freeIdx } ∧ mget none e.time.frames l = some i))) ∧
    (∀ p b i, d.time.parent = some p → d.bestCandidate = some b → d.timeInfo b = some i → d.isRoot = false → b ≠ p →
      d.candidate p = false ∨ d.timeRank b < d.timeRank p → Does .parentSwitch s fun e =>
        e = { d with regs := e.regs, time := e.time } ∧ regsBut moved d e ∧ follows e b i ∧ e.time.frames = d.time.frames) ∧
    (d.time.parent = none ∨ d.isRoot = true → Does .parentSwitch s fun e => e = d)

/-- R332 to R335: lock with a parent within 4 ns sets SYNC; an offset beyond that is flagged and warned of, once an hour; without a candidate the counter holds over, and
at HOLD_LIMIT_US it is no longer synchronised, which stops the job; the standby root takes over when nothing follows the primary, and returns. -/
def Obligations.TimeLoss : Prop :=
  ∀ (s : State),
    let d := s.dev
    (d.time.parent ≠ none → d.isRoot = false →
      let ps := bitsInt 32 (d.get Reg.MTC_OFFSET)
      let small : Prop := -4000 ≤ ps ∧ ps ≤ 4000
      (small → (Does .syncAcquire s fun e => onlyRegs [Reg.MTC_STATUS.SYNC] d e ∧ e.bit Reg.MTC_STATUS.SYNC = true) ∧
        Does .mtcOffset s fun e => e = d) ∧
      (¬small → Does .syncAcquire s fun e => e = d) ∧
      (¬small → d.warnDue 0 Flt.MTC_OFFSET = false → Does .mtcOffset s fun e => e = d) ∧
      (¬small → d.warnDue 0 Flt.MTC_OFFSET = true → Does .mtcOffset s fun e => e.bit Reg.MTC_ERR.OFFSET = true ∧ e.mem = d.mem ∧ e.cores = d.cores ∧ e.time = d.time ∧ e.mt = d.mt) ∧
      (¬small → mget 0 d.flt.rate Flt.MTC_OFFSET = 0 → d.flt.pend.length < 32 → Does .mtcOffset s fun e =>
        ∃ r ∈ e.flt.pend, r.code = Flt.MTC_OFFSET ∧ r.last = d.mt)) ∧
    (d.time.parent = none ∨ d.isRoot = true → (Does .syncAcquire s fun e => e = d) ∧ Does .mtcOffset s fun e => e = d) ∧
    (d.time.started = true → d.isRoot = false → d.bestCandidate = none → d.bit Reg.MTC_STATUS.HOLD = false →
      Does .holdoverEnter s fun e =>
        e.bit Reg.MTC_STATUS.HOLD = true ∧ e.bit Reg.MTC_ERR.HOLD = true ∧ e.time = { d.time with parent := none, holdAt := d.mt, limitPast := false } ∧ e.mt = d.mt ∧
          e.bit Reg.MTC_STATUS.SYNC = d.bit Reg.MTC_STATUS.SYNC ∧ e.mem = d.mem ∧ e.cores = d.cores) ∧
    (d.bit Reg.MTC_STATUS.HOLD = true ∨ d.bestCandidate.isSome = true → Does .holdoverEnter s fun e => e = d) ∧
    (d.bit Reg.MTC_STATUS.HOLD = true → d.bestCandidate = none → d.bit Reg.MTC_STATUS.SYNC = true ∨ d.bit Reg.COL_CTL.EN = true →
      (d.time.limitPast = false → d.time.holdAt + d.get Reg.MTC_CFG.HOLD_LIMIT_US * ticksPerUs ≤ d.mt → Does .holdoverLimit s fun e =>
        e.bit Reg.MTC_STATUS.SYNC = false ∧ e.bit Reg.MTC_ERR.UNSYNC = true ∧ e.get Reg.FLT_STATUS.HL = hlStopped ∧
          e.time.limitPast = true ∧ (d.get Reg.FLT_STATUS.HL ≠ hlStopped → e.bit Reg.COL_STATUS.STOPPED = true)) ∧
      (d.time.limitPast = true ∨ d.mt < d.time.holdAt + d.get Reg.MTC_CFG.HOLD_LIMIT_US * ticksPerUs → Does .holdoverLimit s fun e => e = d)) ∧
    (d.isStandby = true → d.time.started = true → d.isRoot = false → d.primarySeen = false → Does .rootTakeover s fun e =>
      e = { d with regs := e.regs, time := e.time, flt := e.flt } ∧
        e.time = { d.time with parent := none, rootNode := d.node } ∧
        regsBut [Reg.MTC_STATUS.ROOT, Reg.MTC_STATUS.HOLD, Reg.MTC_STATUS.HOPS, Reg.MTC_STATUS.ROOTSEL, Reg.FLT_GLN_LOST.COUNT,
          Reg.FLT_GLN_LOST.CODE, Reg.FLT_ERR.LOST] d e ∧
        e.bit Reg.MTC_STATUS.ROOT = true ∧ e.bit Reg.MTC_STATUS.HOLD = false ∧ e.get Reg.MTC_STATUS.HOPS = 0 ∧ e.get Reg.MTC_STATUS.ROOTSEL = 1) ∧
    (d.primarySeen = true → d.isRoot = false → Does .rootTakeover s fun e => e = d) ∧
    (∀ b i, d.isStandby = true → d.isRoot = true → d.primarySeen = true → d.bestCandidate = some b → d.timeInfo b = some i →
      Does .rootReturn s fun e =>
        e = { d with regs := e.regs, time := e.time } ∧ e.bit Reg.MTC_STATUS.ROOT = false ∧ e.time.parent = some b ∧ e.time.rootNode = i.root ∧
          e.get Reg.MTC_STATUS.HOPS = (i.hops + 1) % 128 ∧ e.get Reg.MTC_STATUS.ROOTSEL = i.sel % 2) ∧
    (d.isRoot = false → Does .rootReturn s fun e => e = d)

/-- R352 to R356, R362, R363: heartbeats go out on every link that carries frames; one that arrives is noted, and HSTATE 1 or 2 raises a notice; a silent
link is retrained while another to its neighbour lives, and a silent neighbour raises a notice; a notice is stored, held or discarded by its round, opens
a round or stops the module; at C a round settles. -/
def Obligations.HeartbeatsAndNotices : Prop :=
  ∀ (s : State) (l : LinkId) (f : Frame),
    let d := s.dev
    let x := d.linkPeer l
    let near : Prop := d.inBlock d.node = true ∧ d.inBlock x = true ∧ x ≠ d.node
    let quiet : Prop := d.get Reg.FLT_STATUS.HL = hlIdle ∧ d.hl.notices = [] ∧ d.hl.tmin = none ∧ d.get Reg.FLT_HL_CFG.WINDOW_US ≠ 0
    let opens (i : Instr) : Prop := Does i s fun e =>
      e.get Reg.FLT_STATUS.HL = hlCollect ∧ e.hl.tmin = some (max d.hl.floor d.mt) ∧ e.mem = d.mem ∧ e.cores = d.cores ∧
        ∃ n, e.hl.notices = [n] ∧ n.kind = 1 ∧ n.subject = x ∧ n.stamp = d.mt ∧ n.code = Flt.HB_LOST ∧ n.round = d.hl.round
    let n := noticeOf f.body
    let gone : Dev := { d with fab := { d.fab with ctlQ := d.fab.ctlQ.erase (l.val, f) } }
    (Does .heartbeatSend s fun e => e = { d with links := e.links } ∧
      ∀ j, e.link j = if j < 24 ∧ d.linkCarries j = true then { d.link j with ctl := (d.link j).ctl ++ [d.heartbeatBody] } else d.link j) ∧
    ((l.val, f) ∈ d.fab.ctlQ → recField f.body 0 1 = 1 →
      (¬(recField f.body 1 1 = 1 ∨ recField f.body 1 1 = 2) → Does (.heartbeat l f) s fun e =>
        e = { gone with links := e.links } ∧ linksBut l d e ∧ e.link l = { d.link l with hbAt := d.mt + 1, hbState := recField f.body 1 1 }) ∧
      (recField f.body 1 1 = 1 ∨ recField f.body 1 1 = 2 → near → quiet → opens (.heartbeat l f))) ∧
    (d.silent l = false → Does (.linkSilent l) s fun e => e = d) ∧
    (d.silent l = true → near →
      ((∀ j ∈ d.linksTo x, d.lnkState j = lDown ∨ d.silent j = true) → quiet → opens (.linkSilent l)) ∧
      (∀ j ∈ d.linksTo x, d.linkCarries j = true → d.silent j = false → Does (.linkSilent l) s fun e =>
        e.bit Reg.FLT_ERR.HB_LOST = true ∧ e.get Reg.FLT_ERR.HB_CNT = min (d.get Reg.FLT_ERR.HB_CNT + 1) 255 ∧ linksBut l d e ∧
          (d.linkUsed l = true → e.lnkState l = lLight) ∧ e.hl = d.hl ∧ e.mem = d.mem ∧ e.cores = d.cores)) ∧
    ((l.val, f) ∈ d.fab.ctlQ → recField f.body 0 1 = 3 →
      (n.blk ≠ d.get Reg.FAB_BLOCK_ID ∨ n.blk = 0 → Does (.notice l f) s fun e => e = gone) ∧
      (n.blk = d.get Reg.FAB_BLOCK_ID → n.blk ≠ 0 →
        (n.round = d.hl.round → n.evidence = true → quiet → Does (.notice l f) s fun e =>
          e = { gone with regs := e.regs, hl := { d.hl with notices := [n], tmin := some (max d.hl.floor n.stamp) }, links := e.links } ∧
            regsBut [Reg.FLT_STATUS.HL, Reg.FLT_HL_TMIN_LO, Reg.FLT_HL_TMIN_LO.hi] d e ∧ e.get Reg.FLT_STATUS.HL = hlCollect ∧
            e.get64 Reg.FLT_HL_TMIN_LO = max d.hl.floor n.stamp % 2 ^ 64) ∧
        (n.round = d.hl.round → noticeStore n d.hl.notices = none → Does (.notice l f) s fun e => e = gone) ∧
        (∀ t, n.round = d.hl.round → n.evidence = true → (∀ o ∈ d.hl.notices, n.sameKey o = false) → (∀ o ∈ d.hl.held, n.sameKey o = false) →
          d.hl.tmin = some t → d.hlC t ≤ n.stamp → Does (.notice l f) s fun e =>
            e = { gone with hl := { d.hl with held := d.hl.held ++ [n] }, links := e.links }) ∧
        (n.round = (d.hl.round + 1) % 2 ^ 32 → (∀ o ∈ d.hl.held, n.sameKey o = false) → Does (.notice l f) s fun e =>
          e = { gone with hl := { d.hl with held := d.hl.held ++ [n] }, links := e.links }) ∧
        (n.round = d.hl.round → n.kind = 3 → (∀ o ∈ d.hl.notices, n.sameKey o = false) → d.get Reg.FLT_STATUS.HL ≠ hlStopped →
          Does (.notice l f) s fun e =>
            e.get Reg.FLT_STATUS.HL = hlStopped ∧ e.bit Reg.FLT_ERR.STOP = true ∧ e.bit Reg.COL_STATUS.STOPPED = true ∧ e.col.entry = none))) ∧
    (∀ t, d.hl.tmin = some t → d.get Reg.FLT_STATUS.HL = hlCollect →
      (d.hlC t ≤ d.mt → Does .hlClose s fun e => onlyRegs [Reg.FLT_STATUS.HL] d e ∧ e.get Reg.FLT_STATUS.HL = hlSettle) ∧
      (d.mt < d.hlC t → Does .hlClose s fun e => e = d))

/-- R357 to R361: at D the policy or a missing plan stops the module, else it confirms its plan, stops its script and its cores and stages the plan's
image; a core at rest takes its program and the groups their clears; at P agreement, mirrors and the image are checked, and the commit closes the
round. -/
def Obligations.HeadlandRound : Prop :=
  ∀ (s : State) (t : Nat),
    let d := s.dev
    let fs := d.failedNodes
    let cut := d.cutMask fs
    let stops (i : Instr) : Prop := Does i s fun e => e.get Reg.FLT_STATUS.HL = hlStopped
    d.hl.tmin = some t →
    (d.get Reg.FLT_STATUS.HL = hlSettle → d.mt < d.hlD t → Does .hlDecide s fun e => e = d) ∧
    (d.get Reg.FLT_STATUS.HL = hlSettle → d.hlD t ≤ d.mt →
      (d.bit Reg.FLT_CTL.POLICY = true → stops .hlDecide) ∧
      (d.bit Reg.FLT_CTL.POLICY = false → d.planFor cut = none → stops .hlDecide) ∧
      (∀ n, d.bit Reg.FLT_CTL.POLICY = false → d.planFor cut = some n → fs.contains d.buddy = false →
        (∀ c, c < 64 → (d.core c).seq = .run ∨ (d.core c).seq = .wait ∨ (d.core c).seq = .quiesced) →
        (∀ c g, c < 64 → g < 128 → d.ringState c g ≠ ringRun) → (∀ m ∈ d.hl.notices, m.kind ≠ 4) → d.get Reg.FAB_BLOCK_ID ≠ 0 →
        d.imageWrites (d.planImage n) = [] → Does .hlDecide s fun e =>
          e.get Reg.FLT_STATUS.HL = hlConfirm ∧ e.hl.plan = some n ∧ e.hl.cut = cut ∧ e.hl.failed = fs ∧ e.hl.tmin = some t ∧
            e.bit Reg.COL_STATUS.STOPPED = true ∧ e.col.entry = none ∧ e.stg.hold = true ∧ e.mem = d.mem ∧
            (∀ c, c < 64 → (e.core c).seq = if (d.core c).seq = .quiesced then .quiesced else .quiescing) ∧
            ∃ m, e.hl.notices = d.hl.notices ++ [m] ∧ m.kind = 4 ∧ m.subject = d.node ∧ m.plan = n ∧ m.cut = cut ∧ m.step = d.col.decStep ∧
              m.flags % 2 = if d.mirValid d.col.decStep then 1 else 0)) ∧
    (d.get Reg.FLT_STATUS.HL = hlConfirm → d.pwr.held = false → d.flt.fatal = none → ∀ c : CoreId,
      ((d.core c).still = false → d.hl.clears = [] → Does (.planProgramLoad c) s fun e => e = d) ∧
      ((d.core c).still = true → d.hl.writes = [] → d.hl.clears = [] → ∀ a, d.hl.progs = [(c.val, a)] → d.gliding = false →
        d.get Reg.PWR_STATUS.STATE = 0 → Does (.planProgramLoad c) s fun e =>
          onlyCore c d e ∧ (e.core c).bank = (d.core c).bank ∧ (∀ w, (e.core c).imem (d.core c).bank w = (d.core c).imem (d.core c).bank w) ∧
            ∀ w, (e.core c).imem (!(d.core c).bank) w =
              if w ≤ d.rdNat a 4 / 4096 % 4096 then d.rdNat (a + 8 * w) 4 + 2 ^ 32 * d.rdNat (a + 8 * w + 4) 4
              else (d.core c).imem (!(d.core c).bank) w) ∧
      (∀ g, (d.core c).still = false → d.hl.clears = [g] → d.grpState g = grpOpen → d.bit Reg.GRN_THR_CMDSTAT.BUSY = false → g < 16 →
        Does (.planProgramLoad c) s fun e =>
          e.hl.clears = [] ∧ e.thr.cmd = some (1, g) ∧ e.bit Reg.GRN_THR_CMDSTAT.BUSY = true ∧ e.grpState g = grpClearing ∧ e.mem = d.mem)) ∧
    (∀ n, d.get Reg.FLT_STATUS.HL = hlConfirm → d.hl.plan = some n →
      (d.mt < d.hlP t → Does .hlCommit s fun e => e = d) ∧
      (d.hlP t ≤ d.mt → d.hl.writes = [] →
        (d.agreed = false → stops .hlCommit) ∧ (d.agreed = true → d.mirrored = false → stops .hlCommit) ∧
        (d.agreed = true → d.mirrored = true → d.hl.imageOk = false → stops .hlCommit) ∧
        (d.agreed = true → d.mirrored = true → d.hl.imageOk = true → d.get Reg.STG_STATUS.STATE = stgArmed → d.hl.progs = [] → d.hl.held = [] →
          Does .hlCommit s fun e =>
            e.get Reg.FLT_STATUS.HL = hlIdle ∧ e.hl.round = d.hl.round + 1 ∧ e.hl.notices = [] ∧ e.hl.tmin = none ∧ e.hl.plan = none ∧
              e.get Reg.FLT_CUT = d.planMask n ∧ e.get Reg.FLT_HL_LAST.PLAN = n % 2 ^ 16 ∧ e.bit Reg.FLT_ERR.CUT = true ∧
              e.get Reg.STG_STATUS.STATE = stgOpen ∧ e.shadow = [] ∧ e.stg.hold = false)))

/-- R367 to R377: a reading below its margin is a warning; the drain score holds 24 hourly buckets, and DRAIN follows its limit; the Gleaner's writer
moves a pending record to the ring, loses it when the ring is full, and goes to the last-resort log when its SRAM fails, whether or not a record waits;
the fatal dump is written to the first place that takes it, before the reset that a rail failure asks for, and released. -/
def Obligations.RecordsAndDump : Prop :=
  ∀ (s : State),
    let d := s.dev
    (∀ timing cl mon rd,
      (Does (.marginMonitor timing cl mon rd false) s fun e => e = d) ∧
      (d.pwr.held = false → d.get Reg.PWR_STATUS.STATE < 3 → d.flt.pend.length < 32 → d.flt.rate = [] →
        Does (.marginMonitor timing cl mon rd true) s fun e =>
          e.mem = d.mem ∧ e.cores = d.cores ∧ ∃ r ∈ e.flt.pend, r.code = (if timing then Flt.FLT_TMARGIN else Flt.FLT_VMARGIN) ∧ r.last = d.mt)) ∧
    (d.pwr.held = false → Does .drainBucketAge s fun e =>
      let score := (d.flt.buckets.take 23).foldl (· + ·) 0
      e.flt.buckets = 0 :: d.flt.buckets.take 23 ∧ e.get Reg.FLT_DRAIN.SCORE = min score 65535 ∧
        e.bit Reg.FLT_STATUS.DRAIN = decide (d.get Reg.FLT_DRAIN.LIMIT ≤ score) ∧ e.mem = d.mem ∧ e.cores = d.cores) ∧
    (d.pwr.held = true → Does .drainBucketAge s fun e => e = d) ∧
    (∀ us r rs, d.pwr.held = false → d.bit Reg.FLT_STATUS.LRL = false → d.flt.lostOwed = false → d.flt.pend = r :: rs →
      let head := d.get Reg.FLT_GLN_HEAD
      (us < d.get Reg.FLT_GLN_CFG.COAL_US → (r :: rs).length < 16 → Does (.gleanerWrite us true) s fun e => e = d) ∧
      (d.get Reg.FLT_GLN_CFG.COAL_US ≤ us ∨ 16 ≤ (r :: rs).length →
        (d.glnRoom = true → Does (.gleanerWrite us true) s fun e =>
          e = { d with regs := e.regs, flt := { d.flt with pend := rs, ring := e.flt.ring } } ∧ regsBut [Reg.FLT_GLN_HEAD] d e ∧
            e.get Reg.FLT_GLN_HEAD = (head + 1) % 2 ^ 32 ∧
            ∀ i, mget GlnRec.zero e.flt.ring i = if i = head % 4096 then { r with seq := head } else mget GlnRec.zero d.flt.ring i) ∧
        (d.glnRoom = false → Does (.gleanerWrite us true) s fun e =>
          e.flt.pend = rs ∧ e.flt.ring = d.flt.ring ∧ e.bit Reg.FLT_ERR.LOST = true ∧ e.flt.lostOwed = true ∧
            e.get Reg.FLT_GLN_LOST.COUNT = min (d.get Reg.FLT_GLN_LOST.COUNT + 1) 65535 ∧ e.get Reg.FLT_GLN_HEAD = head))) ∧
    (∀ us, d.pwr.held = false → d.bit Reg.FLT_STATUS.LRL = false → d.flt.lrl = [] → Does (.gleanerWrite us false) s fun e =>
      let head := d.get Reg.FLT_GLN_HEAD
      e.bit Reg.FLT_STATUS.LRL = true ∧ (∃ x, e.flt.lrl = [x] ∧ x.code = Flt.GLN_SRAM ∧ x.seq = head % 2 ^ 32) ∧ e.get Reg.FLT_GLN_HEAD = head ∧
        e.mem = d.mem) ∧
    (∀ us ok r rs, d.pwr.held = false → d.bit Reg.FLT_STATUS.LRL = true → d.flt.pend = r :: rs → d.get Reg.FLT_GLN_CFG.COAL_US ≤ us →
      d.flt.lrl.length < 16 → Does (.gleanerWrite us ok) s fun e =>
        e.regs = d.regs ∧ e.flt.pend = rs ∧ ∃ x, e.flt.lrl = d.flt.lrl ++ [x] ∧ x.code = r.code ∧ x.seq = (d.flt.lrlBase + d.flt.lrl.length) % 2 ^ 32) ∧
    (∀ gd gr, d.flt.dumping = true → d.pwr.held = false → d.pwr.romBad = false →
      let whr := d.dumpWhere gd gr
      let bs := (d.dumpBytes whr).1
      Does (.fatalDumpDone gd gr) s fun e =>
        e.bit Reg.FLT_DUMP.VALID = true ∧ e.get Reg.FLT_DUMP.WHERE = whr ∧ e.bit Reg.FLT_STATUS.DUMP = true ∧ e.flt.dumping = false ∧
          e.pwr.held = !d.pwr.pwrOk ∧ e.cores = (if d.pwr.pwrOk then d.cores else []) ∧ (whr = 0 → wroteBytes d.dumpBase bs d e) ∧ (whr = 1 → wroteBytes (382 * 2 ^ 30) bs d e) ∧
          (whr = 2 → e.mem = d.mem ∧ e.flt.sideDump = bs)) ∧
    (∀ gd gr, d.flt.dumping = false → Does (.fatalDumpDone gd gr) s fun e => e = d) ∧
    (∀ q, (d.pwr.held = false → Does (.dumpRelease q) s fun e =>
        e = { d with regs := e.regs, flt := { d.flt with held := [], sideDump := [] } } ∧ regsBut [Reg.FLT_DUMP.VALID, Reg.FLT_STATUS.DUMP] d e ∧
          e.bit Reg.FLT_DUMP.VALID = false ∧ e.bit Reg.FLT_STATUS.DUMP = false) ∧
      (d.pwr.held = true → Does (.dumpRelease q) s fun e => e = d))

/-- R379 to R388, R423, R464: a write that counts takes effect by its field's access type (read only, free, refused while live, staged, Expert,
clear by writing one); an unaligned or partial access sets ACCESS; a value outside a field's stated range is ignored (log entry 55); a read of a _LO register latches its _HI half for that requester; an access that
wakes a module from G1 takes effect in G0. -/
def Obligations.ControlSpace : Prop :=
  ∀ (s : State) (r : Requester) (v hw : Word),
    let d := s.dev
    let w (off : BitVec 28) : Instr := .controlWrite r off 15 v hw
    let n := v.toNat
    let reads (off : BitVec 28) (be : BitVec 4) (post : Nat → Dev → Prop) : Prop :=
      Does (.loReadLatch r off be) s fun e => ∃ x, e.out = d.out ++ [.regRead x] ∧ post x e
    let read (off : BitVec 28) (post : Nat → Dev → Prop) : Prop := reads off 15 post
    (∀ off be, d.pwr.held = true → Does (.controlWrite r off be v hw) s fun e => e = d) ∧
    (∀ off be, d.pwr.held = false → be ≠ 15 ∨ off.toNat % 4 ≠ 0 → Does (.controlWrite r off be v hw) s fun e =>
      onlyRegs [Reg.GEN_ERR.ACCESS] d e ∧ e.bit Reg.GEN_ERR.ACCESS = true) ∧
    (d.pwr.held = false →
      (Does (w 0x4001C) s fun e => e = d) ∧
      (n ≤ d.get Reg.FLT_GLN_HEAD → Does (w 0x40044) s fun e => onlyRegs [Reg.FLT_GLN_TAIL] d e ∧ e.get Reg.FLT_GLN_TAIL = n) ∧
      (d.get Reg.FLT_GLN_HEAD < n → Does (w 0x40044) s fun e => e = d) ∧
      ((∀ c, c < 64 → d.bit (Reg.CORE_DMA_STATUS.BUSY c) = false) →
        (n % 2 ^ 11 ≤ 1024 → Does (w 0x50018) s fun e => onlyRegs [Reg.HST_HWIN_SIZE] d e ∧ e.get Reg.HST_HWIN_SIZE = n % 2 ^ 11) ∧
        (1024 < n % 2 ^ 11 → Does (w 0x50018) s fun e => e = d)) ∧
      (∀ c, c < 64 → d.bit (Reg.CORE_DMA_STATUS.BUSY c) = true → n % 2 ^ 11 ≠ d.get Reg.HST_HWIN_SIZE → Does (w 0x50018) s fun e =>
        e.bit Reg.GEN_ERR.LIVE_WRITE_REJECT = true ∧ e.get Reg.GEN_ERR.LWR_CNT = min (d.get Reg.GEN_ERR.LWR_CNT + 1) 255 ∧
          e.get Reg.HST_HWIN_SIZE = d.get Reg.HST_HWIN_SIZE ∧ e.mem = d.mem ∧ e.cores = d.cores ∧
          e.get Reg.GEN_LWR_ADDR = if d.bit Reg.GEN_ERR.LIVE_WRITE_REJECT then d.get Reg.GEN_LWR_ADDR else 0x50018) ∧
      (n % 2 ^ 7 ≠ d.shadowVal Reg.FLT_PLAN_COUNT →
        (d.get Reg.STG_STATUS.STATE = stgOpen → d.stg.hold = false → Does (w 0x40018) s fun e =>
          e = { d with shadow := e.shadow } ∧ ∀ f : Fld, e.shadowVal f = if f.key = Reg.FLT_PLAN_COUNT.key then n % 2 ^ 7 else d.shadowVal f) ∧
        (d.get Reg.STG_STATUS.STATE = stgArmed → Does (w 0x40018) s fun e => onlyRegs [Reg.STG_ERR.BUSY] d e ∧ e.bit Reg.STG_ERR.BUSY = true)) ∧
      ((d.get Reg.GEN_EXPERT).testBit 4 = false → n % 2 ^ 16 ≠ d.get Reg.FLT_GLN_CFG.COAL_US → Does (w 0x4004C) s fun e =>
        onlyRegs [Reg.GEN_ERR.EXPERT_REJECT, Reg.GEN_ERR.XR_CNT] d e ∧ e.bit Reg.GEN_ERR.EXPERT_REJECT = true ∧
          e.get Reg.GEN_ERR.XR_CNT = min (d.get Reg.GEN_ERR.XR_CNT + 1) 255) ∧
      ((d.get Reg.GEN_EXPERT).testBit 4 = true → n % 2 ^ 16 ≤ 10000 → Does (w 0x4004C) s fun e =>
        onlyRegs [Reg.FLT_GLN_CFG.COAL_US] d e ∧ e.get Reg.FLT_GLN_CFG.COAL_US = n % 2 ^ 16) ∧
      ((d.get Reg.GEN_EXPERT).testBit 4 = true → 10000 < n % 2 ^ 16 → Does (w 0x4004C) s fun e => e = d) ∧
      (n.testBit 3 = false → Does (w 0x40030) s fun e =>
        onlyRegs [Reg.FLT_ERR.STOP, Reg.FLT_ERR.CUT, Reg.FLT_ERR.HB_LOST, Reg.FLT_ERR.HB_CNT] d e ∧
          e.bit Reg.FLT_ERR.STOP = ((d.bit Reg.FLT_ERR.STOP && !n.testBit 0) || (n.testBit 0 && hw.toNat.testBit 0)) ∧
          e.bit Reg.FLT_ERR.CUT = ((d.bit Reg.FLT_ERR.CUT && !n.testBit 1) || (n.testBit 1 && hw.toNat.testBit 1)) ∧
          e.bit Reg.FLT_ERR.HB_LOST = ((d.bit Reg.FLT_ERR.HB_LOST && !n.testBit 2) || (n.testBit 2 && hw.toNat.testBit 2)) ∧
          e.get Reg.FLT_ERR.HB_CNT = if n.testBit 2 then (if hw.toNat.testBit 2 then 1 else 0) else d.get Reg.FLT_ERR.HB_CNT)) ∧
    (∀ off : BitVec 28,
      let a := off.toNat
      (∀ be, d.pwr.held = true → reads off be fun x e => x = 0 ∧ e = { d with out := e.out }) ∧
      (∀ be, d.pwr.held = false → be ≠ 15 ∨ a % 4 ≠ 0 → reads off be fun x e =>
        x = 0 ∧ e = { d with regs := e.regs, out := e.out } ∧ regsBut [Reg.GEN_ERR.ACCESS] d e ∧ e.bit Reg.GEN_ERR.ACCESS = true) ∧
      (a % 4 = 0 → d.reachable a = false → read off fun x e => x = 0 ∧ e = { d with out := e.out }) ∧
      (a % 4 = 0 → d.reachable a = true →
        (isLo a = true → read off fun x e => x = d.peek r a ∧ e = { d with latch := e.latch, out := e.out } ∧
          mget none e.latch (latchKey r (a + 4)) = some (d.peek r (a + 4))) ∧
        (∀ y, isLo a = false → mget none d.latch (latchKey r a) = some y → read off fun x e =>
          x = y ∧ e = { d with latch := e.latch, out := e.out } ∧ mget none e.latch (latchKey r a) = none) ∧
        (isLo a = false → mget none d.latch (latchKey r a) = none → ¬(0x00180900 ≤ a ∧ a < 0x00180A00 ∧ a % 16 = 12) → read off fun x e =>
          x = d.peek r a ∧ e = { d with out := e.out }))) ∧
    (d.gliding = true → d.pwr.held = false → d.flt.fatal = none →
      let up : State := { s with dev := d.wake }
      let awakes (e : Dev) : Prop :=
        e.get Reg.PWR_STATUS.STATE = 0 ∧ e.bit Reg.PWR_STATUS.MOVING = false ∧ e.get Reg.PWR_LADDER.TARGET = 0
      (∀ c : CoreId, Does (.g1Wake (.quiesce c)) s fun e => exec (.qreq r c) up = .next { s with dev := e } ∧
        ((d.core c).seq = .quiesced → awakes e ∧ e.cores = d.cores ∧ e.mem = d.mem) ∧
        ((d.core c).seq = .run → awakes e ∧ (e.core c).seq = .quiescing ∧ coresBut c d e ∧ e.mem = d.mem)) ∧
      let woken : List Fld := [Reg.PWR_STATUS.STATE, Reg.PWR_STATUS.MOVING, Reg.PWR_LADDER.TARGET]
      (∀ (c : CoreId) (g : RingId),
        let pend := Reg.CORE_DMA_RING_STATUS.PEND c g
        let slots := 2 ^ d.get (Reg.CORE_DMA_RING_CTL.SIZE_LOG2 c g)
        let rings (src : DoorbellSrc) (k : Nat) : Prop := slots ≤ 65536 →
          (d.get pend + k ≤ slots → Does (.g1Wake (.doorbell src c g v)) s fun e =>
            awakes e ∧ onlyRegs (pend :: woken) d e ∧ e.get pend = d.get pend + k) ∧
          (slots < d.get pend + k → Does (.g1Wake (.doorbell src c g v)) s fun e =>
            awakes e ∧ e.get (Reg.CORE_DMA_RING_STATUS.STATE c g) = 3 ∧ e.mem = d.mem)
        rings (.reg r) (n % 2 ^ 17) ∧
        (∀ off : BitVec 18, d.bit Reg.HST_STATUS.LINK_UP = true → off.toNat = c * 0x1000 + 4 * g → v ≠ 0 → n < 2 ^ 17 → rings (.bar4 off) n)) ∧
      (∀ (off : BitVec 28) (c : CoreId),
        (off.toNat % 4 = 0 → blkOf off.toNat = some (.core c) → Does (.g1Wake (.write r off v)) s fun e =>
          awakes e ∧ exec (.controlWrite r off 15 v 0) up = .next { s with dev := e }) ∧
        (off.toNat = (Blk.core c).base + 0x28 → Does (.g1Wake (.write r off v)) s fun e =>
          awakes e ∧ onlyRegs (Reg.CORE_SEQ_EVT_LO.EVT c :: woken) d e ∧
            e.get (Reg.CORE_SEQ_EVT_LO.EVT c) = d.get (Reg.CORE_SEQ_EVT_LO.EVT c) ||| n)) ∧
      (∀ off : BitVec 28, Does (.g1Wake (.loader off v)) s fun e =>
        exec (.controlWrite .planLoader off 15 v 0) up = .next { s with dev := e }) ∧
      (n ≤ d.get Reg.FLT_GLN_HEAD → Does (.g1Wake (.loader 0x40044 v)) s fun e =>
        awakes e ∧ onlyRegs (Reg.FLT_GLN_TAIL :: woken) d e ∧ e.get Reg.FLT_GLN_TAIL = n)) ∧
    (d.gliding = false → ∀ c, Does (.g1Wake c) s fun e => e = d)

/-- R389 to R394: STG's commands move its state or set SEQ; a requester against whom the plan loader holds STG sets BUSY; a check ends CHECKED or
with its first offence; the commit gives every dirty field its value at once, with what depends on it, and STG is OPEN. -/
def Obligations.StagedChanges : Prop :=
  ∀ (s : State) (r : Requester),
    let d := s.dev
    let st := d.get Reg.STG_STATUS.STATE
    let moves (i : Instr) (new : Nat) : Prop := Does i s fun e => onlyRegs [Reg.STG_STATUS.STATE] d e ∧ e.get Reg.STG_STATUS.STATE = new
    let sets (i : Instr) (f : Fld) : Prop := Does i s fun e => onlyRegs [f] d e ∧ e.bit f = true
    let all : List Instr := [.stgCheck r, .stgArm r, .stgDisarm r, .stgDiscard r]
    (d.pwr.held = true → ∀ i ∈ all, Does i s fun e => e = d) ∧
    (d.pwr.held = false → d.stgHeld r = true → ∀ i ∈ all, sets i Reg.STG_ERR.BUSY) ∧
    (d.pwr.held = false → d.stgHeld r = false →
      (st = stgOpen → moves (.stgCheck r) stgChecking) ∧ (st ≠ stgOpen → sets (.stgCheck r) Reg.STG_ERR.SEQ) ∧
      (st = stgChecked → d.get Reg.PWR_STATUS.STATE < 2 →
        let t := d.get64 Reg.STG_COMMIT_AT_LO
        Does (.stgArm r) s fun e =>
          e = { d with regs := e.regs, stg := { d.stg with target := e.stg.target, late := e.stg.late } } ∧
            regsBut [Reg.STG_STATUS.STATE] d e ∧ e.get Reg.STG_STATUS.STATE = stgArmed ∧
            (t = 0 → e.stg.target = none ∧ e.stg.late = false) ∧
            (t ≠ 0 → d.mt ≤ roundTarget t → e.stg.target = some (roundTarget t) ∧ e.stg.late = false) ∧
            (t ≠ 0 → roundTarget t < d.mt → e.stg.target = none ∧ e.stg.late = true)) ∧
      (st ≠ stgChecked ∨ 2 ≤ d.get Reg.PWR_STATUS.STATE → sets (.stgArm r) Reg.STG_ERR.SEQ) ∧
      (st = stgArmed → Does (.stgDisarm r) s fun e =>
        e = { d with regs := e.regs, stg := { d.stg with target := none, late := false } } ∧ regsBut [Reg.STG_STATUS.STATE] d e ∧
          e.get Reg.STG_STATUS.STATE = stgChecked) ∧
      (st ≠ stgArmed → sets (.stgDisarm r) Reg.STG_ERR.SEQ) ∧
      (Does (.stgDiscard r) s fun e =>
        e = { d with regs := e.regs, shadow := [], stg := { d.stg with target := none, late := false } } ∧
          regsBut [Reg.STG_STATUS.STATE] d e ∧ e.get Reg.STG_STATUS.STATE = stgOpen)) ∧
    (st ≠ stgChecking → Does .stgCheckDone s fun e => e = d) ∧
    (st = stgChecking →
      (d.stgResult = none → d.stg.hold = false → moves .stgCheckDone stgChecked) ∧
      (d.stgResult = none → d.stg.hold = true → d.get Reg.PWR_STATUS.STATE < 2 → Does .stgCheckDone s fun e =>
        e.get Reg.STG_STATUS.STATE = stgArmed ∧ e.mem = d.mem ∧ e.shadow = d.shadow) ∧
      (∀ off why, d.stgResult = some (off, why) → Does .stgCheckDone s fun e =>
        e.get Reg.STG_STATUS.STATE = stgOpen ∧ e.get Reg.STG_FAIL_OFF = off % 2 ^ 28 ∧ e.get Reg.STG_STATUS.REASON = why % 16 ∧
          e.bit Reg.STG_ERR.FAIL = true ∧ e.shadow = d.shadow ∧ e.mem = d.mem ∧ e.cores = d.cores)) ∧
    (d.commitDue = false → Does .stgCommit s fun e => e = d) ∧
    (d.commitDue = true → (∀ l, l < 24 → d.lnkState l ≠ lUpHeld ∧ (d.lnkState l = lHold → (d.link l).heldFrom ≠ lUpHeld)) →
      let counted (e : Dev) : Prop :=
        e.shadow = [] ∧ e.get Reg.STG_STATUS.STATE = stgOpen ∧ e.get64 Reg.STG_DONE_MT_LO = d.mt % 2 ^ 64 ∧ e.mem = d.mem ∧
          e.get Reg.STG_COMMIT_CNT = (d.get Reg.STG_COMMIT_CNT + 1) % 2 ^ 32 ∧ e.stg.target = none ∧ (d.stg.late = true → e.bit Reg.STG_ERR.LATE = true)
      (∀ f ∈ [Reg.FLT_PLAN_COUNT, Reg.FLT_PLAN_BASE_LO, Reg.MTC_DETERMINISM.STRICT, Reg.FAB_BLOCK_ID], ∀ v, d.shadow = [(f.key, some v)] →
        Does .stgCommit s fun e =>
          counted e ∧ e.get f = v % 2 ^ f.width ∧
            regsBut [f, Reg.STG_STATUS.STATE, Reg.STG_DONE_MT_LO, Reg.STG_DONE_MT_LO.hi, Reg.STG_COMMIT_CNT, Reg.STG_ERR.LATE, Reg.STG_ERR.LATE_CNT] d e ∧
            e.cores = d.cores ∧ e.links = d.links ∧ e.col = d.col) ∧
      (∀ g : Fin 16, d.shadow = [((Reg.GRN_GRP_CTL.EN g).key, some 1)] → d.bit (Reg.GRN_GRP_CTL.EN g) = false → Does .stgCommit s fun e =>
        counted e ∧ e.bit (Reg.GRN_GRP_CTL.EN g) = true ∧ e.grpState g = grpOpen) ∧
      (d.shadow = [(Reg.COL_CTL.EN.key, some 1)] → d.bit Reg.COL_CTL.EN = false → Does .stgCommit s fun e =>
        counted e ∧ e.bit Reg.COL_CTL.EN = true ∧ e.get Reg.COL_STATUS.ENTRY = 0 ∧ e.bit Reg.COL_STATUS.STOPPED = false ∧ e.col.entry = none ∧
          e.col.seqs = [] ∧ (d.get Reg.FLT_STATUS.HL = hlStopped → e.get Reg.FLT_STATUS.HL = hlIdle)))

/-- R415 to R419: a reset that R416 refuses sets REJ and changes nothing else; a MODULE reset leaves memory and the meter and puts every register at its
reset value; a core, cluster, link or stack is reset alone; the request is BUSY until it completes with LAST. -/
def Obligations.Resets : Prop :=
  ∀ (s : State) (r : Requester) (force : Bool),
    let d := s.dev
    let req : List Fld := [Reg.PWR_RST_REQ.DOMAIN, Reg.PWR_RST_REQ.INDEX, Reg.PWR_RST_REQ.FORCE]
    let running (dom i : Nat) (e : Dev) : Prop := e.bit Reg.PWR_RST_STATUS.BUSY = true ∧ ∃ x, e.rst = some x ∧ x.domain = dom ∧ x.index = i
    let clean (f : Fld) (e : Dev) : Prop := e.get f = f.reset % 2 ^ f.width
    let asked (i : Instr) (dom n : Nat) (post : Dev → Prop) : Prop :=
      (r = .planLoader ∨ d.pwr.held = true → Does i s fun e => e = d) ∧
      (r ≠ .planLoader → d.pwr.held = false → d.pwr.romBad = false →
        (d.resetBarred dom n force = true → Does i s fun e =>
          onlyRegs (Reg.PWR_RST_STATUS.REJ :: Reg.PWR_RST_STATUS.REJ_CNT :: req) d e ∧ e.bit Reg.PWR_RST_STATUS.REJ = true ∧
            e.get Reg.PWR_RST_STATUS.REJ_CNT = min (d.get Reg.PWR_RST_STATUS.REJ_CNT + 1) 255) ∧
        (d.resetBarred dom n force = false → Does i s fun e => running dom n e ∧ post e))
    let calm : Prop := d.get Reg.PWR_STATUS.STATE = 0 ∧ (d.get Reg.STG_STATUS.STATE = stgOpen ∨ d.get Reg.STG_STATUS.STATE = stgChecking) ∧
      ∀ c, (d.core c).dma = none
    asked (.resetModule r force) 0 0 (fun e =>
      e.mem = d.mem ∧ e.meter = d.meter ∧ e.cores = [] ∧ e.links = [] ∧ e.shadow = [] ∧ e.img.flash = d.img.flash ∧ e.img.key = d.img.key ∧
        (d.bit Reg.FLT_DUMP.VALID = false →
          ∀ f, f.key ≠ Reg.HST_STATUS.PERST.key → f.key ≠ Reg.PWR_RST_STATUS.BUSY.key → clean f e)) ∧
    asked (.resetCompute r force) 1 0 (fun e =>
      (∀ c, c < 64 → e.core c = Core.reset) ∧ e.col = {} ∧ (∀ c x, c < 64 → x < clmSize → e.byte (clmPlace c x) = 0#8) ∧
        (∀ f b, blkOf f.off = some b → f.lo < 32 → (b = .col ∨ ∃ c, b = .core c) → clean f e) ∧ (calm → e.links = d.links)) ∧
    (∀ n : BitVec 6, asked (.resetCluster r n force) 2 n.toNat fun e =>
      (∀ i, i < 8 → e.core (8 * n.toNat + i) = Core.reset) ∧
        (∀ i x, i < 8 → x < clmSize → e.byte (clmPlace (8 * n.toNat + i) x) = 0#8) ∧ (∀ x, x < 2 ^ 23 → e.byte (csmPlace n.toNat x) = 0#8) ∧
        (calm → ∀ c, c / 8 ≠ n.toNat → e.core c = d.core c)) ∧
    (∀ n : BitVec 6, asked (.resetCore r n force) 3 n.toNat fun e =>
      let k := d.core n.toNat
      (e.core n.toNat).seq = .idle ∧ (e.core n.toNat).bank = false ∧ (e.core n.toNat).cmd = none ∧
        (∀ f, blkOf f.off = some (.core n.toNat) → f.lo < 32 → clean f e) ∧
        (calm → e.core n.toNat = { Core.reset with imem0 := k.imem0, imem1 := k.imem1, imemEcc := k.imemEcc } ∧ coresBut n.toNat d e ∧
          e.mem = d.mem ∧ e.links = d.links)) ∧
    (∀ n : BitVec 6, asked (.resetLink r n force) 4 n.toNat fun e =>
      e.lnkState n.toNat = lDark ∧ (e.link n.toNat).replay = [] ∧ (e.link n.toNat).attempts = 0 ∧
        (calm → e.link n.toNat = { txq := (d.link n.toNat).txq } ∧ linksBut n.toNat d e ∧ e.mem = d.mem ∧ e.cores = d.cores)) ∧
    (∀ n : BitVec 6, asked (.resetGranary r n force) 5 n.toNat fun e =>
      e.bit (Reg.GRN_STATUS.READY n.toNat) = false ∧ e.bit (Reg.GRN_ERR.CE n.toNat) = false ∧ e.bit (Reg.GRN_ERR.UE n.toNat) = false ∧
        (e.thr.passQ = [] ∧ e.thr.running = false ∧ e.thr.cmd = none ∧ e.bit Reg.GRN_THR_CMDSTAT.BUSY = false ∧
        (calm → e.links = d.links ∧ e.cores = d.cores ∧
          e.get64 (Reg.GRN_ERRADDR_LO.ADDR n.toNat) = (mget {} d.grn n.toNat).ceAddr % 2 ^ 64 ∧
          (d.thr.passQ = [] ∨ d.thr.running = false → (∀ g, d.thr.cmd ≠ some (1, g)) → e.mem = d.mem)))) ∧
    (∀ lanes ports x, d.rst = some x →
      (d.resetReady x = false → Does (.resetComplete lanes ports) s fun e => e = d) ∧
      (d.resetReady x = true →
        (Does (.resetComplete lanes ports) s fun e =>
          e.rst = none ∧ e.bit Reg.PWR_RST_STATUS.BUSY = false ∧ e.get Reg.PWR_RST_STATUS.LAST = x.domain % 8 ∧ e.mem = d.mem ∧ e.cores = d.cores) ∧
        (x.domain = 5 → x.index < 8 → Does (.resetComplete lanes ports) s fun e =>
          mget {} e.grn x.index = trainLanes (mget {} d.grn x.index) x.index lanes ∧
            e.bit (Reg.GRN_STATUS.READY x.index) = (laneLimit (mget {} d.grn x.index) x.index lanes).isNone)))

/-- R420 to R424: a ladder request that R422 allows sets TARGET and starts the move, one that it refuses sets REJ with its REASON and changes nothing
else; the end of a move enters its state: self-refresh in G2 and G3, memory zero and time stopped in G4. -/
def Obligations.LadderMoves : Prop :=
  ∀ (s : State) (r : Requester),
    let d := s.dev
    let st := d.get Reg.PWR_STATUS.STATE
    let asks (i : Instr) (t : Nat) : Prop :=
      (r = .planLoader ∨ d.pwr.held = true ∨ d.get Reg.PWR_LADDER.TARGET = t → Does i s fun e => e = d) ∧
      (r ≠ .planLoader → d.pwr.held = false → d.get Reg.PWR_LADDER.TARGET ≠ t →
        (d.ladderReason t = none → Does i s fun e =>
          e = { d with regs := e.regs, pwr := { d.pwr with moveTo := t } } ∧ regsBut [Reg.PWR_LADDER.TARGET, Reg.PWR_STATUS.MOVING] d e ∧
            e.get Reg.PWR_LADDER.TARGET = t ∧ e.bit Reg.PWR_STATUS.MOVING = true) ∧
        (∀ x, d.ladderReason t = some x → Does i s fun e =>
          onlyRegs [Reg.PWR_LADDER.REJ, Reg.PWR_LADDER.REJ_CNT, Reg.PWR_LADDER.REASON] d e ∧ e.bit Reg.PWR_LADDER.REJ = true ∧
            e.get Reg.PWR_LADDER.REASON = x ∧ e.get Reg.PWR_LADDER.REJ_CNT = min (d.get Reg.PWR_LADDER.REJ_CNT + 1) 255) ∧
        (d.get Reg.PWR_BOOT_STATUS.PHASE ≠ 6 → Does i s fun e => e.get Reg.PWR_LADDER.REASON = 1))
    let arrives (t : Nat) (post : Dev → Prop) : Prop :=
      d.pwr.moveTo = t → Does .ladderMoveDone s fun e => e.bit Reg.PWR_STATUS.MOVING = false ∧ e.get Reg.PWR_STATUS.STATE = t ∧ post e
    asks (.ladderRequestG0 r) 0 ∧ asks (.ladderRequestG1 r) 1 ∧ asks (.ladderRequestG2 r) 2 ∧ asks (.ladderRequestG3 r) 3 ∧
    asks (.ladderRequestG4 r) 4 ∧
    (d.bit Reg.PWR_STATUS.MOVING = false ∨ d.pwr.held = true → Does .ladderMoveDone s fun e => e = d) ∧
    (d.bit Reg.PWR_STATUS.MOVING = true → d.pwr.held = false →
      (d.bit Reg.PWR_STATUS.SPRINT = false →
        arrives 1 (fun e => onlyRegs [Reg.PWR_STATUS.STATE, Reg.PWR_STATUS.MOVING] d e) ∧
        arrives 2 (fun e => e.mem = d.mem ∧ e.cores = d.cores ∧ ∀ p, p < 32 → e.get (Reg.GDM_STATUS.STATE p) =
          if d.get (Reg.GDM_STATUS.STATE p) = 0 then 3 else d.get (Reg.GDM_STATUS.STATE p)) ∧
        (st ≠ 4 → arrives 3 fun e => e.mem = d.mem ∧ e.cores = d.cores ∧ ∀ p, p < 32 → e.get (Reg.GDM_STATUS.STATE p) =
          if d.get (Reg.GDM_STATUS.STATE p) = 0 then 3 else d.get (Reg.GDM_STATUS.STATE p))) ∧
      arrives 4 (fun e =>
        e.time.started = false ∧ e.bit Reg.MTC_STATUS.SYNC = false ∧ e.bit Reg.HST_STATUS.LINK_UP = false ∧ e.cores = d.cores ∧
          (d.flt.held = [] → ∀ p, p < csmPlace 0 0 → e.byte p = 0#8) ∧ ∀ p, csmPlace 0 0 ≤ p → e.byte p = d.byte p) ∧
      (st = 4 → arrives 3 fun e => e.time.started = true ∧ e.mt = d.mt ∧ e.cores = [] ∧ e.get Reg.GEN_EXPERT = d.img.expert % 2 ^ 16 ∧
        e.img = d.img ∧ e.meter = d.meter) ∧
      (st < 2 → arrives 0 fun e => onlyRegs [Reg.PWR_STATUS.STATE, Reg.PWR_STATUS.MOVING] d e) ∧
      (st = 2 → arrives 0 fun e => e.mem = d.mem ∧ e.cores = d.cores ∧ ∀ p, p < 32 → e.get (Reg.GDM_STATUS.STATE p) =
        if d.get (Reg.GDM_STATUS.STATE p) = 3 then 0 else d.get (Reg.GDM_STATUS.STATE p)) ∧
      (st = 3 → arrives 0 fun e => (∀ c, c < 64 → e.core c = Core.reset) ∧ e.col = {} ∧ e.fab = {} ∧
        ∀ p, p < csmPlace 0 0 → e.byte p = d.byte p))

/-- R46, R178, R189, R425 to R433: sprint begins at 1500 MHz when its conditions hold and ends by credit, by its timer or by a condition; the millisecond's
credit is counted; readings, the limiter and the coolant go to their registers; a second reading at its trip threshold trips the module. -/
def Obligations.SprintAndReadings : Prop :=
  ∀ (s : State),
    let d := s.dev
    let same (e : Dev) : Prop := e.mem = d.mem ∧ e.cores = d.cores ∧ e.links = d.links
    let cool : Prop := d.pwr.effJ < 105 ∧ d.pwr.effG < 95
    (∀ gap, d.bit Reg.PWR_STATUS.SPRINT = false →
      (d.bit Reg.PWR_STATUS.TRIPPED = false → d.pwr.held = false → d.sprintHolds = true → 1000000 ≤ d.pwr.credit → 10000 ≤ gap →
        (Does (.sprintGrant gap) s fun e => e.bit Reg.PWR_STATUS.SPRINT = true ∧ same e ∧ e.pwr.credit = d.pwr.credit) ∧
        (cool → d.pwr.limCut = 0 → Does (.sprintGrant gap) s fun e => e.get Reg.PWR_STATUS.CLK_MHZ = 1500)) ∧
      (d.sprintHolds = false ∨ d.pwr.credit < 1000000 ∨ gap < 10000 → Does (.sprintGrant gap) s fun e => e = d)) ∧
    (∀ ms,
      (d.bit Reg.PWR_STATUS.SPRINT = false → Does (.sprintEnd ms) s fun e => e = d) ∧
      (d.bit Reg.PWR_STATUS.SPRINT = true →
        (d.pwr.credit = 0 ∨ 20000 ≤ ms → Does (.sprintEnd ms) s fun e =>
          e.bit Reg.PWR_STATUS.SPRINT = false ∧ e.bit Reg.PWR_ERR.SPRINT_END = true ∧ same e) ∧
        (d.pwr.credit ≠ 0 → ms < 20000 → d.sprintHolds = false → Does (.sprintEnd ms) s fun e =>
          e.bit Reg.PWR_STATUS.SPRINT = false ∧ e.bit Reg.PWR_ERR.SPRINT_END = d.bit Reg.PWR_ERR.SPRINT_END ∧ same e) ∧
        (d.pwr.credit ≠ 0 → ms < 20000 → d.sprintHolds = true → Does (.sprintEnd ms) s fun e => e = d))) ∧
    (∀ mj, d.pwr.held = false → Does (.creditUpdate mj) s fun e =>
      let c := if d.bit Reg.PWR_STATUS.SPRINT then d.pwr.credit - (mj - 1400) else min 5000000 (d.pwr.credit + 50)
      e = { d with regs := e.regs, pwr := { d.pwr with credit := c } } ∧ regsBut [Reg.PWR_CREDIT, Reg.PWR_SPRINT_MS, Reg.PWR_THROT_MS] d e ∧
        e.get Reg.PWR_CREDIT = c / 1000 % 2 ^ 13 ∧
        (d.bit Reg.PWR_STATUS.SPRINT = true → e.get Reg.PWR_SPRINT_MS = min (d.get Reg.PWR_SPRINT_MS + 1) (2 ^ 32 - 1)) ∧
        (d.bit Reg.PWR_STATUS.THROT_J = true ∨ d.bit Reg.PWR_STATUS.THROT_G = true →
          e.get Reg.PWR_THROT_MS = min (d.get Reg.PWR_THROT_MS + 1) (2 ^ 32 - 1))) ∧
    (∀ (k : SensorKind) (i : Fin 32) (t : BitVec 8), i.val < kindCount k → d.pwr.held = false →
      let reg := match k with
        | .junction => Reg.PWR_TEMP.JUNCTION
        | .granary => Reg.PWR_TEMP.GRANARY
        | .gddr => Reg.PWR_TEMP.GDDR
      (Does (.thermalReading k i t) s fun e =>
        mget 0 e.pwr.sensors (kindNo k * 64 + i) = t.toNat + 1 ∧ e.get reg = e.hottest k % 256 ∧ same e ∧
          (∀ j, j ≠ kindNo k * 64 + i.val → mget 0 e.pwr.sensors j = mget 0 d.pwr.sensors j)) ∧
      (t.toNat < tripAt k → Does (.thermalReading k i t) s fun e => e.bit Reg.PWR_STATUS.TRIPPED = d.bit Reg.PWR_STATUS.TRIPPED) ∧
      (tripAt k ≤ t.toNat → tripAt k < mget 0 d.pwr.sensors (kindNo k * 64 + i) → Does (.thermalReading k i t) s fun e =>
        e.bit Reg.PWR_STATUS.TRIPPED = true ∧ (d.bit Reg.PWR_STATUS.TRIPPED = false → e.flt.fatal.isSome = true ∧ e.bit Reg.PWR_STATUS.MOVING = false))) ∧
    (∀ (w : BitVec 16) ms, d.pwr.held = false → Does (.powerLimiter w ms) s fun e =>
      let limit := if d.bit Reg.PWR_STATUS.SPRINT then 1650 else 1400
      let cut := d.pwr.limCut
      e.get Reg.PWR_INPUT.WATTS = w.toNat ∧ same e ∧
        e.pwr.limCut = (if ms = false then cut else if limit < w.toNat then min d.baseClock (cut + 25)
          else if w.toNat + 50 < limit then cut - 25 else cut) ∧
        (cool → e.get Reg.PWR_STATUS.CLK_MHZ = (d.baseClock - e.pwr.limCut) / 25 * 25)) ∧
    (d.bit Reg.PWR_STATUS.THROT_J = true ∨ d.bit Reg.PWR_STATUS.THROT_G = true → Does .throttleAlert s fun e =>
      e = { d with flt := { d.flt with alertThrottle := true } }) ∧
    (d.bit Reg.PWR_STATUS.THROT_J = false → d.bit Reg.PWR_STATUS.THROT_G = false → Does .throttleAlert s fun e => e = d) ∧
    (∀ t : BitVec 8,
      (d.memOn = true →
        (∀ k : StackId, Does (.memorySensorRead (.stack k) t) s fun e =>
          onlyRegs [Reg.GRN_STATUS.TEMP k, Reg.GRN_STATUS.REFX2 k, Reg.GRN_STATUS.THROT k] d e ∧ e.get (Reg.GRN_STATUS.TEMP k) = t.toNat ∧
            e.bit (Reg.GRN_STATUS.REFX2 k) = decide (85 < t.toNat) ∧ e.bit (Reg.GRN_STATUS.THROT k) = decide (95 ≤ t.toNat)) ∧
        (∀ p : PortId, Does (.memorySensorRead (.port p) t) s fun e =>
          onlyRegs [Reg.GDM_STATUS.TEMP p, Reg.GDM_STATUS.REFX2 p] d e ∧ e.get (Reg.GDM_STATUS.TEMP p) = t.toNat ∧
            e.bit (Reg.GDM_STATUS.REFX2 p) = decide (85 < t.toNat))) ∧
      (d.memOn = false → ∀ u, Does (.memorySensorRead u t) s fun e => e = d)) ∧
    (∀ a b : BitVec 12,
      (d.pwr.held = false → Does (.coolantReading a b) s fun e => onlyRegs [Reg.PWR_COOLANT.INLET, Reg.PWR_COOLANT.OUTLET] d e ∧
        e.get Reg.PWR_COOLANT.INLET = a.toNat ∧ e.get Reg.PWR_COOLANT.OUTLET = b.toNat) ∧
      (d.pwr.held = true → Does (.coolantReading a b) s fun e => e = d))

/-- R26 to R44: insertion and power start the stages above the rising threshold and the meter from 20 V; removal above 1 A breaks the module, below it and at the
input's protection the power goes and memory with it; an entry into the low band is warned of once, at the latest when the module leaves reset; PWR_OK, RESET_N
and the 1 ms release the module; a failing rail or RESET_N puts it back in reset, a failing rail after the dump. That a module whose steward's rail fails too
keeps its memories and a held dump, and the order of dump and reset, are the model's choice (log entry 33); so is what an input level last told makes of a
start (log entry 17). -/
def Obligations.PowerPins : Prop :=
  ∀ (s : State),
    let d := s.dev
    let only (e : Dev) (w : Power) : Prop := e = { d with pwr := w }
    let dark (e : Dev) : Prop := e.mem = [] ∧ e.cores = [] ∧ e.pwr.stages = false ∧ e.pwr.pwrOk = false ∧ e.pwr.held = true
    let inReset (e : Dev) : Prop := e.pwr.held = true ∧ e.mem = d.mem ∧ e.cores = [] ∧ e.get Reg.PWR_BOOT_STATUS.PHASE = 0 ∧ e.meter = d.meter
    let warned (e : Dev) : Prop := d.flt.pend.length < 32 → ∃ r ∈ e.flt.pend, r.code = Flt.PWR_INPUT_LOW ∧ r.last = d.mt
    let fed (v : Nat) (i : Instr) : Prop :=
      let low := decide (v < 4800)
      (d.pwr.stages = false →
        (4550 < v → Does i s fun e => e.pwr.stages = true) ∧ (v < 4450 → Does i s fun e => e.pwr.stages = false) ∧
        (4450 ≤ v → v ≤ 4550 → Does i s fun e => e.pwr.stages = Config.freeBit d.freeIdx)) ∧
      (Does i s fun e => e.pwr.seated = true ∧ e.pwr.mv10 = v ∧ e.pwr.fuse = false ∧ e.meter.on = decide (2000 ≤ v) ∧ e.mem = d.mem ∧
        e.cores = d.cores ∧ (d.pwr.held = true → e.regs = d.regs) ∧ (d.pwr.stages = true → e.pwr.stages = true) ∧
        (e.pwr.stages = true → e.pwr.inputLow = low ∧ (d.pwr.held = false → e.get Reg.PWR_INPUT.MV10 = v) ∧
          (v < 4800 → d.pwr.inputLow = false → (d.pwr.held = true → e.pwr.lowOwed = true) ∧ (d.pwr.held = false → warned e))))
    let leaves (i : Instr) (ready : Bool) (w : Power) : Prop :=
      (d.pwr.held = false ∨ ready = false → Does i s fun e => only e w) ∧
      (d.pwr.held = true → ready = true →
        (d.pwr.lowOwed = false → Does i s fun e => only e { w with held := false }) ∧
        (d.pwr.lowOwed = true → Does i s fun e => e.pwr = { w with held := false, lowOwed := false } ∧ e.mem = d.mem ∧ e.cores = d.cores ∧ warned e))
    (∀ ga (v : BitVec 16),
      (d.pwr.seated = false → fed v.toNat (.moduleInsertion ga v)) ∧ (d.pwr.seated = true → Does (.moduleInsertion ga v) s fun e => e = d) ∧
      (d.pwr.seated = true → fed v.toNat (.powerApplied v)) ∧ (d.pwr.seated = false → Does (.powerApplied v) s fun e => e = d)) ∧
    (∀ ma, (1000 < ma → exec (.moduleRemoval ma) s = .fault .brokenUnderLoad) ∧
      (ma ≤ 1000 → Does (.moduleRemoval ma) s fun e => dark e ∧ e.pwr.seated = false ∧ e.pwr.resetN = false ∧ e.pwr.trstN = false ∧ e.meter.on = false)) ∧
    (Does .undervoltageFall s fun e => dark e ∧ e.pwr.overV = false ∧ e.meter = d.meter) ∧
    (Does .overvoltage s fun e => dark e ∧ e.pwr.overV = true ∧ e.meter = d.meter) ∧
    (Does .overcurrent s fun e => dark e ∧ e.pwr.fuse = true ∧ e.meter = d.meter) ∧
    (d.pwr.seated = true → d.pwr.fuse = false → d.pwr.overV = false → d.pwr.stages = false →
      (4800 ≤ d.pwr.mv10 → d.pwr.held = true → Does .undervoltageRise s fun e => only e { d.pwr with stages := true, inputLow := false, lowOwed := false }) ∧
      (d.pwr.mv10 < 4800 → d.pwr.held = true → Does .undervoltageRise s fun e =>
        only e { d.pwr with stages := true, inputLow := true, lowOwed := d.pwr.lowOwed || !d.pwr.inputLow }) ∧
      (d.pwr.held = false → Does .undervoltageRise s fun e => e.pwr.stages = true ∧ e.mem = d.mem ∧ e.cores = d.cores ∧
        e.pwr.inputLow = decide (d.pwr.mv10 < 4800) ∧ (d.pwr.mv10 < 4800 → d.pwr.inputLow = false → warned e))) ∧
    (d.pwr.seated = false ∨ d.pwr.fuse = true ∨ d.pwr.overV = true ∨ d.pwr.stages = true → Does .undervoltageRise s fun e => e = d) ∧
    (∀ ga : BitVec 4, d.pwr.stages = true → d.pwr.pwrOk = false →
      (d.pwr.held = true → Does (.railsInRegulation ga) s fun e => only e { d.pwr with pwrOk := true, ga := ga.toNat }) ∧
      (d.pwr.held = false → Does (.railsInRegulation ga) s fun e => inReset e ∧ e.pwr.pwrOk = true ∧ e.pwr.ga = ga.toNat)) ∧
    (∀ ga, d.pwr.stages = false ∨ d.pwr.pwrOk = true → Does (.railsInRegulation ga) s fun e => e = d) ∧
    (∀ ns,
      (ns < 1000 → Does (.resetNAssert ns) s fun e => e = d) ∧
      (10000 ≤ ns → Does (.resetNAssert ns) s fun e => inReset e ∧ e.pwr.resetN = false) ∧
      (1000 ≤ ns → ns < 10000 →
        (Config.freeBit d.freeIdx = true → Does (.resetNAssert ns) s fun e => inReset e ∧ e.pwr.resetN = false) ∧
        (Config.freeBit d.freeIdx = false → Does (.resetNAssert ns) s fun e => e = { d with freeIdx := d.freeIdx + 1 }))) ∧
    (d.pwr.seated = false → Does .resetNRelease s fun e => e = d) ∧
    (d.pwr.seated = true → leaves .resetNRelease d.pwr.pwrOk { d.pwr with resetN := true }) ∧
    leaves .internalResetRelease (d.pwr.pwrOk && d.pwr.resetN) d.pwr ∧
    (∀ v : BitVec 16,
      (d.pwr.stages = false → Does (.inputLowEntry v) s fun e => e = d) ∧
      (d.pwr.held = true →
        (d.pwr.stages = true → Does (.inputLowEntry v) s fun e =>
          only e { d.pwr with inputLow := true, mv10 := v.toNat, lowOwed := d.pwr.lowOwed || !d.pwr.inputLow }) ∧
        (Does (.inputLowExit v) s fun e => only e { d.pwr with inputLow := false, mv10 := v.toNat, lowOwed := false })) ∧
      (d.pwr.held = false →
        (d.pwr.stages = true → Does (.inputLowEntry v) s fun e =>
          e.pwr = { d.pwr with inputLow := true, mv10 := v.toNat, lowOwed := false } ∧ e.get Reg.PWR_INPUT.MV10 = v.toNat ∧
          e.mem = d.mem ∧ e.cores = d.cores ∧ (d.pwr.inputLow = false ∨ d.pwr.lowOwed = true → warned e) ∧
          (d.pwr.inputLow = true → d.pwr.lowOwed = false → e.flt = d.flt)) ∧
        (Does (.inputLowExit v) s fun e =>
          e = { d with regs := e.regs, pwr := { d.pwr with inputLow := false, mv10 := v.toNat, lowOwed := false } } ∧
            regsBut [Reg.PWR_INPUT.MV10] d e ∧ e.get Reg.PWR_INPUT.MV10 = v.toNat))) ∧
    (∀ ok,
      (d.pwr.stages = false → Does (.railFault ok) s fun e => e = d) ∧
      (d.pwr.stages = true →
        (d.pwr.held = true → Does (.railFault ok) s fun e => only e { d.pwr with pwrOk := false }) ∧
        (d.pwr.held = false →
          (ok = true → d.pwr.romBad = false → d.flt.fatal = none ∨ d.flt.dumping = true → Does (.railFault ok) s fun e =>
            e.pwr = { d.pwr with pwrOk := false } ∧ e.flt.fatal.isSome = true ∧ e.flt.dumping = true ∧ e.mem = d.mem ∧ e.cores = d.cores) ∧
          (ok = true → d.pwr.romBad = true ∨ (d.flt.fatal.isSome = true ∧ d.flt.dumping = false) → Does (.railFault ok) s fun e =>
            inReset e ∧ e.pwr.pwrOk = false) ∧
          (ok = false → Does (.railFault ok) s fun e => inReset e ∧ e.pwr.pwrOk = false ∧
            (d.bit Reg.FLT_DUMP.VALID = true → e.bit Reg.FLT_DUMP.VALID = true ∧ e.flt.held = d.flt.held)))))

/-- R400 to R414: bring-up passes from STEWARD over IMAGE, SELFTEST, MEMTRAIN, MEMTEST and HIDE to READY, each phase with its results; a bad ROM stands
still, bad slots, a failing unit and memory beyond its limits end in FAILED with their phase and code. -/
def Obligations.BringUp : Prop :=
  ∀ (s : State),
    let d := s.dev
    let fails (i : Instr) (ph code : Nat) : Prop := Does i s fun e =>
      e.get Reg.PWR_BOOT_STATUS.PHASE = phFailed ∧ e.get Reg.PWR_BOOT_STATUS.FAIL_PHASE = ph ∧ e.get Reg.PWR_BOOT_STATUS.FAIL_CODE = code ∧
        e.flt.fatal.isSome = true
    let at_ (e : Dev) (p : Nat) : Prop := e.get Reg.PWR_BOOT_STATUS.PHASE = p
    (∀ ok, (d.inPhase phSteward = false ∨ d.pwr.booted = true ∨ d.cool = false) → Does (.stewardBootDone ok) s fun e => e = d) ∧
    (d.inPhase phSteward = true → d.pwr.booted = false → d.cool = true →
      (Does (.stewardBootDone true) s fun e =>
        e = { d with regs := e.regs, pwr := { d.pwr with booted := true, afterTrip := false } } ∧ at_ e phImage ∧
          regsBut [Reg.PWR_BOOT_STATUS.PHASE, Reg.PWR_INPUT.MV10] d e ∧ e.get Reg.PWR_INPUT.MV10 = d.pwr.mv10 % 2 ^ 16) ∧
      (Does (.stewardBootDone false) s fun e => e = { d with pwr := { d.pwr with romBad := true } })) ∧
    (d.inPhase phImage = false → Does .imagePhase s fun e => e = d) ∧
    (d.inPhase phImage = true →
      (d.slotReason 0 ≠ 0 → d.slotReason 1 ≠ 0 → fails .imagePhase phImage Flt.GEN_IMG_BAD) ∧
      (∀ slot, (slot = 0 ∨ (slot = 1 ∧ d.slotReason 0 ≠ 0)) → d.slotReason slot = 0 →
        let b := d.slotBytes slot (recField (d.slotBytes slot 64) 8 4)
        let plan := imgPlan b
        (imgSettings b).filter early = [] → d.shadow = [] → Does .imagePhase s fun e =>
          at_ e phSelftest ∧ e.get Reg.PWR_BOOT_STATUS.SLOT = slot ∧ e.bit Reg.PWR_BOOT_STATUS.SLOT_A_BAD = decide (slot = 1) ∧
            e.img.defects = fusedDefects ++ imgDefects b ∧ e.img.settings = imgSettings b ∧ e.get Reg.GEN_EXPERT = (imgExpert b &&& 0xFFBF) % 2 ^ 16 ∧
            e.get Reg.FAB_GEOM = plan.1 % 2 ^ Reg.FAB_GEOM.width ∧ e.usedLinks = plan.2.2.1 % 2 ^ 24 ∧ e.time.started = true ∧
            e.mt = (if e.node = e.get Reg.MTC_ROOT.ROOT0 then e.get64 Reg.MTC_EPOCH_LO else 0) ∧ e.mem = d.mem ∧ e.cores = d.cores)) ∧
    (∀ cores other, d.inPhase phSelftest = false → Does (.selftestDone cores other) s fun e => e = d) ∧
    (∀ cores, d.inPhase phSelftest = true →
      let bad := d.badCores cores
      let count (c : Nat) : Nat := (bad.filter fun p => decide (p.1 = c)).length
      (∀ u, fails (.selftestDone cores (some u)) phSelftest Flt.GEN_SELFTEST) ∧
      ((∃ c, c < 8 ∧ 2 ≤ count c) → fails (.selftestDone cores none) phSelftest Flt.GEN_SELFTEST) ∧
      ((∀ c, c < 8 → count c < 2) → Does (.selftestDone cores none) s fun e =>
        at_ e phMemtrain ∧ onlyRegs [Reg.PWR_BOOT_STATUS.PHASE] { d with mem := e.mem, sramEcc := e.sramEcc, img := e.img } e ∧
          (∀ c x, c < 64 → x < clmSize → e.byte (clmPlace c x) = 0#8) ∧ (∀ c x, c < 8 → x < 2 ^ 23 → e.byte (csmPlace c x) = 0#8) ∧
          (∀ p, p < csmPlace 0 0 → e.byte p = d.byte p) ∧
          ∀ c, c < 8 → e.img.spared.testBit c = bad.any fun p => decide (p.1 = c) && decide (p.2 < 8))) ∧
    (∀ lanes ports, d.inPhase phMemtrain = false → Does (.memtrainDone lanes ports) s fun e => e = d) ∧
    (∀ (lanes : List LaneId) (ports : List PortId), d.inPhase phMemtrain = true →
      let ls := lanes ++ d.addedLanes
      let out := ports.map Fin.val ++ (d.added 2).map Defect.index
      let left := (List.range 32).filter fun p => !out.contains p
      let good : Prop := ∀ k, k < 8 → laneLimit (mget {} d.grn k) k ls = none
      ((∃ k, k < 8 ∧ laneLimit (mget {} d.grn k) k ls ≠ none) → fails (.memtrainDone lanes ports) phMemtrain Flt.GEN_MEMTEST) ∧
      (good → (∀ p ∈ out, p < 32) → left.length < d.img.minPorts → fails (.memtrainDone lanes ports) phMemtrain Flt.GEN_MEMTEST) ∧
      (good → (∀ p ∈ out, p < 32) → d.img.minPorts ≤ left.length → Does (.memtrainDone lanes ports) s fun e =>
        at_ e phMemtest ∧ e = { d with regs := e.regs, grn := e.grn } ∧
          (∀ k, k < 8 → mget {} e.grn k = trainLanes (mget {} d.grn k) k ls ∧ e.bit (Reg.GRN_STATUS.READY k) = false) ∧
          ∀ p, p < 32 → e.get (Reg.GDM_STATUS.STATE p) = if out.contains p then 1 else 0)) ∧
    (∀ lanes rows ports, d.inPhase phMemtest = false → Does (.memtestDone lanes rows ports) s fun e => e = d) ∧
    (∀ (lanes : List LaneId) (rows : List RowId) (ports : List PortId), d.inPhase phMemtest = true →
      let rs := d.badRows (d.finds rows)
      let i : Instr := .memtestDone lanes rows ports
      let ls := d.finds lanes
      let ps := d.finds (ports.map Fin.val)
      let out (p : Nat) : Prop := d.get (Reg.GDM_STATUS.STATE p) = 1 ∨ p ∈ ps
      let left := ((List.range 32).filter fun p => decide (¬out p)).length
      let good : Prop := rowLimit rs = none ∧ ∀ k, k < 8 → laneLimit (mget {} d.grn k) k ls = none
      (rowLimit rs ≠ none ∨ (∃ k, k < 8 ∧ laneLimit (mget {} d.grn k) k ls ≠ none) → fails i phMemtest Flt.GEN_MEMTEST) ∧
      (good → left < d.img.minPorts → fails i phMemtest Flt.GEN_MEMTEST) ∧
      (good → d.img.minPorts ≤ left → Does i s fun e =>
          at_ e phHide ∧ e.get Reg.PWR_BOOT_STATUS.MODE = d.img.mode % 4 ∧ e.get Reg.PWR_BOOT_ROWS = rs.length % 2 ^ 32 ∧
            (∀ k, k < 8 → e.bit (Reg.GRN_STATUS.READY k) = true ∧ mget {} e.grn k = trainLanes (mget {} d.grn k) k ls) ∧
            (∀ p, p < 32 → e.get (Reg.GDM_STATUS.STATE p) = if p ∈ ps then 1 else d.get (Reg.GDM_STATUS.STATE p)) ∧
            e.bit Reg.PWR_BOOT_STATUS.DUMP_KEPT = decide (d.flt.held ≠ []) ∧
            (d.flt.held = [] → ∀ p, p < csmPlace 0 0 → e.byte p = 0#8) ∧ (∀ p, csmPlace 0 0 ≤ p → e.byte p = d.byte p) ∧ e.cores = d.cores)) ∧
    (∀ ms, d.inPhase phHide = false → Does (.hideDone ms) s fun e => e = d) ∧
    (∀ ms : BitVec 32, d.inPhase phHide = true → d.shadow = [] → (d.img.settings.filter fun x => !early x) = [] → Does (.hideDone ms) s fun e =>
      at_ e phReady ∧ e.get Reg.PWR_BOOT_TIME = ms.toNat ∧ e.mem = d.mem ∧ e.cores = d.cores ∧ e.stg.dump.length ≤ 2 ∧
        (∃ sp er, e.img.caps = some (sp, er, d.portMask)) ∧
        ∀ x i, x < 8 → i < 32 → (∀ p, p < 4 → d.get (Reg.GDM_STATUS.STATE (4 * x + p)) ≠ 1) →
          e.get (Reg.GDM_IAT.MODE (32 * x + i)) = (Reg.GDM_IAT.MODE (32 * x + i)).reset % 2 ^ (Reg.GDM_IAT.MODE (32 * x + i)).width ∧
            e.get (Reg.GDM_IAT.HOME (32 * x + i)) = (Reg.GDM_IAT.HOME (32 * x + i)).reset % 2 ^ (Reg.GDM_IAT.HOME (32 * x + i)).width)

/-- R434 to R447: PERST# and a Function Level Reset put the host interface at its reset values; the link trains, warning when it is narrow or slow, and
goes down; BAR2 reaches the local memories in G0 and G1, and an address that no memory backs aborts the read with MEM_UNMAPPED; an unmasked vector sends what is pending, and D3hot keeps it (log entry 4). -/
def Obligations.HostInterface : Prop :=
  ∀ (s : State),
    let d := s.dev
    let up := d.bit Reg.HST_STATUS.LINK_UP
    let hst (f : Fld) : Prop := blkOf f.off = some .hst ∧ f.lo < 32
    let frame (e : Dev) : Prop :=
      e = { d with regs := e.regs, shadow := e.shadow, host := e.host } ∧ ∀ f : Fld, f.lo < 32 → blkOf f.off ≠ some .hst → e.get f = d.get f
    let ctl : List Fld := [Reg.HST_STATUS.LINK_UP, Reg.HST_STATUS.SPEED, Reg.HST_STATUS.WIDTH]
    (d.pwr.held = false → Does .perstAssert s fun e =>
      frame e ∧ e.host = { perstLow := true } ∧ ∀ f, hst f → f.key ≠ Reg.HST_STATUS.PERST.key → e.get f = f.reset % 2 ^ f.width) ∧
    (d.pwr.held = true → Does .perstAssert s fun e => e = { d with host := { d.host with perstLow := true } }) ∧
    (Does .perstRelease s fun e =>
      e = { d with regs := e.regs, host := { d.host with perstLow := false } } ∧ regsBut [Reg.HST_STATUS.PERST] d e ∧
        e.bit Reg.HST_STATUS.PERST = false) ∧
    (up = true → Does .functionLevelReset s fun e =>
      frame e ∧ e.host = { perstLow := d.host.perstLow } ∧ (∀ f ∈ ctl, e.get f = d.get f) ∧
        ∀ f, hst f → (∀ g ∈ Reg.HST_STATUS.PERST :: ctl, f.key ≠ g.key) → e.get f = f.reset % 2 ^ f.width) ∧
    (up = false → Does .functionLevelReset s fun e => e = d) ∧
    (∀ (w : BitVec 5) (v : BitVec 3), d.pcieOn = true → 1 ≤ w.toNat → w.toNat ≤ 16 → 1 ≤ v.toNat → v.toNat ≤ 6 →
      (w.toNat = 16 → v.toNat = 6 → Does (.pcieLinkTrained w v) s fun e =>
        onlyRegs ctl d e ∧ e.bit Reg.HST_STATUS.LINK_UP = true ∧ e.get Reg.HST_STATUS.SPEED = 6 ∧ e.get Reg.HST_STATUS.WIDTH = 16) ∧
      (w.toNat < 16 ∨ v.toNat < 6 → Does (.pcieLinkTrained w v) s fun e =>
        e.bit Reg.HST_STATUS.LINK_UP = true ∧ e.get Reg.HST_STATUS.SPEED = v.toNat ∧ e.get Reg.HST_STATUS.WIDTH = w.toNat ∧
          e.bit Reg.HST_ERR.WIDTH = true ∧ e.mem = d.mem ∧ e.cores = d.cores)) ∧
    (∀ w v, d.pcieOn = false → Does (.pcieLinkTrained w v) s fun e => e = d) ∧
    (up = false → (Does .hstLinkDown s fun e => e = d) ∧ Does .hstCorr s fun e => e = d) ∧
    (up = true →
      (d.host.perstLow = true ∨ d.stowing = true → Does .hstLinkDown s fun e =>
        onlyRegs ctl d e ∧ ∀ f ∈ ctl, e.get f = 0) ∧
      (d.host.perstLow = false → d.stowing = false → Does .hstLinkDown s fun e =>
        (∀ f ∈ ctl, e.get f = 0) ∧ e.bit Reg.HST_ERR.LINK_DOWN = true ∧ e.flt.events.testBit 5 = true ∧ e.mem = d.mem ∧ e.cores = d.cores) ∧
      (Does .hstCorr s fun e =>
        e.bit Reg.HST_ERR.CORR = true ∧ e.get Reg.HST_ERR.CORR_CNT = min (d.get Reg.HST_ERR.CORR_CNT + 1) 255 ∧ e.mem = d.mem ∧
          e.cores = d.cores)) ∧
    (∀ off : BitVec 36,
      let a := d.get64 Reg.HST_BAR2_BASE_LO + off.toNat
      (up = false ∨ d.pwr.held = true → ∀ how o, Does (.bar2Access off how o) s fun e => e = d) ∧
      (up = true → d.pwr.held = false →
        (2 ≤ d.get Reg.PWR_STATUS.STATE → ∀ n o, Does (.bar2Access off (.read n) o) s fun e => e = d.emit .hostAbort) ∧
        (2 ≤ d.get Reg.PWR_STATUS.STATE → ∀ bs o, Does (.bar2Access off (.write bs) o) s fun e => e = d) ∧
        (d.get Reg.PWR_STATUS.STATE < 2 → d.gliding = false → d.memOn = false →
          (∀ n o, Does (.bar2Access off (.read n) o) s fun e => e = d.emit .hostAbort) ∧
          ∀ bs o, Does (.bar2Access off (.write bs) o) s fun e => e = d) ∧
        (d.gliding = false → d.memOn = true →
          (∀ o n x, d.firstUnmapped a n = some x → Does (.bar2Access off (.read n) o) s fun e =>
            e = (d.raise { code := Flt.MEM_UNMAPPED, arg0 := x }).emit .hostAbort) ∧
          (∀ o bs x, d.firstUnmapped a bs.length = some x → Does (.bar2Access off (.write bs) o) s fun e =>
            e = d.raise { code := Flt.MEM_UNMAPPED, arg0 := x }) ∧
          (∀ n, d.readErr a n = none → Does (.bar2Access off (.read n) .good) s fun e => e = d.emit (.hostData (d.rdBytes a n) false)) ∧
          (∀ bs, d.writeErr a bs = none → d.rbtHit a bs.length = [] → Does (.bar2Access off (.write bs) .good) s fun e =>
            e = { d with mem := e.mem, grnBad := e.grnBad, sramEcc := e.sramEcc } ∧ wroteBytes a bs d e)) ∧
        (d.gliding = true → d.bit Reg.PWR_STATUS.TRIPPED = false → ∀ n, d.readErr a n = none → Does (.bar2Access off (.read n) .good) s fun e =>
          e.get Reg.PWR_STATUS.STATE = 0 ∧ e.out = d.out ++ [.hostData (d.rdBytes a n) false] ∧ e.mem = d.mem ∧ e.cores = d.cores))) ∧
    (∀ v : BitVec 11,
      let open_ : SMap Bool := mset false d.host.unmasked v.toNat true
      (up = false → Does (.msixUnmask v) s fun e => e = d) ∧
      (up = true →
        (mget false d.host.msixPend v.toNat = true → d.host.d3hot = false → Does (.msixUnmask v) s fun e =>
          e = { d with host := { d.host with unmasked := open_, msixPend := mset false d.host.msixPend v.toNat false }, out := d.out ++ [.msix v.toNat] }) ∧
        (mget false d.host.msixPend v.toNat = false ∨ d.host.d3hot = true → Does (.msixUnmask v) s fun e =>
          e = { d with host := { d.host with unmasked := open_ } }))) ∧
    (up = false → ∀ b, Does (.d3hotTransition b) s fun e => e = d) ∧
    (up = true →
      (Does (.d3hotTransition true) s fun e => e = { d with host := { d.host with d3hot := true } }) ∧
      (∀ v, d.host.msixPend = [(v, true)] → mget false d.host.unmasked v = true → Does (.d3hotTransition false) s fun e =>
        e = { d with host := { d.host with d3hot := false, msixPend := [] }, out := d.out ++ [.msix v] }) ∧
      (d.host.msixPend = [] → Does (.d3hotTransition false) s fun e => e = { d with host := { d.host with d3hot := false } }))

/-- R37, R448, R449: the I2C commands. The module answers to its address, 0x60 and the geographic address, once its steward has booted; a request with a bad PEC gets status 4 and does nothing; STATUS, EVENTS,
SENSORS, register accesses and the sideband dump answer with their data. -/
def Obligations.SidebandCommands : Prop :=
  ∀ (s : State),
    let d := s.dev
    let word (off : Nat) : List Byte := leBytes 4 (d.peek .i2c off)
    let answers (i : Instr) (st : Byte) (bs : List Byte) : Prop := Does i s fun e => e = d.emit (.i2c (st :: bs))
    let me (a : BitVec 7) : Prop := a.toNat = 0x60 + d.pwr.ga
    let all (a : BitVec 7) (ok : Bool) (n : Byte) (off v : Word) (bs : List Byte) (hw : BitVec 6) : List Instr :=
      [.i2cStatus a ok, .i2cSensors a ok, .i2cEvents a ok hw, .regRead a ok off, .regWrite a ok off v, .dumpRead a ok off,
        .flashRead a ok n off, .flashErase a ok n, .flashWrite a ok n off bs, .keyWrite a ok bs, .keyRead a ok]
    (∀ a ok n off v bs hw, d.i2cOn = false ∨ ¬me a → ∀ i ∈ all a ok n off v bs hw, Does i s fun e => e = d) ∧
    (∀ ad : BitVec 7, d.i2cOn = true → me ad →
      (∀ n off v bs hw, ∀ i ∈ all ad false n off v bs hw, answers i 4 []) ∧
      (d.img.erasing ≠ none → answers (.i2cStatus ad true) 1 []) ∧
      (d.img.erasing = none → answers (.i2cStatus ad true) 0 (word 0x30100 ++ word 0x30000 ++ word 0x40000)) ∧
      (∀ hw : BitVec 6, Does (.i2cEvents ad true hw) s fun e =>
        e = { d with flt := { d.flt with events := hw.toNat }, out := d.out ++ [.i2c (0#8 :: leBytes 4 d.flt.events)] }) ∧
      answers (.i2cSensors ad true) 0 (word 0x30018 ++ word 0x30014 ++ word 0x30010) ∧
      (∀ off : Word,
        let a := off.toNat
        answers (.dumpRead ad true off) 0 ((d.flt.sideDump.drop a).take 32) ∧
        (a % 4 ≠ 0 →
          (Does (.regRead ad true off) s fun e => e = { d with regs := e.regs, out := d.out ++ [.i2c [3#8]] } ∧ e.bit Reg.GEN_ERR.ACCESS = true ∧
            regsBut [Reg.GEN_ERR.ACCESS] d e) ∧
          ∀ v, Does (.regWrite ad true off v) s fun e => e = { d with regs := e.regs, out := d.out ++ [.i2c [3#8]] } ∧
            e.bit Reg.GEN_ERR.ACCESS = true ∧ regsBut [Reg.GEN_ERR.ACCESS] d e) ∧
        (a % 4 = 0 → 2 ^ 28 ≤ a → answers (.regRead ad true off) 3 [] ∧ ∀ v, answers (.regWrite ad true off v) 3 []) ∧
        (a % 4 = 0 → a < 2 ^ 28 →
          (d.reachable a = true → isLo a = false → mget none d.latch (latchKey .i2c a) = none → ¬(0x00180900 ≤ a ∧ a < 0x00180A00 ∧ a % 16 = 12) →
            answers (.regRead ad true off) 0 (word a)) ∧
          (d.reachable a = false → answers (.regRead ad true off) 0 (leBytes 4 0)) ∧
          ∀ v, Does (.regWrite ad true off v) s fun e => ∃ t : Dev,
            exec (.controlWrite .i2c (BitVec.ofNat 28 a) 15 v 0) s = .next { s with dev := t } ∧ e = t.emit (.i2c [0#8]))))

/-- R401, R407, R449: the flash. A slot is read, erased and written 32 bytes at a time outside the IMAGE phase and while nothing is being erased; the
key slot takes one key and is read. -/
def Obligations.FlashAndKey : Prop :=
  ∀ (s : State) (ad : BitVec 7) (slot : Byte) (off : Word),
    let d := s.dev
    let n := slot.toNat
    let at_ := slotSize * n + off.toNat
    let answers (i : Instr) (st : Byte) (bs : List Byte) : Prop := Does i s fun e => e = d.emit (.i2c (st :: bs))
    (d.i2cOn = true → ad.toNat = 0x60 + d.pwr.ga →
      let free : Prop := d.get Reg.PWR_BOOT_STATUS.PHASE ≠ phImage ∧ d.img.erasing = none
      (∀ bs, ∀ i ∈ ([.flashRead ad true slot off, .flashErase ad true slot, .flashWrite ad true slot off bs] : List Instr),
        (d.get Reg.PWR_BOOT_STATUS.PHASE = phImage → answers i 2 []) ∧
        (d.get Reg.PWR_BOOT_STATUS.PHASE ≠ phImage → d.img.erasing ≠ none → answers i 1 []) ∧ (free → 1 < n → answers i 3 [])) ∧
      (free → n ≤ 1 →
        (off.toNat + 32 ≤ slotSize → answers (.flashRead ad true slot off) 0 ((List.range 32).map fun i => d.flashByte (at_ + i))) ∧
        (slotSize < off.toNat + 32 → answers (.flashRead ad true slot off) 3 []) ∧
        (Does (.flashErase ad true slot) s fun e =>
          e = { d with img := { d.img with erasing := some n }, out := d.out ++ [.i2c [0#8]] }) ∧
        (∀ bs : List Byte, off.toNat % 32 = 0 → off.toNat + 32 ≤ slotSize → bs.length = 32 → Does (.flashWrite ad true slot off bs) s fun e =>
          e = { d with img := { d.img with flash := e.img.flash }, out := d.out ++ [.i2c [0#8]] } ∧
            ∀ x, e.flashByte x = if at_ ≤ x ∧ x < at_ + 32 then bs.getD (x - at_) 0#8 else d.flashByte x) ∧
        (∀ bs : List Byte, off.toNat % 32 ≠ 0 ∨ slotSize < off.toNat + 32 ∨ bs.length ≠ 32 → answers (.flashWrite ad true slot off bs) 3 [])) ∧
      (∀ k : List Byte,
        (d.img.key ≠ none → answers (.keyWrite ad true k) 2 []) ∧
        (d.img.key = none → k.length ≠ 32 → answers (.keyWrite ad true k) 3 []) ∧
        (d.img.key = none → k.length = 32 → Does (.keyWrite ad true k) s fun e =>
          e = { d with img := { d.img with key := some k }, out := d.out ++ [.i2c [0#8]] }) ∧
        (d.img.key = some k → answers (.keyRead ad true) 0 (1#8 :: k))) ∧
      (d.img.key = none → answers (.keyRead ad true) 0 (0#8 :: List.replicate 32 0#8))) ∧
    (d.img.erasing = none → Does .flashEraseDone s fun e => e = d) ∧
    (∀ k, d.img.erasing = some k → Does .flashEraseDone s fun e =>
      e = { d with img := { d.img with flash := e.img.flash, erasing := none } } ∧
        ∀ x, e.flashByte x = if slotSize * k ≤ x ∧ x < slotSize * (k + 1) then 0xFF#8 else d.flashByte x)

/-- R35, R451: the test port, which answers while TRST_N is high, its pull-down holding it low with the connectors parted. BYPASS delays by one bit (the model's choice of its first bit), IDCODE shifts out 0x10E4058B, SAMPLE/PRELOAD takes the scan register, and
EXTEST does so only while RESET_N is low; what the pins are sampled as is free (log entry 1). -/
def Obligations.TestPort : Prop :=
  ∀ (s : State) (bits : List Bool),
    let d := s.dev
    let high (e : Dev) : Dev := { e with pwr := { e.pwr with trstN := true } }
    let sampled (i : Instr) : Prop := Does i s fun e =>
      e = high { d with scan := bits, freeIdx := d.freeIdx + 1, out := e.out } ∧
        e.out = d.out ++ [.tdo ((List.range bits.length).map fun i => (Config.freeByte d.freeIdx i).getLsbD 0)]
    (∀ t, t = false ∨ d.pwr.seated = false →
      ∀ i ∈ ([.tapBypass t bits, .tapIdcode t, .tapSamplePreload t bits, .tapExtest t bits] : List Instr),
        Does i s fun e => e = { d with pwr := { d.pwr with trstN := false } }) ∧
    (d.pwr.seated = true →
    (Does (.tapBypass true bits) s fun e => e = (high d).emit (.tdo ((false :: bits).take bits.length))) ∧
    (Does (.tapIdcode true) s fun e => ∃ o : List Bool, e = (high d).emit (.tdo o) ∧ o.length = 32 ∧ ∀ i, i < 32 → o.getD i false = (0x10E4058B#32).getLsbD i) ∧
    sampled (.tapSamplePreload true bits) ∧
    (d.pwr.resetN = false → sampled (.tapExtest true bits)) ∧
    (d.pwr.resetN = true → Does (.tapExtest true bits) s fun e => e = (high d).emit (.tdo ((false :: bits).take bits.length))))

/-- R452 to R456: the meter adds up samples, attributes a millisecond's energy to the block of a tag at most 2 ms old or to E_UNTAG, commits its counters, counts a
power loss, and stops below 20 V; the die sends tags with its block, its work and the time, and a bad tag is counted. -/
def Obligations.MeterCounting : Prop :=
  ∀ (s : State),
    let d := s.dev
    let m := d.meter
    let becomes (i : Instr) (new : Meter) : Prop := Does i s fun e => e = { d with meter := new }
    let sum (c : MeterCount) : Nat := c.eUntag + (c.eBlk.map Prod.snd).foldl (· + ·) 0
    (m.on = false →
      (∀ v a j, Does (.meterSample v a j) s fun e => e = d) ∧ (becomes .meterInterval { m with ms := m.ms + 1 }) ∧
      (Does .meterCommit s fun e => e = d) ∧ (Does .meterPowerLoss s fun e => e = d) ∧ ∀ bs, Does (.tagReceive bs) s fun e => e = d) ∧
    (m.on = true →
      (∀ (v a : BitVec 32) j, becomes (.meterSample v a j) { m with
        cur := ⟨m.cur.mv + v.toNat, m.cur.n + 1, m.cur.mj + (if a.toNat < 50 ∨ v.toNat < 20000 then 0 else j)⟩ }) ∧
      (Does .meterInterval s fun e =>
        e = { d with meter := e.meter } ∧ e.meter.ms = m.ms + 1 ∧ e.meter.cur = ⟨0, 0, 0⟩ ∧ e.meter.work = [] ∧
          e.meter.past = m.cur :: m.past.take 999 ∧ e.meter.now.eTotal = m.now.eTotal + m.cur.mj ∧ e.meter.nv = m.nv ∧ e.meter.on = true ∧
          (∀ b age, m.tag = some (b, age) → e.meter.tag = some (b, age + 1) ∧
            (age < 2 → e.meter.now.eUntag = m.now.eUntag ∧
              ∀ x, mget 0 e.meter.now.eBlk x = mget 0 m.now.eBlk x + (if x = b then m.cur.mj else 0)) ∧
            (2 ≤ age → e.meter.now.eUntag = m.now.eUntag + m.cur.mj ∧ e.meter.now.eBlk = m.now.eBlk)) ∧
          (m.tag = none → e.meter.now.eUntag = m.now.eUntag + m.cur.mj ∧ e.meter.now.eBlk = m.now.eBlk) ∧
          (∀ b n, m.work = [(b, n)] → mget 0 e.meter.now.wBlk b = mget 0 m.now.wBlk b + n) ∧
          (mwf 0 m.now.eBlk = true → sum e.meter.now = sum m.now + m.cur.mj)) ∧
      (becomes .meterCommit { m with nv := m.now }) ∧
      (Does .meterPowerLoss s fun e =>
        e = { d with meter := e.meter } ∧ e.meter.on = false ∧ e.meter.nv = e.meter.now ∧ e.meter.now.ploss = min (m.now.ploss + 1) 65535 ∧
          e.meter.now.eTotal = m.now.eTotal + m.cur.mj ∧ e.meter.tamper = m.tamper) ∧
      (∀ bs,
        (tagGood bs = true → becomes (.tagReceive bs) { m with
          tag := some (recField bs 0 2, 0), work := m.work ++ [(recField bs 0 2, recField bs 4 4)], lastMt := recField bs 8 8 }) ∧
        (tagGood bs = false → becomes (.tagReceive bs) { m with now := { m.now with tagLost := min (m.now.tagLost + 1) (2 ^ 32 - 1) } }))) ∧
    (becomes .tamper { m with tamper := true }) ∧
    (d.tagging = true → Does .tagSend s fun e =>
      e = { d with tagSeq := (d.tagSeq + 1) % 256, tagBlk := d.get Reg.FAB_BLOCK_ID, work := d.work % 2 ^ 20, out := e.out } ∧
        ∃ b, e.out = d.out ++ [.tag b] ∧ b.length = 24 ∧ recField b 0 2 = d.get Reg.FAB_BLOCK_ID ∧ recField b 2 1 = d.get Reg.PWR_STATUS.STATE ∧
          recField b 3 1 = d.tagSeq % 256 ∧ recField b 4 4 = d.work / 2 ^ 20 % 2 ^ 32 ∧ recField b 8 8 = d.mt % 2 ^ 64 ∧ tagGood b = true) ∧
    (d.tagging = false → Does .tagSend s fun e => e = d)

/-- R457, R458, R462: requests to the meter are answered while it is powered: status 1 for a bad CRC, 2 for a block beyond 1023, else the signed reading with RSEQ
advanced, the keys or the identity (the layout of the answer and the signature are the model's, log entry 2); a status frame is mirrored in MTR. -/
def Obligations.MeterReadings : Prop :=
  ∀ (s : State),
    let d := s.dev
    let m := d.meter
    let all (ok : Bool) : List (Nat × Instr) := [(1, .meterRead ok 0 0), (2, .meterPubkey ok), (3, .meterInfo ok)]
    (m.on = false → (∀ ok, ∀ p ∈ all ok, Does p.2 s fun e => e = d) ∧ Does .meterStatusFrame s fun e => e = d) ∧
    (d.pwr.held = true → Does .meterStatusFrame s fun e => e = d) ∧
    (m.on = true →
      (∀ p ∈ all false, Does p.2 s fun e => e = d.emit (.meter (meterFrame p.1 1 []))) ∧
      (∀ (b : BitVec 16) (nonce : DWord),
        (1023 < b.toNat → Does (.meterRead true b nonce) s fun e => e = d.emit (.meter (meterFrame 1 2 []))) ∧
        (b.toNat ≤ 1023 → Does (.meterRead true b nonce) s fun e =>
          e = { d with meter := { m with rseq := m.rseq + 1 }, freeIdx := e.freeIdx, out := e.out } ∧
            ∃ r sig : List Byte, e.out = d.out ++ [.meter (meterFrame 1 0 (r ++ sig))] ∧ r.length = 128 ∧ sig = (List.range 64).map (Config.meterSign r) ∧
              recField r 0 2 = 1 ∧ recField r 0x10 8 = (m.rseq + 1) % 2 ^ 64 ∧ recField r 0x20 8 = nonce.toNat ∧ recField r 0x28 2 = b.toNat ∧
              recField r 0x2A 2 = m.now.ploss % 2 ^ 16 ∧ recField r 0x30 8 = mget 0 m.now.eBlk b.toNat % 2 ^ 64 ∧
              recField r 0x40 8 = m.now.eTotal % 2 ^ 64 ∧ recField r 0x48 8 = m.now.eUntag % 2 ^ 64)) ∧
      (Does (.meterPubkey true) s fun e => ∃ k, e = d.emit (.meter (meterFrame 2 0 k)) ∧ k.length = 128 ∧ k.take 64 = (List.range 64).map Config.meterPub) ∧
      (Does (.meterInfo true) s fun e => e = d.emit (.meter (meterFrame 3 0
        (leBytes 8 Config.meterSerial ++ leBytes 4 Config.meterFw ++ leBytes 2 m.flags)))) ∧
      (d.pwr.held = false → Does .meterStatusFrame s fun e =>
        e = { d with regs := e.regs, mtrAt := d.mt, freeIdx := e.freeIdx } ∧ e.bit Reg.MTR_STATUS.PRESENT = true ∧
          e.bit Reg.MTR_STATUS.TAMPER = m.tamper ∧ e.bit Reg.MTR_STATUS.FRESH = true ∧ e.get64 Reg.MTR_E_TOTAL_LO = m.now.eTotal % 2 ^ 64 ∧
          e.get64 Reg.MTR_E_BLK_LO = mget 0 m.now.eBlk d.tagBlk % 2 ^ 64 ∧ e.get64 Reg.MTR_E_UNTAG_LO = m.now.eUntag % 2 ^ 64 ∧
          e.get Reg.MTR_TAGLOST = m.now.tagLost % 2 ^ 32))
end

