-- ==== Sys2Proof/Tests/Slice0.lean ====
section
/-! SUPPORT. Tests: each check of WellFormed refuses an ill-formed command, the premises of every statement are met by a state written here,
and single commands are tried against worked examples of the spec. -/

namespace Sys2Proof.Tests

set_option Elab.async false

open Sys2Proof Sys2Proof.Machine

/-! ### Helpers -/

/-- A program word from its fields. -/
def word (cls op rd ra rb imm : Nat) : Nat := cls * 2 ^ 62 + op * 2 ^ 56 + rd * 2 ^ 51 + ra * 2 ^ 46 + rb * 2 ^ 41 + imm % 2 ^ 32

/-- A core in RUN at word 1 of a program of three words, with some S registers set. -/
def core0 : Core :=
  { seq := .run, pc := 1, imem0 := [(0, 5 * 4096 + 3)], sreg := [(1, 7), (2, 9), (3, 2 ^ 64 - 2), (4, 16), (5, 100)] }

/-- The core with the word at its program counter replaced. -/
def put (k : Core) (w : Nat) : Core := { k with imem0 := mset 0 k.imem0 k.pc w }

/-- The module as it is after reset but for core 0 and a change. -/
def dev (k : Core) (f : Dev → Dev := id) : Dev := f (Dev.reset.setCore 0 k)

/-- That module with one command waiting. -/
def st (k : Core) (f : Dev → Dev := id) : State := ⟨dev k f, [.nop 3]⟩

/-- A module changed from reset, with one command waiting. -/
def on (f : Dev → Dev) : State := ⟨f Dev.reset, [.nop 3]⟩

/-- Bytes from fields given as offset, length and value, the rest zero. -/
def bytes (n : Nat) (fs : List (Nat × Nat × Nat)) : List Byte :=
  fs.foldl (fun bs f => bs.take f.1 ++ leBytes f.2.1 f.2.2 ++ bs.drop (f.1 + f.2.1)) (List.replicate n 0#8)

/-- A layer command's record that uses the vector engine, with its done event and its watchdog. -/
def recV (evt wd : Nat) : List Byte := bytes 256 [(0, 4, 0x202), (8, 4, evt + 127 * 256), (0xC, 4, wd), (0xE0, 4, 1)]

/-- An open layer command with a record. -/
def cmdOf (r : List Byte) : LayerCmd :=
  { record := r, recOff := 0x400, tag := 3 * 2 ^ 20 + 5, step := 9, isOpen := true, cycles := 10, startIn := 0, flags := 0, scanDue := false,
    intAcc := false, ntile := 0, pass := 0, kchunk := 0, due := [], spilled := false, kept := false }

/-- The conditions of `Issues` as one Boolean. -/
def issuesB (d : Dev) (c : Nat) (ecc : WordEcc) (w : Nat) (regs : List Nat) : Bool :=
  decide (d.coreOn = true ∧ (d.core c).seq = .run ∧ (d.core c).lstartWait = false ∧ (d.core c).inProg = true ∧ (d.core c).word = w ∧
    (d.fetchEcc c ecc).1 = true ∧ wClass w = 0 ∧ wRes w = 0 ∧ ∀ n ∈ regs, (d.core c).outstanding n = false)

theorem issues_of {d : Dev} {c w : Nat} {ecc : WordEcc} {regs : List Nat} (h : issuesB d c ecc w regs = true) : Issues d c ecc w regs := by
  obtain ⟨a, b, c, d, e, f, g, i, j⟩ := of_decide_eq_true h
  exact ⟨a, b, c, d, e, f, g, i, j⟩

/-- The conditions of `Passes` as one Boolean. -/
def passesB (d : Dev) (c : Nat) (ecc : WordEcc) (op : Nat) : Bool :=
  decide (d.coreOn = true ∧ (d.core c).issuing = true ∧ (d.core c).inProg = true ∧ (d.fetchEcc c ecc).1 = true ∧
    wClass (d.core c).word = 3 ∧ vOp (d.core c).word = op ∧ (d.core c).isOpen = true ∧
    ((d.core c).cmd.map fun m => recUseVec m.record).getD false = true)

theorem passes_of {d : Dev} {c op : Nat} {ecc : WordEcc} (h : passesB d c ecc op = true) : Passes d c ecc op := by
  obtain ⟨a, b, c, d, e, f, g, i⟩ := of_decide_eq_true h
  exact ⟨a, b, c, d, e, f, g, i⟩

/-- The conditions of `VecIssues` as one Boolean. -/
def vecB (d : Dev) (c op : Nat) (w : DWord) (rest : List DWord) (m : LayerCmd) (u : List RfUpset) : Bool :=
  decide (d.coreOn = true ∧ (d.core c).vq = w :: rest ∧ (d.core c).cmd = some m ∧ (d.core c).vecFree = true ∧
    (d.core c).vecHeld w.toNat = false ∧ vOp w.toNat = op ∧ vIllegal w.toNat (d.core c).vl.val = false ∧
    (isPermute op = true → (d.core c).cu = true) ∧ ((d.core c).rfUpsets u).rfMark w.toNat ≠ 2)

theorem vec_of {d : Dev} {c op : Nat} {w : DWord} {rest : List DWord} {m : LayerCmd} {u : List RfUpset} (h : vecB d c op w rest m u = true) :
    VecIssues d c op w rest m u := by
  obtain ⟨a, b, c, d, e, f, g, i, j⟩ := of_decide_eq_true h
  exact ⟨a, b, c, d, e, f, g, i, j⟩

/-- A check on what an option holds, as one Boolean. -/
theorem some_of {α : Type} {o : Option α} {p : α → Prop} [DecidablePred p] (h : o.all (fun x => decide (p x)) = true) :
    ∀ x, o = some x → p x := by
  rintro x rfl; simpa using h

/-- Every operation of a list issues with its word. -/
theorem issues_each {k : Core} {f : Dev → Dev} {ops : List Nat} {mk : Nat → Nat} {regs : Nat → List Nat}
    {ecc : WordEcc} (h : (ops.all fun op => issuesB (dev (put k (mk op)) f) 0 ecc (mk op) (regs (mk op)) && decide (wOp (mk op) = op)) = true) :
    ∀ op ∈ ops, Issues (dev (put k (mk op)) f) 0 ecc (mk op) (regs (mk op)) ∧ wOp (mk op) = op := by
  intro op ho
  have := List.all_eq_true.mp h op ho
  simp only [Bool.and_eq_true, decide_eq_true_eq] at this
  exact ⟨issues_of this.1, this.2⟩

/-! ### Well-formed commands -/

/-- A frame of 224 bytes that WellFormed takes. -/
def frame0 : Frame := plainFrame frameIdle []

theorem test_wellFormed_takes : ([.codewordReceive 0 [0, 543] (some frame0) (List.replicate 255 0#8), .granaryAccess .host 0 (.read 1) .good,
    .accumulateWrite .host 0 [0#8], .keyWrite 0x60 true (List.replicate 32 0#8), .holdResume 0 3 (List.replicate 256 0#8), .poolGrant 0 [0, 23], .selftestDone [(0, 8), (7, 0)] none] :
    List Instr).all Instr.wellFormed = true := by decide +kernel

theorem test_wellFormed_accesses : ([.granaryAccess .host 0 (.read 0) .good, .granaryAccess .host 0 (.write []) .good,
    .gddrAccess .host 0 (.read 0) 0 .good, .bar2Access 0 (.write []) .good, .accumulateWrite .host 0 []] :
    List Instr).all (fun i => !i.wellFormed) = true := by decide +kernel

theorem test_wellFormed_partFrames : ([.codewordReceive 0 [] none (List.replicate 256 0#8), .holdResume 0 3 (List.replicate 257 0#8)] :
    List Instr).all (fun i => !i.wellFormed) = true := by decide +kernel

theorem test_wellFormed_frames : let short : Frame := { frame0 with body := [] }
    let long : Frame := { frame0 with blen := 225 }
    ([short, long].all fun f => ([.codewordReceive 0 [] (some f) [], .remoteResponse f, .dataFrame 0 f, .ctrlFrame 0 f, .rreqFrame 0 f,
      .idleFrame 0 f, .trainFrame 0 f, .lmapFrame 0 f, .powerState 0 f, .countRecord f, .dataRecord f, .gridDataRecord f, .abortRecord f,
      .timeFrameReceive 0 f, .heartbeat 0 f, .notice 0 f] : List Instr).all fun i => !i.wellFormed) = true := by decide +kernel

theorem test_wellFormed_lists : let l : LaneId := ⟨0, 0, 0⟩
    let r : RowId := ⟨0, 0, 0, 0⟩
    ([.codewordReceive 0 [3, 3] none [], .selftestDone [(1, 2), (1, 2)] none, .memtrainDone [l, l] [], .memtrainDone [] [5, 5],
      .memtestDone [l, l] [] [], .memtestDone [] [r, r] [], .memtestDone [] [] [0, 0], .resetComplete [l, l] [], .resetComplete [] [9, 9],
      .poolGrant 0 [], .poolGrant 0 [4, 4], .flashWrite 0x60 true 0 0 (List.replicate 31 0#8), .keyWrite 0x60 true (List.replicate 33 0#8)] :
      List Instr).all (fun i => !i.wellFormed) = true := by decide +kernel

/-! ### The whole machine -/

theorem witness_EveryCommandCompletes : (1000 < 1001 ∧ Instr.moduleRemoval 1001 = .moduleRemoval 1001) ∧
    (∀ m, Instr.moduleRemoval 1000 = .moduleRemoval m → m ≤ 1000) ∧ ∀ m, Instr.nop 0 = .moduleRemoval m → m ≤ 1000 := by
  refine ⟨by decide, ?_, ?_⟩ <;> intro m h <;> cases h <;> decide

theorem witness_StepKeepsForm : ∃ t, (on id).Inv ∧ step (on id) = .next t := by
  refine ⟨_, ⟨by decide +kernel, by decide +kernel⟩, rfl⟩

theorem witness_IdleTick : (State.reset.pending = [] ∧ ((Dev.reset.set Reg.PWR_STATUS.STATE 1).coreOn = false)) ∧
    (dev core0).coreOn = true ∧ ((dev core0).core 0).seq ≠ .quiesced ∧ ((dev { core0 with seq := .quiesced }).coreOn = true) ∧
    ((dev { core0 with seq := .quiesced }).core 0).seq = .quiesced ∧ ((dev core0).core 63).seq ≠ .quiesced := by decide +kernel

theorem witness_IdleTick_clean : (dev core0).sramEcc = [] ∧ ∀ c, c < 64 → ((dev core0).core c).accEcc = [] ∧ ((dev core0).core c).traceQ = [] := by
  decide +kernel

theorem witness_IllegalFetch : let legal (k : Core) : Prop := (dev k).coreOn = true ∧ ((dev k).core 0).seq = .run ∧
      ((dev k).core 0).lstartWait = false ∧ ((dev k).fetchEcc 0 .good).1 = true ∧ ((dev k).fetchEcc 0 .corrected).1 = true
    (legal { core0 with pc := 0 } ∧ ((dev { core0 with pc := 0 }).core 0).pc = 0) ∧
    (legal { core0 with pc := 6 } ∧ ((dev { core0 with pc := 6 }).core 0).progLen false < 6) := by decide +kernel

/-- A module that is READY in a state of the ladder. -/
def ready (state : Nat) (d : Dev) : Dev := (d.set Reg.PWR_BOOT_STATUS.PHASE 6).set Reg.PWR_STATUS.STATE state

theorem witness_LadderGraph :
    (let d := ready 2 Dev.reset
     Requester.host ≠ .planLoader ∧ d.pwr.held = false ∧ d.get Reg.PWR_LADDER.TARGET ≠ 1 ∧ d.ladderBarred = false ∧
       ¬(d.get Reg.PWR_STATUS.STATE < 1 ∨ (1 = 0 ∧ (d.get Reg.PWR_STATUS.STATE = 1 ∨ d.get Reg.PWR_STATUS.STATE = 2)))) ∧
    (∀ x ∈ [(3, 4), (1, 0), (4, 3)],
      let d := (ready x.1 Dev.reset).set Reg.PWR_LADDER.TARGET x.1
      let st := d.get Reg.PWR_STATUS.STATE
      Requester.host ≠ .planLoader ∧ d.pwr.held = false ∧ d.get Reg.PWR_LADDER.TARGET ≠ x.2 ∧ d.ladderBarred = false ∧
        (∀ c, c < 64 → d.coreBusy c = false) ∧ d.inSomeBlock = false ∧ d.linksBar x.2 = false ∧ d.groupBusy = false ∧
        d.get Reg.STG_STATUS.STATE ≠ stgArmed ∧ d.bit Reg.COL_CTL.EN = false ∧
        (st < x.2 ∨ (x.2 = 0 ∧ (st = 1 ∨ st = 2 ∨ st = 3)) ∨ (x.2 = 3 ∧ st = 4))) ∧
    (Dev.reset.modPwr fun p => { p with moveTo := 4 }).pwr.moveTo ≤ 4 := by
  decide +kernel

theorem witness_CanonicalNan : (fp32.decode 0xFFC00001).isNan = true ∧ (fp32.decode 0x7F800001).isNan = true ∧
    (fp16.decode 0xFFFF).isNan = true ∧ (e4m3.decode 0x7F).isNan = true ∧ (e5m2.decode 0x7D).isNan = true := by decide +kernel


/-! ### The sequencer -/

theorem witness_ScalarArithmetic :
    (∀ op ∈ [0x01, 0x02, 0x03, 0x04, 0x05, 0x06, 0x07, 0x08, 0x09], let w := word 0 op 31 1 2 0;
      Issues (dev (put core0 w)) 0 .good w [wRd w, wRa w, wRb w] ∧ wOp w = op) ∧
    (let w := word 0 0x0A 0 1 0 0xFFFFFFFF;
      Issues (dev (put core0 w)) 0 .good w [wRd w, wRa w] ∧ wOp w = 0x0A) ∧
    (let w := word 0 0x0B 31 0 0 0x80000000;
      Issues (dev (put core0 w)) 0 .good w [wRd w] ∧ wOp w = 0x0B) :=
  ⟨issues_each (f := id) (mk := fun op => word 0 op 31 1 2 0) (regs := fun w => [wRd w, wRa w, wRb w]) (by decide +kernel),
    ⟨issues_of (by decide +kernel), by decide +kernel⟩, issues_of (by decide +kernel), by decide +kernel⟩

/-- The address that a scalar memory word of core 0 names. -/
def scalarAt (k : Core) (w : Nat) : Nat := (BitVec.ofNat 64 (k.s (wRa w)) + (BitVec.ofNat 32 w).signExtend 64).toNat

theorem witness_ScalarMemory :
    (∀ op ∈ [0x10, 0x12], let w := word 0 op 31 4 0 (clmSize - 16 - 8);
      Issues (dev (put core0 w)) 0 .good w [wRd w, wRa w] ∧ wOp w = op) ∧
    (∀ op ∈ [0x11, 0x13], let w := word 0 op 0 4 1 (clmSize - 16 - 8);
      Issues (dev (put core0 w)) 0 .good w [wRa w, wRb w] ∧ wOp w = op) ∧
    (let a := scalarAt core0 (word 0 0x10 31 4 0 (clmSize - 16 - 8));
      a % 8 = 0 ∧ a + 8 ≤ clmSize ∧ a % 4 = 0 ∧ a + 4 ≤ clmSize ∧ Dev.reset.sramMark (clmPlace 0 a) 8 = 0 ∧
        Dev.reset.sramMark (clmPlace 0 a) 4 = 0) :=
  ⟨issues_each (f := id) (mk := fun op => word 0 op 31 4 0 (clmSize - 16 - 8)) (regs := fun w => [wRd w, wRa w]) (by decide +kernel),
    issues_each (f := id) (mk := fun op => word 0 op 0 4 1 (clmSize - 16 - 8)) (regs := fun w => [wRa w, wRb w]) (by decide +kernel),
    by decide +kernel⟩

/-- A word of CLM of core 0 reads with an error: 1 corrected, 2 uncorrectable. -/
def clmErr (off how : Nat) (d : Dev) : Dev := { d with sramEcc := [(clmPlace 0 off / 8, how)] }

theorem witness_ScalarMemory_ecc :
    (let w := word 0 0x10 31 4 0 (clmSize - 16 - 8)
     let a := scalarAt core0 w
     Issues (dev (put core0 w) (clmErr a 2)) 0 .corrected w [wRd w, wRa w] ∧ (fetched (dev (put core0 w) (clmErr a 2)) 0 .corrected).clmUe 0 a 8 = true ∧
       (fetched (dev (put core0 w) (clmErr a 1)) 0 .good).clmUe 0 a 8 = false ∧ (dev (put core0 w) (clmErr a 1)).sramMark (clmPlace 0 a) 8 = 1) :=
  ⟨issues_of (by decide +kernel), by decide +kernel, by decide +kernel, by decide +kernel⟩

theorem witness_Branches :
    (∀ op ∈ [0x19, 0x1A, 0x1B, 0x1C, 0x1D, 0x1E, 0x1F], let w := word 0 op 0 1 2 4095;
      Issues (dev (put core0 w)) 0 .good w [wRa w, wRb w] ∧ wOp w = op) ∧
    (∀ op ∈ [0x18, 0x21], let w := word 0 op 3 0 0 4095;
      Issues (dev (put core0 w)) 0 .good w [] ∧ wOp w = op) ∧
    (∀ op ∈ [0x20], let w := word 0 op 3 1 0 4095;
      Issues (dev (put core0 w)) 0 .good w [wRa w] ∧ wOp w = op) :=
  ⟨issues_each (f := id) (mk := fun op => word 0 op 0 1 2 4095) (regs := fun w => [wRa w, wRb w]) (by decide +kernel),
    issues_each (f := id) (mk := fun op => word 0 op 3 0 0 4095) (regs := fun _ => []) (by decide +kernel),
    issues_each (f := id) (mk := fun op => word 0 op 3 1 0 4095) (regs := fun w => [wRa w]) (by decide +kernel)⟩

/-- A core that points at the record 0x400 in its memory. -/
def layer0 : Core := { core0 with sreg := [(1, 0x400)] }

/-- The module with a good record there. -/
def withRec (d : Dev) : Dev := d.setClm 0 0x400 (recV 7 4)

theorem witness_LayerCommands :
    (let w := word 0 0x28 0 1 0 0xFFFFF;
     let r := (dev layer0 withRec).clm 0 0x400 256;
     (Issues (dev (put layer0 w) withRec) 0 .good w [wRa w] ∧ wOp w = 0x28) ∧ wImm w % 2 ^ 20 ≠ 0 ∧ (put layer0 w).isOpen = false ∧
      (put layer0 w).cmd = none ∧ (put layer0 w).colgo = [] ∧ layer0.s (wRa w) % 2 ^ 22 = 0x400 ∧ 0x400 + 256 ≤ clmSize ∧
      (dev layer0 withRec).sramMark (clmPlace 0 0x400) 256 = 0 ∧ recOk 0 layer0.chain 0x400 r = true) ∧
    (let w := word 0 0x28 0 1 0 1;
     let k := put { layer0 with colgo := [4] } w;
     (Issues (dev k) 0 .good w [wRa w] ∧ wOp w = 0x28) ∧ wImm w % 2 ^ 20 ≠ 0 ∧ k.isOpen = false ∧ k.colgo ≠ []) ∧
    (let w := word 0 0x28 0 1 0 1;
     let k := put { layer0 with lstartWait := true } w;
     (dev k).coreOn = true ∧ k.seq = .run ∧ k.lstartWait = true ∧ k.word = w ∧ k.cmd = none ∧ k.colgo = []) ∧
    (let w := word 0 0x29 0 0 0 0;
     let m := cmdOf (recV 7 4);
     let k := put { layer0 with cmd := some m } w;
     (Issues (dev k) 0 .good w [] ∧ wOp w = 0x29) ∧ m.isOpen = true ∧ k.cmd = some m ∧ recWdog m.record ≠ 0 ∧ (dev k).coreOn = true ∧
      k.seq ≠ .quiesced) ∧
    (let m := { cmdOf (recV 63 4) with isOpen := false };
     let k := { layer0 with cmd := some m };
     (dev k).coreOn = true ∧ k.seq ≠ .quiesced ∧ k.canComplete m = true ∧ m.recOff + 256 ≤ clmSize ∧ recEvtDone m.record < 64) := by
  refine ⟨⟨⟨issues_of ?_, ?_⟩, ?_⟩, ⟨⟨issues_of ?_, ?_⟩, ?_⟩, ?_, ⟨⟨issues_of ?_, ?_⟩, ?_⟩, ?_⟩ <;> decide +kernel

theorem witness_LayerCommands_ecc :
    (let w := word 0 0x28 0 1 0 1
     Issues (dev (put layer0 w) fun d => clmErr 0x400 2 (withRec d)) 0 .good w [wRa w]) ∧
    (let d := dev layer0 fun d => clmErr 0x400 2 (withRec d)
     d.clmUe 0 0x400 256 = true) :=
  ⟨issues_of (by decide +kernel), by decide +kernel⟩

/-- A queued index operation. -/
def ix0 : IxOp := ⟨[], true, 4, false, 0⟩

theorem witness_WaitWords :
    (∀ op ∈ [0x2A, 0x2D, 0x36, 0x3C], let w := word 0 op 0 0 0 63;
      Issues (dev (put core0 w)) 0 .good w [] ∧ wOp w = op) ∧
    (∀ op ∈ [0x31, 0x30, 0x2C], let w := word 0 op 0 1 0 0;
      Issues (dev (put core0 w)) 0 .good w [wRa w] ∧ wOp w = op) ∧
    (core0.cmd = none ∧ core0.ixq = [] ∧ core0.colgo = [] ∧ (dev core0).event 0 63 = false ∧
      (dev core0 fun d => d.setEvent 0 63).event 0 63 = true ∧ core0.s 1 ∉ core0.colgo) ∧
    (∀ op ∈ [0x2A, 0x3C], let w := word 0 op 0 0 0 1;
      Issues (dev (put { core0 with cmd := some (cmdOf (recV 7 4)) } w)) 0 .good w [] ∧ wOp w = op) ∧
    (∀ op ∈ [0x36, 0x3C], let w := word 0 op 0 0 0 0;
      Issues (dev (put { core0 with ixq := [ix0] } w)) 0 .good w [] ∧ wOp w = op) ∧
    (∀ op ∈ [0x31], let w := word 0 op 0 1 0 0;
      Issues (dev (put { core0 with colgo := [7] } w)) 0 .good w [wRa w] ∧ wOp w = op) ∧
    (∀ op ∈ [0x30], let w := word 0 op 0 1 0 0;
      Issues (dev (put { core0 with cmd := some { cmdOf (recV 7 4) with isOpen := false } } w)) 0 .good w [wRa w] ∧ wOp w = op) ∧
    (core0.s 1 = 7 ∧ (7 + 15) / 16 * 16 < 17 ∧ 16 = (7 + 15) / 16 * 16 ∧ 15 < (7 + 15) / 16 * 16 ∧ (dev core0 fun d => { d with mt := 17 }).mt = 17) := by
  refine ⟨?_, ?_, by decide +kernel, ?_, ?_, ?_, ?_, by decide +kernel⟩
  · exact issues_each (f := id) (mk := fun op => word 0 op 0 0 0 63) (regs := fun _ => []) (by decide +kernel)
  · exact issues_each (f := id) (mk := fun op => word 0 op 0 1 0 0) (regs := fun w => [wRa w]) (by decide +kernel)
  · exact issues_each (f := id) (mk := fun op => word 0 op 0 0 0 1) (regs := fun _ => []) (by decide +kernel)
  · exact issues_each (f := id) (mk := fun op => word 0 op 0 0 0 0) (regs := fun _ => []) (by decide +kernel)
  · exact issues_each (f := id) (mk := fun op => word 0 op 0 1 0 0) (regs := fun w => [wRa w]) (by decide +kernel)
  · exact issues_each (f := id) (mk := fun op => word 0 op 0 1 0 0) (regs := fun w => [wRa w]) (by decide +kernel)

theorem witness_WaitWords_waiting :
    (∀ op ∈ [0x2C, 0x2A, 0x2D, 0x36, 0x31], let w := word 0 op 0 1 0 5;
     let d := dev (put { core0 with seq := .wait } w) fun d => { d.setEvent 0 5 with mt := 16 };
     d.coreOn = true ∧ (d.core 0).seq = .wait ∧ (d.core 0).word = w ∧ wOp w = op ∧ ((d.core 0).s (wRa w) + 15) / 16 * 16 ≤ d.mt ∧
      (d.core 0).cmd = none ∧ d.event 0 (wImm w % 64) = true ∧ (d.core 0).ixq = [] ∧ (d.core 0).s (wRa w) ∉ (d.core 0).colgo) ∧
    (∀ op ∈ [0x2A, 0x2D, 0x36], let w := word 0 op 0 1 0 5;
     let d := dev (put { core0 with seq := .wait, cmd := some (cmdOf (recV 7 4)), ixq := [ix0] } w) fun d => d.set (Reg.CORE_SEQ_WAITLIM.US 0) 1;
     d.coreOn = true ∧ (d.core 0).seq = .wait ∧ (d.core 0).word = w ∧ wOp w = op ∧ (d.core 0).cmd ≠ none ∧
      d.event 0 (wImm w % 64) = false ∧ (d.core 0).ixq ≠ [] ∧ d.get (Reg.CORE_SEQ_WAITLIM.US 0) ≠ 0) := by
  decide +kernel

theorem witness_EventAndStepWords :
    (∀ op ∈ [0x2E, 0x2F], let w := word 0 op 0 0 0 63;
      Issues (dev (put core0 w)) 0 .good w [] ∧ wOp w = op) ∧
    (∀ op ∈ [0x3B], let w := word 0 op 0 0 0 0;
      Issues (dev (put core0 w)) 0 .good w [] ∧ wOp w = op) ∧
    (∀ op ∈ [0x38], let w := word 0 op 31 0 0 0;
      Issues (dev (put core0 w)) 0 .good w [wRd w] ∧ wOp w = op) ∧
    (∀ op ∈ [0x39], let w := word 0 op 0 1 0 0;
      Issues (dev (put core0 w)) 0 .good w [wRa w] ∧ wOp w = op) ∧
    (∀ op ∈ [0x3A], let w := word 0 op 0 1 2 0;
      Issues (dev (put core0 w)) 0 .good w [wRa w, wRb w] ∧ wOp w = op) ∧
    ((dev core0).bit (Reg.CORE_SEQ_TRACE_CTL.EN 0) = false ∧
      (dev core0 fun d => d.setBit (Reg.CORE_SEQ_TRACE_CTL.EN 0) true).bit (Reg.CORE_SEQ_TRACE_CTL.EN 0) = true ∧
      (dev core0).bit (Reg.CORE_SEQ_TRACE_CTL.STOP 0) = false ∧ core0.traceQ.length < 16) := by
  refine ⟨?_, ?_, ?_, ?_, ?_, by decide +kernel⟩
  · exact issues_each (f := id) (mk := fun op => word 0 op 0 0 0 63) (regs := fun _ => []) (by decide +kernel)
  · exact issues_each (f := id) (mk := fun op => word 0 op 0 0 0 0) (regs := fun _ => []) (by decide +kernel)
  · exact issues_each (f := id) (mk := fun op => word 0 op 31 0 0 0) (regs := fun w => [wRd w]) (by decide +kernel)
  · exact issues_each (f := id) (mk := fun op => word 0 op 0 1 0 0) (regs := fun w => [wRa w]) (by decide +kernel)
  · exact issues_each (f := id) (mk := fun op => word 0 op 0 1 2 0) (regs := fun w => [wRa w, wRb w]) (by decide +kernel)

theorem awake_core0 : awake (dev core0) := ⟨by decide +kernel, by decide +kernel⟩

/-- A record of the arrays of two chunks of K, M = 2, N = 2, with a spill area. -/
def recK (spill : Nat) : List Byte :=
  bytes 256 [(0, 4, 0x102), (8, 4, 127 + 127 * 256), (0x20, 4, 5 * 4 + 5 * 64 + 2 ^ 14 + 2 * 2 ^ 15 + 2 ^ 21 + 2 ^ 24), (0x24, 4, 2), (0x28, 4, 1000),
    (0x2C, 4, 2), (0x98, 4, spill)]

theorem witness_StartAndImem :
    (∀ q ∈ [SeqState.idle, .halted, .quiesced, .run, .loadchk], awake (dev { core0 with seq := q })) ∧
    (true ≠ core0.bank ∧ core0.seq ≠ .loadchk ∧ false = core0.bank) ∧
    (let bad : Core := { core0 with seq := .loadchk, prev := .quiesced, bank := true, imem0 := [] };
     let good : Core := { bad with imem0 := [(0, 4096 + (crc32 (leBytes 8 0)).toNat * 2 ^ 32)] };
     (dev bad).coreOn = true ∧ bad.seq = .loadchk ∧ (dev bad).bit (Reg.CORE_SEQ_CTRL.QREQ 0) = false ∧ bad.bankOk (!bad.bank) = false ∧
       bad.prev = .quiesced ∧ good.bankOk (!good.bank) = true ∧ (dev good).coreOn = true) := by
  refine ⟨?_, by decide +kernel⟩
  intro q hq
  simp only [List.mem_cons, List.not_mem_nil, or_false] at hq
  rcases hq with rfl | rfl | rfl | rfl | rfl <;> exact ⟨by decide +kernel, by decide +kernel⟩

theorem witness_StartAndImem_ecc :
    let k : Core := { core0 with seq := .loadchk, prev := .quiesced, bank := true, imem0 := [(0, 4096 + (crc32 (leBytes 8 0)).toNat * 2 ^ 32)] }
    (k.bankUpsets [(1, .corrected)]).bankOk (!k.bank) = true ∧ (k.bankUpsets [(1, .uncorrectable)]).bankOk (!k.bank) = false ∧
      (dev k).bit (Reg.CORE_SEQ_CTRL.QREQ 0) = false := by decide +kernel

theorem witness_QuiesceAndResume :
    (∀ q ∈ [SeqState.idle, .halted, .fault, .run, .wait, .quiesced, .loadchk, .quiescing], awake (dev { core0 with seq := q })) ∧
    (let k : Core := { core0 with seq := .quiesced, imem0 := [(0, 5 * 4096)] };
     let p := clmPlace 0 (49151 * 64);
     let d := dev k fun d => { d with mem := [(p + 8, 0x01#8), (p + 60, 0x05#8), (p + 61, 0x75#8), (p + 62, 0xDE#8), (p + 63, 0x6D#8)] };
     d.get (Reg.CORE_SEQ_RESUME_ADDR.ADDR 0) = 49151 ∧ d.resumeOk 0 (d.bytes p 64) = true ∧ (dev k).resumeOk 0 ((dev k).bytes p 64) = false) ∧
    (let k : Core := { core0 with seq := .quiescing, draining := true };
     (dev k).coreOn = true ∧ k.seq = .quiescing ∧ k.drained = true ∧ k.ixq = [] ∧ k.cmd = none) := by
  refine ⟨?_, by decide +kernel⟩
  intro q hq
  simp only [List.mem_cons, List.not_mem_nil, or_false] at hq
  rcases hq with rfl | rfl | rfl | rfl | rfl | rfl | rfl | rfl <;> exact ⟨by decide +kernel, by decide +kernel⟩

theorem witness_QuiesceAndResume_spill :
    (let d := dev { core0 with seq := .quiesced } (clmErr (49151 * 64) 2)
     (d.core 0).seq = .quiesced ∧ d.clmUe 0 (d.resumeOff 0) 64 = true) ∧
    (let m := { cmdOf (recK 0x3000) with kchunk := 1 }
     let es := (arrRec m.record).spillEntries m.ntile
     ∀ x ∈ [([], 0), ([⟨0, 0, true⟩], 2)], let d := (dev { core0 with seq := .quiescing, draining := true, cmd := some m }).accUpset 0 x.1
     d.coreOn = true ∧ (d.core 0).seq = .quiescing ∧ (d.core 0).drained = true ∧ (d.core 0).ixq = [] ∧ (d.core 0).cmd = some m ∧ m.spills = true ∧
       (x.2 = 0 → ∀ e ∈ es, mget 0 (d.core 0).accEcc e = 0) ∧ (x.2 = 2 → ∃ e ∈ es, mget 0 (d.core 0).accEcc e = 2)) := by
  decide +kernel

theorem witness_CoreRegisterCommands : awake (dev core0) ∧ (63#6).toNat.testBit 5 = true ∧ (0#6).toNat.testBit 5 = false :=
  ⟨awake_core0, by decide, by decide⟩

/-- A gather whose one index, at 0x100, names no row: a row of 32 bytes at 0x120. -/
def ix1 : IxOp :=
  ⟨leBytes 8 0 ++ leBytes 4 0x100 ++ leBytes 4 1 ++ leBytes 4 32 ++ leBytes 4 32 ++ leBytes 4 0x120 ++ leBytes 4 0, false, 63, false, 0⟩

/-- An operation whose one index, 0, names a row of a table at 0x2000. -/
def ix2 : IxOp :=
  ⟨leBytes 8 0x2000 ++ leBytes 4 0x100 ++ leBytes 4 1 ++ leBytes 4 32 ++ leBytes 4 32 ++ leBytes 4 0x120 ++ leBytes 4 1, false, 63, false, 0⟩

/-- The first region of the first memory is mapped. -/
def mapped0 (d : Dev) : Dev := d.set (Reg.GRN_IAT.MODE 0) 1

theorem witness_IndexUnit :
    (let w := word 0 0x34 0 0 0 63;
     (Issues (dev (put core0 w)) 0 .good w [wRa w] ∧ wOp w = 0x34) ∧ (wImm w).testBit 8 = false ∧ core0.ixq.length < 4 ∧ core0.s (wRa w) % 32 = 0 ∧
       core0.s (wRa w) + 32 ≤ clmSize ∧ (dev core0).sramMark (clmPlace 0 (core0.s (wRa w))) 32 = 0) ∧
    (∀ op ∈ [0x34, 0x35], let w := word 0 op 0 0 0 0;
      Issues (dev (put { core0 with ixq := [ix0, ix0, ix0, ix0] } w)) 0 .good w [wRa w] ∧ wOp w = op) ∧
    (∀ op ∈ [0x35], let w := word 0 op 0 0 0 256;
      Issues (dev (put core0 w)) 0 .good w [wRa w] ∧ wOp w = op) ∧
    (ix0.ok = false ∧ (dev { core0 with ixq := [ix0] }).coreOn = true ∧ core0.draining = false) ∧
    (let d := dev { core0 with ixq := [ix1] } fun d => { d with mem := (List.range 4).map fun i => (clmPlace 0 (0x100 + i), 0xFF#8) };
     ix1.ok = true ∧ ix1.scatter = false ∧ d.sramEcc = [] ∧ d.grnBad = [] ∧ d.clmNat 0 0x100 4 = 0xFFFFFFFF ∧ (ixDesc ix1.desc).idxAddr = 0x100 ∧
       (ixDesc ix1.desc).count = 1 ∧ (ixDesc ix1.desc).idxAddr + 4 * 1 ≤ (ixDesc ix1.desc).clmAddr ∧ d.coreOn = true) := by
  refine ⟨⟨⟨issues_of ?_, ?_⟩, ?_⟩, ?_, ?_, ?_, ?_⟩ <;> first | decide +kernel | skip
  · exact issues_each (f := id) (mk := fun op => word 0 op 0 0 0 0) (regs := fun w => [wRa w]) (by decide +kernel)
  · exact issues_each (f := id) (mk := fun op => word 0 op 0 0 0 256) (regs := fun w => [wRa w]) (by decide +kernel)


theorem witness_IndexUnit_rows :
    (let w := word 0 0x35 0 0 0 63
     Issues (dev (put core0 w) (clmErr 0 2)) 0 .good w [wRa w] ∧ core0.s (wRa w) = 0 ∧ (dev (put core0 w) (clmErr 0 2)).clmUe 0 0 32 = true ∧
       (dev core0).clmUe 0 0 32 = false) ∧
    (let w := word 0 0x35 0 5 0 63
     Issues (dev (put core0 w)) 0 .good w [wRa w] ∧ core0.s (wRa w) % 32 ≠ 0) ∧
    (∀ sc ∈ [true, false], let o := { ix2 with scatter := sc }
     let d := dev { core0 with ixq := [o] } mapped0
     o.ok = true ∧ d.sramEcc = [] ∧ d.grnBad = [] ∧ d.gdmDead = [] ∧ d.clmNat 0 0x100 4 = 0 ∧ d.memRange (ixDesc o.desc).table 32 = true) ∧
    (∀ i, i < 256 → (dev core0 mapped0).bit (Reg.GRN_RBT_CTL.EN i) = false) := by
  refine ⟨⟨issues_of ?_, ?_⟩, ⟨issues_of ?_, ?_⟩, ?_, ?_⟩ <;> decide +kernel

/-! ### The vector engine -/

/-- A vector word from its fields. -/
def vword (op vd va vb vc msk men typ sat sa imm : Nat) : Nat :=
  3 * 2 ^ 62 + op * 2 ^ 56 + vd * 2 ^ 51 + va * 2 ^ 46 + vb * 2 ^ 41 + vc * 2 ^ 36 + msk * 2 ^ 33 + men * 2 ^ 32 + typ * 2 ^ 28 + sat * 2 ^ 25 +
    sa * 2 ^ 20 + imm

/-- A core with an open layer command and a word at the head of its vector queue. -/
def vec0 (vl : Fin 1025) (w : Nat) : Core :=
  { core0 with vl := vl, cu := true, cmd := some (cmdOf (recV 7 4)), vq := [BitVec.ofNat 64 w, 17] }

/-- Every operation of a list issues with its word. -/
theorem vec_each {vl : Fin 1025} {f : Dev → Dev} {ops : List Nat} {mk : Nat → Nat} {g : Core → Core}
    (h : (ops.all fun op => vecB (dev (g (vec0 vl (mk op))) f) 0 op (BitVec.ofNat 64 (mk op)) [17] (cmdOf (recV 7 4)) []) = true) :
    ∀ op ∈ ops, VecIssues (dev (g (vec0 vl (mk op))) f) 0 op (BitVec.ofNat 64 (mk op)) [17] (cmdOf (recV 7 4)) [] :=
  fun op ho => vec_of (List.all_eq_true.mp h op ho)

/-- The operations of the vector words. -/
def vecRows : List Nat :=
  [0x01, 0x02, 0x03, 0x04, 0x05, 0x06, 0x07, 0x10, 0x11, 0x12, 0x13, 0x14, 0x15, 0x16, 0x17, 0x18, 0x19, 0x1A, 0x1B, 0x1C, 0x1D, 0x1E, 0x1F,
   0x20, 0x21, 0x22, 0x23, 0x30, 0x31, 0x32, 0x33, 0x38, 0x39, 0x3A, 0x3B, 0x3C, 0x3D]

/-- A core whose vector queue holds `n` words and whose next word is a vector word. -/
def pass0 (n op : Nat) : Core := put { core0 with cmd := some (cmdOf (recV 7 4)), vq := List.replicate n 17 } (vword op 31 0 0 0 0 0 0 0 0 0)

theorem witness_VectorPass : (∀ op ∈ vecRows, Passes (dev (pass0 31 op)) 0 .good op ∧ (pass0 31 op).vq.length < 32) ∧
    (∀ op ∈ vecRows, Passes (dev (pass0 32 op)) 0 .corrected op ∧ 32 ≤ (pass0 32 op).vq.length) := by
  have h : ∀ e ∈ [WordEcc.good, .corrected], ∀ n ∈ [31, 32], (vecRows.all fun op => passesB (dev (pass0 n op)) 0 e op) = true := by
    decide +kernel
  constructor
  · exact fun op ho => ⟨passes_of (List.all_eq_true.mp (h .good (by simp) 31 (by simp)) op ho), by simp [pass0, put]⟩
  · exact fun op ho => ⟨passes_of (List.all_eq_true.mp (h .corrected (by simp) 32 (by simp)) op ho), by simp [pass0, put]⟩

theorem witness_VectorArithmetic :
    (∀ op ∈ [0x10, 0x11, 0x12], let w := vword op 31 1 2 0 0 1 1 0 0 0;
      VecIssues (dev (vec0 1024 w)) 0 op (BitVec.ofNat 64 w) [17] (cmdOf (recV 7 4)) []) ∧ vTyp (vword 0x10 31 1 2 0 0 1 1 0 0 0) = 1 ∧
    (∀ op ∈ [0x10, 0x11, 0x12, 0x13], let w := vword op 0 1 2 3 7 1 3 0 0 0;
      VecIssues (dev (vec0 1 w)) 0 op (BitVec.ofNat 64 w) [17] (cmdOf (recV 7 4)) []) ∧ vTyp (vword 0x10 0 1 2 3 7 1 3 0 0 0) = 3 :=
  ⟨vec_each (f := id) (g := id) (mk := fun op => vword op 31 1 2 0 0 1 1 0 0 0) (by decide +kernel), by decide +kernel,
    vec_each (f := id) (g := id) (mk := fun op => vword op 0 1 2 3 7 1 3 0 0 0) (by decide +kernel), by decide +kernel⟩

theorem witness_VectorCompareAndMask :
    (∀ op ∈ [0x14, 0x15, 0x16, 0x17], let w := vword op 7 1 2 0 7 0 1 0 0 0;
      VecIssues (dev (vec0 1024 w)) 0 op (BitVec.ofNat 64 w) [17] (cmdOf (recV 7 4)) []) ∧ vTyp (vword 0x14 7 1 2 0 7 0 1 0 0 0) = 1 ∧
    (∀ op ∈ [0x14, 0x15, 0x16, 0x17], let w := vword op 0 1 2 0 7 0 0 0 0 5;
      VecIssues (dev (vec0 0 w)) 0 op (BitVec.ofNat 64 w) [17] (cmdOf (recV 7 4)) []) ∧ vTyp (vword 0x14 0 1 2 0 7 0 0 0 0 5) = 0 ∧
    (∀ op ∈ [0x20, 0x21, 0x22, 0x23], let w := vword op 7 0 7 0 0 0 0 0 0 0;
      VecIssues (dev (vec0 1024 w)) 0 op (BitVec.ofNat 64 w) [17] (cmdOf (recV 7 4)) []) :=
  ⟨vec_each (f := id) (g := id) (mk := fun op => vword op 7 1 2 0 7 0 1 0 0 0) (by decide +kernel), by decide +kernel,
    vec_each (f := id) (g := id) (mk := fun op => vword op 0 1 2 0 7 0 0 0 0 5) (by decide +kernel), by decide +kernel,
    vec_each (f := id) (g := id) (mk := fun op => vword op 7 0 7 0 0 0 0 0 0 0) (by decide +kernel)⟩

theorem witness_VectorConversion :
    (∀ op ∈ [0x18, 0x19, 0x1A, 0x1C, 0x1D], let w := vword op 31 0 0 0 0 1 0 0 0 (if op = 0x1D then 2 ^ 19 - 1 else 0);
      VecIssues (dev (vec0 1024 w)) 0 op (BitVec.ofNat 64 w) [17] (cmdOf (recV 7 4)) []) ∧
    (∀ op ∈ [0x1B], let w := vword op 31 0 0 0 0 1 0 1 0 0x02;
      VecIssues (dev (vec0 1024 w)) 0 op (BitVec.ofNat 64 w) [17] (cmdOf (recV 7 4)) []) ∧
    (∀ op ∈ [0x1E, 0x1F], let w := vword op 30 0 0 31 0 0 0 0 0 10;
      VecIssues (dev (vec0 1024 w)) 0 op (BitVec.ofNat 64 w) [17] (cmdOf (recV 7 4)) []) ∧
    vVd (vword 0x1E 30 0 0 31 0 0 0 0 0 10) ≠ vVc (vword 0x1E 30 0 0 31 0 0 0 0 0 10) :=
  ⟨vec_each (f := id) (g := id) (mk := fun op => vword op 31 0 0 0 0 1 0 0 0 (if op = 0x1D then 2 ^ 19 - 1 else 0)) (by decide +kernel),
    vec_each (f := id) (g := id) (mk := fun op => vword op 31 0 0 0 0 1 0 1 0 0x02) (by decide +kernel),
    vec_each (f := id) (g := id) (mk := fun op => vword op 30 0 0 31 0 0 0 0 0 10) (by decide +kernel), by decide +kernel⟩

theorem witness_VectorPermutes :
    ∀ op ∈ [0x30, 0x31, 0x32, 0x33], let w := vword op 31 0 1 0 7 0 0 0 1 0;
      VecIssues (dev (vec0 1024 w)) 0 op (BitVec.ofNat 64 w) [17] (cmdOf (recV 7 4)) [] :=
  vec_each (f := id) (g := id) (mk := fun op => vword op 31 0 1 0 7 0 0 0 1 0) (by decide +kernel)

theorem witness_VectorReductions :
    (∀ op ∈ [0x38, 0x39, 0x3A, 0x3B], let w := vword op 31 1 0 0 0 0 1 0 0 0;
      VecIssues (dev (vec0 1024 w)) 0 op (BitVec.ofNat 64 w) [17] (cmdOf (recV 7 4)) []) ∧ vTyp (vword 0x38 31 1 0 0 0 0 1 0 0 0) = 1 ∧
    (∀ op ∈ [0x38, 0x39, 0x3A], let w := vword op 0 1 0 0 0 0 0 0 0 1;
      VecIssues (dev (vec0 1 w)) 0 op (BitVec.ofNat 64 w) [17] (cmdOf (recV 7 4)) []) ∧ (vImm (vword 0x38 0 1 0 0 0 0 0 0 0 1)).testBit 0 = true ∧
    (∀ op ∈ [0x38, 0x39, 0x3A, 0x3C, 0x3D], let w := vword op 0 1 0 0 0 0 0 0 0 0;
      VecIssues (dev (vec0 0 w)) 0 op (BitVec.ofNat 64 w) [17] (cmdOf (recV 7 4)) []) ∧ (vImm (vword 0x38 0 1 0 0 0 0 0 0 0 0)).testBit 0 = false ∧
    vTyp (vword 0x38 0 1 0 0 0 0 0 0 0 0) ≠ 1 :=
  ⟨vec_each (f := id) (g := id) (mk := fun op => vword op 31 1 0 0 0 0 1 0 0 0) (by decide +kernel), by decide +kernel,
    vec_each (f := id) (g := id) (mk := fun op => vword op 0 1 0 0 0 0 0 0 0 1) (by decide +kernel), by decide +kernel,
    vec_each (f := id) (g := id) (mk := fun op => vword op 0 1 0 0 0 0 0 0 0 0) (by decide +kernel), by decide +kernel, by decide +kernel⟩

/-- A store buffer entry of four bytes at 0x100. -/
def sb0 : SbEntry := { bytes := [(0x100, 1#8), (0x101, 2#8), (0x102, 3#8), (0x103, 4#8)], scattered := false, nonfinite := 0 }

/-- A core about to run a memory word over two elements of four bytes from 0x100 on. -/
def mem0 (sb : List SbEntry) (w : Nat) : Core := { vec0 2 w with sreg := [(4, 4), (5, 0x100)], sb := sb }

theorem addrs_of {k : Core} {n : Nat} (h : ∀ j, j < k.vl.val → vAddrOk (k.vAddr n j) (laneSize (vTyp n)) = true) :
    ∀ j, k.isActive n j = true → vAddrOk (k.vAddr n j) (laneSize (vTyp n)) = true := by
  intro j hj
  simp only [Core.isActive, Bool.and_eq_true, decide_eq_true_eq] at hj
  exact h j hj.1

/-- A memory word that names its base in S5 and, for strides, S4. -/
def mword (op : Nat) : Nat := vword op 31 0 0 4 0 0 0 0 5 0

theorem witness_VectorLoads :
    (∀ op ∈ [0x01, 0x02, 0x03], VecIssues (dev (mem0 [] (mword op))) 0 op (BitVec.ofNat 64 (mword op)) [17] (cmdOf (recV 7 4)) []) ∧
    (∀ op ∈ [0x01, 0x02, 0x03], ∀ j, (mem0 [] (mword op)).isActive (mword op) j = true →
      vAddrOk ((mem0 [] (mword op)).vAddr (mword op) j) (laneSize (vTyp (mword op))) = true) ∧
    (let k := mem0 [] (mword 0x01)
     stallOf ((loadPieces 0x01 4 (k.vAddrs (mword 0x01))).map fun q => probe q k.sb.zipIdx.reverse) = none ∧ (dev k).sramEcc = []) ∧
    (let k := mem0 [sb0] (mword 0x01)
     vecB (dev k) 0 0x01 (BitVec.ofNat 64 (mword 0x01)) [17] (cmdOf (recV 7 4)) [] = true ∧
       stallOf ((loadPieces 0x01 4 (k.vAddrs (mword 0x01))).map fun q => probe q k.sb.zipIdx.reverse) = some 1) ∧
    (let w := mword 0x01
     let k := mem0 [] w
     let l : LoadStall := ⟨BitVec.ofNat 64 w, 0, k.vAddrs w⟩
     let d := dev { k with loadStall := some l }
     (d.core 0).loadStall = some l ∧ d.coreOn = true ∧ l.drains = 0 ∧ d.sramEcc = [] ∧ l.addrs = (d.core 0).vAddrs l.word.toNat) := by
  refine ⟨?_, ?_, ?_⟩
  · have h : ([0x01, 0x02, 0x03].all fun op => vecB (dev (mem0 [] (mword op))) 0 op (BitVec.ofNat 64 (mword op)) [17] (cmdOf (recV 7 4)) []) =
        true := by decide +kernel
    exact fun op ho => vec_of (List.all_eq_true.mp h op ho)
  · have h : ∀ op ∈ [0x01, 0x02, 0x03], ∀ j, j < (mem0 [] (mword op)).vl.val →
        vAddrOk ((mem0 [] (mword op)).vAddr (mword op) j) (laneSize (vTyp (mword op))) = true := by decide +kernel
    exact fun op ho => addrs_of (h op ho)
  · decide +kernel

theorem witness_VectorLoads_ecc :
    let k := mem0 [] (mword 0x01)
    let spans := k.loadSpans 0x01 4 (k.vAddrs (mword 0x01))
    ((spans.head?.map fun p => (dev k (clmErr p.1 2)).clmUe 0 p.1 p.2).getD false) = true ∧
      (∀ p ∈ spans, (dev k).sramMark (clmPlace 0 p.1) p.2 = 0) ∧
      (vecB (dev k (clmErr 0x40 2)) 0 0x01 (BitVec.ofNat 64 (mword 0x01)) [17] (cmdOf (recV 7 4)) [⟨.elem 31 1023, false⟩] = true) := by
  decide +kernel

theorem witness_VectorStores :
    (∀ op ∈ [0x04, 0x05, 0x06, 0x07], VecIssues (dev (mem0 [] (mword op))) 0 op (BitVec.ofNat 64 (mword op)) [17] (cmdOf (recV 7 4)) []) ∧
    (∀ op ∈ [0x04, 0x05, 0x06], ∀ j, (mem0 [] (mword op)).isActive (mword op) j = true →
      vAddrOk ((mem0 [] (mword op)).vAddr (mword op) j) (laneSize (vTyp (mword op))) = true) ∧
    ((mem0 [sb0] (mword 0x04)).sb = sb0 :: [] ∧ (dev (mem0 [sb0] (mword 0x04))).coreOn = true) ∧ awake (dev core0) := by
  refine ⟨?_, ?_, by decide +kernel, awake_core0⟩
  · have h : ([0x04, 0x05, 0x06, 0x07].all fun op => vecB (dev (mem0 [] (mword op))) 0 op (BitVec.ofNat 64 (mword op)) [17] (cmdOf (recV 7 4)) []) =
        true := by decide +kernel
    exact fun op ho => vec_of (List.all_eq_true.mp h op ho)
  · have h : ∀ op ∈ [0x04, 0x05, 0x06], ∀ j, j < (mem0 [] (mword op)).vl.val →
        vAddrOk ((mem0 [] (mword op)).vAddr (mword op) j) (laneSize (vTyp (mword op))) = true := by decide +kernel
    exact fun op ho => addrs_of (h op ho)

theorem witness_WordsThatStop :
    (let k := { core0 with pc := 6 }
     (dev k).coreOn = true ∧ k.seq = .run ∧ k.lstartWait = false ∧ k.inProg = false ∧ ((dev k).fetchEcc 0 .corrected).1 = true) ∧
    (∀ w ∈ [word 1 0 0 0 0 0, word 2 0 0 0 0 0, word 0 0x3F 0 0 0 0], let k := put core0 w;
     (dev k).coreOn = true ∧ k.seq = .run ∧ k.lstartWait = false ∧ k.inProg = true ∧ ((dev k).fetchEcc 0 .good).1 = true ∧
       (wClass k.word = 1 ∨ wClass k.word = 2 ∨ (wClass k.word = 0 ∧ wOp k.word ∉ seqOps))) ∧
    (let k := put core0 (word 0 0x01 1 2 3 0 + 2 ^ 32)
     (dev k).coreOn = true ∧ k.seq = .run ∧ k.lstartWait = false ∧ k.inProg = true ∧ wClass k.word = 0 ∧ wOp k.word = 0x01 ∧ wRes k.word ≠ 0 ∧
       (∀ r ∈ [wRd k.word, wRa k.word, wRb k.word], k.outstanding r = false)) ∧
    (let k := { put core0 (word 0 0x01 1 2 3 0) with imemEcc := [(1, 2)] }
     (dev k).coreOn = true ∧ k.seq = .run ∧ k.inProg = true ∧ ((dev k).fetchEcc 0 .good).1 = false ∧
       ((dev (put core0 (word 0 0x01 1 2 3 0))).fetchEcc 0 .uncorrectable).1 = false ∧ wClass k.word = 0 ∧ wOp k.word = 0x01 ∧
       (∀ r ∈ [wRd k.word, wRa k.word, wRb k.word], k.outstanding r = false)) ∧
    (let k := { put core0 (word 0 0x01 1 5 3 0) with vq := [BitVec.ofNat 64 (vword 0x38 5 1 0 0 0 0 0 0 0 0)] }
     (dev k).coreOn = true ∧ k.seq = .run ∧ k.inProg = true ∧ wClass k.word = 0 ∧ wOp k.word = 0x01 ∧ k.outstanding (wRa k.word) = true) ∧
    (∀ x ∈ [(vword 0x10 1 2 3 0 0 0 4 0 0 0, 0), (vword 0x30 1 2 3 0 0 0 0 0 0 0, 1), (vword 0x10 1 2 3 0 0 0 0 0 0 0, 2)],
     let k := { vec0 4 x.1 with cu := false, rfEcc := [(2 * 1024, 2)] }
     (dev k).coreOn = true ∧ k.vq = BitVec.ofNat 64 x.1 :: [17] ∧ k.cmd = some (cmdOf (recV 7 4)) ∧ k.vecFree = true ∧ k.vecHeld x.1 = false ∧
       (x.2 = 0 → vOp x.1 = 0x10 ∧ vIllegal x.1 4 = true) ∧ (x.2 = 1 → vOp x.1 = 0x30 ∧ vIllegal x.1 4 = false ∧ k.cu = false) ∧
       (x.2 = 2 → vOp x.1 = 0x10 ∧ vIllegal x.1 4 = false ∧ k.rfMark x.1 = 2 ∧
         ({ k with rfEcc := [] }.rfUpsets [⟨.elem 3 3, true⟩]).rfMark x.1 = 2)) := by
  refine ⟨?_, ?_, ?_, ?_, ?_, ?_⟩ <;> decide +kernel

/-- A record of the arrays: M = 2, K = 3, N = 2, in the formats given, written out at each N-tile. -/
def recM (afmt wfmt ofmt : Nat) : List Byte :=
  bytes 256 [(0, 4, 0x102), (8, 4, 7 + 63 * 256),
    (0x20, 4, afmt * 4 + wfmt * 64 + 2 ^ 14 + ofmt * 2 ^ 15 + 2 ^ 21 + 2 ^ 24), (0x24, 4, 2), (0x28, 4, 3), (0x2C, 4, 2),
    (0x38, 8, clmAddr 0 0x1000), (0x40, 8, clmAddr 0 0x2000), (0x48, 8, clmAddr 0 0x4000), (0x58, 8, clmAddr 0 0x6000),
    (0x60, 8, clmAddr 0 0x7000), (0x68, 4, 64), (0x6C, 4, 64), (0x70, 4, 64), (0x78, 4, 32), (0x7C, 4, 32), (0x98, 4, 0xFFFFFFFF)]

/-- A core whose open command uses the arrays. -/
def arr0 (m : LayerCmd) : Core := { core0 with cmd := some m }

theorem witness_MatrixArrays :
    (let m := cmdOf (recM 5 5 2)
     let k := arr0 m
     k.cmd = some m ∧ (dev k).coreOn = true ∧ k.engaged = true ∧ m.tileReady = true ∧ (dev k).sramEcc = [] ∧ k.accEcc = []) ∧
    (let m := { cmdOf (recM 5 5 2) with ntile := 1, due := [0] }
     let k := arr0 m
     k.cmd = some m ∧ (dev k).coreOn = true ∧ k.engaged = true ∧ m.due = 0 :: [] ∧ k.accEcc = [] ∧ recEvtTile m.record = 63) ∧
    (let m := { cmdOf (recM 5 5 2) with scanDue := true }
     let k := arr0 m
     k.cmd = some m ∧ (dev k).coreOn = true ∧ k.engaged = true ∧ m.scanDue = true ∧
       scanConflict k.chain (arrRec m.record) ((dev k).scalesAllOne (arrRec m.record)) = false) ∧
    (let m := { cmdOf (recM 5 5 12) with scanDue := true }
     let k := arr0 m
     k.cmd = some m ∧ (dev k).coreOn = true ∧ k.engaged = true ∧ m.scanDue = true ∧
       scanConflict k.chain (arrRec m.record) ((dev k).scalesAllOne (arrRec m.record)) = true) ∧ awake (dev core0) :=
  ⟨by decide +kernel, by decide +kernel, by decide +kernel, by decide +kernel, awake_core0⟩


theorem witness_MatrixArrays_ecc :
    (let m := { cmdOf (recM 5 5 2) with kchunk := 1 }
     let d := (dev (arr0 m)).accUpset 0 [⟨0, 1, true⟩]
     (d.core 0).cmd = some m ∧ (∃ x ∈ m.rowReads m.fed (arrRec m.record).ma, mget 0 (d.core 0).accEcc x = 2) ∧
       ∀ x ∈ m.rowReads m.fed (arrRec m.record).ma, mget 0 ((dev (arr0 m)).core 0).accEcc x = 0) ∧
    (let m := { cmdOf (recM 5 5 2) with ntile := 1, due := [0] }
     let a := arrRec m.record
     let d := (dev (arr0 m)).accUpset 0 [⟨0, 0, true⟩]
     (d.core 0).cmd = some m ∧ (∃ x ∈ a.tileElems 0, mget 0 (d.core 0).accEcc (a.entry x.1 x.2) = 2) ∧
       ∀ x ∈ a.tileElems 0, mget 0 ((dev (arr0 m)).core 0).accEcc (a.entry x.1 x.2) = 0) ∧
    (let m := { cmdOf (recM 5 5 2) with scanDue := true }
     let spans := (arrRec m.record).scanSpans 0
     (∀ p ∈ spans, (dev (arr0 m)).sramMark (clmPlace 0 p.1) p.2 = 0) ∧
       (spans.head?.map fun p => (dev (arr0 m) (clmErr p.1 2)).clmUe 0 p.1 p.2).getD false = true) := by
  decide +kernel

/-! ### Memory -/

/-- The module with a home of both memories mapped at their first region. -/
def mapped (d : Dev) : Dev := (d.set (Reg.GRN_IAT.MODE 0) 1).set (Reg.GDM_IAT.MODE 0) 1

/-- The first address of the second memory. -/
def gddr0 : Nat := 0x008000000000

theorem witness_MemoryAccesses :
    (let d := mapped Dev.reset
     d.memOn = true ∧ isGddr 0xFFA = false ∧ d.readErr 0xFFA 4 = none ∧ d.writeErr 0xFFA [1#8, 2#8] = none ∧ d.rbtHit 0xFFA 2 = [] ∧
       isGddr (gddr0 + 16) = true ∧ d.readErr (gddr0 + 16) 4 = none ∧ d.writeErr (gddr0 + 16) [1#8, 2#8] = none ∧ d.rbtHit (gddr0 + 16) 2 = []) ∧
    (let d := mapped Dev.reset
     isGddr 0x007FFFFFFFFF = false ∧ (d.firstUnmapped 0x007FFFFFFFFF 1).isSome = true) ∧
    (let d := mapped Dev.reset
     0 < 1 ∧ d.firstUnmapped 0 1 = none ∧ d.place 0 = some (grnPlace 0 0) ∧ isGrnPlace (grnPlace 0 0) = true) ∧
    (let d := mapped Dev.reset
     d.place (gddr0 + 16) = some (gdmPlace 0 16) ∧ isGdmPlace (gdmPlace 0 16) = true ∧ isGrnPlace (gdmPlace 0 16) = false ∧ (1 : BitVec 2) ≠ 0) := by
  decide +kernel

theorem witness_MemoryAccesses_events :
    (let d := mapped Dev.reset
     let id : LaneId := ⟨0, 31, 73⟩
     isGranary 0 = true ∧ (mget {} d.grn (stackOf (grnPlace 0 0))).erased.contains (id.channel.val, id.lane.val) = false ∧
       (mget {} d.grn (stackOf (grnPlace 0 0))).inChannel id.channel < 2 ∧ d.bit Reg.FLT_CTL.INT3 = false) ∧
    (let u : DmaRun := { ring := 127, at_ := 0x1000, desc := [] }
     let d := dev { core0 with dma := some u } mapped
     d.memOn = true ∧ (d.core 0).dma = some u ∧ u.ring = (127 : RingId).val ∧ u.code = 0 ∧ (d.firstUnmapped 0x007FFFFFFFFF 1).isSome = true) := by
  decide +kernel

/-- A buffer of FP32 sums for an open group: entry 7, six elements from 0x1000 on. -/
def buffer (state : Nat) (d : Dev) : Dev :=
  ((((mapped d).set (Reg.GRN_RBT_BASE 7) 1).set (Reg.GRN_RBT_LEN 7) 6).setBit (Reg.GRN_RBT_CTL.EN 7) true).set (Reg.GRN_GRP_STATE.STATE 0) state

/-- An addend for that buffer. -/
def addend0 : Addend := ⟨7, grnPlace 0 0x1004, 0x1004, 0x3F800000, .host⟩

theorem witness_MemoryUnits :
    (let d := mapped Dev.reset
     d.memOn = true ∧ mget 0 d.flt.rate (31 * 65536 + Flt.GDM_MARGIN) = 0 ∧ d.flt.pend.length < 32) ∧
    (let d : Dev := { Dev.reset with flt := { Dev.reset.flt with rate := [(31 * 65536 + Flt.GDM_MARGIN, 1)] }, mt := 3600000000 * ticksPerUs - 1 }
     mget 0 d.flt.rate (31 * 65536 + Flt.GDM_MARGIN) = 0 + 1 ∧ d.mt < 0 + 3600000000 * ticksPerUs) ∧
    (let d := Dev.reset.setBit (Reg.GRN_SCRUB.EN 7) true
     d.bit (Reg.GRN_SCRUB.EN 7) = true ∧ mget 0 d.grnBad (grnPlace 7 0 / 64) = 0) ∧
    (let d := buffer grpOpen Dev.reset
     let bs := leBytes 4 0x3F800000
     d.memOn = true ∧ d.rbtHit 0x1000 4 = [7] ∧ d.writeErr 0x1000 bs = none ∧
       d.accq.length + ((d.rbtHit 0x1000 4).flatMap fun i => d.rbtAddends .host i 0x1000 bs).length ≤ 128) ∧
    (let d := buffer grpOpen Dev.reset
     d.rbtHit 0x1014 2 = [7] ∧ (∃ x, d.writeErr 0x1014 [0#8, 0#8] = some (.partialRb x))) ∧
    (let d := buffer grpApplying Dev.reset
     d.rbtHit 0x1000 4 = [7] ∧ (∃ x, d.writeErr 0x1000 (leBytes 4 0) = some (.lateRb x))) ∧
    (let d : Dev := { buffer grpOpen Dev.reset with accq := [addend0] }
     takeAddend 0 d.accq = some (addend0, []) ∧ mget 0 d.grnBad (addend0.place / 64) = 0) := by
  refine ⟨?_, ?_, ?_, ?_, ⟨?_, _, rfl⟩, ⟨?_, _, rfl⟩, ?_⟩ <;> decide +kernel

/-! ### The DMA -/

/-- A descriptor from its OWN bit, its source, its destination, its length and its other fields. -/
def desc (own src dst len : Nat) (x : List (Nat × Nat × Nat) := []) : List Byte :=
  bytes 64 ([(0, 4, own * 2 ^ 31 + 9 * 2 ^ 16), (4, 4, len), (8, 4, 1), (12, 4, 77), (0x10, 8, src), (0x18, 8, dst), (0x20, 4, 64), (0x24, 4, 64)] ++ x)

/-- Ring 127 of core 0 enabled, in a state and with some descriptors pending. -/
def ring (state pend : Nat) (d : Dev) : Dev :=
  (((mapped d).setBit (Reg.CORE_DMA_RING_CTL.EN 0 127) true).set (Reg.CORE_DMA_RING_STATUS.STATE 0 127) state).set
    (Reg.CORE_DMA_RING_STATUS.PEND 0 127) pend

theorem witness_DmaRings :
    (let d := dev core0
     d.coreOn = true ∧ awake d ∧ d.bit (Reg.CORE_DMA_RING_CTL.EN 0 127) = false) ∧
    (let d := dev core0 (ring 1 0)
     d.coreOn = true ∧ d.bit (Reg.CORE_DMA_RING_CTL.EN 0 127) = true ∧ 2 ^ d.get (Reg.CORE_DMA_RING_CTL.SIZE_LOG2 0 127) ≤ 65536 ∧
       d.get (Reg.CORE_DMA_RING_STATUS.PEND 0 127) + 1 ≤ 2 ^ d.get (Reg.CORE_DMA_RING_CTL.SIZE_LOG2 0 127) ∧
       2 ^ d.get (Reg.CORE_DMA_RING_CTL.SIZE_LOG2 0 127) < d.get (Reg.CORE_DMA_RING_STATUS.PEND 0 127) + 65537) ∧
    (let w := word 0 0x32 0 0 0 127;
     Issues (dev (put core0 w) (ring 1 0)) 0 .good w [wRa w] ∧ wOp w = 0x32 ∧ wImm w % 128 = 127 ∧ core0.s (wRa w) = 0) ∧
    (let w := word 0 0x32 0 1 0 127;
     Issues (dev (put core0 w)) 0 .good w [wRa w] ∧ wOp w = 0x32 ∧ wImm w % 128 = 127) ∧
    (let u : DmaRun := { ring := 127, at_ := 0x1000, desc := desc 1 1 2 3 }
     let d := dev { core0 with dma := some u } (ring 1 1)
     d.get (Reg.CORE_DMA_RING_STATUS.STATE 0 127) = 1 ∧ (d.core 0).dma = some u ∧ u.ring = 127 ∧ (dev core0 (ring 1 1)).cores = [(0, core0)]) ∧
    (∀ x ∈ [2, 3], (dev core0 (ring x 0)).get (Reg.CORE_DMA_RING_STATUS.STATE 0 127) = x) := by
  refine ⟨⟨?_, awake_core0, ?_⟩, ?_, ⟨issues_of ?_, ?_⟩, ⟨issues_of ?_, ?_⟩, ?_, ?_⟩ <;> decide +kernel


/-- The module with the host's window open. -/
def hostUp (d : Dev) : Dev := (d.setBit Reg.HST_STATUS.LINK_UP true).set Reg.HST_HWIN_SIZE 1

theorem witness_DmaRings_host :
    (∀ x ∈ [0, 2, 3], let d := hostUp (ring 1 0 (Dev.reset.set Reg.PWR_STATUS.STATE x))
     d.bit Reg.HST_STATUS.LINK_UP = true ∧ (508#18).toNat = 0 * 0x1000 + 4 * 127 ∧ (1#32) ≠ 0 ∧ (1#32).toNat < 2 ^ 17 ∧ d.get Reg.PWR_STATUS.STATE = x) ∧
    (let u : DmaRun := { ring := 127, at_ := 0x1000, desc := [] }
     Core.serves { core0 with dma := some u } 127 = true ∧ Core.serves { core0 with dmaFetch := some (127, 0x1000) } 127 = true ∧
       core0.serves 127 = false) ∧
    (2 ^ (ring 1 0 Dev.reset).get (Reg.CORE_DMA_RING_CTL.SIZE_LOG2 0 127) < (65537#32).toNat % 2 ^ 17) := by decide +kernel

/-- Core 0 with ring 127's descriptors at an address and the bytes of one of them in memory there. -/
def fetch (a : Nat) (b : List Byte) (d : Dev) : Dev := ((hostUp (ring 1 1 d)).set64 (Reg.CORE_DMA_RING_BASE_LO 0 127) a).wrBytes a b

theorem witness_DmaDescriptors :
    (∀ own ∈ [0, 1], let d := dev core0 (fetch 0x1000 (desc own 0x2000 0x3000 256))
     d.coreOn = true ∧ (d.core 0).dma = none ∧ (d.core 0).dmaFetch = none ∧ d.nextRing 0 = some 127 ∧ d.descAddr 0 127 = 0x1000 ∧
       inHost 0x1000 = false ∧ d.readErr 0x1000 64 = none ∧ dOwn (d.rdBytes 0x1000 64) = decide (own = 1) ∧
       (own = 1 → dMalformed (d.rdBytes 0x1000 64) = false ∧ d.dmaInside (d.rdBytes 0x1000 64) = true)) ∧
    (let d := dev core0 (fetch hostBase [])
     d.coreOn = true ∧ (d.core 0).dma = none ∧ (d.core 0).dmaFetch = none ∧ d.nextRing 0 = some 127 ∧ d.descAddr 0 127 = hostBase ∧
       inHost hostBase = true ∧ d.host.d3hot = false ∧ d.bit Reg.HST_STATUS.LINK_UP = true ∧
       hostBase - hostBase + 64 ≤ d.get Reg.HST_HWIN_SIZE * 2 ^ 30) ∧
    (let b := desc 1 0x2000 0x3000 256
     let d := dev { core0 with dmaFetch := some (127, 0x1000) } (ring 1 1)
     d.coreOn = true ∧ (d.core 0).dmaFetch = some (127, 0x1000) ∧ b.length = 64 ∧ dOwn b = true ∧ dMalformed b = false ∧ d.dmaInside b = true) := by
  decide +kernel

theorem witness_DmaDescriptors_running :
    (let u : DmaRun := { ring := 127, at_ := 0x1000, desc := desc 1 hostBase 0x3000 256, host := [0] }
     let d := dev { core0 with dma := some u } (ring 1 1)
     (d.core 0).dma = some u ∧ d.coreOn = true ∧ u.code = 0 ∧ u.ended = none ∧ (d.core 0).dmaFetch = none ∧ u.host = 0 :: [] ∧
       u.ring = (127 : RingId).val ∧ d.get (Reg.CORE_DMA_RING_STATUS.STATE 0 127) = 1) ∧
    (let u : DmaRun := { ring := 127, at_ := 0x1000, desc := desc 1 0x2000 (2 ^ 63 + 4095 * 2 ^ 49 + 0x1000) 256, txids := [(4, 0)] }
     let d := dev { core0 with dma := some u } (ring 1 1)
     (d.core 0).dma = some u ∧ d.coreOn = true ∧ u.code = 0 ∧ u.ended = none ∧ d.dmaInside u.desc = false ∧ u.txids ≠ []) ∧
    awake (dev { core0 with dma := some { ring := 127, at_ := 0x1000, desc := desc 1 hostBase 0x3000 256, host := [0] } } (ring 1 1)) ∧
    (let b := desc 1 0x2000 0x3000 256
     let u : DmaRun := { ring := 127, at_ := 0x1000, desc := b }
     let d := dev { core0 with dma := some u } (ring 1 1)
     (d.core 0).dma = some u ∧ d.coreOn = true ∧ u.code = 0 ∧ u.ended = none ∧ u.next = 0 ∧ u.parts = [] ∧ u.fence = false ∧ 127 < 128 ∧
       dMalformed b = false ∧ dOwn b = true ∧ b.length = 64 ∧ dCvt b = false ∧ dChain b = false ∧ dInt b = false ∧ dDsel b = 0 ∧ dRows b = 1 ∧
       dLen b = 256) ∧
    (let b := desc 1 0x2000 0x3000 256
     let d := dev core0 (ring 1 1)
     isRemote (dSrc b) = false ∧ isRemote (dDst b) = false ∧ inHost (dSrc b) = false ∧ inHost (dDst b) = false ∧ imemWindow (dDst b) = none ∧
       inHost 0x1000 = false ∧ imemWindow 0x1000 = none ∧ d.grnBad = [] ∧ d.sramEcc = [] ∧ d.gdmDead = [] ∧ d.memRange (dSrc b) 256 = true ∧
       d.memRange (dDst b) 256 = true ∧ d.memRange 0x1000 64 = true ∧ d.rbtHit (dDst b) 256 = [] ∧ d.rbtHit 0x1000 64 = [] ∧
       mget 0 core0.stopReq 127 = 0) := by
  refine ⟨?_, ?_, ⟨?_, ?_⟩, ?_, ?_⟩ <;> decide +kernel

theorem witness_DmaDescriptors_host :
    (let b := desc 1 hostBase 0x3000 768
     let u : DmaRun := { ring := 127, at_ := 0x1000, desc := b, host := [0, 1, 2], next := 3 }
     let d := dev { core0 with dma := some u } (ring 1 1)
     let a := (d.dPieceAt b 1).dst
     (d.core 0).dma = some u ∧ d.coreOn = true ∧ u.code = 0 ∧ u.ended = none ∧ (d.core 0).dmaFetch = none ∧ takeNth 1 u.host = some (1, [0, 2]) ∧
       takeNth 3 u.host = none ∧ u.fence = false ∧ (List.replicate 256 9#8).length = (d.runPiece u 1).n ∧ d.runCount u ≤ u.next ∧ dCvt b = false ∧
       dRows b = 1 ∧ isRemote a = false ∧ inHost a = false ∧ imemWindow a = none ∧ d.writeErr a (List.replicate 256 9#8) = none ∧
       d.rbtHit a 256 = []) ∧
    (let b := desc 1 0x2000 0x3000 256
     let u : DmaRun := { ring := 127, at_ := 0x1000, desc := b, code := 3 }
     let d := dev { core0 with dma := some u } (ring 1 1)
     d.dmaMet u = true ∧ dBarrier b = false ∧ inHost u.at_ = false ∧ d.dmaFull 0 = false ∧ d.accq = [] ∧ d.dmaInside b = true ∧
       inHost (dDst b) = false ∧ u.host = [] ∧ u.txids = [] ∧ u.limit = none ∧ d.host.d3hot = false ∧ u.halted = false ∧ imemWindow 0x1000 = none) ∧
    (let b := desc 1 0x2000 0x3000 256 [(4, 4, 0)]
     let d := dev core0 (fetch 0x1000 b)
     mget 0 (d.core 0).stopReq 127 ≠ 2 ∧ dOwn b = true ∧ dMalformed b = true ∧ d.firstUnmapped 0x1000 64 = none) ∧
    (Dev.reset.bit Reg.HST_STATUS.LINK_UP = false ∧ (ring 1 1 Dev.reset).get Reg.HST_HWIN_SIZE * 2 ^ 30 < hostBase - hostBase + 64) := by
  decide +kernel

/-! ### The thresher and the fabric's target -/

/-- Group 15 in a state, with one buffer of six FP32 sums at 0x1000. -/
def group (state : Nat) (d : Dev) : Dev := ((buffer state d).set (Reg.GRN_RBT_CTL.GROUP 7) 15).setGrp 15 state

/-- A decision entry of group 15. -/
def decEntry (skip range : Bool) : ColEntry :=
  { idx := 0, raw := bytes 64 [(0, 1, 6), (0x2A, 2, 2 ^ 15), (0x38, 8, 99)], seq := 1, steps := [], skip := skip, range := range }

theorem witness_ThresherCommands :
    (∀ x ∈ [grpIdle, grpOpen], let d := group x Dev.reset
     d.bit Reg.GRN_THR_CMDSTAT.BUSY = false ∧ d.get (Reg.GRN_GRP_STATE.STATE 15) = x) ∧
    (let d := (group grpMirroring Dev.reset).setBit Reg.GRN_THR_CMDSTAT.BUSY true
     d.bit Reg.GRN_THR_CMDSTAT.BUSY = true ∧ ¬(d.get (Reg.GRN_GRP_STATE.STATE 15) = grpIdle ∨ d.get (Reg.GRN_GRP_STATE.STATE 15) = grpOpen)) ∧
    (let d : Dev := { group grpClearing Dev.reset with thr := { Dev.reset.thr with cmd := some (1, 15) } }
     d.thr.cmd = some (1, (15 : Fin 16).val) ∧ d.get (Reg.GRN_GRP_STATE.STATE 15) = grpClearing ∧ 7 ∈ d.grpEntries 15 ∧
       d.rbtLo 7 ≤ 0x1000 ∧ 0x1000 < d.rbtHi 7) ∧
    (let p : Pass := ⟨15, true, 5, 3, [], [], [], []⟩
     let d : Dev := { group grpApplying Dev.reset with thr := { Dev.reset.thr with passQ := [p], running := true } }
     d.thr.passQ = [p] ∧ d.thr.running = true ∧ p.group = (15 : Fin 16).val ∧ p.skip = true ∧ d.bit (Reg.GRN_GRP_CTL.MIR_EN 15) = false) ∧
    (∀ y ∈ [(true, false), (false, true), (false, false)], let x := decEntry y.1 y.2
     recField x.raw 0 1 = 6 ∧ x.steps = [] ∧ x.decided = false ∧ (recField x.raw 0x2A 2).testBit 15 = true) := by
  decide +kernel

/-- A data frame of an operation, with its number, source, address and payload. -/
def dframe (op tx src addr : Nat) (pl : List Byte) : Frame := dataFrame ⟨0, src, 5, op, tx, addr, none, none⟩ pl

/-- The SHA-256 of a group's state as it is after reset: its bytes as the standard gives them, least significant first. -/
def groupDigest : Nat := 0xcc13419876c3103c2c6d7b43a50ddc248cabab4479b7062bf34a239c2b981e53

theorem witness_ThresherCommands_kinds :
    (group grpOpen Dev.reset).memOn = true ∧
    (∀ op ∈ [2, 3], let d : Dev := (mapped Dev.reset).wrBytes 0x2000 (bytes 128 [(2, 1, 5), (0x60, 32, groupDigest)])
     let d : Dev := { (d.set64 Reg.GRN_THR_XSRC_LO 0x2000).set64 Reg.GRN_THR_XDST_LO 0x3000 with thr := { Dev.reset.thr with cmd := some (op, 15) } }
     d.thr.cmd = some (op, (15 : Fin 16).val) ∧ (Dev.thrEffect op 15 { d with thr := { d.thr with cmd := none } }).1 = true) ∧
    (let d := (group grpDeciding Dev.reset).set (Reg.GRN_RBT_CTL.FMT 7) 13
     (d.gridEntries (2 ^ 15))[0]? = some 7 ∧ [(3 : Nat)][0]? = some 3) ∧
    (let d := group grpDeciding Dev.reset
     (∀ j ∈ groupsOf (2 ^ 15), (d.paramRead j).1.isSome = true) ∧ d.get (Reg.GRN_GRP_GROW.INTERVAL 15) = (Reg.GRN_GRP_GROW.INTERVAL 15).reset ∧
       (let e := (d.set (Reg.GRN_GRP_GROW.INTERVAL 15) 5).set (Reg.GRN_GRP_GROW.GOOD 15) 4
        e.get (Reg.GRN_GRP_GROW.INTERVAL 15) ≠ 0 ∧ e.get (Reg.GRN_GRP_GROW.INTERVAL 15) ≤ (e.get (Reg.GRN_GRP_GROW.GOOD 15) + 1) % 65536 ∧
          (d.get (Reg.GRN_GRP_GROW.GOOD 15) + 1) % 65536 < 5)) := by
  decide +kernel

theorem witness_ThresherPasses :
    (let p : Pass := ⟨15, false, 5, 3, [], [], [], []⟩
     let d : Dev := { group grpApplying Dev.reset with thr := { Dev.reset.thr with passQ := [p], running := true } }
     d.thr.passQ = [p] ∧ d.thr.running = true ∧ p.group = (15 : Fin 16).val ∧ p.skip = false ∧ d.bit (Reg.GRN_GRP_CTL.MIR_EN 15) = false ∧
       d.bit (Reg.GRN_GRP_CTL.DIG_EN 15) = false ∧ d.rbtLo 7 ≤ 0x1000 ∧ 0x1000 < d.rbtHi 7 ∧ isGranary 0x1000 = true) ∧
    (let m : Mirror := { step := 5, todo := [], wait := [] }
     let d : Dev := { group grpMirroring Dev.reset with thr := { Dev.reset.thr with mirs := [(15, some m)] } }
     d.mirror 15 = some m ∧ m.closing = false ∧ m.todo = [] ∧ m.wait = [] ∧ d.thr.passQ = [] ∧
       d.get (Reg.GRN_GRP_STATE.STATE 15) = grpMirroring) ∧
    (let d : Dev := { Dev.reset with thr := { Dev.reset.thr with digDue := [(15, 1)] } }
     mget 0 d.thr.digDue 15 ≠ 0 ∧ d.thr.passQ = []) ∧
    (let f := dframe 4 65535 5 0 (leBytes 4 7)
     let d : Dev := { Dev.reset with fab := { Dev.reset.fab with rspQ := [f] } }
     f ∈ d.fab.rspQ ∧ mget none d.fab.txids f.txid = none) ∧
    (let f := dframe 4 65535 5 0 (leBytes 4 7)
     let r : TxRec := ⟨63, true⟩
     let d : Dev := { Dev.reset with fab := { Dev.reset.fab with rspQ := [f], txids := [(65535, some r)] } }
     f ∈ d.fab.rspQ ∧ mget none d.fab.txids f.txid = some r ∧ r.abandoned = true ∧ r.owner < 64) ∧
    (let f := dframe 4 65535 5 0 (leBytes 4 7)
     let r : TxRec := ⟨0, false⟩
     let u : DmaRun := { ring := 1, at_ := 0x1000, desc := desc 1 1 2 3, txids := [(65535, 0)] }
     let d : Dev := { dev { core0 with dma := some u } with fab := { Dev.reset.fab with rspQ := [f], txids := [(65535, some r)] } }
     f ∈ d.fab.rspQ ∧ mget none d.fab.txids f.txid = some r ∧ r.abandoned = false ∧ r.owner < 64 ∧ f.op = 4 ∧ (d.core r.owner).dma = some u ∧
       u.txids.find? (fun x => decide (x.1 = f.txid)) = some (f.txid, 0) ∧ u.code = 0 ∧ recField f.payload 0 1 ≠ 0) := by
  decide +kernel

theorem witness_ThresherPasses_reads :
    (let d : Dev := { mapped Dev.reset with thr := { Dev.reset.thr with digDue := [(15, 1)] } }
     (d.listRead 15).1 = some [] ∧ (d.digSumOf ([].map optDesc)).1 = some 0 ∧ d.memOn = true) ∧
    (let f := dframe 2 65535 5 0x5000 [1#8, 2#8, 3#8]
     let r : TxRec := ⟨0, false⟩
     let u : DmaRun := { ring := 1, at_ := 0x1000, desc := desc 1 (2 ^ 63 + 5 * 2 ^ 49 + 0x5000) 0x3000 256, txids := [(65535, 0)], next := 1 }
     let d : Dev := { dev { core0 with dma := some u } with fab := { Dev.reset.fab with rspQ := [f], txids := [(65535, some r)] } }
     f ∈ d.fab.rspQ ∧ mget none d.fab.txids f.txid = some r ∧ (d.core r.owner).dma = some u ∧ f.op = 2 ∧
       u.txids.find? (fun x => decide (x.1 = f.txid)) = some (f.txid, 0) ∧ (mget [] u.come 0 ++ f.payload).length < (d.runPiece u 0).n) := by
  decide +kernel

theorem witness_FabricTarget_read :
    (let f := dframe 1 9 5 0x5000 (leBytes 4 224)
     leNat f.payload = 224 ∧ remoteDenied f.addr = false ∧ (mapped Dev.reset).readErr f.addr 224 = none) ∧ remoteDenied hostBase = true := by
  decide +kernel

theorem witness_FabricTarget :
    (let f := dframe 0 9 5 0x1800 [1#8, 2#8]
     let d : Dev := { mapped Dev.reset with fab := { Dev.reset.fab with tgtQ := [f] } }
     d.fab.tgtQ = f :: [] ∧ remoteDenied f.addr = false ∧ d.writeErr f.addr f.payload = none ∧ d.rbtHit f.addr f.payload.length = []) ∧
    (let f := dframe 0 9 5 hostBase [1#8]
     remoteDenied f.addr = true) ∧
    (let r : TxRec := ⟨63, true⟩
     let d : Dev := { Dev.reset with fab := { Dev.reset.fab with readQ := [dframe 1 9 5 0x5000 (leBytes 4 10)], txids := [(65535, some r)] } }
     d.fab.readQ = dframe 1 9 5 0x5000 (leBytes 4 10) :: [] ∧ mget none d.fab.txids (65535#16).toNat = some r ∧ r.abandoned = true ∧
       r.owner < 64 ∧ mget none d.fab.txids (0#16).toNat = none) := by
  decide +kernel


/-! ### Links -/

/-- A field of 5 by 4 by 4 nodes by axes, in block 5, with every link used. -/
def field (d : Dev) : Dev :=
  { (((d.set Reg.FAB_GEOM 0x104104).set Reg.FAB_BLOCK_ID 5).set Reg.FAB_BLOCK_LEN 0x104104) with usedLinks := 2 ^ 24 - 1 }

/-- Link 23 in a state. -/
def link (state : Nat) (k : Link) (f : Dev → Dev := id) : Dev := f (((field Dev.reset).setLnkState 23 state).setLink 23 k)

theorem witness_LinkTraining :
    ((link lDark {}).lnkState 23 = lDark ∧ ((link lDark {}).link 23).backoff = false ∧ (link lDark {}).linkUsed 23 = true) ∧
    Dev.reset.linkUsed 23 = false ∧
    (let d := link lL2 {}
     d.lnkState 23 = lL2 ∧ d.get (Reg.LNK_CTL.PSTATE 23) ≠ 2) ∧
    (∀ x ∈ [lLight, lEqualise, lLock, lLatency], (link x {}).lnkState 23 = x ∧ lLight ≤ x ∧ x ≤ lLatency) ∧
    (let d := link lSpeak {}
     d.lnkState 23 = lSpeak ∧ min (d.get (Reg.LNK_CTL.VERMAX 23)) (3#2).toNat ≠ 0 ∧ min (d.get (Reg.LNK_CTL.VERMAX 23)) (0#2).toNat = 0) ∧
    (∀ v ∈ [1, 2], let d := link lAlign {} fun d => d.set (Reg.LNK_STATUS.VER 23) v
     let bad (m : BitVec 9) : List Nat := (d.lanes 23).filter fun i => (m ||| d.defectLanes 23).getLsbD i
     d.lnkState 23 = lAlign ∧ (bad 0).filter (· < 8) = [] ∧ (bad 0x80).filter (· < 8) = [7] ∧ (bad 0x81).filter (· < 8) = [0, 7] ∧
       3 ≤ ((bad 7).filter (· < 8)).length ∧ (v = 2 → d.get (Reg.LNK_STATUS.VER 23) = 2 ∧ 8 ∉ bad 0x81) ∧
       (v = 1 → ¬(d.get (Reg.LNK_STATUS.VER 23) = 2 ∧ 8 ∉ bad 0x81) ∧ ((bad 0x81).filter (· < 8)).length = 2)) ∧
    (let d := link lIdent {} fun d => (d.set (Reg.LNK_PEER.NODE 23) (d.linkPeer 23)).set (Reg.LNK_PEER.LINK 23) 20
     d.lnkState 23 = lIdent ∧ d.get (Reg.LNK_PEER.NODE 23) = d.linkPeer 23 ∧ d.get (Reg.LNK_PEER.LINK 23) = 3 * ((23 / 3) ^^^ 1) + 23 % 3) ∧
    (let d := link lIdent {} fun d => (d.set (Reg.LNK_PEER.NODE 23) (d.linkPeer 23)).set (Reg.LNK_PEER.LINK 23) 23
     ¬(d.get (Reg.LNK_PEER.NODE 23) = d.linkPeer 23 ∧ d.get (Reg.LNK_PEER.LINK 23) = 3 * ((23 / 3) ^^^ 1) + 23 % 3)) ∧
    ((link lLatency { downed := true } fun d => d.setBit (Reg.LNK_CTL.ADMIT 23) false).bit (Reg.LNK_CTL.ADMIT 23) = false) ∧
    (let d := link lDark { backoff := true, attempts := 2 }
     d.lnkState 23 = lDark ∧ (d.link 23).backoff = true ∧ d.linkUsed 23 = true ∧ 2 ≤ (d.link 23).attempts ∧ ({} : Link).attempts < 2) := by
  refine ⟨?_, ?_, ?_, ?_, ?_, ?_, ?_, ?_, ?_, ?_⟩ <;> decide +kernel

/-- A frame of a type that passes its check. -/
def good (typ seq : Nat) (body : List Byte := []) : Frame := ({ plainFrame typ body with ackv := false, seq := BitVec.ofNat 16 seq }).seal

/-- A frame that fails it. -/
def badFrame (typ : Nat) : Frame := { good typ 0 with crc := (good typ 0).crc + 1 }

theorem seal_ok {f : Frame} (h : f.typ.toNat ≤ 5) (hb : f.blen.toNat ≤ 224) : f.seal.ok = true := by
  simp only [Frame.ok, Frame.seal, h, hb, decide_true, Bool.true_and]
  exact decide_eq_true rfl

theorem succ_ne (x : Word) : x + 1 ≠ x := by
  intro h
  have := congrArg BitVec.toNat h
  have one : (1 : Word).toNat = 1 := rfl
  rw [BitVec.toNat_add, one] at this
  omega

theorem broken_ok (f : Frame) : ({ f.seal with crc := f.seal.crc + 1 } : Frame).ok = false := by
  have h : decide (crc32 f.covered + 1 = crc32 f.covered) = false := decide_eq_false (succ_ne _)
  have : ({ f.seal with crc := f.seal.crc + 1 } : Frame).ok =
    (decide (f.typ.toNat ≤ 5) && decide (f.blen.toNat ≤ 224) && decide (crc32 f.covered + 1 = crc32 f.covered)) := rfl
  rw [this, h, Bool.and_false]

theorem bad_ok (typ : Nat) : (badFrame typ).ok = false := broken_ok _

/-- A data frame to this node with sequence number 65535. -/
def good0 (op addr : Nat) : Frame :=
  ({ dataFrame ⟨0, 3, 5, op, 7, addr, none, none⟩ (if op = 1 then leBytes 4 10 else [1#8, 2#8]) with ackv := false, seq := 65535 }).seal

theorem witness_LinkReceive :
    ((link lUp {}).linkCarries 23 = true ∧ (good frameIdle 0).ok = true ∧ (badFrame frameIdle).ok = false ∧
      15 < [(0, 7), (8, 9)].foldl (fun a (p : Fin 9 × Nat) => a + p.2) 0 ∧
      [(0, 15)].foldl (fun a (p : Fin 9 × Nat) => a + p.2) 0 = 15) ∧
    (∀ x ∈ [frameCtrl, frameRreq, frameIdle, frameLmap, frameData], (link lUp {}).receives 23 x = true ∧ (badFrame x).typ.toNat = x) ∧
    (∀ x, (badFrame x).ok = false) ∧
    (let f := good frameCtrl 65535 [4#8, 0#8]
     let d := link lUp { expected := 65535 }
     f.ok = true ∧ d.receives 23 frameCtrl = true ∧ f.typ.toNat = frameCtrl ∧ f.ackv = false ∧ f.seq.toNat = (d.link 23).expected ∧
       ¬(recField f.body 0 1 = 2 ∧ d.get (Reg.LNK_STATUS.VER 23) = 1) ∧ 32768 ≤ (f.seq.toNat + 65536 - 32767) % 65536) ∧
    (let f := ({ plainFrame frameIdle [] with ack := 3 }).seal
     let d := link lUp { una := 65535, next := 3 }
     f.ok = true ∧ f.typ.toNat = frameIdle ∧ f.ackv = true ∧
       (f.ack.toNat + 65536 - (d.link 23).una) % 65536 ≤ ((d.link 23).next + 65536 - (d.link 23).una) % 65536) ∧
    (let f := ({ plainFrame frameRreq [] with ack := 2 }).seal
     let d := link lUp { una := 65535, next := 3 }
     f.ok = true ∧ d.receives 23 frameRreq = true ∧ f.typ.toNat = frameRreq ∧
       (f.ack.toNat + 65536 - (d.link 23).una) % 65536 ≤ ((d.link 23).next + 65536 - (d.link 23).una) % 65536 ∧
       0 < ((d.link 23).next + 65536 - f.ack.toNat) % 65536) ∧
    (∀ x ∈ [lSpeak, lLatency], lSpeak ≤ (link x {}).lnkState 23 ∧ (link x {}).lnkState 23 ≤ lLatency) ∧
    (let f := good frameLmap 0 [8, 1, 2, 3, 4, 5, 6, 9]
     let d := link lUp {}
     f.ok = true ∧ d.receives 23 frameLmap = true ∧ f.typ.toNat = frameLmap ∧ f.ackv = false ∧ (d.link 23).txMap ≠ (f.body.take 8).map BitVec.toNat) ∧
    (∀ op ∈ [0, 1, 8], let f := good0 op 0x1000;
     f.ok = true) ∧
    (∀ op ∈ [0, 1, 8], let f := good0 op 0x1000
     let d := link lUp { expected := 65535 }
     d.receives 23 frameData = true ∧ f.typ.toNat = frameData ∧ f.ackv = false ∧ f.seq.toNat = (d.link 23).expected ∧
       d.flt.fatal = none ∧ f.blk = d.get Reg.FAB_BLOCK_ID ∧ f.blk ≠ 0 ∧ f.nest = 0 ∧ d.headerOk f = true ∧ f.piste = false ∧ f.mc = false ∧
       f.dst = d.node ∧ f.op = op) := by
  refine ⟨⟨?_, seal_ok (by decide) (by decide), bad_ok _, ?_⟩, ?_, bad_ok, ⟨seal_ok ?_ ?_, ?_⟩, ⟨seal_ok ?_ ?_, ?_⟩, ⟨seal_ok ?_ ?_, ?_⟩, ?_,
    ⟨seal_ok ?_ ?_, ?_⟩, ?_, ?_⟩
  all_goals first
    | (intro op h
       simp only [List.mem_cons, List.not_mem_nil, or_false] at h
       rcases h with rfl | rfl | rfl <;> exact seal_ok (by decide +kernel) (by decide +kernel))
    | decide +kernel


/-- A link that sends frames with no replay under way and room in its window, as a premise of sending. -/
def fresh (d : Dev) : Prop :=
  d.linkSends 23 = true ∧ d.flt.fatal = none ∧ (d.link 23).resendFrame = none ∧ ((d.link 23).next + 65536 - (d.link 23).una) % 65536 < 8192

/-- A link that owes nothing that goes first. -/
def calm (d : Dev) : Prop := fresh d ∧ d.reservedTx 23 = none ∧ (d.link 23).rreqOwed = false ∧ (d.link 23).lmapOwed = 0

/-- Piste 511 leaves on link 23 at slot position 3, from this module. -/
def pisted (d : Dev) : Dev :=
  ((d.setBit (Reg.PST_CTL.EN 511) true).set (Reg.PST_CTL.OUT_LINK 511) 23).set64 (Reg.PST_SLOTS_LO 511) 8

theorem witness_LinkSend :
    (let d := link lUp { una := 65535, next := 65535, ctl := [[4#8, 0#8]] }
     calm d ∧ (d.link 23).ctl = [4#8, 0#8] :: []) ∧
    (let d := link lL1 { ackOwed := true }
     calm d ∧ (d.link 23).ctl = [] ∧ (d.link 23).txq = [] ∧ (d.link 23).ackOwed = true) ∧
    (let t : TxItem := { f := dframe 0 7 3 0x1000 [1#8, 2#8] }
     let d := link lUp { txq := [t], credits := [(0, 1)] }
     calm d ∧ (d.link 23).ctl = [] ∧ d.sendState 23 = lUp ∧ (d.link 23).txq = [t] ∧
       t.f.typ.toNat = frameData ∧ t.hold = none ∧ 0 < mget 0 (d.link 23).credits t.f.vc.toNat) ∧
    (let t : TxItem := { f := dataFrame { dst := 0, src := 7, blk := 5, op := 0, txid := 9, addr := 0x1000, piste := some 511 } [1#8] }
     let d := link lHold { txq := [t], credits := [(0, 1), (2, 1)], pos := 3, heldFrom := lUp } pisted
     fresh d ∧ d.sendState 23 = lUp ∧ d.reservedTx 23 = some (t, []) ∧ t.f.typ.toNat = frameData ∧ t.hold = none) ∧
    (let d := link lUp { rreqOwed := true, lmapOwed := 4 }
     fresh d ∧ d.sendState 23 = lUp ∧ d.reservedTx 23 = none ∧ (d.link 23).rreqOwed = true ∧ 0 < (d.link 23).lmapOwed ∧
       ((link lUp { lmapOwed := 1 }).link 23).rreqOwed = false) ∧
    (let d : Dev := { link lUp { txq := [{ f := dframe 0 7 3 0x1000 [1#8] }] } with flt := { Dev.reset.flt with fatal := some (5, 0) } }
     d.linkSends 23 = true ∧ d.flt.fatal.isSome = true) ∧
    (let g := plainFrame frameCtrl [4#8, 0#8]
     let d := link lUp { una := 65535, next := 0, replay := [g], resend := some 65535 }
     d.linkSends 23 = true ∧ d.flt.fatal = none ∧ (d.link 23).resendFrame = some (65535, g) ∧ d.sendState 23 = lUp ∧ g.typ.toNat = frameCtrl ∧
       (d.link 23).una ≠ (d.link 23).next) ∧
    ((link lUp {}).linkSends 23 = true ∧ ((link lUp {}).link 23).una = ((link lUp {}).link 23).next) ∧
    (let d := link lUp {} fun d => d.set (Reg.LNK_CTL.PSTATE 23) 1
     d.lnkState 23 = lUp ∧ d.get (Reg.LNK_CTL.PSTATE 23) = 1 ∧ (d.link 23).txq = [] ∧ (d.link 23).resend = none) ∧
    ((link lL1 {}).lnkState 23 = lL1 ∧ ((link lUp { maps := [[8, 1, 2, 3, 4, 5, 6, 7]] }).link 23).maps ≠ [] ∧ (link lUp {}).lnkState 23 ≠ lHold) ∧
    (∀ x ∈ [0, 1], let f := plainFrame frameCtrl [4#8, BitVec.ofNat 8 x]
     let d := link lUp {} fun d => { d.set (Reg.LNK_CTL.PSTATE 23) 2 with fab := { d.fab with ctlQ := [(23, f)] } }
     (23, f) ∈ d.fab.ctlQ ∧ recField f.body 0 1 = 4 ∧ recField f.body 1 1 = x ∧ d.get (Reg.LNK_CTL.PSTATE 23) = 2 ∧ d.linkSends 23 = true ∧
       (link lUp {}).get (Reg.LNK_CTL.PSTATE 23) ≠ 2) := by
  unfold calm fresh
  refine ⟨?_, ?_, ?_, ?_, ?_, ?_, ?_, ?_, ?_, ?_, ?_⟩ <;> decide +kernel

theorem witness_LinkLanes :
    (∀ st ∈ [lUp, lUpHeld], let d := link st {}
     d.lnkState 23 = st ∧ 3 ≤ ((d.link 23).inService (0x83#9).toNat).length ∧ ((d.link 23).inService (0x181#9).toNat).length < 3) ∧
    (let d := link lUp {} fun d => d.set (Reg.LNK_STATUS.VER 23) 2
     let m := (d.link 23).lastMap
     d.lnkState 23 = lUp ∧ (d.get (Reg.LNK_STATUS.LOST 23)).testBit 7 = false ∧ 7 ∈ m ∧
       d.get (Reg.LNK_STATUS.VER 23) = 2 ∧ 8 ∉ m ∧ (d.get (Reg.LNK_STATUS.LOST 23)).testBit 8 = false) ∧
    (let d := link lUpHeld {} fun d => d.set (Reg.LNK_STATUS.VER 23) 1
     d.lnkState 23 = lUpHeld ∧ 0 ∈ (d.link 23).lastMap ∧ d.get (Reg.LNK_STATUS.VER 23) ≠ 2 ∧ 9 ∉ (d.link 23).lastMap) ∧
    (let d := link lUp { maps := [[8, 1, 2, 9, 4, 5, 6, 7]] } fun d => (d.set (Reg.LNK_STATUS.VER 23) 2).set (Reg.LNK_STATUS.LOST 23) 1
     let m := (d.link 23).lastMap
     d.lnkState 23 = lUp ∧ (d.get (Reg.LNK_STATUS.LOST 23)).testBit 8 = false ∧ 8 ∈ m ∧ 9 ∈ m ∧ 3 ∉ m ∧
       (d.get (Reg.LNK_STATUS.LOST 23)).testBit 3 = false ∧ (d.get (Reg.LNK_STATUS.LOST 23)).testBit 0 = true) ∧
    (∀ x ∈ [([], 3), ([7#8], 2), (List.replicate 255 7#8, 1)], let d := link lHold { heldFrom := lUp, part := x.1 }
     d.lnkState 23 = lHold ∧ ((d.link 23).inService (3#9).toNat).length < 3 ∧ 3 ≤ ((d.link 23).inService (7#9).toNat).length ∧
       (d.link 23).part = x.1 ∧ (x.2 = 2 → (x.1 ++ [9#8]).length < 256) ∧
       (x.2 = 1 → (x.1 ++ [9#8]).length = 256 ∧ (d.link 23).heldFrom = lUp ∧ (Frame.ofBytes (x.1 ++ [9#8])).ok = false)) ∧
    (let k : Link := { maps := [[8, 1, 2, 3, 4, 5, 6, 7], [8, 9, 2, 3, 4, 5, 6, 7]] }
     k.maps.drop 1 = [8, 9, 2, 3, 4, 5, 6, 7] :: [] ∧ k.maps.drop 2 = []) ∧
    ((link lUp {}).linkCarries 23 = true ∧ (14#16).toNat < 15) := by
  refine ⟨?_, ?_, ?_, ?_, ?_, ?_, ?_⟩ <;> decide +kernel

/-! ### Collective operations -/

/-- A block of four nodes along the first axis, a group of them as communicator 1, and pool 0 with three buffers. -/
def coll (d : Dev) : Dev :=
  let d := (((d.set Reg.FAB_GEOM 0x041044).set Reg.FAB_BLOCK_ID 5).set Reg.FAB_BLOCK_LEN 0x041044).set (Reg.GRN_IAT.MODE 0) 1
  let d := (List.range 6).foldl (fun d l => d.setLnkState l lUp) d
  let d := (d.set (Reg.COL_COMM_CTL.KIND 1) 1).set (Reg.COL_COMM_MASK_0 1) 0xF
  d.set (Reg.COL_POOL_CFG.COUNT 0) 3

/-- A script entry from its fields. -/
def ent (kind comm fmt src dst cnt arg aux : Nat) (launch : Nat := noInstant) : List Byte :=
  bytes 64 [(0, 1, kind), (1, 1, comm), (4, 4, fmt), (8, 8, launch), (0x10, 8, src), (0x18, 8, dst), (0x20, 8, cnt), (0x2A, 2, arg), (0x30, 8, 5),
    (0x38, 8, aux)]

/-- A launched entry. -/
def entry0 : ColEntry := { idx := 0, raw := ent 1 1 0 0x1000 0x3000 4096 0 0, seq := 3, steps := [] }

/-- What waits to be sent for it. -/
def rec0 : ColRec := { node := 1, src := 0x1000, addr := 0x2000, len := 40, op := 9, piste := none, mc := none, zero := false }

theorem witness_StagingPools :
    (let d := coll Dev.reset
     0 < d.get (Reg.COL_POOL_CFG.COUNT 0) ∧ 0 ∉ (d.pool 0).used ∧ (∀ j, j < 0 → ¬(j < d.get (Reg.COL_POOL_CFG.COUNT 0) ∧ j ∉ (d.pool 0).used)) ∧
       (65535#16).toNat ∉ (d.pool 0).used) ∧
    (∀ b, ¬(b < Dev.reset.get (Reg.COL_POOL_CFG.COUNT 15) ∧ b ∉ (Dev.reset.pool 15).used)) ∧
    (let d := (coll Dev.reset).setPool 15 { used := [0, 65535] }
     (65535#16).toNat ∈ (d.pool 15).used ∧ (d.pool 15).waiting = []) ∧
    (let d : Dev := { coll Dev.reset with col := { Dev.reset.col with bufs := [(511, 4, some 3)], pools := [(0, { used := [511] })] } }
     (∃ x ∈ d.col.bufs, x.1 = (511#9).toNat) ∧ (∀ l, l < 24 → ∀ t ∈ (d.link l).txq, t.buf ≠ some (0, 511)) ∧ (d.pool 0).waiting = []) ∧
    (let d : Dev := { coll Dev.reset with col := { Dev.reset.col with entry := some entry0, sendq := [rec0], bufs := [(511, 4, none)], pools := [(0, { used := [511], waiting := [1, 5] })], last := 3 } }
     let l := ((d.recLane entry0.raw entry0.seq rec0).getD (0, none)).1
     let d := d.setPool 0 { used := [511], waiting := [(l + 1) % 24, l] }
     let asks := (d.pool 0).waiting.filter (Dev.wantsBuf { d with col := { d.col with bufs := d.col.bufs.filter fun x => decide (x.1 ≠ 511) } })
     (∃ x ∈ d.col.bufs, x.1 = (511#9).toNat) ∧ (∀ l, l < 24 → ∀ t ∈ (d.link l).txq, t.buf ≠ some (0, 511)) ∧ rotate d.col.last asks = l :: []) ∧
    (let t : TxItem := { f := dframe 0 7 3 0x1000 [1#8, 2#8], buf := some (0, 511) }
     t ∈ ((coll Dev.reset).setLink 23 { txq := [t] } |>.link 23).txq ∧ t.buf = some (0, 511)) := by
  refine ⟨?_, ?_, ?_, ?_, ?_, ?_⟩
  · refine ⟨?_, ?_, ?_, ?_⟩ <;> decide +kernel
  · have h : Dev.reset.get (Reg.COL_POOL_CFG.COUNT 15) = 0 := by decide +kernel
    intro b hb; rw [h] at hb; exact absurd hb.1 (Nat.not_lt_zero b)
  all_goals decide +kernel

theorem witness_StagingPools_grant :
    (let d : Dev := { coll Dev.reset with col := { Dev.reset.col with entry := some entry0, sendq := [rec0] } }
     let l := ((d.recLane entry0.raw entry0.seq rec0).getD (0, none)).1
     l < 24 ∧ d.wantsBuf l = true ∧ d.col.entry = some entry0 ∧ d.col.sendq = [rec0] ∧ d.recLane entry0.raw entry0.seq rec0 = some (l, none) ∧
       rec0.len ≤ 2 ^ d.get (Reg.COL_POOL_CFG.SIZE_LOG2 0) ∧ rec0.zero = false ∧ d.readErr rec0.src rec0.len = none ∧ d.freeBuf 0 = some 0 ∧
       d.writeErr (d.bufAddr 0 0) (d.rdBytes rec0.src rec0.len) = none ∧ d.rbtHit (d.bufAddr 0 0) rec0.len = []) ∧
    (let d : Dev := { coll Dev.reset with col := { Dev.reset.col with entry := some entry0, sendq := [rec0], pools := [(0, { used := [0, 1, 2] })] } }
     let l := ((d.recLane entry0.raw entry0.seq rec0).getD (0, none)).1
     d.wantsBuf l = true ∧ d.freeBuf 0 = none ∧ l ∉ (d.pool 0).waiting) ∧ (15 : Fin 16) ≠ 0 ∧
    (0#16 = 0 ∧ (65535#16) ≠ 0 ∧ (coll Dev.reset).pwr.held = false ∧ (coll Dev.reset).get Reg.PWR_STATUS.STATE < 3) := by
  decide +kernel


/-- A count record from its source, communicator, step, sequence number and bytes. -/
def countFrame (op src comm step seq n : Nat) : Frame :=
  dataFrame ⟨0, src, 5, op, comm + 64 * (seq % 1024), 0, none, none⟩
    (leBytes 1 comm ++ leBytes 1 step ++ leBytes 2 0 ++ leBytes 4 seq ++ leBytes 8 n ++ leBytes 16 0)

/-- A data record from its source, sequence number, address and bytes, of communicator 1. -/
def recordFrame (op src seq addr : Nat) (bs : List Byte) : Frame := dataFrame ⟨0, src, 5, op, 1 + 64 * seq, addr, none, none⟩ bs

/-- What a step owes to and expects of a node. -/
def peer (n b : Nat) : ColPeer := ⟨n, b, [(0x1000, 0x1000, b)], 1⟩

/-- The launched entry in its first step, with its counts exchanged. -/
def entry1 : ColEntry := { entry0 with steps := [{ num := 0, peers := [peer 1 100] }, { num := 1, peers := [peer 2 50] }], counted := true, placed := true }

/-- A script of two entries, with machine time, the fabric's queue and the launched entry. -/
def colState (en : Option ColEntry) (f : Frame) (held : List Frame) : Dev :=
  let d := ((((coll Dev.reset).setBit Reg.COL_CTL.EN true).set Reg.COL_SCRIPT_LEN 2).set Reg.COL_SCRIPT_BASE_LO 0x8000).wrBytes 0x8000
    (ent 1 1 0 0x1000 0x3000 4096 0 0)
  let d := d.wrBytes 0x8040 (ent 1 1 0 0x1000 0x3000 4096 0 0)
  { d with mt := 12345, fab := { d.fab with colQ := [f] }, col := { d.col with entry := en, seqs := [(1, 3)], held := held } }

theorem witness_CollectiveRecords_stopped :
    ∀ op ∈ [8, 9, 10, 11], let f := countFrame op 1 1 0 3 60
      let d := (colState none f []).setBit Reg.COL_STATUS.STOPPED true
      f ∈ d.fab.colQ ∧ d.bit Reg.COL_STATUS.STOPPED = true ∧ f.op = op := by decide +kernel

theorem witness_CollectiveRecords_count :
    (let f := countFrame 8 1 1 0 3 60
     let d := colState (some entry1) f []
     let st : ColStep := { num := 0, peers := [peer 1 100] }
     let c : ColCount := ⟨f.src, crStep f.payload, crFlags f.payload, crBytes f.payload, recField f.payload 0x14 2, []⟩
     f ∈ d.fab.colQ ∧ d.bit Reg.COL_STATUS.STOPPED = false ∧ f.op = 8 ∧ d.col.entry = some entry1 ∧ eComm entry1.raw = recField f.payload 0 1 ∧
       entry1.seq = crSeq f.payload ∧ st ∈ entry1.steps ∧ st.num = crStep f.payload ∧ (∃ p ∈ st.peers, p.node = f.src) ∧
       eGrid entry1.raw = false ∧ eKind entry1.raw ≠ 6 ∧ entry1.placed = true ∧ entry1.counted = true ∧ entry1.unsent = [] ∧
       ColEntry.overrun { entry1 with counts := entry1.counts ++ [c] } f.src = false) ∧
    (let f := countFrame 8 5 1 0 4 60
     let d := colState none f (List.replicate 63 f)
     f ∈ d.fab.colQ ∧ f.op = 8 ∧ d.bit Reg.COL_STATUS.STOPPED = false ∧ d.isCurrent (recField f.payload 0 1) (crSeq f.payload) = false ∧
       (d.laterSeqs (recField f.payload 0 1)).contains (crSeq f.payload) = true ∧ d.col.held.length < 64 ∧ d.col.entry = none) ∧
    (let f := countFrame 8 1 1 0 4 60
     let d := colState (some entry1) f []
     d.isCurrent (recField f.payload 0 1) (crSeq f.payload) = false ∧ (d.laterSeqs (recField f.payload 0 1)).contains (crSeq f.payload) = true ∧
       entry1.owes f.src = true) ∧
    (let f := countFrame 8 1 1 0 77 60
     let d := colState (some entry1) f []
     d.isCurrent (recField f.payload 0 1) (crSeq f.payload) = false ∧ (d.laterSeqs (recField f.payload 0 1)).contains (crSeq f.payload) = false ∧
       seqPast (mget 0 d.col.seqs (recField f.payload 0 1)) (crSeq f.payload) 32 = false) := by
  refine ⟨?_, ?_, ?_, ?_⟩ <;> decide +kernel

/-- Buffer 7 holds grid sums of an open group, 64 of them from 0x4000 on. -/
def gridBuf (d : Dev) : Dev :=
  ((((d.set (Reg.GRN_RBT_BASE 7) 4).set (Reg.GRN_RBT_LEN 7) 64).set (Reg.GRN_RBT_CTL.FMT 7) 13).setBit (Reg.GRN_RBT_CTL.EN 7) true).set
    (Reg.GRN_GRP_STATE.STATE 0) grpOpen

theorem witness_CollectiveRecords_data :
    (∀ x ∈ [(9, 0x2000), (10, 0x4008)], let f := recordFrame x.1 1 3 x.2 (leBytes 8 77)
     let d := gridBuf (colState (some entry1) f [])
     let en' : ColEntry := { entry1 with rx := mset 0 entry1.rx f.src (entry1.got f.src + f.plen) }
     f ∈ d.fab.colQ ∧ d.bit Reg.COL_STATUS.STOPPED = false ∧ f.op = x.1 ∧ d.col.entry = some entry1 ∧ eComm entry1.raw = f.txid % 64 ∧
       entry1.seq % 1024 = f.txid / 64 % 1024 ∧ (∃ st ∈ entry1.steps, ∃ p ∈ st.peers, p.node = f.src) ∧ en'.overrun f.src = false) ∧
    (let f := recordFrame 9 1 3 0x2000 (leBytes 8 77)
     let d := gridBuf (colState (some entry1) f [])
     entry1.placed = true ∧ eKind entry1.raw ≠ 4 ∧ remoteDenied f.addr = false ∧ d.writeErr f.addr f.payload = none ∧
       d.rbtHit f.addr f.payload.length = []) ∧
    (let f := recordFrame 10 1 3 0x4008 (leBytes 8 77)
     let d := gridBuf (colState (some entry1) f [])
     d.gridBuffer f.addr = some 7 ∧ (f.addr - d.rbtLo 7) % 8 = 0 ∧ f.payload.length = 8 ∧ f.addr + 8 ≤ d.rbtHi 7 ∧ d.rbtTakes 7 = true ∧
       d.firstBad f.addr 8 = none ∧ (∀ x ∈ d.accq, x.rbt ≠ 7)) ∧
    (let f := countFrame 11 1 1 0 3 0
     let d := colState (some entry1) f []
     f ∈ d.fab.colQ ∧ f.op = 11 ∧ d.isCurrent (recField f.payload 0 1) (crSeq f.payload) = true) ∧
    (let f := countFrame 11 1 1 0 77 0
     let d := colState (some entry1) f [countFrame 8 5 1 0 4 60]
     d.isCurrent (recField f.payload 0 1) (crSeq f.payload) = false ∧
       ∀ h ∈ d.col.held, ¬(recField h.payload 0 1 = recField f.payload 0 1 ∧ crSeq h.payload = crSeq f.payload)) := by
  refine ⟨?_, ?_, ?_, ?_, ?_⟩ <;> decide +kernel

/-- The script's first entry replaced, with cores 0 and 2 waiting for it. -/
def ready1 (raw : List Byte) (readyAt : Nat) : Dev :=
  let d := (colState none (recordFrame 9 1 3 0 []) []).wrBytes 0x8000 raw
  let d := (d.modCore 0 fun k => { k with colgo := [0] }).modCore 2 fun k => { k with colgo := [0] }
  { d with mt := 2 ^ 32, col := { d.col with readyAt := readyAt } }

/-- The plan that the schedule of the next entry has. -/
def planOf (d : Dev) : Option ColPlan :=
  let raw := d.entryRaw d.entryIdx
  (d.launchReads raw).1.bind fun p => (d.schedule raw p.1 p.2).map Prod.fst

/-- What every launch needs but its instant. -/
def launchable (d : Dev) : Prop :=
  d.colReady = true ∧ d.readErr (d.entryAddr d.entryIdx) 64 = none ∧ (planOf d).isSome = true ∧ d.col.held = []

theorem witness_CollectiveScript_launch :
    Dev.reset.colReady = false ∧
    (∀ x ∈ [2 ^ 32, 2 ^ 32 + 1], let d := ready1 (ent 1 1 0 0x1000 0x3000 100 0 0 x) 0
     launchable d ∧ d.entryInstant (d.entryRaw d.entryIdx) = some (roundTarget x) ∧ (x = 2 ^ 32 → roundTarget x ≤ d.mt) ∧
       (x = 2 ^ 32 + 1 → d.mt < roundTarget x)) ∧
    (∀ x ∈ [1, 5], let d := ready1 (ent x 1 0 0x1000 0x3000 100 0 0) 0
     launchable d ∧ d.entryInstant (d.entryRaw d.entryIdx) = none ∧ (planOf d).map ColPlan.kind = some x) ∧
    (let d := ready1 (ent 9 1 0 0 0 0 0 0) 0
     d.colReady = true ∧ d.readErr (d.entryAddr d.entryIdx) 64 = none ∧ d.entryInstant (d.entryRaw d.entryIdx) = none ∧
       (d.launchReads (d.entryRaw d.entryIdx)).1 = some (0, []) ∧ d.schedule (d.entryRaw d.entryIdx) 0 [] = none ∧
       ((d.setBit Reg.MTC_DETERMINISM.EARLY true).bit Reg.MTC_DETERMINISM.EARLY = true)) ∧
    (let d := ready1 (ent 2 1 0 0x1000 0x3000 40 0 0) 0
     launchable d ∧ (planOf d).all (fun p => let c := p.chunkAt (axesRank p.axes)
       decide (p.kind = 2) && decide (d.readErr p.src c.2 = none) && decide (d.writeErr (p.dst + c.1) (d.rdBytes p.src c.2) = none) &&
         decide (d.rbtHit (p.dst + c.1) c.2 = [])) = true) ∧
    (let d := ready1 (ent 3 1 0 0x1000 0x3000 100 2 0) 0
     launchable d ∧ (planOf d).all (fun p => decide (p.kind = 3) && decide (axesRank p.axes ≠ 2)) = true) ∧
    (let d := ready1 (ent 1 1 0 0x1000 0x3000 100 0 0 100) (2 ^ 31)
     launchable d ∧ d.col.readyAt ≠ 0 ∧ (d.entryInstant (d.entryRaw d.entryIdx)).all (fun t => decide (t < d.col.readyAt - 1)) = true ∧
       (planOf d).map ColPlan.kind = some 1) := by
  unfold launchable
  refine ⟨?_, ?_, ?_, ?_, ?_, ?_, ?_⟩ <;> decide +kernel


theorem witness_CollectiveScript_steps :
    (let en : ColEntry := { entry1 with counts := [⟨1, 0, 0, 30, 0, []⟩], rx := [(1, 30)], queued := [1] }
     let st : ColStep := { num := 0, peers := [peer 1 100] }
     (colState (some en) (recordFrame 9 1 3 0 []) []).col.entry = some en ∧ en.steps = st :: [{ num := 1, peers := [peer 2 50] }] ∧
       en.counted = true ∧ en.unsent = [] ∧ en.stepDone st = true ∧ (∀ p ∈ st.peers, en.queued.contains p.node = true)) ∧
    (let en : ColEntry := { entry1 with counts := [⟨1, 0, 0, 30, 0, []⟩], rx := [(1, 29)], queued := [1] }
     en.stepDone { num := 0, peers := [peer 1 100] } = false) ∧
    (∀ x ∈ [0, 1], let en : ColEntry := { entry0 with idx := x }
     let d := colState (some en) (recordFrame 9 1 3 0 []) []
     d.col.entry = some en ∧ en.steps = [] ∧ en.unsent = [] ∧ d.col.sendq = [] ∧ d.col.bufs = [] ∧ eKind en.raw ≠ 6 ∧ eKind en.raw ≠ 7 ∧
       (d.get Reg.COL_SCRIPT_LEN ≤ en.idx + 1 ↔ x = 1)) ∧
    (let en : ColEntry := { entry0 with raw := ent 6 1 0 0 0 0 4 99, decided := true }
     eKind en.raw = 6 ∧ en.decided = true) ∧
    entry1.steps ≠ [] ∧
    (let d := (colState (some entry1) (recordFrame 9 1 3 0 []) []).set Reg.COL_WAIT_LIMIT 3
     d.get Reg.COL_WAIT_LIMIT ≠ 0 ∧ d.col.lastAt + d.get Reg.COL_WAIT_LIMIT * ticksPerUs ≤ d.mt) ∧
    (Dev.reset.set Reg.COL_WAIT_LIMIT 0).get Reg.COL_WAIT_LIMIT = 0 ∧
    (let en : ColEntry := { entry0 with raw := ent 7 0 0 0 0x5000 0 0 0, sums := [1, 2, 3] }
     let d := colState (some en) (recordFrame 9 1 3 0 []) []
     eKind en.raw = 7 ∧ en.steps = [] ∧ en.audited = false ∧ d.writeErr (eDst en.raw) (d.auditRecord en) = none ∧
       d.rbtHit (eDst en.raw) (d.auditRecord en).length = []) := by
  refine ⟨?_, ?_, ?_, ?_, ?_, ?_, ?_, ?_⟩ <;> decide +kernel

/-! ### Machine time -/

/-- A time frame from its sync bit, its root's rank, its hops, its root and its stamp. -/
def timeFrame (sync sel hops root stamp : Nat) : Frame :=
  plainFrame frameCtrl (leBytes 1 2 ++ leBytes 1 (sync + 2 * sel) ++ leBytes 1 hops ++ leBytes 1 0 ++ leBytes 2 root ++ leBytes 2 0 ++ leBytes 8 stamp)

/-- A module whose machine time runs, with links 0 and 23 up and a time frame on 23. -/
def timed (root : Bool) (parent : Option Nat) (frames : SMap (Option TimeInfo)) (f : Frame) : Dev :=
  let d := [0, 23].foldl (fun d l => (d.setLnkState l lUp).set (Reg.LNK_STATUS.VER l) 2) (field Dev.reset)
  let d := (d.setBit Reg.MTC_STATUS.ROOT root).set Reg.MTC_ROOT.ROOT0 9
  { d with mt := 2000, fab := { d.fab with timeQ := [(23, 1990, f)] }, time := { d.time with started := true, frames := frames, parent := parent } }

theorem witness_MachineTime :
    (let f := timeFrame 1 0 63 9 0
     let steer (off : Nat) (f : TimeUnit → TimeUnit) : Dev :=
       let d := (timed false none [] (timeFrame 1 0 63 9 0)).set Reg.MTC_OFFSET off
       { d with time := f d.time }
     (∀ x ∈ [(0, 15), (0, 17), (2 ^ 32 - 1, 15), (1, 17)], let d := steer x.1 fun u => { u with sampled := true }
       d.time.started = true ∧ d.time.sampled = true ∧ d.node ≠ d.get Reg.MTC_ROOT.ROOT0 ∧ 624 ≤ d.time.steady ∧
         (x.2 = 15 → bitsInt 32 (d.get Reg.MTC_OFFSET) ≤ 0) ∧ (x.2 = 17 → 0 ≤ bitsInt 32 (d.get Reg.MTC_OFFSET))) ∧
     ¬(bitsInt 32 ((steer (2 ^ 32 - 1) id).get Reg.MTC_OFFSET) ≥ 0) ∧
     (steer 0 fun u => { u with steady := 623 }).time.steady < 624 ∧ (timed false none [] f).time.started = true ∧ Dev.reset.time.started = false) ∧
    (let f := timeFrame 1 0 63 9 0
     let d := timed true none [] f
     d.fab.timeQ.find? (fun p => decide (p.1 = 23) && decide (p.2.2 = f)) = some (23, 1990, f) ∧ d.time.started = true ∧
       d.get (Reg.LNK_STATUS.VER 23) = 2 ∧ d.isRoot = true) ∧
    (∀ p ∈ [some 23, none], let f := timeFrame 1 0 63 9 0
     let d := timed false p [] f
     let i : TimeInfo := ⟨1990, (recField f.body 1 1).testBit 0, recField f.body 1 1 / 2 % 2, recField f.body 2 1, recField f.body 4 2⟩
     let d1 : Dev := { d with time := { d.time with frames := mset none d.time.frames 23 (some i) } }
     d.isRoot = false ∧ d1.candidate 23 = true ∧ d.time.parent = p ∧ (∀ j, j < 24 → j ≠ 23 → d1.candidate j = false) ∧ d.time.sampled = false) ∧
    (let f := timeFrame 1 0 63 9 0
     let i : TimeInfo := ⟨1000, true, 0, 3, 9⟩
     let d := timed false (some 0) [(0, some i), (23, some i)] f
     d.isRoot = false ∧ d.time.parent = some 0 ∧ d.candidate 0 = true) ∧
    (let i : TimeInfo := ⟨1000, true, 0, 3, 9⟩
     let d := timed false (some 0) [(0, some { i with sel := 1 }), (23, some i)] (timeFrame 1 0 63 9 0)
     let old := timed false (some 0) [(23, some i)] (timeFrame 1 0 63 9 0)
     d.time.parent = some 0 ∧ d.bestCandidate = some 23 ∧ d.timeInfo 23 = some i ∧ d.isRoot = false ∧ 23 ≠ 0 ∧ d.timeRank 23 < d.timeRank 0 ∧
       old.bestCandidate = some 23 ∧ old.candidate 0 = false) ∧
    (timed false none [] (timeFrame 1 0 63 9 0)).time.parent = none := by
  refine ⟨?_, ?_, ?_, ?_, ?_, ?_⟩ <;> decide +kernel

theorem witness_TimeLoss :
    (let d := timed false (some 23) [] (timeFrame 1 0 63 9 0)
     d.time.parent ≠ none ∧ d.isRoot = false ∧ mget 0 d.flt.rate Flt.MTC_OFFSET = 0 ∧ d.flt.pend.length < 32 ∧ d.warnDue 0 Flt.MTC_OFFSET = true) ∧
    (∀ x ∈ [4000, 4001, 2 ^ 32 - 4000, 2 ^ 32 - 4001], let ps := bitsInt 32 ((Dev.reset.set Reg.MTC_OFFSET x).get Reg.MTC_OFFSET)
     (-4000 ≤ ps ∧ ps ≤ 4000) ↔ (x = 4000 ∨ x = 2 ^ 32 - 4000)) ∧
    ({ timed false (some 23) [] (timeFrame 1 0 63 9 0) with flt := { Dev.reset.flt with rate := [(Flt.MTC_OFFSET, 1)] } } : Dev).warnDue 0 Flt.MTC_OFFSET =
      false ∧
    ((timed false none [] (timeFrame 1 0 63 9 0)).time.parent = none ∧ (timed true none [] (timeFrame 1 0 63 9 0)).isRoot = true) ∧
    (let d := timed false (some 23) [(23, some ⟨1000, true, 0, 3, 9⟩)] (timeFrame 1 0 63 9 0)
     let d : Dev := { d with mt := 2 ^ 32 }
     d.time.started = true ∧ d.isRoot = false ∧ d.bestCandidate = none ∧ d.bit Reg.MTC_STATUS.HOLD = false) ∧
    (∀ x ∈ [0, 1], let d := ((timed false none [] (timeFrame 1 0 63 9 0)).setBit Reg.MTC_STATUS.HOLD true).setBit Reg.MTC_STATUS.SYNC true
     let d := { d.set Reg.MTC_CFG.HOLD_LIMIT_US 1 with mt := ticksPerUs - x }
     d.bit Reg.MTC_STATUS.HOLD = true ∧ d.bestCandidate = none ∧ d.bit Reg.MTC_STATUS.SYNC = true ∧ d.time.limitPast = false ∧
       (x = 0 → d.time.holdAt + d.get Reg.MTC_CFG.HOLD_LIMIT_US * ticksPerUs ≤ d.mt) ∧
       (x = 1 → d.mt < d.time.holdAt + d.get Reg.MTC_CFG.HOLD_LIMIT_US * ticksPerUs)) ∧
    (let d := (timed false none [] (timeFrame 1 0 63 9 0)).set Reg.MTC_ROOT.ROOT0 9
     d.isStandby = true ∧ d.time.started = true ∧ d.isRoot = false ∧ d.primarySeen = false) ∧
    (let d := (timed true none [(23, some ⟨1000, true, 0, 3, 9⟩)] (timeFrame 1 0 63 9 0)).set Reg.MTC_ROOT.ROOT0 9
     d.isStandby = true ∧ d.isRoot = true ∧ d.primarySeen = true ∧ d.bestCandidate = some 23 ∧ d.timeInfo 23 = some ⟨1000, true, 0, 3, 9⟩) ∧
    (let d := timed false none [(23, some ⟨1000, true, 0, 3, 9⟩)] (timeFrame 1 0 63 9 0)
     d.primarySeen = true ∧ d.isRoot = false) := by
  refine ⟨?_, ?_, ?_, ?_, ?_, ?_, ?_, ?_, ?_⟩ <;> decide +kernel


/-! ### Heartbeats, notices and the round -/

/-- A heartbeat with its state. -/
def beat (state : Nat) : Frame :=
  plainFrame frameCtrl (leBytes 1 1 ++ leBytes 1 state ++ leBytes 1 2 ++ leBytes 1 0 ++ leBytes 2 3 ++ leBytes 2 5 ++ leBytes 8 77)

/-- A notice's frame from its kind, block, stamp and round. -/
def noteFrame (kind blk stamp round : Nat) : Frame :=
  plainFrame frameCtrl (leBytes 1 3 ++ leBytes 1 kind ++ leBytes 2 0 ++ leBytes 2 3 ++ leBytes 2 blk ++ leBytes 8 stamp ++ leBytes 4 round ++ leBytes 2 0x55)

/-- Link 23 up, with a frame waiting. -/
def heard (f : Frame) (k : Link := {}) : Dev :=
  let d := link lUp k
  { d with mt := 2 ^ 40, fab := { d.fab with ctlQ := [(23, f)] } }

theorem witness_HeartbeatsAndNotices :
    (∀ x ∈ [0, 3], (23, beat x) ∈ (heard (beat x)).fab.ctlQ ∧ recField (beat x).body 0 1 = 1 ∧
      ¬(recField (beat x).body 1 1 = 1 ∨ recField (beat x).body 1 1 = 2)) ∧
    (∀ x ∈ [1, 2], let d := heard (beat x)
     (recField (beat x).body 1 1 = 1 ∨ recField (beat x).body 1 1 = 2) ∧ d.inBlock d.node = true ∧ d.inBlock (d.linkPeer 23) = true ∧
       d.linkPeer 23 ≠ d.node ∧ d.get Reg.FLT_STATUS.HL = hlIdle ∧ d.hl.notices = [] ∧ d.hl.tmin = none ∧
       d.get Reg.FLT_HL_CFG.WINDOW_US ≠ 0) ∧
    (let d := heard (beat 0) { hbAt := 2 ^ 40 }
     d.silent 23 = false ∧ d.linkCarries 23 = true) ∧
    (let d := (heard (beat 0)).modLink 23 fun k => { k with hbAt := 1 }
     let d := (d.setLnkState 21 lDown).setLnkState 22 lDown
     d.silent 23 = true ∧ (∀ j ∈ d.linksTo (d.linkPeer 23), d.lnkState j = lDown ∨ d.silent j = true) ∧ d.inBlock (d.linkPeer 23) = true) ∧
    (let d := (heard (beat 0)).modLink 23 fun k => { k with hbAt := 1 }
     let d := (d.setLnkState 22 lUp).modLink 22 fun k => { k with hbAt := 2 ^ 40 }
     d.silent 23 = true ∧ 22 ∈ d.linksTo (d.linkPeer 23) ∧ d.linkCarries 22 = true ∧ d.silent 22 = false) := by
  refine ⟨?_, ?_, ?_, ?_, ?_⟩ <;> decide +kernel

theorem witness_HeartbeatsAndNotices_notice :
    (∀ x ∈ [0, 4], let f := noteFrame 1 x 1000 0
     (23, f) ∈ (heard f).fab.ctlQ ∧ recField f.body 0 1 = 3 ∧ ((noticeOf f.body).blk ≠ (heard f).get Reg.FAB_BLOCK_ID ∨ (noticeOf f.body).blk = 0)) ∧
    (∀ x ∈ [1, 2], let f := noteFrame x 5 1000 0
     let d := heard f
     (noticeOf f.body).blk = d.get Reg.FAB_BLOCK_ID ∧ (noticeOf f.body).blk ≠ 0 ∧ (noticeOf f.body).round = d.hl.round ∧
       (noticeOf f.body).evidence = true ∧ d.get Reg.FLT_STATUS.HL = hlIdle ∧ d.hl.notices = [] ∧ d.hl.tmin = none) ∧
    (let f := noteFrame 1 5 1000 0
     let d : Dev := { heard f with hl := { Dev.reset.hl with round := 2 ^ 32 - 1 } }
     (noticeOf f.body).round = (d.hl.round + 1) % 2 ^ 32 ∧ ∀ o ∈ d.hl.held, (noticeOf f.body).sameKey o = false) ∧
    (let f := noteFrame 3 5 1000 0
     let d := heard f
     (noticeOf f.body).round = d.hl.round ∧ (noticeOf f.body).kind = 3 ∧ (∀ o ∈ d.hl.notices, (noticeOf f.body).sameKey o = false) ∧
       d.get Reg.FLT_STATUS.HL ≠ hlStopped) ∧
    (∀ x ∈ [0, 1], let d := Dev.reset.set Reg.FLT_STATUS.HL hlCollect
     let d : Dev := { d with hl := { d.hl with tmin := some 7 }, mt := d.hlC 7 - x }
     d.hl.tmin = some 7 ∧ d.get Reg.FLT_STATUS.HL = hlCollect ∧ (x = 0 → d.hlC 7 ≤ d.mt) ∧ (x = 1 → d.mt < d.hlC 7)) := by
  refine ⟨?_, ?_, ?_, ?_, ?_⟩ <;> decide +kernel

theorem witness_HeartbeatsAndNotices_known :
    (let f := noteFrame 1 5 1000 0
     let n := noticeOf f.body
     let d : Dev := { heard f with hl := { Dev.reset.hl with notices := [n], tmin := some 1000 } }
     n.round = d.hl.round ∧ noticeStore n d.hl.notices = none) ∧
    (let d := Dev.reset
     let f := noteFrame 1 5 (d.hlC 1000) 0
     let n := noticeOf f.body
     let d : Dev := { heard f with hl := { d.hl with tmin := some 1000 } }
     n.round = d.hl.round ∧ n.evidence = true ∧ (∀ o ∈ d.hl.notices, n.sameKey o = false) ∧ (∀ o ∈ d.hl.held, n.sameKey o = false) ∧
       d.hl.tmin = some 1000 ∧ d.hlC 1000 ≤ n.stamp) := by
  decide +kernel

/-- A notice from its kind, subject and plan, with the failed modules it names. -/
def note (kind subject plan cut flags : Nat) : Notice := ⟨kind, 0, flags, subject, 5, 1000, 0, 0, plan, 77, cut⟩

/-- A block of four with a plan that covers node 1. -/
def planned (d : Dev) : Dev :=
  let d := { (((d.set Reg.FAB_GEOM 0x104104).set Reg.FAB_BLOCK_ID 5).set Reg.FAB_BLOCK_LEN 0x041044).set (Reg.GRN_IAT.MODE 0) 1 with usedLinks := 2 ^ 24 - 1 }
  ((d.set Reg.FLT_PLAN_COUNT 1).set64 Reg.FLT_PLAN_BASE_LO 0x1000).wrBytes 0x1000 [2#8]

/-- The round in a state, its first stamp 1000, at a machine time. -/
def round (state mt : Nat) (ns : List Notice) : Dev :=
  let d := (planned Dev.reset).set Reg.FLT_STATUS.HL state
  { d with mt := mt, hl := { d.hl with tmin := some 1000, notices := ns } }

/-- Every core in RUN or WAIT. -/
def running (d : Dev) : Dev := { d with cores := (List.range 64).map fun c => (c, { Core.reset with seq := if c = 0 then .wait else .run }) }

theorem witness_HeadlandRound_decide :
    (∀ x ∈ [0, 1], let d := round hlSettle 0 [note 1 1 0 0 0]
     let d : Dev := { d with mt := d.hlD 1000 - x }
     d.hl.tmin = some 1000 ∧ d.get Reg.FLT_STATUS.HL = hlSettle ∧ (x = 1 → d.mt < d.hlD 1000) ∧ (x = 0 → d.hlD 1000 ≤ d.mt)) ∧
    (let d := (round hlSettle (2 ^ 40) [note 1 1 0 0 0]).setBit Reg.FLT_CTL.POLICY true
     d.bit Reg.FLT_CTL.POLICY = true ∧ d.hlD 1000 ≤ d.mt) ∧
    (let d := round hlSettle (2 ^ 40) [note 1 2 0 0 0]
     d.bit Reg.FLT_CTL.POLICY = false ∧ d.planFor (d.cutMask d.failedNodes) = none) ∧
    (let d := running (round hlSettle (2 ^ 40) [note 1 1 0 0 0])
     d.hl.tmin = some 1000 ∧ d.get Reg.FLT_STATUS.HL = hlSettle ∧ d.hlD 1000 ≤ d.mt ∧ d.bit Reg.FLT_CTL.POLICY = false ∧
       d.planFor (d.cutMask d.failedNodes) = some 0 ∧ d.failedNodes.contains d.buddy = false) ∧
    (let d := running (round hlSettle (2 ^ 40) [note 1 1 0 0 0])
     (∀ c, c < 64 → (d.core c).seq = .run ∨ (d.core c).seq = .wait ∨ (d.core c).seq = .quiesced) ∧
       (∀ c g, c < 64 → g < 128 → d.ringState c g ≠ ringRun) ∧ (∀ m ∈ d.hl.notices, m.kind ≠ 4) ∧ d.get Reg.FAB_BLOCK_ID ≠ 0 ∧
       d.imageWrites (d.planImage 0) = []) := by
  refine ⟨?_, ?_, ?_, ?_, ?_, ?_, ?_, ?_, ?_⟩
  case refine_6 =>
    intro c g hc hg
    have h : ∀ c, c < 64 → ∀ g, g < 128 → (running (round hlSettle (2 ^ 40) [note 1 1 0 0 0])).ringState c g ≠ ringRun := by decide +kernel
    exact h c hc g hg
  all_goals decide +kernel

/-- The confirmations of the three that live. -/
def agree (flags : Nat) : List Notice := [note 1 1 0 0 0, note 4 0 0 2 flags, note 4 2 0 2 flags, note 4 3 0 2 flags]

/-- A round that confirms plan 0. -/
def confirm (flags mt : Nat) (ok : Bool) : Dev :=
  let d := round hlConfirm mt (agree flags)
  { d with hl := { d.hl with failed := [1], cut := 2, plan := some 0, imageOk := ok } }

theorem witness_HeadlandRound_confirm :
    (let d := (confirm 1 (2 ^ 40) true).setCore 63 { Core.reset with seq := .run }
     d.get Reg.FLT_STATUS.HL = hlConfirm ∧ d.pwr.held = false ∧ d.flt.fatal = none ∧ (d.core 63).still = false ∧ d.hl.clears = []) ∧
    (let d : Dev := { confirm 1 (2 ^ 40) true with hl := { (confirm 1 (2 ^ 40) true).hl with progs := [(63, 0x5000)] } }
     (d.core 63).still = true ∧ d.hl.writes = [] ∧ d.hl.clears = [] ∧ d.hl.progs = [((63 : CoreId).val, 0x5000)] ∧ d.gliding = false ∧
       d.get Reg.PWR_STATUS.STATE = 0) ∧
    (let d := ((confirm 1 (2 ^ 40) true).setCore 63 { Core.reset with seq := .run }).setGrp 15 grpOpen
     let d : Dev := { d with hl := { d.hl with clears := [15] } }
     (d.core 63).still = false ∧ d.hl.clears = [15] ∧ d.grpState 15 = grpOpen ∧ d.bit Reg.GRN_THR_CMDSTAT.BUSY = false) ∧
    (∀ x ∈ [0, 1], let d := confirm 1 0 true
     let d : Dev := { d with mt := d.hlP 1000 - x }
     d.hl.tmin = some 1000 ∧ d.get Reg.FLT_STATUS.HL = hlConfirm ∧ d.hl.plan = some 0 ∧ (x = 1 → d.mt < d.hlP 1000) ∧ (x = 0 → d.hlP 1000 ≤ d.mt)) ∧
    ((round hlConfirm (2 ^ 40) []).hl.writes = [] ∧ (round hlConfirm (2 ^ 40) []).agreed = false) ∧
    ((confirm 0 (2 ^ 40) true).agreed = true ∧ (confirm 0 (2 ^ 40) true).mirrored = false) ∧
    ((confirm 1 (2 ^ 40) false).agreed = true ∧ (confirm 1 (2 ^ 40) false).mirrored = true ∧ (confirm 1 (2 ^ 40) false).hl.imageOk = false) ∧
    (let d := (confirm 1 (2 ^ 40) true).set Reg.STG_STATUS.STATE stgArmed
     d.agreed = true ∧ d.mirrored = true ∧ d.hl.imageOk = true ∧ d.get Reg.STG_STATUS.STATE = stgArmed ∧ d.hl.progs = [] ∧ d.hl.held = []) := by
  refine ⟨?_, ?_, ?_, ?_, ?_, ?_, ?_, ?_⟩ <;> decide +kernel

/-- A Gleaner record of a code. -/
def gln (code : Nat) : GlnRec := { GlnRec.zero with code := code }

/-- The Gleaner with records pending and a coalescing time of 100 microseconds. -/
def gleaner (pend : List GlnRec) (head : Nat) : Dev :=
  let d := (Dev.reset.set Reg.FLT_GLN_CFG.COAL_US 100).set Reg.FLT_GLN_HEAD head
  { d with flt := { d.flt with pend := pend } }

theorem witness_RecordsAndDump :
    (Dev.reset.pwr.held = false ∧ Dev.reset.get Reg.PWR_STATUS.STATE < 3 ∧ Dev.reset.flt.pend.length < 32 ∧ Dev.reset.flt.rate = []) ∧
    (Dev.reset.modPwr fun p => { p with held := true }).pwr.held = true ∧
    (∀ x ∈ [99, 100], let d := gleaner [gln 5] 4095
     d.pwr.held = false ∧ d.bit Reg.FLT_STATUS.LRL = false ∧ d.flt.lostOwed = false ∧ d.flt.pend = gln 5 :: [] ∧
       (x = 99 → x < d.get Reg.FLT_GLN_CFG.COAL_US) ∧ (x = 100 → d.get Reg.FLT_GLN_CFG.COAL_US ≤ x) ∧ [gln 5].length < 16 ∧ d.glnRoom = true ∧
       d.flt.lrl = []) ∧
    (gleaner [gln 5] 4096).glnRoom = false ∧
    (let d := (gleaner [gln 5] 0).setBit Reg.FLT_STATUS.LRL true
     let d : Dev := { d with flt := { d.flt with lrl := List.replicate 15 (gln 1) } }
     d.bit Reg.FLT_STATUS.LRL = true ∧ d.flt.lrl.length < 16 ∧ d.get Reg.FLT_GLN_CFG.COAL_US ≤ 100) ∧
    (let d : Dev := { mapped Dev.reset with flt := { Dev.reset.flt with dumping := true } }
     d.flt.dumping = true ∧ d.pwr.held = false ∧ d.pwr.romBad = false ∧ d.dumpWhere true true = 2 ∧
       ({ d with stg := { d.stg with dump := [0] } } : Dev).dumpWhere true false = 0) ∧
    (let d : Dev := { dumpGranary.foldl (fun d g => (d.set (Reg.GRN_IAT.MODE g) 1).set (Reg.GRN_IAT.HOME g) 7) Dev.reset with flt := { Dev.reset.flt with dumping := true } }
     ({ d with stg := { d.stg with dump := [0] } } : Dev).dumpWhere false true = 1) ∧
    Dev.reset.flt.dumping = false := by
  refine ⟨?_, ?_, ?_, ?_, ?_, ?_, ?_, ?_⟩ <;> decide +kernel


theorem witness_RecordsAndDump_rail :
    (let d := gleaner [] 7
     d.pwr.held = false ∧ d.bit Reg.FLT_STATUS.LRL = false ∧ d.flt.lrl = [] ∧ d.flt.lostOwed = false ∧ d.flt.pend = []) ∧
    (let d : Dev := { Dev.reset with flt := { Dev.reset.flt with dumping := true }, pwr := { Dev.reset.pwr with pwrOk := false } }
     d.flt.dumping = true ∧ d.pwr.held = false ∧ d.pwr.romBad = false ∧ d.pwr.pwrOk = false) := by
  decide +kernel

theorem get_stg {x : Nat} {f : Fld} (h : f.key ≠ Reg.STG_STATUS.STATE.key) :
    (Dev.reset.set Reg.STG_STATUS.STATE x).get f = f.reset % 2 ^ f.width := by
  rw [Dev.get_set_other _ _ h]
  simp [Dev.get, Dev.reset, mget]

theorem grnIat_stg (x i : Nat) : (Dev.reset.set Reg.STG_STATUS.STATE x).grnIat i = ⟨1, i / 48 % 8, i % 48 % 64, 0⟩ := by
  have k : ∀ f : Fld, 0x00280000 ≤ f.off → f.key ≠ Reg.STG_STATUS.STATE.key := by
    intro f hf; simp only [Fld.key, Reg.STG_STATUS.STATE]; omega
  simp only [Dev.grnIat]
  rw [get_stg (k _ (by simp [Reg.GRN_IAT.MODE])), get_stg (k _ (by simp [Reg.GRN_IAT.HOME])),
    get_stg (k _ (by simp [Reg.GRN_IAT.SLOT])), get_stg (k _ (by simp [Reg.GRN_IAT.PART]))]
  simp [Reg.GRN_IAT.MODE, Reg.GRN_IAT.HOME, Reg.GRN_IAT.SLOT, Reg.GRN_IAT.PART]
theorem gdmIat_stg (x i : Nat) : (Dev.reset.set Reg.STG_STATUS.STATE x).gdmIat i = ⟨1, i / 32 % 32, i % 32 % 32, 0⟩ := by
  have k : ∀ f : Fld, 0x00280000 ≤ f.off → f.key ≠ Reg.STG_STATUS.STATE.key := by
    intro f hf; simp only [Fld.key, Reg.STG_STATUS.STATE]; omega
  simp only [Dev.gdmIat]
  rw [get_stg (k _ (by simp [Reg.GDM_IAT.MODE]; omega)), get_stg (k _ (by simp [Reg.GDM_IAT.HOME]; omega)),
    get_stg (k _ (by simp [Reg.GDM_IAT.SLOT]; omega)), get_stg (k _ (by simp [Reg.GDM_IAT.PART]; omega))]
  simp [Reg.GDM_IAT.MODE, Reg.GDM_IAT.HOME, Reg.GDM_IAT.SLOT, Reg.GDM_IAT.PART]

theorem port_stg (x q : Nat) : (Dev.reset.set Reg.STG_STATUS.STATE x).get (Reg.GDM_STATUS.STATE q) = 2 := by
  rw [get_stg (by simp only [Fld.key, Reg.STG_STATUS.STATE, Reg.GDM_STATUS.STATE]; omega)]
  simp [Reg.GDM_STATUS.STATE]

theorem tables_stg (x : Nat) : (Dev.reset.set Reg.STG_STATUS.STATE x).checkTables (Dev.reset.set Reg.STG_STATUS.STATE x) = [] := by
  have hg : ∀ i, i < 384 → clashes 384 (fun a b => Iat.grnClash ⟨1, a / 48 % 8, a % 48 % 64, 0⟩ ⟨1, b / 48 % 8, b % 48 % 64, 0⟩) i = false := by
    intro i hi
    simp only [clashes, List.any_eq_false, List.mem_range]
    intro j hj
    simp only [Iat.grnClash, and_self, if_true, Bool.and_eq_true, decide_eq_true_eq, not_and]
    omega
  have hr : ∀ i, i < 256 → clashes 256 (fun a b => Iat.gdmClash ⟨1, a / 32 % 32, a % 32 % 32, 0⟩ ⟨1, b / 32 % 32, b % 32 % 32, 0⟩) i = false := by
    intro i hi
    simp only [clashes, List.any_eq_false, List.mem_range]
    intro j hj
    simp only [Iat.gdmClash, Iat.ports, Iat.slots, Bool.and_eq_true, decide_eq_true_eq, not_and, List.any_eq_true, List.contains_iff_mem,
      List.mem_map, List.mem_range]
    intro hij hp
    obtain ⟨⟨p, ⟨a, ha, rfl⟩, ⟨b, hb, hab⟩⟩, ⟨s, hs, hs'⟩⟩ := hp
    simp at hs hs'
    omega
  have hd : (Dev.reset.set Reg.STG_STATUS.STATE x).stg.dump = [] := rfl
  simp only [Dev.checkTables, grnIat_stg, gdmIat_stg, port_stg, hd]
  rw [List.append_eq_nil_iff]
  constructor <;> rw [List.flatMap_eq_nil_iff] <;> intro i hi <;> rw [List.mem_range] at hi
  · have : Iat.grnBad ⟨1, i / 48 % 8, i % 48 % 64, 0⟩ = false := by simp [Iat.grnBad]; omega
    rw [hg i hi, this]; simp [Machine.bad]
  · have : Iat.gdmBad ⟨1, i / 32 % 32, i % 32 % 32, 0⟩ = false := by simp [Iat.gdmBad]; omega
    rw [hr i hi, this]; simp [Machine.bad]

/-- STG in a state. -/
def stg (x : Nat) : Dev := Dev.reset.set Reg.STG_STATUS.STATE x

theorem stgResult_of (d : Dev) (hs : d.postCommit = d) (h : d.checkTables d = []) (hm : d.checkMode d = []) (hl : d.checkLinks = []) (hb : d.checkBlock = [])
    (hp : d.checkPistes d = []) (hc : d.checkCol = []) (hr : d.checkRbt = []) (hg : d.checkGroups = []) : d.stgResult = none := by
  simp only [Dev.stgResult, hs, h, hm, hl, hb, hp, hc, hr, hg, List.append_nil]

theorem stgResult_checking : (stg stgChecking).stgResult = none := by
  refine stgResult_of _ rfl (tables_stg _) ?_ ?_ ?_ ?_ ?_ ?_ ?_ <;> decide +kernel


/-! ### The control space -/

/-- The module held in reset. -/
def heldDev : Dev := Dev.reset.modPwr fun p => { p with held := true }

theorem witness_ControlSpace_writes :
    (heldDev.pwr.held = true ∧ Dev.reset.pwr.held = false ∧ (14#4 : BitVec 4) ≠ 15 ∧ (0x40031#28).toNat % 4 ≠ 0) ∧
    (let d := Dev.reset.set Reg.FLT_GLN_HEAD (2 ^ 32 - 1)
     (2 ^ 32 - 1) ≤ d.get Reg.FLT_GLN_HEAD ∧ Dev.reset.get Reg.FLT_GLN_HEAD < 1) ∧
    (∀ c, c < 64 → Dev.reset.bit (Reg.CORE_DMA_STATUS.BUSY c) = false) ∧
    (let d := Dev.reset.setBit (Reg.CORE_DMA_STATUS.BUSY 63) true
     d.bit (Reg.CORE_DMA_STATUS.BUSY 63) = true ∧ 5 % 2 ^ 11 ≠ d.get Reg.HST_HWIN_SIZE) ∧
    (127 % 2 ^ 7 ≠ Dev.reset.shadowVal Reg.FLT_PLAN_COUNT ∧ Dev.reset.get Reg.STG_STATUS.STATE = stgOpen ∧ Dev.reset.stg.hold = false ∧
      (Dev.reset.set Reg.STG_STATUS.STATE stgArmed).get Reg.STG_STATUS.STATE = stgArmed) ∧
    ((Dev.reset.set Reg.GEN_EXPERT 0xFFEF).get Reg.GEN_EXPERT = 0xFFEF ∧ (0xFFEF).testBit 4 = false ∧
      0 % 2 ^ 16 ≠ Dev.reset.get Reg.FLT_GLN_CFG.COAL_US ∧ 10000 % 2 ^ 16 ≤ 10000 ∧
      10000 < 10001 % 2 ^ 16 ∧ 1024 % 2 ^ 11 ≤ 1024 ∧ 1024 < 1025 % 2 ^ 11 ∧ ((Dev.reset.set Reg.GEN_EXPERT 0x10).get Reg.GEN_EXPERT).testBit 4 = true) ∧
    (7).testBit 3 = false := by
  refine ⟨?_, ?_, ?_, ?_, ?_, ?_, ?_⟩ <;> decide +kernel

theorem witness_ControlSpace_reads :
    ((3#28).toNat % 4 ≠ 0 ∧ (0x50014#28).toNat % 4 = 0) ∧
    ((Dev.reset.set Reg.PWR_STATUS.STATE 4).reachable 0x00100010 = false) ∧
    (Dev.reset.reachable 0x50014 = true ∧ isLo 0x00000010 = isLo 0x00000010 ∧ (Reg.FLT_HL_TMIN_LO.off % 4 = 0 ∧
      Dev.reset.reachable Reg.FLT_HL_TMIN_LO.off = true ∧ isLo Reg.FLT_HL_TMIN_LO.off = true)) ∧
    (let a := Reg.FLT_HL_TMIN_LO.off + 4
     let d : Dev := { Dev.reset with latch := [(latchKey .host a, some 7)] }
     a % 4 = 0 ∧ d.reachable a = true ∧ isLo a = false ∧ mget none d.latch (latchKey .host a) = some 7 ∧
       mget none Dev.reset.latch (latchKey .host a) = none ∧ ¬(0x00180900 ≤ a ∧ a < 0x00180A00 ∧ a % 16 = 12)) ∧
    (let d := ready 1 Dev.reset
     d.gliding = true ∧ d.pwr.held = false ∧ d.flt.fatal = none ∧ (d.core 63).seq ≠ .run ∧
       ((d.setCore 63 { Core.reset with seq := .quiesced }).core 63).seq = .quiesced ∧
       ((d.setCore 63 { Core.reset with seq := .run }).core 63).seq = .run ∧ 2 ^ d.get (Reg.CORE_DMA_RING_CTL.SIZE_LOG2 0 127) ≤ 65536 ∧
       d.get (Reg.CORE_DMA_RING_STATUS.PEND 0 127) + 1 ≤ 2 ^ d.get (Reg.CORE_DMA_RING_CTL.SIZE_LOG2 0 127) ∧
       (d.setBit Reg.HST_STATUS.LINK_UP true).bit Reg.HST_STATUS.LINK_UP = true ∧
       ((Blk.core 63).base + 0x28) % 4 = 0 ∧ (Blk.core 63).base + 0x28 < 2 ^ 28 ∧ heldDev.pwr.held = true ∧ 0 ≤ d.get Reg.FLT_GLN_HEAD) ∧
    ((Reg.CORE_SEQ_CTRL.QREQ 63).off % 4 = 0 ∧ blkOf (Reg.CORE_SEQ_CTRL.QREQ 63).off = some (.core 63) ∧ Dev.reset.gliding = false) := by
  refine ⟨?_, ?_, ?_, ?_, ?_, ?_⟩ <;> decide +kernel

theorem witness_StagedChanges :
    heldDev.pwr.held = true ∧
    (let d : Dev := { Dev.reset with stg := { Dev.reset.stg with hold := true } }
     d.pwr.held = false ∧ d.stgHeld .host = true ∧ Dev.reset.stgHeld .host = false) ∧
    (∀ x ∈ [stgOpen, stgChecking, stgChecked, stgArmed], (stg x).get Reg.STG_STATUS.STATE = x) ∧
    (∀ x ∈ [0, 1, 2], ((stg stgChecked).set Reg.PWR_STATUS.STATE x).get Reg.PWR_STATUS.STATE = x) ∧
    (let d := { (stg stgChecked).set64 Reg.STG_COMMIT_AT_LO 16 with mt := 16 }
     d.get64 Reg.STG_COMMIT_AT_LO ≠ 0 ∧ d.mt ≤ roundTarget (d.get64 Reg.STG_COMMIT_AT_LO) ∧
       roundTarget (d.get64 Reg.STG_COMMIT_AT_LO) < 17 ∧ Dev.reset.get64 Reg.STG_COMMIT_AT_LO = 0) ∧
    ((stg stgChecking).stgResult = none ∧ (stg stgChecking).stg.hold = false ∧ Dev.reset.get Reg.PWR_STATUS.STATE < 2) ∧
    (let d := { stg stgChecking with shadow := [(Reg.FLT_PLAN_COUNT.key, some 65)] }
     d.stgResult.isSome = true) ∧
    Dev.reset.commitDue = false ∧
    (∀ x ∈ [(Reg.FLT_PLAN_COUNT.key, 127), (Reg.FLT_PLAN_BASE_LO.key, 5), (Reg.MTC_DETERMINISM.STRICT.key, 1), (Reg.FAB_BLOCK_ID.key, 7), ((Reg.GRN_GRP_CTL.EN 15).key, 1), (Reg.COL_CTL.EN.key, 1)],
      let d : Dev := { stg stgArmed with shadow := [(x.1, some x.2)] }
      d.commitDue = true ∧ (∀ l, l < 24 → d.lnkState l ≠ lUpHeld ∧ (d.lnkState l = lHold → (d.link l).heldFrom ≠ lUpHeld)) ∧ d.shadow = [(x.1, some x.2)] ∧ d.bit (Reg.GRN_GRP_CTL.EN 15) = false ∧
        d.bit Reg.COL_CTL.EN = false) := by
  refine ⟨?_, ?_, ?_, ?_, ?_, ⟨stgResult_checking, ?_⟩, ?_, ?_, ?_⟩ <;> decide +kernel

/-! ### Power -/

theorem witness_Resets :
    (heldDev.pwr.held = true ∧ Dev.reset.pwr.held = false ∧ Dev.reset.pwr.romBad = false) ∧
    (∀ x ∈ [(0, 0), (1, 0), (2, 7), (3, 63), (4, 23), (5, 7)], (ready 0 Dev.reset).resetBarred x.1 x.2 false = false) ∧
    (Dev.reset.resetBarred 3 63 false = true ∧ (ready 0 Dev.reset).bit Reg.FLT_DUMP.VALID = false) ∧
    (let d := ready 0 Dev.reset
     d.get Reg.PWR_STATUS.STATE = 0 ∧ d.get Reg.STG_STATUS.STATE = stgOpen ∧ d.cores = [] ∧ d.thr.passQ = [] ∧ d.thr.running = false ∧ (∀ c, (d.core c).dma = none) ∧
       ∀ g, d.thr.cmd ≠ some (1, g)) ∧
    (let x : ResetRun := { domain := 5, index := 7, force := false }
     let d : Dev := { ready 0 Dev.reset with rst := some x }
     d.rst = some x ∧ d.resetReady x = true ∧ x.domain = 5 ∧ x.index < 8) ∧
    (let x : ResetRun := { domain := 0, index := 0, force := false }
     let d : Dev := { Dev.reset with rst := some x }
     d.resetReady x = false) := by
  refine ⟨?_, ?_, ?_, ⟨?_, ?_, ?_, ?_, ?_, ?_, ?_⟩, ?_, ?_⟩
  case refine_9 => exact fun c => rfl
  case refine_10 => exact fun g h => nomatch h
  all_goals decide +kernel


/-- The bytes other than zero of an image: five sections, a field of 5 by 4 by 4, the nominal plan, no defect, no setting, with its CRC. -/
def imageBytes : SMap Byte :=
  [(0, 0x57#8), (1, 0x4B#8), (2, 0x58#8), (3, 0x4E#8), (4, 0x01#8), (6, 0x05#8), (8, 0xB0#8), (60, 0x76#8), (61, 0xDC#8), (62, 0x67#8),
   (63, 0x46#8), (64, 0x01#8), (68, 0x90#8), (80, 0x02#8), (84, 0x90#8), (96, 0x03#8), (100, 0x90#8), (104, 0x04#8), (112, 0x04#8),
   (116, 0x98#8), (120, 0x10#8), (128, 0x06#8), (132, 0xA8#8), (136, 0x04#8), (152, 0x04#8), (153, 0x41#8), (154, 0x10#8), (160, 0xFF#8),
   (161, 0xFF#8), (162, 0x3F#8), (168, 0x05#8)]

/-- A flash with that image in a slot; a byte of an erased flash is 0xFF. -/
def flashWith (slot : Nat) : SMap Byte :=
  (List.range 176).filterMap fun i =>
    let b := mget 0#8 imageBytes i
    if b = 0xFF#8 then none else some (slotSize * slot + i, b)

/-- A booted module with that image in a slot, in a phase. -/
def boot (phase slot : Nat) : Dev :=
  let d := Dev.reset.set Reg.PWR_BOOT_STATUS.PHASE phase
  { d with pwr := { d.pwr with booted := true }, img := { d.img with flash := flashWith slot } }


/-- The image as bytes. -/
def image : List Byte := (List.range 176).map fun i => mget 0#8 imageBytes i

theorem crc_parts (a b c d : List Byte) (w x y z : Word) (ha : a.foldl crcByte 0xFFFFFFFF#32 = w) (hb : b.foldl crcByte w = x)
    (hc : c.foldl crcByte x = y) (hd : d.foldl crcByte y = z) : crc32 (a ++ (b ++ (c ++ d))) = ~~~z := by
  simp only [crc32, List.foldl_append, ha, hb, hc, hd]

theorem image_crc : imgCrcOk image = true := by
  have h : image.take 0x3C ++ image.drop 0x40 =
      image.take 43 ++ ((image.drop 43).take 17 ++ (image.drop 64).take 26 ++ ((image.drop 90).take 43 ++ image.drop 133)) := by decide +kernel
  have hc := crc_parts (image.take 43) ((image.drop 43).take 17 ++ (image.drop 64).take 26) ((image.drop 90).take 43) (image.drop 133)
    0xF4C71FD0#32 0xAA056F78#32 0xE8F441D8#32 0xB9982389#32 (by decide +kernel) (by decide +kernel) (by decide +kernel) (by decide +kernel)
  rw [imgCrcOk, h, hc]
  decide +kernel

theorem slotReason_of {d : Dev} {slot : Nat} {b : List Byte} (hm : imgMagic (d.slotBytes slot 64) = true) (hf : imgFits (d.slotBytes slot 64) = true)
    (hb : d.slotBytes slot (recField (d.slotBytes slot 64) 8 4) = b) (hc : imgCrcOk b = true) (hs : imgShape b = true) (hk : d.imgKeyOk b = true)
    (hp : imgPlanOk b = true) (he : (imgSettings b).all (settingOk (imgExpert b)) = true) (hd : (imgDefects b).all Defect.ok = true)
    (hx : d.imgPatchOk b = true) : d.slotReason slot = 0 := by
  simp [Dev.slotReason, hm, hf, hb, hc, hs, hk, hp, he, hd, hx]

theorem slotReason_good : (boot 1 0).slotReason 0 = 0 ∧ (boot 1 1).slotReason 1 = 0 := by
  constructor
  · refine slotReason_of ?_ ?_ (b := image) ?_ image_crc ?_ ?_ ?_ ?_ ?_ ?_ <;> decide +kernel
  · refine slotReason_of ?_ ?_ (b := image) ?_ image_crc ?_ ?_ ?_ ?_ ?_ ?_ <;> decide +kernel


theorem witness_LadderMoves :
    (Requester.host ≠ .planLoader ∧ heldDev.pwr.held = true ∧ Dev.reset.get Reg.PWR_LADDER.TARGET = 0 ∧ Dev.reset.pwr.held = false) ∧
    (let d := ready 0 Dev.reset
     d.get Reg.PWR_LADDER.TARGET ≠ 4 ∧ d.ladderReason 1 = none ∧ (ready 2 Dev.reset).ladderReason 1 = some 7) ∧
    Dev.reset.get Reg.PWR_BOOT_STATUS.PHASE ≠ 6 ∧ Dev.reset.bit Reg.PWR_STATUS.MOVING = false ∧
    (∀ x ∈ [(0, 1), (1, 2), (2, 3), (3, 4), (4, 3), (1, 0), (2, 0), (3, 0)],
      let d := ((ready x.1 Dev.reset).setBit Reg.PWR_STATUS.MOVING true).modPwr fun p => { p with moveTo := x.2 }
      d.bit Reg.PWR_STATUS.MOVING = true ∧ d.pwr.held = false ∧ d.bit Reg.PWR_STATUS.SPRINT = false ∧ d.pwr.moveTo = x.2 ∧
        d.get Reg.PWR_STATUS.STATE = x.1 ∧ d.flt.held = []) := by
  refine ⟨?_, ⟨?_, ?_, ?_⟩, ?_, ?_, ?_⟩ <;> decide +kernel

theorem witness_SprintAndReadings :
    (let d := (Dev.reset.setBit Reg.PWR_CTL.SPRINT_EN true).set Reg.PWR_COOLANT.INLET 300
     let d := (d.set Reg.PWR_INPUT.MV10 4800).modPwr fun p => { p with credit := 1000000 }
     d.bit Reg.PWR_STATUS.SPRINT = false ∧ d.bit Reg.PWR_STATUS.TRIPPED = false ∧ d.pwr.held = false ∧ d.sprintHolds = true ∧
       1000000 ≤ d.pwr.credit ∧ d.pwr.effJ < 105 ∧ d.pwr.effG < 95 ∧ d.pwr.limCut = 0 ∧
       (d.setBit Reg.PWR_STATUS.SPRINT true).bit Reg.PWR_STATUS.SPRINT = true ∧ (d.setBit Reg.PWR_STATUS.SPRINT true).sprintHolds = true ∧
       d.pwr.credit ≠ 0) ∧
    (let d := Dev.reset.setBit Reg.PWR_STATUS.SPRINT true
     d.bit Reg.PWR_STATUS.SPRINT = true ∧ d.sprintHolds = false ∧ (d.modPwr fun p => { p with credit := 0 }).pwr.credit = 0) ∧
    ((31 : Fin 32).val < kindCount .gddr ∧ (23 : Fin 32).val < kindCount .junction ∧ (7 : Fin 32).val < kindCount .granary ∧
      (99#8).toNat < tripAt .gddr ∧ tripAt .gddr ≤ (100#8).toNat ∧
      tripAt .gddr < mget 0 (Dev.reset.modPwr fun p => { p with sensors := [(2 * 64 + 31, 101)] }).pwr.sensors (kindNo .gddr * 64 + 31)) ∧
    ((Dev.reset.setBit Reg.PWR_STATUS.THROT_G true).bit Reg.PWR_STATUS.THROT_G = true ∧ Dev.reset.bit Reg.PWR_STATUS.THROT_J = false ∧
      Dev.reset.bit Reg.PWR_STATUS.THROT_G = false ∧ Dev.reset.memOn = true ∧ heldDev.memOn = false ∧ heldDev.pwr.held = true) := by
  refine ⟨?_, ?_, ?_, ?_⟩ <;> decide +kernel

/-- The module with its power record changed. -/
def power (f : Power → Power) : Dev := Dev.reset.modPwr f

theorem witness_PowerPins :
    ((power fun p => { p with seated := false, stages := false }).pwr.seated = false ∧ (power fun p => { p with seated := true }).pwr.seated = true ∧
      (power fun p => { p with stages := false }).pwr.stages = false ∧ (power fun p => { p with stages := true }).pwr.stages = true) ∧
    (4550 < (4551#16).toNat ∧ (4449#16).toNat < 4450 ∧ 4450 ≤ (4450#16).toNat ∧ (4550#16).toNat ≤ 4550) ∧
    (let d := power fun p => { p with seated := true, fuse := false, overV := false }
     d.pwr.seated = true ∧ d.pwr.fuse = false ∧ d.pwr.overV = false) ∧
    (power fun p => { p with fuse := true }).pwr.fuse = true ∧
    (∀ h ∈ [true, false], let d := power fun p => { p with stages := true, pwrOk := false, held := h }
     d.pwr.stages = true ∧ d.pwr.pwrOk = false ∧ d.pwr.held = h) ∧
    (let d := power fun p => { p with held := false, inputLow := false }
     d.pwr.held = false ∧ d.pwr.inputLow = false ∧ d.flt.pend.length < 32) := by
  refine ⟨?_, ?_, ?_, ?_, ?_, ?_⟩ <;> decide +kernel

theorem witness_PowerPins_levels :
    (∀ v ∈ [1999, 2000, 4449, 4450, 4550, 4551, 4799, 4800], (v < 4450 ∨ (4450 ≤ v ∧ v ≤ 4550) ∨ 4550 < v) ∧ v < 2 ^ 16) ∧
    (∀ h ∈ [true, false], ∀ low ∈ [true, false], let d := power fun p => { p with
       seated := true, fuse := false, overV := false, stages := false, held := h, mv10 := if low then 4799 else 4800, inputLow := false }
     d.pwr.seated = true ∧ d.pwr.fuse = false ∧ d.pwr.overV = false ∧ d.pwr.stages = false ∧ d.pwr.held = h ∧
       d.pwr.mv10 = (if low then 4799 else 4800)) ∧
    (∀ owed ∈ [true, false], let d := power fun p => { p with seated := true, held := true, pwrOk := true, resetN := true, lowOwed := owed, inputLow := owed }
     d.pwr.seated = true ∧ d.pwr.held = true ∧ d.pwr.pwrOk = true ∧ (d.pwr.pwrOk && d.pwr.resetN) = true ∧ d.pwr.lowOwed = owed) ∧
    ((power fun p => { p with held := true, pwrOk := false }).pwr.pwrOk = false) ∧ (999 < 1000 ∧ 1000 ≤ 9999 ∧ 9999 < 10000) ∧
    (let d := power fun p => { p with stages := true, held := false, inputLow := true, lowOwed := true }
     d.pwr.held = false ∧ d.pwr.lowOwed = true ∧ (power fun p => { p with inputLow := true, lowOwed := false }).pwr.lowOwed = false) ∧
    (let d := power fun p => { p with stages := true, held := false }
     d.pwr.stages = true ∧ d.pwr.held = false ∧ d.pwr.romBad = false ∧ d.flt.fatal = none ∧
       ({ d with flt := { d.flt with fatal := some (5, 0), dumping := true } } : Dev).flt.dumping = true ∧
       ({ d with flt := { d.flt with fatal := some (5, 0) } } : Dev).flt.dumping = false ∧
       (d.setBit Reg.FLT_DUMP.VALID true).bit Reg.FLT_DUMP.VALID = true) := by
  refine ⟨?_, ?_, ?_, ?_, ?_, ?_, ?_⟩ <;> decide +kernel

theorem witness_BringUp :
    ((boot 1 0).inPhase phSteward = false ∧ (let d := Dev.reset.modPwr fun p => { p with booted := false }
      d.inPhase phSteward = true ∧ d.pwr.booted = false ∧ d.cool = true)) ∧
    ((boot 0 0).inPhase phImage = false ∧ (boot phImage 0).inPhase phImage = true ∧ (boot phSelftest 0).inPhase phSelftest = true ∧
      (boot phMemtrain 0).inPhase phMemtrain = true ∧ (boot phMemtest 0).inPhase phMemtest = true ∧ (boot phHide 0).inPhase phHide = true ∧
      (boot 0 0).inPhase phSelftest = false ∧ (boot 0 0).inPhase phMemtrain = false ∧ (boot 0 0).inPhase phMemtest = false ∧
      (boot 0 0).inPhase phHide = false) ∧
    ((let d : Dev := { boot phImage 0 with img := { (boot phImage 0).img with flash := [] } }
      d.slotReason 0 ≠ 0 ∧ d.slotReason 1 ≠ 0) ∧ (boot phImage 0).slotReason 0 = 0 ∧ (boot phImage 1).slotReason 0 ≠ 0 ∧
      (boot phImage 1).slotReason 1 = 0 ∧ (imgSettings image).filter early = [] ∧ (boot phImage 0).shadow = []) ∧
    (let d := boot phSelftest 0
     let count (cores : List (Fin 8 × Fin 9)) (c : Nat) : Nat := ((d.badCores cores).filter fun p => decide (p.1 = c)).length
     (∃ c, c < 8 ∧ 2 ≤ count [(7, 0), (7, 8)] c) ∧ ∀ c, c < 8 → count [(7, 8)] c < 2) ∧
    (let d := boot phMemtrain 0
     (∃ k, k < 8 ∧ laneLimit (mget {} d.grn k) k ((List.range 9).map fun i => ⟨7, 4, Fin.ofNat 74 (i * 3)⟩) ≠ none) ∧
       (∀ k, k < 8 → laneLimit (mget {} d.grn k) k d.addedLanes = none) ∧
       (let out (ports : List PortId) := ports.map Fin.val ++ (d.added 2).map Defect.index
        (∀ p ∈ out [31], p < 32) ∧ ((List.range 32).filter fun p => !(out [31]).contains p).length = 31)) ∧
    (let d : Dev := { boot phMemtrain 0 with img := { (boot phMemtrain 0).img with minPorts := 32 } }
     31 < d.img.minPorts ∧ (boot phMemtrain 0).img.minPorts ≤ 31) ∧
    (let d := boot phMemtest 0
     rowLimit (d.badRows (d.finds ((List.range 17).map fun i => ⟨1, 2, 3, BitVec.ofNat 24 i⟩))) ≠ none ∧
       rowLimit (d.badRows (d.finds [⟨7, 31, 3, 4⟩])) = none ∧ (∀ k, k < 8 → laneLimit (mget {} d.grn k) k (d.finds [⟨7, 4, 73⟩]) = none) ∧
       d.img.minPorts ≤ ((List.range 32).filter fun p => d.get (Reg.GDM_STATUS.STATE p) ≠ 1).length ∧ d.flt.held = []) ∧
    (let d := boot phHide 0
     d.shadow = [] ∧ (d.img.settings.filter fun x => !early x) = [] ∧ (∀ p, p < 4 → d.get (Reg.GDM_STATUS.STATE (4 * 7 + p)) ≠ 1)) := by
  refine ⟨?_, ?_, ⟨?_, slotReason_good.1, ?_, slotReason_good.2, ?_, ?_⟩, ⟨⟨7, ?_⟩, ?_⟩, ⟨⟨7, ?_⟩, ?_, ?_⟩, ?_, ?_, ?_⟩ <;> decide +kernel

theorem witness_BringUp_ports :
    let d : Dev := { boot phMemtest 0 with img := { (boot phMemtest 0).img with minPorts := 32 } }
    let left (ports : List PortId) : List Nat :=
      (List.range 32).filter fun p => decide (¬(d.get (Reg.GDM_STATUS.STATE p) = 1 ∨ p ∈ ports.map Fin.val))
    rowLimit (d.badRows (d.finds [])) = none ∧ d.finds [31] = [31] ∧ (left [31]).length < d.img.minPorts ∧ d.img.minPorts ≤ (left []).length := by
  decide +kernel

/-! ### The host, the sideband and the test port -/

/-- A booted module with the host's link up. -/
def hosted (d : Dev) : Dev := { (mapped d).setBit Reg.HST_STATUS.LINK_UP true with pwr := { d.pwr with booted := true }, host := { d.host with perstLow := false } }

theorem witness_HostInterface :
    (Dev.reset.pwr.held = false ∧ heldDev.pwr.held = true ∧ (hosted Dev.reset).bit Reg.HST_STATUS.LINK_UP = true ∧
      Dev.reset.bit Reg.HST_STATUS.LINK_UP = false) ∧
    ((hosted Dev.reset).pcieOn = true ∧ heldDev.pcieOn = false ∧ 1 ≤ (16#5).toNat ∧ (16#5).toNat ≤ 16 ∧ 1 ≤ (6#3).toNat ∧ (6#3).toNat ≤ 6 ∧
      (1#5).toNat < 16 ∧ (1#3).toNat < 6) ∧
    ((hosted Dev.reset).host.perstLow = false ∧ (hosted Dev.reset).stowing = false ∧
      ({ hosted Dev.reset with host := { Dev.reset.host with perstLow := true } } : Dev).host.perstLow = true) ∧
    (let d := hosted Dev.reset
     let a := d.get64 Reg.HST_BAR2_BASE_LO + (5#36).toNat
     d.gliding = false ∧ d.memOn = true ∧ d.readErr a 3 = none ∧ d.writeErr a [1#8] = none ∧ d.rbtHit a 1 = [] ∧
       (let b := d.set64 Reg.HST_BAR2_BASE_LO 0x7000000000
        (b.firstUnmapped (b.get64 Reg.HST_BAR2_BASE_LO + (0xFFFFFFFFF#36).toNat) 1).isSome = true)) ∧
    (let d := ready 2 (hosted Dev.reset)
     2 ≤ d.get Reg.PWR_STATUS.STATE ∧ d.pwr.held = false ∧ d.bit Reg.HST_STATUS.LINK_UP = true) ∧
    (let d := ready 1 (hosted Dev.reset)
     d.gliding = true ∧ d.bit Reg.PWR_STATUS.TRIPPED = false ∧ d.readErr (d.get64 Reg.HST_BAR2_BASE_LO + 5) 3 = none) ∧
    (let d : Dev := { hosted Dev.reset with host := { Dev.reset.host with msixPend := [(2047, true)], unmasked := [(2047, true)] } }
     mget false d.host.msixPend (2047#11).toNat = true ∧ d.host.d3hot = false ∧ d.host.msixPend = [(2047, true)] ∧
       mget false d.host.unmasked 2047 = true ∧ mget false d.host.msixPend (0#11).toNat = false ∧ Dev.reset.host.msixPend = []) := by
  refine ⟨?_, ?_, ?_, ?_, ?_, ?_, ?_⟩ <;> decide +kernel

theorem witness_HostInterface_bar2 :
    (let d := hosted Dev.reset
     (d.firstUnmapped 0x7000000000 1).isSome = true ∧ d.gliding = false ∧ d.memOn = true) ∧
    (let d := (((hosted Dev.reset).setBit Reg.PWR_STATUS.MOVING true).modPwr fun p => { p with moveTo := 3 })
     d.get Reg.PWR_STATUS.STATE < 2 ∧ d.gliding = false ∧ d.memOn = false ∧ d.pwr.held = false ∧ d.bit Reg.HST_STATUS.LINK_UP = true) := by
  decide +kernel

theorem witness_SidebandCommands :
    (Dev.reset.i2cOn = false ∧ (hosted Dev.reset).i2cOn = true ∧
      ({ hosted Dev.reset with img := { Dev.reset.img with erasing := some 1 } } : Dev).img.erasing ≠ none ∧ (hosted Dev.reset).img.erasing = none) ∧
    ((0xFFFFFFFF#32).toNat % 4 ≠ 0 ∧ (0x10000000#32).toNat % 4 = 0 ∧ 2 ^ 28 ≤ (0x10000000#32).toNat ∧ (0x30014#32).toNat < 2 ^ 28) ∧
    (let d := hosted Dev.reset
     d.reachable 0x30014 = true ∧ isLo 0x30014 = false ∧ mget none d.latch (latchKey .i2c 0x30014) = none ∧
       ¬(0x00180900 ≤ 0x30014 ∧ 0x30014 < 0x00180A00 ∧ 0x30014 % 16 = 12) ∧ (d.set Reg.PWR_STATUS.STATE 4).reachable 0x00100010 = false) := by
  refine ⟨?_, ?_, ?_⟩ <;> decide +kernel

theorem witness_SidebandCommands_address :
    (let d := (hosted Dev.reset).modPwr fun p => { p with ga := 15 }
     d.i2cOn = true ∧ (0x6F#7).toNat = 0x60 + d.pwr.ga ∧ ¬(0x60#7).toNat = 0x60 + d.pwr.ga) ∧
    (let d := (hosted Dev.reset).modPwr fun p => { p with ga := 0 }
     d.i2cOn = true ∧ (0x60#7).toNat = 0x60 + d.pwr.ga) := by
  decide +kernel

theorem witness_FlashAndKey :
    (let d := (hosted Dev.reset).set Reg.PWR_BOOT_STATUS.PHASE phImage
     d.i2cOn = true ∧ d.get Reg.PWR_BOOT_STATUS.PHASE = phImage) ∧
    (let d : Dev := { ready 0 (hosted Dev.reset) with img := { Dev.reset.img with erasing := some 1, key := some (List.replicate 32 5#8) } }
     d.i2cOn = true ∧ d.get Reg.PWR_BOOT_STATUS.PHASE ≠ phImage ∧ d.img.erasing ≠ none ∧ d.img.key = some (List.replicate 32 5#8) ∧ d.img.key ≠ none) ∧
    (let d := ready 0 (hosted Dev.reset)
     d.get Reg.PWR_BOOT_STATUS.PHASE ≠ phImage ∧ d.img.erasing = none ∧ 1 < (2#8).toNat ∧ (1#8).toNat ≤ 1 ∧ d.img.key = none) ∧
    ((0xFFFFE0#32).toNat + 32 ≤ slotSize ∧ (0xFFFFE0#32).toNat % 32 = 0 ∧ slotSize < (0xFFFFE1#32).toNat + 32 ∧ (List.replicate 32 0#8).length = 32) := by
  refine ⟨?_, ?_, ?_, ?_⟩ <;> decide +kernel

theorem witness_TestPort : (power fun p => { p with seated := false }).pwr.seated = false ∧ (power fun p => { p with seated := true }).pwr.seated = true ∧
    (power fun p => { p with resetN := false }).pwr.resetN = false ∧ (power fun p => { p with resetN := true }).pwr.resetN = true := by
  decide +kernel

/-- The module with its meter changed. -/
def metered (f : Meter → Meter) : Dev := { Dev.reset with meter := f Dev.reset.meter }

theorem witness_MeterCounting :
    ((metered fun m => { m with on := false }).meter.on = false ∧ (metered fun m => { m with on := true }).meter.on = true) ∧
    (∀ x ∈ [1, 2], (metered fun m => { m with tag := some (1023, x) }).meter.tag = some (1023, x)) ∧ (1 < 2 ∧ 2 ≤ 2) ∧
    (let d := metered fun m => { m with tag := none, work := [(1023, 5)] }
     d.meter.tag = none ∧ d.meter.work = [(1023, 5)] ∧ mwf 0 d.meter.now.eBlk = true) ∧
    (tagGood (List.replicate 20 0#8 ++ leBytes 4 (crc32 (List.replicate 20 0#8)).toNat) = true ∧ tagGood [] = false ∧ (ready 0 Dev.reset).tagging = true ∧ heldDev.tagging = false) := by
  refine ⟨?_, ?_, ?_, ?_, ?_⟩ <;> decide +kernel

theorem witness_MeterReadings :
    ((metered fun m => { m with on := false }).meter.on = false ∧ (metered fun m => { m with on := true }).meter.on = true ∧ heldDev.pwr.held = true ∧
      Dev.reset.pwr.held = false) ∧ 1023 < (1024#16).toNat ∧ (1023#16).toNat ≤ 1023 := by
  decide +kernel


end Sys2Proof.Tests
end

/-! ## Every command goes on (O2) -/

namespace Sys2Proof.Machine

/-- Only a removal can answer anything but a change of the module; every other command's meaning has the form `s.does f`. -/
theorem exec_eq_does {i : Instr} {s : State} (h : ∀ m, i ≠ .moduleRemoval m) : ∃ f, exec i s = s.does f := by
  cases i
  case moduleRemoval m => exact absurd rfl (h m)
  all_goals exact ⟨_, rfl⟩

theorem exec_moduleRemoval_underLoad (s : State) {ma : Nat} (h : 1000 < ma) :
    exec (.moduleRemoval ma) s = .fault .brokenUnderLoad := if_pos h

theorem exec_moduleRemoval (s : State) {ma : Nat} (h : ma ≤ 1000) : exec (.moduleRemoval ma) s =
    s.does fun d => (d.modMeter Meter.powerLoss).powerDown.modPwr fun w => { w with seated := false, resetN := false, trstN := false } :=
  if_neg (by omega)

/-- Settles O2: the removal by its current, every other command by the form of its meaning. -/
theorem everyCommandCompletes : Obligations.EveryCommandCompletes := by
  intro i s
  refine ⟨fun m hi hm => hi ▸ exec_moduleRemoval_underLoad s hm, fun hle => ?_⟩
  by_cases hr : ∃ m, i = .moduleRemoval m
  · obtain ⟨m, rfl⟩ := hr
    exact ⟨_, exec_moduleRemoval s (hle m rfl)⟩
  · obtain ⟨f, hf⟩ := exec_eq_does (s := s) fun m hi => hr ⟨m, hi⟩
    exact ⟨f s.dev, hf⟩

/-! ## Recording an event (R350, R369, R372)

What a record in the Gleaner's queue and a margin warning may change, and that the record stands there afterwards. -/

variable (d : Dev)

/-- The register fields that recording an event may change: the counts of lost events, and the drain score with its flag. -/
def reportFields : List Fld :=
  [Reg.FLT_GLN_LOST.CODE, Reg.FLT_GLN_LOST.COUNT, Reg.FLT_ERR.LOST, Reg.FLT_DRAIN.SCORE, Reg.FLT_STATUS.DRAIN]

/-- Only what reports an event differs: its register fields, the fault unit, the interrupts that wait, and what was driven outwards. -/
structure Reported (d e : Dev) : Prop where
  frame : e = { d with regs := e.regs, flt := e.flt, host := e.host, out := e.out }
  fields : regsBut reportFields d e

namespace Reported

variable {d : Dev} {e f : Dev}

theorem refl : Reported d d := ⟨rfl, fun _ _ => rfl⟩

theorem trans (h : Reported d e) (h' : Reported e f) : Reported d f where
  frame := by
    calc f = { e with regs := f.regs, flt := f.flt, host := f.host, out := f.out } := h'.frame
      _ = { d with regs := f.regs, flt := f.flt, host := f.host, out := f.out } := by rw [h.frame]
  fields g hg := (h'.fields g hg).trans (h.fields g hg)

theorem pwr (h : Reported d e) : e.pwr = d.pwr := by rw [h.frame]
theorem mem (h : Reported d e) : e.mem = d.mem := by rw [h.frame]
theorem cores (h : Reported d e) : e.cores = d.cores := by rw [h.frame]
theorem mt (h : Reported d e) : e.mt = d.mt := by rw [h.frame]
theorem meter (h : Reported d e) : e.meter = d.meter := by rw [h.frame]

/-- The input's reading is none of the fields that recording changes. -/
theorem inputReading (h : Reported d e) : e.get Reg.PWR_INPUT.MV10 = d.get Reg.PWR_INPUT.MV10 := h.fields _ (by decide)

end Reported

theorem reported_set {f : Fld} (v : Nat) (h : f ∈ reportFields) : Reported d (d.set f v) :=
  ⟨rfl, fun _ hg => Dev.get_set_other d v (hg f h)⟩

theorem reported_flt (x : FaultUnit) : Reported d { d with flt := x } := ⟨rfl, fun _ _ => rfl⟩

theorem reported_glnLost (code : Nat) : Reported d (d.glnLost code) := by
  have hcode : Reported d (if d.get Reg.FLT_GLN_LOST.COUNT = 0 then d.set Reg.FLT_GLN_LOST.CODE code else d) := by
    split
    · exact reported_set d _ (by decide)
    · exact .refl
  exact ((hcode.trans (reported_set _ _ (by decide : Reg.FLT_GLN_LOST.COUNT ∈ reportFields))).trans
    (reported_set _ _ (by decide : Reg.FLT_ERR.LOST ∈ reportFields))).trans (reported_flt _ _)

theorem reported_logOpen (ev : Ev) : Reported d (d.logOpen ev).2 := by
  unfold Dev.logOpen
  split
  · exact reported_flt d _
  · split
    · exact reported_flt d _
    · exact reported_glnLost d _

theorem reported_msix (v : Nat) : Reported d (d.msix v) := by
  unfold Dev.msix
  split
  · exact .refl
  · split <;> exact ⟨rfl, fun _ _ => rfl⟩

theorem reported_drainUpdate : Reported d d.drainUpdate := by
  have hscore : Reported d (d.set Reg.FLT_DRAIN.SCORE (min (bucketSum d.flt.buckets) 65535)) := reported_set d _ (by decide)
  have hflag (d : Dev) (b : Bool) : Reported d (d.setBit Reg.FLT_STATUS.DRAIN b) := reported_set d _ (by decide)
  unfold Dev.drainUpdate
  dsimp only
  split
  · split
    · exact hscore
    · exact (((hscore.trans (hflag _ true)).trans (reported_logOpen _ _)).trans (reported_msix _ _)).trans (reported_flt _ _)
  · exact hscore.trans (hflag _ false)

theorem reported_addWeight (w : Nat) : Reported d (d.addWeight w) := (reported_flt d _).trans (reported_drainUpdate _)

theorem reported_withdraw (code : Nat) : Reported d (d.withdraw code) := by
  unfold Dev.withdraw
  split
  · exact .refl
  · exact reported_flt d _

/-! ### The record -/

/-- A record of the code stands in the Gleaner's queue, with its last event now. -/
def Dev.noted (code : Nat) : Prop := ∃ r ∈ d.flt.pend, r.code = code ∧ r.last = d.mt

@[simp] theorem GlnRec.again_code (mt : Nat) (r : GlnRec) : (r.again mt).code = r.code := by
  unfold GlnRec.again; split <;> rfl

@[simp] theorem GlnRec.again_last (mt : Nat) (r : GlnRec) : (r.again mt).last = mt := by
  unfold GlnRec.again; split <;> rfl

/-- A coalesced event leaves a record of its code with its time. -/
theorem coalesce_records {mt : Nat} {ev : Ev} {l p : List GlnRec} (h : coalesce mt ev l = some p) :
    ∃ r ∈ p, r.code = ev.code ∧ r.last = mt := by
  induction l generalizing p with
  | nil => cases h
  | cons r rs ih =>
    unfold coalesce at h
    split at h
    · next hs =>
      cases h
      have hcode : ev.code = r.code := by simp_all [Ev.same]
      exact ⟨r.again mt, by simp, by simp [hcode]⟩
    · obtain ⟨q, hq, rfl⟩ := Option.map_eq_some_iff.1 h
      obtain ⟨x, hx, hr⟩ := ih hq
      exact ⟨x, List.mem_cons_of_mem _ hx, hr⟩

/-- A coalesced event leaves every record of the moment in place, its own renewed. -/
theorem coalesce_keeps {mt code : Nat} {ev : Ev} {l p : List GlnRec} (h : coalesce mt ev l = some p)
    (hl : ∃ r ∈ l, r.code = code ∧ r.last = mt) : ∃ r ∈ p, r.code = code ∧ r.last = mt := by
  induction l generalizing p with
  | nil => cases h
  | cons r rs ih =>
    obtain ⟨x, hx, hr⟩ := hl
    unfold coalesce at h
    split at h
    · cases h
      obtain rfl | hx := List.mem_cons.1 hx
      · exact ⟨x.again mt, by simp, by simp [hr.1]⟩
      · exact ⟨x, List.mem_cons_of_mem _ hx, hr⟩
    · obtain ⟨q, hq, rfl⟩ := Option.map_eq_some_iff.1 h
      obtain rfl | hx := List.mem_cons.1 hx
      · exact ⟨x, by simp, hr⟩
      · obtain ⟨y, hy, hr⟩ := ih hq ⟨x, hx, hr⟩
        exact ⟨y, List.mem_cons_of_mem _ hy, hr⟩

/-- A lost event leaves the fault unit, but for the record it owes. -/
theorem Dev.glnLost_flt (code : Nat) : (d.glnLost code).flt = { d.flt with lostOwed := true } := by
  unfold Dev.glnLost; dsimp only; split <;> rfl

/-- With room in the queue, an event that is recorded stands there. -/
theorem noted_logOpen (ev : Ev) (h : d.flt.pend.length < 32) : (d.logOpen ev).2.noted ev.code := by
  unfold Dev.logOpen
  split
  · next hp => exact coalesce_records hp
  · rw [if_pos h]
    exact ⟨ev.record d.mt, by simp, rfl, rfl⟩

variable {d} in
/-- Recording another event leaves what is noted. -/
theorem Dev.noted.logOpen {code : Nat} (h : d.noted code) (ev : Ev) : (d.logOpen ev).2.noted code := by
  unfold Dev.logOpen
  split
  · next hp => exact coalesce_keeps hp h
  · obtain ⟨r, hr, hrec⟩ := h
    split
    · exact ⟨r, List.mem_append_left _ hr, hrec⟩
    · refine ⟨r, ?_, hrec.1, hrec.2.trans (reported_glnLost d _).mt.symm⟩
      rw [Dev.glnLost_flt]
      exact hr

theorem Dev.msix_flt (v : Nat) : (d.msix v).flt = d.flt := by
  unfold Dev.msix
  split
  · rfl
  · split <;> rfl

variable {d} in
theorem Dev.noted.msix {code : Nat} (h : d.noted code) (v : Nat) : (d.msix v).noted code := by
  unfold Dev.noted
  rw [Dev.msix_flt, (reported_msix d v).mt]
  exact h

variable {d} in
/-- The drain score's own record leaves what is noted. -/
theorem Dev.noted.drainUpdate {code : Nat} (h : d.noted code) : d.drainUpdate.noted code := by
  unfold Dev.drainUpdate
  dsimp only
  split
  · split
    · exact h
    · exact Dev.noted.msix (Dev.noted.logOpen (d := Dev.setBit Reg.FLT_STATUS.DRAIN true (d.set Reg.FLT_DRAIN.SCORE _)) h _) _
  · exact h

/-! ### Raising a warning and a module-fatal fault -/

theorem raise_of_warning {ev : Ev} (h : faultClass ev.code = 2) : d.raise ev =
    if (d.logOpen ev).1 then (d.logOpen ev).2.addWeight (drainWeight ev.code) else (d.logOpen ev).2 := by
  simp only [Dev.raise, h]

theorem raise_of_fatal {ev : Ev} (h : faultClass ev.code = 5) : d.raise ev = (d.logOpen ev).2.withdraw ev.code := by
  simp only [Dev.raise, h]

theorem reported_raise_warning {ev : Ev} (h : faultClass ev.code = 2) : Reported d (d.raise ev) := by
  rw [raise_of_warning d h]
  split
  · exact (reported_logOpen d ev).trans (reported_addWeight _ _)
  · exact reported_logOpen d ev

/-- With room in the queue a warning is noted, whatever the drain score then makes of it. -/
theorem noted_raise_warning {ev : Ev} (h : faultClass ev.code = 2) (hroom : d.flt.pend.length < 32) : (d.raise ev).noted ev.code := by
  rw [raise_of_warning d h]
  have hlog := noted_logOpen d ev hroom
  split
  · exact Dev.noted.drainUpdate (d := { (d.logOpen ev).2 with flt := _ }) hlog
  · exact hlog

theorem reported_raise_fatal {ev : Ev} (h : faultClass ev.code = 5) : Reported d (d.raise ev) := by
  rw [raise_of_fatal d h]
  exact (reported_logOpen d ev).trans (reported_withdraw _ _)

theorem logOpen_fatal (ev : Ev) : (d.logOpen ev).2.flt.fatal = d.flt.fatal ∧ (d.logOpen ev).2.flt.dumping = d.flt.dumping := by
  unfold Dev.logOpen
  split
  · exact ⟨rfl, rfl⟩
  · split
    · exact ⟨rfl, rfl⟩
    · rw [Dev.glnLost_flt]; exact ⟨rfl, rfl⟩

/-- A module-fatal fault withdraws the module (R352). -/
theorem raise_fatal_isSome {ev : Ev} (h : faultClass ev.code = 5) : (d.raise ev).flt.fatal.isSome = true := by
  rw [raise_of_fatal d h, Dev.withdraw]
  split
  · next hf => rw [hf]; rfl
  · rfl

/-- The dump is being written afterwards, but where an earlier fatal fault's dump has ended: the first fault begins it, a later one leaves it. -/
theorem raise_fatal_dumping {ev : Ev} (h : faultClass ev.code = 5) :
    (d.raise ev).flt.dumping = (d.flt.fatal.isNone || d.flt.dumping) := by
  obtain ⟨hfatal, hdump⟩ := logOpen_fatal d ev
  rw [raise_of_fatal d h, Dev.withdraw, ← hfatal, ← hdump]
  split
  · next hf => rw [hf]; rfl
  · next hf => rw [hf]; rfl

end Sys2Proof.Machine

/-! ## The module's reset and the input's power (R26 to R44) -/

namespace Sys2Proof.Machine

variable (d : Dev)

/-! ### The MODULE reset (R415) -/

@[simp] theorem Dev.moduleReset_mem : d.moduleReset.mem = d.mem := by
  unfold Dev.moduleReset; dsimp only; split <;> rfl

@[simp] theorem Dev.moduleReset_cores : d.moduleReset.cores = [] := by
  unfold Dev.moduleReset; dsimp only; split <;> rfl

@[simp] theorem Dev.moduleReset_meter : d.moduleReset.meter = d.meter := by
  unfold Dev.moduleReset; dsimp only; split <;> rfl

@[simp] theorem Dev.moduleReset_pwr : d.moduleReset.pwr =
    { d.pwr with booted := false, romBad := false, credit := 0, effJ := 0, effG := 0, limCut := 0, moveTo := 0,
                 afterTrip := d.bit Reg.PWR_STATUS.TRIPPED } := by
  unfold Dev.moduleReset; dsimp only; split <;> rfl

/-- An empty register store gives every field its reset value. -/
theorem Dev.get_of_regs_nil {d : Dev} (h : d.regs = []) (f : Fld) : d.get f = f.reset % 2 ^ f.width := by
  simp [Dev.get, h, mget]

/-- Only the host's PERST_N level and the held dump's fields are written after the registers have gone back to their reset values. -/
theorem Dev.moduleReset_phase : d.moduleReset.get Reg.PWR_BOOT_STATUS.PHASE = 0 := by
  unfold Dev.moduleReset
  dsimp only
  split
  · rw [Dev.get_setBit_other _ _ (by decide), Dev.get_set_other _ _ (by decide), Dev.get_setBit_other _ _ (by decide),
      Dev.get_setBit_other _ _ (by decide), Dev.get_of_regs_nil rfl]
    rfl
  · rw [Dev.get_setBit_other _ _ (by decide), Dev.get_of_regs_nil rfl]
    rfl

/-- A held dump outlives the reset. -/
theorem Dev.moduleReset_dump (h : d.bit Reg.FLT_DUMP.VALID = true) :
    d.moduleReset.bit Reg.FLT_DUMP.VALID = true ∧ d.moduleReset.flt.held = d.flt.held := by
  unfold Dev.moduleReset
  simp only [h, if_true]
  refine ⟨?_, rfl⟩
  rw [Dev.bit_setBit_other _ _ (by decide), Dev.bit_set_other _ _ (by decide), Dev.bit_setBit_same _ _ (by decide)]

/-- The module is in its internal reset: memory and meter as they were, the cores and the boot phase at reset. -/
def InReset (d e : Dev) : Prop :=
  e.pwr.held = true ∧ e.mem = d.mem ∧ e.cores = [] ∧ e.get Reg.PWR_BOOT_STATUS.PHASE = 0 ∧ e.meter = d.meter

theorem inReset_holdReset : InReset d d.holdReset :=
  ⟨rfl, d.moduleReset_mem, d.moduleReset_cores, d.moduleReset_phase, d.moduleReset_meter⟩

theorem Dev.holdReset_pwr : d.holdReset.pwr = { d.moduleReset.pwr with held := true } := rfl

variable {d} in
/-- A change of the pins leaves a module in its reset. -/
theorem InReset.modPwr {e : Dev} {f : Power → Power} (h : InReset d e) (hf : (f e.pwr).held = e.pwr.held) : InReset d (e.modPwr f) := by
  obtain ⟨hheld, hrest⟩ := h
  exact ⟨hf.trans hheld, hrest⟩

variable {d} in
/-- What came before the reset counts by its memory and its meter alone. -/
theorem InReset.of_before {x e : Dev} (h : InReset x e) (hmem : x.mem = d.mem) (hmeter : x.meter = d.meter) : InReset d e := by
  obtain ⟨hheld, hm, hcores, hphase, hmet⟩ := h
  exact ⟨hheld, hm.trans hmem, hcores, hphase, hmet.trans hmeter⟩

/-! ### The loss of power (R40, R44) -/

/-- The module without power. -/
def Dark (e : Dev) : Prop := e.mem = [] ∧ e.cores = [] ∧ e.pwr.stages = false ∧ e.pwr.pwrOk = false ∧ e.pwr.held = true

theorem dark_powerDown : Dark d.powerDown := ⟨rfl, Dev.moduleReset_cores _, rfl, rfl, rfl⟩

theorem Dev.powerDown_meter : d.powerDown.meter = d.meter := Dev.moduleReset_meter _

theorem Meter.powerLoss_on (m : Meter) : m.powerLoss.on = false := by
  unfold Meter.powerLoss
  split
  · next h => simpa using h
  · rfl

theorem Meter.powerOn_on (m : Meter) : m.powerOn.on = true := by
  unfold Meter.powerOn
  split
  · assumption
  · rfl

/-! ### The warning of a low input (R40) -/

theorem faultClass_inputLow : faultClass Flt.PWR_INPUT_LOW = 2 := by decide

/-- What an owed warning changes besides its report: it is no longer owed, once the module is out of reset. -/
theorem reported_lowWarn : Reported (d.modPwr fun w => { w with lowOwed := w.lowOwed && w.held }) d.lowWarn := by
  have hsame (h : (d.pwr.lowOwed && d.pwr.held) = d.pwr.lowOwed) :
      d.modPwr (fun w => { w with lowOwed := w.lowOwed && w.held }) = d := by simp only [Dev.modPwr, h]
  unfold Dev.lowWarn
  cases hh : d.pwr.held <;> cases ho : d.pwr.lowOwed
  case false.true =>
    have hclear : d.modPwr (fun w => { w with lowOwed := w.lowOwed && w.held }) = d.modPwr fun w => { w with lowOwed := false } := by
      simp only [Dev.modPwr, hh, Bool.and_false]
    rw [hclear]
    exact reported_raise_warning _ (ev := { code := Flt.PWR_INPUT_LOW }) faultClass_inputLow
  all_goals
    rw [hsame (by simp [hh, ho])]
    exact .refl

/-- The input's warning is given where it is owed and the module is out of reset. -/
theorem noted_lowWarn (howed : d.pwr.lowOwed = true) (hrun : d.pwr.held = false) (hroom : d.flt.pend.length < 32) :
    d.lowWarn.noted Flt.PWR_INPUT_LOW := by
  unfold Dev.lowWarn
  rw [howed, hrun]
  exact noted_raise_warning _ (ev := { code := Flt.PWR_INPUT_LOW }) faultClass_inputLow hroom

theorem Dev.lowWarn_of_not_owed (h : d.pwr.lowOwed = false) : d.lowWarn = d := by
  simp [Dev.lowWarn, h]

/-! ### The input voltage is told -/

/-- The pins after a level of the input is told to a module in reset: the warning of an entry stays owed. -/
def Power.told (low : Bool) (v : Nat) (w : Power) : Power :=
  { w with mv10 := v, inputLow := low, lowOwed := low && (w.lowOwed || !w.inputLow) }

theorem Dev.inputLevel_of_held (low : Bool) (v : Nat) (h : d.pwr.held = true) :
    d.inputLevel low v = d.modPwr (Power.told low v) := if_pos h

theorem Dev.inputLevel_of_running (low : Bool) (v : Nat) (h : d.pwr.held = false) :
    d.inputLevel low v = ((d.modPwr (Power.told low v)).set Reg.PWR_INPUT.MV10 v).lowWarn :=
  if_neg (by simp [Dev.modPwr, h])

/-- Out of reset the level is shown, and what may be owed is reported. -/
theorem reported_inputLevel (low : Bool) (v : Nat) (h : d.pwr.held = false) :
    Reported ((d.modPwr fun w => { w with mv10 := v, inputLow := low, lowOwed := false }).set Reg.PWR_INPUT.MV10 v) (d.inputLevel low v) := by
  have hreport := reported_lowWarn ((d.modPwr (Power.told low v)).set Reg.PWR_INPUT.MV10 v)
  rw [← d.inputLevel_of_running low v h] at hreport
  simpa [Dev.modPwr, Dev.set, Power.told, h] using hreport

/-- An entry into the low band that was not yet warned of is warned of out of reset. -/
theorem noted_inputLevel (v : Nat) (hrun : d.pwr.held = false) (hentry : d.pwr.inputLow = false ∨ d.pwr.lowOwed = true)
    (hroom : d.flt.pend.length < 32) : (d.inputLevel true v).noted Flt.PWR_INPUT_LOW := by
  rw [d.inputLevel_of_running true v hrun]
  refine noted_lowWarn _ ?_ hrun hroom
  obtain h | h := hentry <;> simp [Power.told, Dev.modPwr, h]

theorem Dev.inputLevel_of_quiet (low : Bool) (v : Nat) (hrun : d.pwr.held = false)
    (hquiet : (low && (d.pwr.lowOwed || !d.pwr.inputLow)) = false) :
    d.inputLevel low v = (d.modPwr (Power.told low v)).set Reg.PWR_INPUT.MV10 v := by
  rw [d.inputLevel_of_running low v hrun]
  exact Dev.lowWarn_of_not_owed _ hquiet

theorem Dev.inputLevel_pwr (low : Bool) (v : Nat) : (d.inputLevel low v).pwr =
    { d.pwr with mv10 := v, inputLow := low, lowOwed := d.pwr.held && (low && (d.pwr.lowOwed || !d.pwr.inputLow)) } := by
  cases h : d.pwr.held
  · rw [(reported_inputLevel d low v h).pwr]; simp [Dev.modPwr, h]
  · rw [d.inputLevel_of_held low v h]; simp [Dev.modPwr, Power.told, h]

@[simp] theorem Dev.inputLevel_mem (low : Bool) (v : Nat) : (d.inputLevel low v).mem = d.mem := by
  cases h : d.pwr.held
  · rw [(reported_inputLevel d low v h).mem]; rfl
  · rw [d.inputLevel_of_held low v h]; rfl

@[simp] theorem Dev.inputLevel_cores (low : Bool) (v : Nat) : (d.inputLevel low v).cores = d.cores := by
  cases h : d.pwr.held
  · rw [(reported_inputLevel d low v h).cores]; rfl
  · rw [d.inputLevel_of_held low v h]; rfl

@[simp] theorem Dev.inputLevel_meter (low : Bool) (v : Nat) : (d.inputLevel low v).meter = d.meter := by
  cases h : d.pwr.held
  · rw [(reported_inputLevel d low v h).meter]; rfl
  · rw [d.inputLevel_of_held low v h]; rfl

theorem Dev.inputLevel_mt (low : Bool) (v : Nat) : (d.inputLevel low v).mt = d.mt := by
  cases h : d.pwr.held
  · rw [(reported_inputLevel d low v h).mt]; rfl
  · rw [d.inputLevel_of_held low v h]; rfl

/-- The register shows the level, out of reset. -/
theorem Dev.inputLevel_reading (low : Bool) {v : Nat} (hv : v < 2 ^ 16) (h : d.pwr.held = false) :
    (d.inputLevel low v).get Reg.PWR_INPUT.MV10 = v := by
  rw [(reported_inputLevel d low v h).inputReading, Dev.get_set_same]
  exact Nat.mod_eq_of_lt hv

/-! ### The internal reset ends (R42) -/

theorem Dev.releaseReset_of_not_ready (h : d.pwr.held = false ∨ (d.pwr.pwrOk && d.pwr.resetN) = false) : d.releaseReset = d := by
  refine if_neg ?_
  rw [Bool.and_assoc]
  obtain h | h := h <;> simp [h]

theorem Dev.releaseReset_of_ready (hheld : d.pwr.held = true) (hready : (d.pwr.pwrOk && d.pwr.resetN) = true) :
    d.releaseReset = (d.modPwr fun w => { w with held := false }).lowWarn :=
  if_pos (by rw [Bool.and_assoc, hheld, hready]; rfl)

/-! ### The input appears -/

/-- Whether an input at `v` starts the stages: the rising threshold lies between 44.5 V and 45.5 V (R40, log entry 1). -/
def Dev.startsAt (v : Nat) : Bool := if v < 4450 then false else if 4550 < v then true else Config.freeBit d.freeIdx

/-- The module with its input at `v`, before the level is told: the meter follows 20 V and the stages the rising threshold. -/
def Dev.energised (v : Nat) (d : Dev) : Dev :=
  { d with
    meter := if 2000 ≤ v then d.meter.powerOn else d.meter.powerLoss
    freeIdx := if d.pwr.stages = false ∧ 4450 ≤ v ∧ v ≤ 4550 then d.freeIdx + 1 else d.freeIdx
    pwr := { d.pwr with fuse := false, mv10 := v, stages := d.pwr.stages || d.startsAt v, overV := d.pwr.stages && d.pwr.overV } }

theorem Dev.energised_meter_on (v : Nat) : (d.energised v).meter.on = decide (2000 ≤ v) := by
  show (if 2000 ≤ v then d.meter.powerOn else d.meter.powerLoss).on = _
  split
  · next h => simp [Meter.powerOn_on, h]
  · next h => simp [Meter.powerLoss_on, h]

/-- An input that runs the stages is told to the module. -/
theorem Dev.inputOn_eq (v : Nat) : d.inputOn v =
    if (d.energised v).pwr.stages then (d.energised v).inputLevel (decide (v < 4800)) v else d.energised v := by
  have hmeter : (if 2000 ≤ v then Meter.powerOn else Meter.powerLoss) d.meter = if 2000 ≤ v then d.meter.powerOn else d.meter.powerLoss := by
    split <;> rfl
  cases hs : d.pwr.stages
  case true => simp [Dev.inputOn, Dev.energised, Dev.modPwr, Dev.modMeter, hs, hmeter]
  case false =>
    by_cases hlow : v < 4450
    · have : ¬4450 ≤ v := by omega
      simp [Dev.inputOn, Dev.energised, Dev.modPwr, Dev.modMeter, Dev.startsAt, hs, hmeter, hlow, this]
    · by_cases hhigh : 4550 < v
      · have : ¬v ≤ 4550 := by omega
        simp [Dev.inputOn, Dev.energised, Dev.modPwr, Dev.modMeter, Dev.startsAt, hs, hmeter, hlow, hhigh, this]
      · have : 4450 ≤ v ∧ v ≤ 4550 := by omega
        simp [Dev.inputOn, Dev.energised, Dev.modPwr, Dev.modMeter, Dev.startsAt, Dev.freeBit, hs, hmeter, hlow, hhigh, this]

end Sys2Proof.Machine

/-! ## The power pins (O53) -/

namespace Sys2Proof.Machine

/-- A command whose meaning is `f` answers the module that `f` gives. -/
theorem does_of {i : Instr} {s : State} {post : Dev → Prop} {f : Dev → Dev} (h : exec i s = s.does f) (hp : post (f s.dev)) :
    Does i s post := ⟨f s.dev, h, hp⟩

/-- The same where the module that `f` gives is known as `e`. -/
theorem does_of_eq {i : Instr} {s : State} {post : Dev → Prop} {f : Dev → Dev} {e : Dev} (h : exec i s = s.does f) (he : f s.dev = e)
    (hp : post e) : Does i s post := does_of h (he ▸ hp)

variable {s : State}

/-- Only the record of pins and power differs, and it is `w`. -/
def OnlyPins (d e : Dev) (w : Power) : Prop := e = { d with pwr := w }

/-- With room in the Gleaner's queue the low input is warned of. -/
def Warned (d e : Dev) : Prop := d.flt.pend.length < 32 → ∃ r ∈ e.flt.pend, r.code = Flt.PWR_INPUT_LOW ∧ r.last = d.mt

theorem warned_inputLevel (d : Dev) (v : Nat) (hrun : d.pwr.held = false) (hentry : d.pwr.inputLow = false ∨ d.pwr.lowOwed = true) :
    Warned d (d.inputLevel true v) := fun hroom => by
  obtain ⟨r, hr, hcode, hlast⟩ := noted_inputLevel d v hrun hentry hroom
  exact ⟨r, hr, hcode, hlast.trans (d.inputLevel_mt true v)⟩

/-! ### An input appears -/

/-- What a command leaves that brings the input to `v` on a seated module. -/
def Feeds (v : Nat) (d e : Dev) : Prop :=
  e.pwr.seated = true ∧ e.pwr.mv10 = v ∧ e.pwr.fuse = false ∧ e.meter.on = decide (2000 ≤ v) ∧ e.mem = d.mem ∧
    e.cores = d.cores ∧ (d.pwr.held = true → e.regs = d.regs) ∧ (d.pwr.stages = true → e.pwr.stages = true) ∧
    (e.pwr.stages = true → e.pwr.inputLow = decide (v < 4800) ∧ (d.pwr.held = false → e.get Reg.PWR_INPUT.MV10 = v) ∧
      (v < 4800 → d.pwr.inputLow = false → (d.pwr.held = true → e.pwr.lowOwed = true) ∧ (d.pwr.held = false → Warned d e)))

theorem inputOn_stages (d : Dev) (v : Nat) : (d.inputOn v).pwr.stages = (d.pwr.stages || d.startsAt v) := by
  rw [Dev.inputOn_eq]
  split
  · rw [Dev.inputLevel_pwr]; rfl
  · rfl

theorem feeds_inputOn (d : Dev) {v : Nat} (hv : v < 2 ^ 16) (hseated : d.pwr.seated = true) : Feeds v d (d.inputOn v) := by
  have hkeep (h : d.pwr.stages = true) : (d.inputOn v).pwr.stages = true := by rw [inputOn_stages, h]; rfl
  have hmeter := d.energised_meter_on v
  rw [Dev.inputOn_eq] at hkeep ⊢
  split at hkeep
  case isFalse hoff =>
    rw [if_neg hoff]
    exact ⟨hseated, rfl, rfl, hmeter, rfl, rfl, fun _ => rfl, hkeep, fun h => absurd h hoff⟩
  case isTrue hon =>
    rw [if_pos hon]
    have hpwr := (d.energised v).inputLevel_pwr (decide (v < 4800)) v
    refine ⟨by rw [hpwr]; exact hseated, by rw [hpwr], by rw [hpwr]; rfl, by rw [Dev.inputLevel_meter]; exact hmeter,
      Dev.inputLevel_mem _ _ _, Dev.inputLevel_cores _ _ _, fun hheld => ?_, hkeep,
      fun _ => ⟨by rw [hpwr], fun hrun => ?_, fun hlow hout => ⟨fun hheld => ?_, fun hrun => ?_⟩⟩⟩
    · rw [(d.energised v).inputLevel_of_held _ _ hheld]; rfl
    · exact (d.energised v).inputLevel_reading _ hv hrun
    · rw [hpwr]
      simp [Dev.energised, hlow, hheld, hout]
    · rw [decide_eq_true hlow]
      exact warned_inputLevel (d.energised v) v hrun (.inl hout)

/-- The input of a command comes up at `v`: the stages start by the rising threshold, and the level is told. -/
def Fed (s : State) (v : Nat) (i : Instr) : Prop :=
  (s.dev.pwr.stages = false →
    (4550 < v → Does i s fun e => e.pwr.stages = true) ∧ (v < 4450 → Does i s fun e => e.pwr.stages = false) ∧
    (4450 ≤ v → v ≤ 4550 → Does i s fun e => e.pwr.stages = Config.freeBit s.dev.freeIdx)) ∧
  Does i s fun e => Feeds v s.dev e

theorem fed_of_inputOn {i : Instr} {f : Dev → Dev} {v : Nat} (hv : v < 2 ^ 16) (hi : exec i s = s.does f)
    (hf : f s.dev = (s.dev.modPwr fun w => { w with seated := true }).inputOn v) : Fed s v i := by
  have hstages (h : s.dev.pwr.stages = false) : (f s.dev).pwr.stages = s.dev.startsAt v := by
    rw [hf, inputOn_stages]
    simp [Dev.modPwr, Dev.startsAt, h]
  refine ⟨fun h => ⟨fun hhigh => does_of hi ?_, fun hlow => does_of hi ?_, fun hge hle => does_of hi ?_⟩, does_of hi ?_⟩
  · have : ¬v < 4450 := by omega
    simp [hstages h, Dev.startsAt, this, hhigh]
  · simp [hstages h, Dev.startsAt, hlow]
  · have : ¬v < 4450 ∧ ¬4550 < v := by omega
    simp [hstages h, Dev.startsAt, this]
  · rw [hf]
    exact feeds_inputOn (s.dev.modPwr fun w => { w with seated := true }) hv rfl

theorem fed_moduleInsertion (ga : BitVec 4) (v : BitVec 16) (h : s.dev.pwr.seated = false) : Fed s v.toNat (.moduleInsertion ga v) :=
  fed_of_inputOn v.isLt rfl (if_neg (by simp [h]))

theorem fed_powerApplied (v : BitVec 16) (h : s.dev.pwr.seated = true) : Fed s v.toNat (.powerApplied v) := by
  refine fed_of_inputOn v.isLt rfl ((if_pos h).trans ?_)
  have hsame : (s.dev.modPwr fun w => { w with seated := true }) = s.dev := by simp only [Dev.modPwr, ← h]
  rw [hsame]

/-! ### The input's protection -/

section
variable {low : Bool} (hseat : s.dev.pwr.seated = true) (hfuse : s.dev.pwr.fuse = false) (hover : s.dev.pwr.overV = false)
  (hoff : s.dev.pwr.stages = false) (hlow : decide (s.dev.pwr.mv10 < 4800) = low)
include hseat hfuse hover hoff hlow

/-- The stages start where nothing keeps them off, and the level last told counts as an entry into the band or as none. -/
theorem does_undervoltageRise {post : Dev → Prop}
    (hp : post ((s.dev.modPwr fun w => { w with stages := true }).inputLevel low s.dev.pwr.mv10)) : Does .undervoltageRise s post :=
  does_of_eq rfl (if_pos (by simp [hseat, hfuse, hover, hoff])) (hlow ▸ hp)

theorem does_undervoltageRise_of_held (hheld : s.dev.pwr.held = true) : Does .undervoltageRise s fun e =>
    OnlyPins s.dev e { s.dev.pwr with stages := true, inputLow := low, lowOwed := low && (s.dev.pwr.lowOwed || !s.dev.pwr.inputLow) } :=
  does_undervoltageRise hseat hfuse hover hoff hlow
    (Dev.inputLevel_of_held (s.dev.modPwr fun w => { w with stages := true }) _ _ hheld)

theorem does_undervoltageRise_of_running (hrun : s.dev.pwr.held = false) : Does .undervoltageRise s fun e =>
    e.pwr.stages = true ∧ e.mem = s.dev.mem ∧ e.cores = s.dev.cores ∧ e.pwr.inputLow = low ∧
      (low = true → s.dev.pwr.inputLow = false → Warned s.dev e) := by
  refine does_undervoltageRise hseat hfuse hover hoff hlow ⟨?_, Dev.inputLevel_mem _ _ _, Dev.inputLevel_cores _ _ _, ?_, fun h hout => ?_⟩
  · rw [Dev.inputLevel_pwr]; rfl
  · rw [Dev.inputLevel_pwr]
  · subst h
    exact warned_inputLevel (s.dev.modPwr fun w => { w with stages := true }) _ hrun (.inl hout)

end

theorem does_undervoltageRise_idle
    (h : s.dev.pwr.seated = false ∨ s.dev.pwr.fuse = true ∨ s.dev.pwr.overV = true ∨ s.dev.pwr.stages = true) :
    Does .undervoltageRise s fun e => e = s.dev := by
  refine does_of rfl (if_neg ?_)
  obtain h | h | h | h := h <;> simp [h]

/-! ### The release of the internal reset -/

/-- A command that may end the internal reset, where `ready` says that PWR_OK and RESET_N allow it and `w` is the state of the pins. -/
def Leaves (s : State) (i : Instr) (ready : Bool) (w : Power) : Prop :=
  (s.dev.pwr.held = false ∨ ready = false → Does i s fun e => OnlyPins s.dev e w) ∧
  (s.dev.pwr.held = true → ready = true →
    (s.dev.pwr.lowOwed = false → Does i s fun e => OnlyPins s.dev e { w with held := false }) ∧
    (s.dev.pwr.lowOwed = true → Does i s fun e =>
      e.pwr = { w with held := false, lowOwed := false } ∧ e.mem = s.dev.mem ∧ e.cores = s.dev.cores ∧ Warned s.dev e))

theorem leaves_of_releaseReset {i : Instr} {ready : Bool} {f : Dev → Dev} {w : Power} (hi : exec i s = s.does f)
    (hf : f s.dev = ({ s.dev with pwr := w } : Dev).releaseReset) (hready : (w.pwrOk && w.resetN) = ready)
    (hheld : w.held = s.dev.pwr.held) (howed : w.lowOwed = s.dev.pwr.lowOwed) : Leaves s i ready w := by
  subst hready
  refine ⟨fun h => does_of_eq hi hf ?_, fun h hr => ?_⟩
  · exact Dev.releaseReset_of_not_ready _ (h.imp_left hheld.trans)
  · have hrelease := hf.trans (Dev.releaseReset_of_ready { s.dev with pwr := w } (hheld.trans h) hr)
    refine ⟨fun ho => does_of_eq hi hrelease ?_, fun ho => does_of_eq hi hrelease ?_⟩
    · exact Dev.lowWarn_of_not_owed _ (howed.trans ho)
    · have hrep := reported_lowWarn (({ s.dev with pwr := w } : Dev).modPwr fun w => { w with held := false })
      refine ⟨?_, hrep.mem, hrep.cores, fun hroom => ?_⟩
      · rw [hrep.pwr]; simp [Dev.modPwr]
      · obtain ⟨r, hr, hcode, hlast⟩ := noted_lowWarn (({ s.dev with pwr := w } : Dev).modPwr fun w => { w with held := false })
          (howed.trans ho) rfl hroom
        exact ⟨r, hr, hcode, hlast.trans hrep.mt⟩

theorem leaves_resetNRelease (h : s.dev.pwr.seated = true) :
    Leaves s .resetNRelease s.dev.pwr.pwrOk { s.dev.pwr with resetN := true } :=
  leaves_of_releaseReset rfl (if_pos h) (Bool.and_true _) rfl rfl

theorem leaves_internalResetRelease :
    Leaves s .internalResetRelease (s.dev.pwr.pwrOk && s.dev.pwr.resetN) s.dev.pwr :=
  leaves_of_releaseReset rfl rfl rfl rfl rfl

/-! ### A rail fails -/

theorem faultClass_rail : faultClass Flt.PWR_RAIL = 5 := by decide

/-- The module with PWR_OK low, and the fault recorded where the steward's rail holds. -/
def Dev.railDown (ok : Bool) (d : Dev) : Dev :=
  if ok then (d.modPwr fun w => { w with pwrOk := false }).raise { code := Flt.PWR_RAIL } else d.modPwr fun w => { w with pwrOk := false }

theorem reported_railDown (d : Dev) (ok : Bool) : Reported (d.modPwr fun w => { w with pwrOk := false }) (d.railDown ok) := by
  unfold Dev.railDown
  split
  · exact reported_raise_fatal _ faultClass_rail
  · exact .refl

theorem railDown_dumping (d : Dev) : (d.railDown true).flt.dumping = (d.flt.fatal.isNone || d.flt.dumping) :=
  raise_fatal_dumping (d.modPwr fun w => { w with pwrOk := false }) (ev := { code := Flt.PWR_RAIL }) faultClass_rail

/-- Out of reset a failing rail leaves the module to its dump or puts it in reset. -/
theorem exec_railFault_of_running {ok : Bool} (hon : s.dev.pwr.stages = true) (hrun : s.dev.pwr.held = false) :
    exec (.railFault ok) s = s.does fun d =>
      if ok && (d.railDown ok).flt.dumping && !(d.railDown ok).pwr.romBad then d.railDown ok else (d.railDown ok).holdReset := by
  simp [exec, execRailFault, State.does, State.on, Dev.railDown, Dev.modPwr, hon, hrun]

/-- While the steward's rail holds and it can write the dump, the module waits for the dump's end. -/
theorem does_railFault_dump (hon : s.dev.pwr.stages = true) (hrun : s.dev.pwr.held = false) (hrom : s.dev.pwr.romBad = false)
    (hdump : s.dev.flt.fatal = none ∨ s.dev.flt.dumping = true) : Does (.railFault true) s fun e =>
      e.pwr = { s.dev.pwr with pwrOk := false } ∧ e.flt.fatal.isSome = true ∧ e.flt.dumping = true ∧ e.mem = s.dev.mem ∧
        e.cores = s.dev.cores := by
  have hrep := reported_railDown s.dev true
  have hdumping : (s.dev.railDown true).flt.dumping = true := by
    rw [railDown_dumping]
    obtain h | h := hdump <;> simp [h]
  have hbad : (s.dev.railDown true).pwr.romBad = false := by rw [hrep.pwr]; exact hrom
  exact does_of_eq (exec_railFault_of_running hon hrun) (if_pos (by simp [hdumping, hbad]))
    ⟨hrep.pwr, raise_fatal_isSome _ (ev := { code := Flt.PWR_RAIL }) faultClass_rail, hdumping, hrep.mem, hrep.cores⟩

/-- Where no dump can be waited for, the module goes into reset at once, and a held dump stays held where the steward's rail fails too. -/
theorem does_railFault_reset {ok : Bool} (hon : s.dev.pwr.stages = true) (hrun : s.dev.pwr.held = false)
    (hnow : ok = true → s.dev.pwr.romBad = true ∨ (s.dev.flt.fatal.isSome = true ∧ s.dev.flt.dumping = false)) :
    Does (.railFault ok) s fun e => InReset s.dev e ∧ e.pwr.pwrOk = false ∧
      (ok = false → s.dev.bit Reg.FLT_DUMP.VALID = true → e.bit Reg.FLT_DUMP.VALID = true ∧ e.flt.held = s.dev.flt.held) := by
  have hrep := reported_railDown s.dev ok
  have hreset : ¬(ok && (s.dev.railDown ok).flt.dumping && !(s.dev.railDown ok).pwr.romBad) = true := by
    cases ok
    case false => simp
    case true =>
      obtain h | ⟨hfatal, hdump⟩ := hnow rfl
      · have : (s.dev.railDown true).pwr.romBad = true := by rw [hrep.pwr]; exact h
        simp [this]
      · simp [railDown_dumping, hdump, Option.isNone_eq_false_iff.2 hfatal]
  refine does_of_eq (exec_railFault_of_running hon hrun) (if_neg hreset)
    ⟨(inReset_holdReset _).of_before hrep.mem hrep.meter, ?_, fun hok hvalid => ?_⟩
  · rw [Dev.holdReset_pwr, Dev.moduleReset_pwr, hrep.pwr]; rfl
  · subst hok
    exact Dev.moduleReset_dump (s.dev.railDown false) hvalid

/-! ### RESET_N (R43) -/

theorem inReset_resetN (d : Dev) : InReset d (d.holdReset.modPwr fun w => { w with resetN := false }) :=
  (inReset_holdReset d).modPwr rfl

theorem does_resetNAssert_short {ns : Nat} (h : ns < 1000) : Does (.resetNAssert ns) s fun e => e = s.dev :=
  does_of_eq (e := s.dev) rfl (by simp [h]) rfl

theorem does_resetNAssert_long {ns : Nat} (h : 10000 ≤ ns) : Does (.resetNAssert ns) s fun e => InReset s.dev e ∧ e.pwr.resetN = false :=
  have hshort : ¬ns < 1000 := by omega
  does_of_eq (e := s.dev.holdReset.modPwr fun w => { w with resetN := false }) rfl (by simp [h, hshort]) ⟨inReset_resetN s.dev, rfl⟩

/-- Between 1 µs and 10 µs the free value decides (log entry 1). -/
theorem does_resetNAssert_between {ns : Nat} (hge : 1000 ≤ ns) (hlt : ns < 10000) :
    (Config.freeBit s.dev.freeIdx = true → Does (.resetNAssert ns) s fun e => InReset s.dev e ∧ e.pwr.resetN = false) ∧
    (Config.freeBit s.dev.freeIdx = false → Does (.resetNAssert ns) s fun e => e = { s.dev with freeIdx := s.dev.freeIdx + 1 }) := by
  have hshort : ¬ns < 1000 := by omega
  have hlong : ¬10000 ≤ ns := by omega
  let x : Dev := { s.dev with freeIdx := s.dev.freeIdx + 1 }
  exact ⟨fun hb => does_of_eq (e := x.holdReset.modPwr fun w => { w with resetN := false }) rfl
      (by simp [hshort, hlong, Dev.freeBit, hb, x]) ⟨(inReset_resetN x).of_before rfl rfl, rfl⟩,
    fun hb => does_of_eq (e := x) rfl (by simp [hshort, hlong, Dev.freeBit, hb, x]) rfl⟩

/-! ### PWR_OK (R37, R42) -/

theorem does_railsInRegulation_of_held {ga : BitVec 4} (hon : s.dev.pwr.stages = true) (hok : s.dev.pwr.pwrOk = false)
    (hheld : s.dev.pwr.held = true) :
    Does (.railsInRegulation ga) s fun e => OnlyPins s.dev e { s.dev.pwr with pwrOk := true, ga := ga.toNat } :=
  does_of_eq (e := s.dev.modPwr fun w => { w with pwrOk := true, ga := ga.toNat }) rfl (by simp [hon, hok, hheld]) rfl

/-- With PWR_OK the reset begins that a dump still held off (log entry 33). -/
theorem does_railsInRegulation_of_running {ga : BitVec 4} (hon : s.dev.pwr.stages = true) (hok : s.dev.pwr.pwrOk = false)
    (hrun : s.dev.pwr.held = false) :
    Does (.railsInRegulation ga) s fun e => InReset s.dev e ∧ e.pwr.pwrOk = true ∧ e.pwr.ga = ga.toNat :=
  does_of_eq (e := s.dev.holdReset.modPwr fun w => { w with pwrOk := true, ga := ga.toNat }) rfl (by simp [hon, hok, hrun])
    ⟨(inReset_holdReset s.dev).modPwr rfl, rfl, rfl⟩

theorem does_railsInRegulation_idle {ga : BitVec 4} (h : s.dev.pwr.stages = false ∨ s.dev.pwr.pwrOk = true) :
    Does (.railsInRegulation ga) s fun e => e = s.dev := by
  refine does_of rfl (if_neg ?_)
  obtain h | h := h <;> simp [h]

/-! ### The band of low input (R40) -/

theorem does_inputLowEntry (v : BitVec 16) (hon : s.dev.pwr.stages = true) {post : Dev → Prop}
    (hp : post (s.dev.inputLevel true v.toNat)) : Does (.inputLowEntry v) s post := does_of_eq rfl (if_pos hon) hp

/-- Out of reset an entry is shown, and warned of where none was. -/
theorem does_inputLowEntry_of_running (v : BitVec 16) (hon : s.dev.pwr.stages = true) (hrun : s.dev.pwr.held = false) :
    Does (.inputLowEntry v) s fun e =>
      e.pwr = { s.dev.pwr with inputLow := true, mv10 := v.toNat, lowOwed := false } ∧ e.get Reg.PWR_INPUT.MV10 = v.toNat ∧
      e.mem = s.dev.mem ∧ e.cores = s.dev.cores ∧ (s.dev.pwr.inputLow = false ∨ s.dev.pwr.lowOwed = true → Warned s.dev e) ∧
      (s.dev.pwr.inputLow = true → s.dev.pwr.lowOwed = false → e.flt = s.dev.flt) := by
  refine does_inputLowEntry v hon ⟨?_, Dev.inputLevel_reading _ _ v.isLt hrun, Dev.inputLevel_mem _ _ _, Dev.inputLevel_cores _ _ _,
    warned_inputLevel _ _ hrun, fun hlow hpaid => ?_⟩
  · rw [Dev.inputLevel_pwr, hrun]; rfl
  · rw [Dev.inputLevel_of_quiet _ _ _ hrun (by simp [hlow, hpaid])]; rfl

theorem does_inputLowExit_of_running (v : BitVec 16) (hrun : s.dev.pwr.held = false) :
    Does (.inputLowExit v) s fun e =>
      e = { s.dev with regs := e.regs, pwr := { s.dev.pwr with inputLow := false, mv10 := v.toNat, lowOwed := false } } ∧
        regsBut [Reg.PWR_INPUT.MV10] s.dev e ∧ e.get Reg.PWR_INPUT.MV10 = v.toNat :=
  does_of_eq rfl (Dev.inputLevel_of_quiet s.dev false v.toNat hrun rfl)
    ⟨rfl, fun _ hg => Dev.get_set_other _ _ (hg _ (List.mem_singleton_self _)), (Dev.get_set_same _ _ _).trans (Nat.mod_eq_of_lt v.isLt)⟩

/-! ### The statement -/

/-- Settles O53, clause by clause: the levels of the input by `Feeds` and the rules of `inputLevel`, the losses of power by `dark_powerDown`,
the resets by `inReset_holdReset`, the release by `Leaves`. -/
theorem powerPins : Obligations.PowerPins := by
  intro s
  refine ⟨?inputOn, ?removal, ?fall, ?overvoltage, ?overcurrent, ?rise, does_undervoltageRise_idle, ?rails, fun _ => does_railsInRegulation_idle, ?resetN,
    fun h => does_of rfl (if_neg (by simp [h])), leaves_resetNRelease, leaves_internalResetRelease, ?lowInput, ?railFault⟩
  case inputOn =>
    exact fun ga v => ⟨fed_moduleInsertion ga v, fun h => does_of rfl (if_pos h), fed_powerApplied v,
      fun h => does_of rfl (if_neg (by simp [h]))⟩
  case removal =>
    exact fun ma => ⟨exec_moduleRemoval_underLoad s, fun h => does_of (exec_moduleRemoval s h)
      ⟨dark_powerDown _, rfl, rfl, rfl, (congrArg Meter.on (Dev.powerDown_meter _)).trans (Meter.powerLoss_on _)⟩⟩
  case fall => exact does_of rfl ⟨dark_powerDown _, rfl, Dev.powerDown_meter _⟩
  case overvoltage => exact does_of rfl ⟨dark_powerDown _, rfl, Dev.powerDown_meter _⟩
  case overcurrent => exact does_of rfl ⟨dark_powerDown _, rfl, Dev.powerDown_meter _⟩
  case rise =>
    exact fun hseat hfuse hover hoff =>
      ⟨fun hv => does_undervoltageRise_of_held hseat hfuse hover hoff (decide_eq_false (Nat.not_lt.2 hv)),
        fun hv => does_undervoltageRise_of_held hseat hfuse hover hoff (decide_eq_true hv),
        fun hrun => (does_undervoltageRise_of_running hseat hfuse hover hoff rfl hrun).imp
          fun _ ⟨hexec, hon, hmem, hcores, hlow, hwarn⟩ => ⟨hexec, hon, hmem, hcores, hlow, fun hv => hwarn (decide_eq_true hv)⟩⟩
  case rails => exact fun ga hon hok => ⟨does_railsInRegulation_of_held hon hok, does_railsInRegulation_of_running hon hok⟩
  case resetN => exact fun ns => ⟨does_resetNAssert_short, does_resetNAssert_long, does_resetNAssert_between⟩
  case lowInput =>
    exact fun v => ⟨fun h => does_of rfl (if_neg (by simp [h])),
      fun hheld => ⟨fun hon => does_inputLowEntry v hon (Dev.inputLevel_of_held s.dev _ _ hheld),
        does_of_eq rfl (Dev.inputLevel_of_held s.dev _ _ hheld) rfl⟩,
      fun hrun => ⟨fun hon => does_inputLowEntry_of_running v hon hrun, does_inputLowExit_of_running v hrun⟩⟩
  case railFault =>
    refine fun ok => ⟨fun h => does_of rfl (if_pos (by simp [h])), fun hon => ⟨fun hheld => ?_, fun hrun =>
      ⟨fun hok hrom hdump => ?_, fun hok hlate => ?_, fun hok => ?_⟩⟩⟩
    · exact does_of_eq (e := s.dev.modPwr fun w => { w with pwrOk := false }) rfl (by simp [Dev.modPwr, hon, hheld]) rfl
    · subst hok
      exact does_railFault_dump hon hrun hrom hdump
    · exact (does_railFault_reset hon hrun fun _ => hlate).imp fun _ ⟨hexec, hreset, hpwrOk, _⟩ => ⟨hexec, hreset, hpwrOk⟩
    · exact (does_railFault_reset hon hrun fun h => by simp [hok] at h).imp
        fun _ ⟨hexec, hreset, hpwrOk, hkept⟩ => ⟨hexec, hreset, hpwrOk, hkept hok⟩

end Sys2Proof.Machine

/-! ## The canonical NaN (O8)

R50, R51: a value forgets the payload and the sign of a NaN code, so every NaN that is written is its format's one code. -/

namespace Sys2Proof.Machine

theorem Val.isNan_iff {v : Val} : v.isNan = true ↔ v = .nan := by cases v <;> simp [Val.isNan]

@[simp] theorem Val.nan_add (v : Val) : Val.add .nan v = (.nan, false) := rfl
@[simp] theorem Val.add_nan (v : Val) : Val.add v .nan = (.nan, false) := by cases v <;> rfl
@[simp] theorem Val.nan_mul (v : Val) : Val.mul .nan v = (.nan, false) := rfl
@[simp] theorem Val.mul_nan (v : Val) : Val.mul v .nan = (.nan, false) := by cases v <;> rfl

@[simp] theorem FpFmt.roundArith_nan (f : FpFmt) (rnd : Rnd) : f.roundArith rnd .nan = (f.nanCode, Flags.zero) := rfl

@[simp] theorem FpFmt.convert_nan (f : FpFmt) (rnd : Rnd) (sat : Bool) : f.convert rnd sat .nan = (f.nanCode, Flags.zero) := rfl

/-- The canonical codes that R50 lists. -/
theorem nanCode_of_r50 :
    ∀ p ∈ [(fp32, 0x7FC00000), (fp16, 0x7E00), (bf16, 0x7FC0), (e4m3, 0x7F), (e5m2, 0x7E)], p.1.nanCode = p.2 := by decide

/-- Settles O8: the decoded value is `Val.nan`, which rounding and conversion write as `nanCode` and which addition and multiplication keep. -/
theorem canonicalNan : Obligations.CanonicalNan := by
  intro src w rnd sat hnan
  rw [Val.isNan_iff.1 hnan]
  refine ⟨fun p hp => ?_, fun v => by simp⟩
  have hcode := nanCode_of_r50 p hp
  exact ⟨hcode, hcode⟩

end Sys2Proof.Machine

/-! ## Changes of register fields alone -/

namespace Sys2Proof.Machine

variable {d e f : Dev} {fs gs : List Fld}

theorem regsBut.refl : regsBut fs d d := fun _ _ => rfl

theorem regsBut.trans (h : regsBut fs d e) (h' : regsBut fs e f) : regsBut fs d f := fun g hg => (h' g hg).trans (h g hg)

theorem onlyRegs.refl : onlyRegs fs d d := ⟨rfl, .refl⟩

theorem onlyRegs.trans (h : onlyRegs fs d e) (h' : onlyRegs fs e f) : onlyRegs fs d f := by
  refine ⟨?_, h.2.trans h'.2⟩
  calc f = { e with regs := f.regs } := h'.1
    _ = { d with regs := f.regs } := by rw [h.1]

theorem onlyRegs.mono (h : onlyRegs fs d e) (hsub : fs ⊆ gs) : onlyRegs gs d e :=
  ⟨h.1, fun g hg => h.2 g fun x hx => hg x (hsub hx)⟩

theorem onlyRegs_set {x : Fld} (d : Dev) (v : Nat) (h : x ∈ fs) : onlyRegs fs d (d.set x v) :=
  ⟨rfl, fun _ hg => Dev.get_set_other d v (hg x h)⟩

theorem onlyRegs_setBit {x : Fld} (d : Dev) (b : Bool) (h : x ∈ fs) : onlyRegs fs d (d.setBit x b) := onlyRegs_set d _ h

theorem onlyRegs_flag {x cnt : Fld} (d : Dev) (hx : x ∈ fs) (hcnt : cnt ∈ fs) : onlyRegs fs d (d.flag x cnt) :=
  (onlyRegs_setBit d true hx).trans (onlyRegs_set _ _ hcnt)

theorem onlyRegs_set64 (d : Dev) (x : Fld) (v : Nat) : onlyRegs [x, x.hi] d (d.set64 x v) :=
  (onlyRegs_set d _ (by simp)).trans (onlyRegs_set _ _ (by simp))

theorem onlyRegs_ite {p : Prop} [Decidable p] (h : onlyRegs fs d e) (h' : onlyRegs fs d f) : onlyRegs fs d (if p then e else f) := by
  split <;> assumption

/-- A field keeps its value as a flag too. -/
theorem Dev.bit_congr {g : Fld} (h : e.get g = d.get g) : e.bit g = d.bit g := by simp only [Dev.bit, h]

end Sys2Proof.Machine

/-! ## The arithmetic flags of a core (R67 to R69)

Hardware's raising of flags and software's clearing of them are one walk over the flags, each step with its own fields. -/

namespace Sys2Proof.Machine

variable {d e : Dev}

/-- An arithmetic flag: its place in CORE_SEQ_FPFLAGS, its field, and its counter where it has one. -/
structure FpItem where
  place : Nat
  flag : Fld
  cnt : Option Fld

/-- The fields of a flag. -/
def FpItem.flds (x : FpItem) : List Fld := x.flag :: x.cnt.toList

/-- The five flags of arithmetic (R67); inexact has no counter (R68). -/
def arithItems (c : Nat) : List FpItem :=
  [⟨0, Reg.CORE_SEQ_FPFLAGS.INVALID c, some (Reg.CORE_SEQ_FPEVENTS.INVALID_CNT c)⟩,
   ⟨1, Reg.CORE_SEQ_FPFLAGS.DIVZERO c, some (Reg.CORE_SEQ_FPEVENTS.DIVZERO_CNT c)⟩,
   ⟨2, Reg.CORE_SEQ_FPFLAGS.OVERFLOW c, some (Reg.CORE_SEQ_FPEVENTS.OVERFLOW_CNT c)⟩,
   ⟨3, Reg.CORE_SEQ_FPFLAGS.UNDERFLOW c, some (Reg.CORE_SEQ_FPEVENTS.UNDERFLOW_CNT c)⟩,
   ⟨4, Reg.CORE_SEQ_FPFLAGS.INEXACT c, none⟩]

/-- All six flags, with that of R68 for non-finite elements. -/
def fpItems (c : Nat) : List FpItem :=
  arithItems c ++ [⟨5, Reg.CORE_SEQ_FPFLAGS.NONFINITE c, some (Reg.CORE_SEQ_FPEVENTS.NONFINITE_CNT c)⟩]

/-- The flag's part of a cycle in which software clears the places `clear` and hardware raises the places `hw`. -/
def fpStep (clear hw : Nat → Bool) (d : Dev) (x : FpItem) : Dev := d.fpClear (clear x.place) (hw x.place) x.flag x.cnt

/-- A flag of one bit and its counter, in fields of their own. -/
def FpItem.ok (x : FpItem) : Prop := x.flag.width = 1 ∧ ∀ k ∈ x.cnt, 0 < k.width ∧ k.key ≠ x.flag.key

/-- No field belongs to both flags. -/
def FpItem.apart (x y : FpItem) : Prop := ∀ f ∈ x.flds, ∀ g ∈ y.flds, f.key ≠ g.key

/-- The flags are the low bits of CORE_SEQ_FPFLAGS, the counters six bits each of CORE_SEQ_FPEVENTS. -/
theorem fpItems_eq (c : Nat) : fpItems c =
    [⟨0, ⟨0x01000040 + c * 0x40000, 0, 1, 0⟩, some ⟨0x01000044 + c * 0x40000, 0, 6, 0⟩⟩,
     ⟨1, ⟨0x01000040 + c * 0x40000, 1, 1, 0⟩, some ⟨0x01000044 + c * 0x40000, 6, 6, 0⟩⟩,
     ⟨2, ⟨0x01000040 + c * 0x40000, 2, 1, 0⟩, some ⟨0x01000044 + c * 0x40000, 12, 6, 0⟩⟩,
     ⟨3, ⟨0x01000040 + c * 0x40000, 3, 1, 0⟩, some ⟨0x01000044 + c * 0x40000, 18, 6, 0⟩⟩,
     ⟨4, ⟨0x01000040 + c * 0x40000, 4, 1, 0⟩, none⟩,
     ⟨5, ⟨0x01000040 + c * 0x40000, 5, 1, 0⟩, some ⟨0x01000044 + c * 0x40000, 24, 6, 0⟩⟩] := rfl

theorem fpItems_ok (c : Nat) : ∀ x ∈ fpItems c, x.ok := by
  simp [fpItems_eq, FpItem.ok, Fld.key]
  omega

theorem fpItems_apart (c : Nat) : (fpItems c).Pairwise FpItem.apart := by
  simp [fpItems_eq, FpItem.apart, FpItem.flds, Fld.key]
  omega

theorem arithItems_subset (c : Nat) : arithItems c ⊆ fpItems c := List.subset_append_left _ _

/-! ### One flag -/

section
variable {clear hw : Nat → Bool} {x : FpItem}

theorem onlyRegs_fpStep : onlyRegs x.flds d (fpStep clear hw d x) := by
  obtain ⟨n, f, cnt⟩ := x
  have hf : f ∈ FpItem.flds ⟨n, f, cnt⟩ := List.mem_cons_self
  cases cnt with
  | none => exact (onlyRegs_ite (onlyRegs_setBit d false hf) .refl).trans (onlyRegs_ite (onlyRegs_setBit _ true hf) .refl)
  | some k =>
    have hk : k ∈ FpItem.flds ⟨n, f, some k⟩ := by simp [FpItem.flds]
    exact (onlyRegs_ite ((onlyRegs_setBit d false hf).trans (onlyRegs_set _ 0 hk)) .refl).trans
      (onlyRegs_ite (onlyRegs_flag _ hf hk) .refl)

/-- A flag that hardware raises is 1 even where software clears it (R69). -/
theorem bit_fpStep (hx : x.ok) : (fpStep clear hw d x).bit x.flag = (hw x.place || (!clear x.place && d.bit x.flag)) := by
  obtain ⟨n, f, cnt⟩ := x
  obtain ⟨hwidth, hcnt⟩ := hx
  have hw1 : 0 < f.width := by simp_all
  cases cnt with
  | none => cases hc : clear n <;> cases hh : hw n <;> simp [fpStep, Dev.fpClear, hc, hh, Dev.bit_setBit_same _ _ hw1]
  | some k =>
    have hk : f.key ≠ k.key := ((hcnt k rfl).2).symm
    cases hc : clear n <;> cases hh : hw n <;>
      simp [fpStep, Dev.fpClear, Dev.flag, Dev.addSat, hc, hh, Dev.bit_set_other _ _ hk, Dev.bit_setBit_same _ _ hw1]

/-- The counter counts the raising, from 0 where software clears it in the same cycle, and saturates (R68, R69). -/
theorem get_cnt_fpStep (hx : x.ok) {k : Fld} (hk : k ∈ x.cnt) : (fpStep clear hw d x).get k =
    if hw x.place then min ((if clear x.place then 0 else d.get k) + 1) (2 ^ k.width - 1) else if clear x.place then 0 else d.get k := by
  obtain ⟨n, f, cnt⟩ := x
  obtain ⟨-, hcnt⟩ := hx
  obtain rfl : cnt = some k := hk
  have hkey : k.key ≠ f.key := (hcnt k rfl).2
  have hfits (v : Nat) : min v (2 ^ k.width - 1) % 2 ^ k.width = min v (2 ^ k.width - 1) :=
    Nat.mod_eq_of_lt (by have := Nat.two_pow_pos k.width; omega)
  cases hc : clear n <;> cases hh : hw n <;>
    simp [fpStep, Dev.fpClear, Dev.flag, Dev.addSat, hc, hh, Dev.get_setBit_other _ _ hkey, hfits]

end

/-! ### All flags -/

section
variable {clear hw : Nat → Bool} {items : List FpItem}

theorem onlyRegs_foldl_fpStep : onlyRegs (items.flatMap FpItem.flds) d (items.foldl (fpStep clear hw) d) := by
  induction items generalizing d with
  | nil => exact .refl
  | cons x xs ih =>
    exact (onlyRegs_fpStep.mono (by simp)).trans (ih.mono (by simp))

/-- In the walk over all flags each flag's fields take what its own step gives, on a module where they were as before. -/
theorem exists_fpStep_of_foldl (hapart : items.Pairwise FpItem.apart) {x : FpItem} (hx : x ∈ items) :
    ∃ d' : Dev, (∀ g ∈ x.flds, d'.get g = d.get g) ∧
      ∀ g ∈ x.flds, (items.foldl (fpStep clear hw) d).get g = (fpStep clear hw d' x).get g := by
  induction items generalizing d with
  | nil => cases hx
  | cons y ys ih =>
    obtain ⟨hy, hys⟩ := List.pairwise_cons.1 hapart
    obtain rfl | hx := List.mem_cons.1 hx
    · refine ⟨d, fun _ _ => rfl, fun g hg => (onlyRegs_foldl_fpStep (d := fpStep clear hw d x) (items := ys)).2 g fun f hf => ?_⟩
      obtain ⟨z, hz, hfz⟩ := List.mem_flatMap.1 hf
      exact hy z hz g hg f hfz
    · obtain ⟨d', hd', hstep⟩ := ih (d := fpStep clear hw d y) hys hx
      exact ⟨d', fun g hg => (hd' g hg).trans (onlyRegs_fpStep.2 g fun f hf => (hy x hx f hf g hg).symm), hstep⟩

theorem bit_foldl_fpStep (hapart : items.Pairwise FpItem.apart) {x : FpItem} (hx : x ∈ items) (hok : x.ok) :
    (items.foldl (fpStep clear hw) d).bit x.flag = (hw x.place || (!clear x.place && d.bit x.flag)) := by
  obtain ⟨d', hd', hstep⟩ := exists_fpStep_of_foldl hapart hx
  rw [Dev.bit_congr (hstep x.flag List.mem_cons_self), bit_fpStep hok, Dev.bit_congr (hd' x.flag List.mem_cons_self)]

theorem get_cnt_foldl_fpStep (hapart : items.Pairwise FpItem.apart) {x : FpItem} (hx : x ∈ items) (hok : x.ok) {k : Fld}
    (hk : k ∈ x.cnt) : (items.foldl (fpStep clear hw) d).get k =
      if hw x.place then min ((if clear x.place then 0 else d.get k) + 1) (2 ^ k.width - 1) else if clear x.place then 0 else d.get k := by
  obtain ⟨d', hd', hstep⟩ := exists_fpStep_of_foldl hapart hx
  have hmem : k ∈ x.flds := List.mem_cons_of_mem _ (Option.mem_toList.2 hk)
  rw [hstep k hmem, get_cnt_fpStep hok hk, hd' k hmem]

end

/-! ### Software's clear (R69) -/

theorem Dev.fpflagsClear_eq (d : Dev) (c mask hw : Nat) :
    d.fpflagsClear c mask hw = (fpItems c).foldl (fpStep mask.testBit hw.testBit) d := rfl

section
variable {c mask hw : Nat} {x : FpItem}

theorem onlyRegs_fpflagsClear (d : Dev) (c mask hw : Nat) :
    onlyRegs ((fpItems c).flatMap FpItem.flds) d (d.fpflagsClear c mask hw) := onlyRegs_foldl_fpStep

theorem bit_fpflagsClear (hx : x ∈ fpItems c) :
    (d.fpflagsClear c mask hw).bit x.flag = (hw.testBit x.place || (!mask.testBit x.place && d.bit x.flag)) :=
  bit_foldl_fpStep (fpItems_apart c) hx (fpItems_ok c x hx)

theorem get_cnt_fpflagsClear (hx : x ∈ fpItems c) {k : Fld} (hk : k ∈ x.cnt) : (d.fpflagsClear c mask hw).get k =
    if hw.testBit x.place then min ((if mask.testBit x.place then 0 else d.get k) + 1) (2 ^ k.width - 1)
    else if mask.testBit x.place then 0 else d.get k :=
  get_cnt_foldl_fpStep (fpItems_apart c) hx (fpItems_ok c x hx) hk

end

/-! ### Hardware's raising (R67, R68) -/

/-- The raised flags by their places. -/
def Flags.raised (f : Flags) (n : Nat) : Bool := [f.invalid, f.divzero, f.overflow, f.underflow, f.inexact].getD n false

theorem Dev.fpRaise_eq (d : Dev) (c : Nat) (f : Flags) :
    d.fpRaise c f = (arithItems c).foldl (fpStep (fun _ => false) f.raised) d := rfl

theorem onlyRegs_fpRaise (d : Dev) (c : Nat) (f : Flags) : onlyRegs (fpFields c) d (d.fpRaise c f) := by
  rw [Dev.fpRaise_eq]
  exact onlyRegs_foldl_fpStep (items := arithItems c)

theorem bit_fpRaise {c : Nat} {f : Flags} {x : FpItem} (hx : x ∈ arithItems c) :
    (d.fpRaise c f).bit x.flag = (d.bit x.flag || f.raised x.place) := by
  have hapart : (arithItems c).Pairwise FpItem.apart := (fpItems_apart c).sublist (List.sublist_append_left _ _)
  rw [Dev.fpRaise_eq, bit_foldl_fpStep hapart hx (fpItems_ok c x (arithItems_subset c hx)), Bool.or_comm]
  rfl

theorem raisesFlags_fpRaise (d : Dev) (c : Nat) (f : Flags) : raisesFlags c f d (d.fpRaise c f) := by
  have hflags : ∀ x ∈ arithItems c, (d.fpRaise c f).bit x.flag = (d.bit x.flag || f.raised x.place) := fun _ hx => bit_fpRaise hx
  simp only [arithItems, List.forall_mem_cons] at hflags
  obtain ⟨hinvalid, hdivzero, hoverflow, hunderflow, hinexact, -⟩ := hflags
  exact ⟨hinvalid, hdivzero, hoverflow, hunderflow, hinexact⟩

@[simp] theorem Dev.fpRaise_zero (d : Dev) (c : Nat) : d.fpRaise c Flags.zero = d := rfl

end Sys2Proof.Machine

/-! ## Register commands of a core (O17) -/

namespace Sys2Proof.Machine

variable {d e : Dev}

/-- In a module that is awake a write to a core block acts at once. -/
theorem Dev.coreWrite_of_awake (h : awake d) (f : Dev → Dev) : d.coreWrite f = f d := by
  obtain ⟨hon, hglide⟩ := h
  simp only [Dev.coreOn, Bool.and_eq_true, decide_eq_true_eq, Option.isNone_iff_eq_none, Bool.not_eq_true'] at hon
  obtain ⟨⟨hstate, hfatal⟩, hheld⟩ := hon
  simp [Dev.coreWrite, hstate, hfatal, hheld, hglide]

theorem does_coreWrite {i : Instr} {s : State} {f : Dev → Dev} {post : Dev → Prop} (hexec : exec i s = s.does (Dev.coreWrite f))
    (h : awake s.dev) (hp : post (f s.dev)) : Does i s post :=
  does_of_eq hexec (Dev.coreWrite_of_awake h f) hp

/-! ### Events (R145) -/

/-- The register of a half of the events. -/
def evtHalf (c : Nat) (hi : Bool) : Fld := if hi then Reg.CORE_SEQ_EVT_HI.EVT c else Reg.CORE_SEQ_EVT_LO.EVT c

theorem eventFld_eq (c n : Nat) : eventFld c n = evtHalf c (decide (32 ≤ n)) := by
  unfold eventFld evtHalf
  by_cases h : 32 ≤ n
  · rw [if_neg (Nat.not_lt.2 h), if_pos (decide_eq_true h)]
  · rw [if_pos (Nat.not_le.1 h), if_neg fun hd => h (of_decide_eq_true hd)]

theorem evtHalf_width (c : Nat) (hi : Bool) : (evtHalf c hi).width = 32 := by cases hi <;> rfl

theorem evtHalf_key_ne (c : Nat) {a b : Bool} (h : a ≠ b) : (evtHalf c a).key ≠ (evtHalf c b).key := by
  have hkeys : (Reg.CORE_SEQ_EVT_LO.EVT c).key ≠ (Reg.CORE_SEQ_EVT_HI.EVT c).key := by
    show (0x01000020 + c * 0x40000) * 32 + 0 ≠ (0x01000024 + c * 0x40000) * 32 + 0
    omega
  match a, b, h with
  | false, true, _ => exact hkeys
  | true, false, _ => exact hkeys.symm
  | false, false, h => exact absurd rfl h
  | true, true, h => exact absurd rfl h

/-- The events of a half that the mask names are set, the others stay. -/
theorem event_eventSet (d : Dev) (c : Nat) (hi : Bool) (mask : Word) (n : Nat) :
    (d.eventSet c hi mask.toNat).event c n = (d.event c n || (decide (hi = decide (32 ≤ n)) && mask.toNat.testBit (n % 32))) := by
  have hset : d.eventSet c hi mask.toNat = d.set (evtHalf c hi) (d.get (evtHalf c hi) ||| mask.toNat) := rfl
  rw [hset, Dev.event, Dev.event, eventFld_eq]
  by_cases hhalf : hi = decide (32 ≤ n)
  · have hlt : d.get (evtHalf c hi) ||| mask.toNat < 2 ^ 32 := Nat.or_lt_two_pow (evtHalf_width c hi ▸ d.get_lt _) mask.isLt
    rw [← hhalf, Dev.get_set_same, evtHalf_width, Nat.mod_eq_of_lt hlt, Nat.testBit_or]
    simp
  · rw [Dev.get_set_other d _ (evtHalf_key_ne c (Ne.symm hhalf))]
    simp [hhalf]

/-! ### Idle counters (R158, R159) -/

/-- The registers of the idle counters. -/
def idleFields (c : Nat) : List Fld :=
  (List.range 11).flatMap fun n => [Reg.CORE_SEQ_IDLE_LO.COUNT c n, (Reg.CORE_SEQ_IDLE_LO.COUNT c n).hi]

/-- Zeroing counter `m` takes it to 0 and leaves the others. -/
theorem get64_idle_set64 (d : Dev) (c m n : Nat) : (d.set64 (Reg.CORE_SEQ_IDLE_LO.COUNT c m) 0).get64 (Reg.CORE_SEQ_IDLE_LO.COUNT c n) =
    if n = m then 0 else d.get64 (Reg.CORE_SEQ_IDLE_LO.COUNT c n) := by
  have hself : (Reg.CORE_SEQ_IDLE_LO.COUNT c m).key ≠ (Reg.CORE_SEQ_IDLE_LO.COUNT c m).hi.key := by
    simp only [Fld.key, Fld.hi, Reg.CORE_SEQ_IDLE_LO.COUNT]; omega
  split
  · next h =>
    subst h
    simp [Dev.get64, Dev.set64, Dev.get_set_other _ _ hself]
  · next h =>
    have hlo : ∀ f ∈ [Reg.CORE_SEQ_IDLE_LO.COUNT c m, (Reg.CORE_SEQ_IDLE_LO.COUNT c m).hi],
        (Reg.CORE_SEQ_IDLE_LO.COUNT c n).key ≠ f.key ∧ (Reg.CORE_SEQ_IDLE_LO.COUNT c n).hi.key ≠ f.key := by
      simp [Fld.key, Fld.hi, Reg.CORE_SEQ_IDLE_LO.COUNT]; omega
    have hregs := (onlyRegs_set64 d (Reg.CORE_SEQ_IDLE_LO.COUNT c m) 0).2
    simp only [Dev.get64, hregs _ fun f hf => (hlo f hf).1, hregs _ fun f hf => (hlo f hf).2]

theorem onlyRegs_idleClear (d : Dev) (c : Nat) : onlyRegs (idleFields c) d (d.idleClear c) := by
  have hwalk (ns : List Nat) (d : Dev) (hns : ns ⊆ List.range 11) :
      onlyRegs (idleFields c) d (ns.foldl (fun d n => d.set64 (Reg.CORE_SEQ_IDLE_LO.COUNT c n) 0) d) := by
    induction ns generalizing d with
    | nil => exact .refl
    | cons n ns ih =>
      obtain ⟨hn, hns⟩ := List.cons_subset.1 hns
      have hsub : [Reg.CORE_SEQ_IDLE_LO.COUNT c n, (Reg.CORE_SEQ_IDLE_LO.COUNT c n).hi] ⊆ idleFields c :=
        fun _ hf => List.mem_flatMap.2 ⟨n, hn, hf⟩
      exact ((onlyRegs_set64 d _ 0).mono hsub).trans (ih _ hns)
  exact hwalk _ d (List.Subset.refl _)

theorem get64_idleClear (d : Dev) (c : Nat) {n : Nat} (hn : n < 11) :
    (d.idleClear c).get64 (Reg.CORE_SEQ_IDLE_LO.COUNT c n) = 0 := by
  have hwalk (ns : List Nat) (d : Dev) (h : n ∈ ns ∨ d.get64 (Reg.CORE_SEQ_IDLE_LO.COUNT c n) = 0) :
      (ns.foldl (fun d n => d.set64 (Reg.CORE_SEQ_IDLE_LO.COUNT c n) 0) d).get64 (Reg.CORE_SEQ_IDLE_LO.COUNT c n) = 0 := by
    induction ns generalizing d with
    | nil => simpa using h
    | cons m ms ih =>
      refine ih _ ?_
      rw [get64_idle_set64]
      by_cases hm : n = m <;> simp_all
  exact hwalk _ d (.inl (List.mem_range.2 hn))

/-! ### The statement -/

/-- Settles O17: the events by `event_eventSet`, the flags and counters by the values of `fpflagsClear`, the idle counters by those of
`idleClear`. -/
theorem coreRegisterCommands : Obligations.CoreRegisterCommands := by
  intro s c r hawake
  refine ⟨fun hi mask => does_coreWrite rfl hawake ⟨onlyRegs_set _ _ (List.mem_singleton_self _), fun n _ => event_eventSet _ c hi mask n⟩,
    fun mask hw => does_coreWrite rfl hawake ⟨(onlyRegs_fpflagsClear _ c _ _).1, ?flags⟩,
    does_coreWrite rfl hawake ⟨onlyRegs_idleClear _ c, fun n hn => get64_idleClear _ c hn⟩⟩
  case flags =>
    intro x hx
    have hitem : (⟨x.1, x.2.1, some x.2.2⟩ : FpItem) ∈ fpItems c ∧ x.2.2.width = 6 := by
      simp only [List.mem_cons, List.not_mem_nil, or_false] at hx
      obtain rfl | rfl | rfl | rfl | rfl := hx <;> exact ⟨by simp [fpItems, arithItems], rfl⟩
    obtain ⟨hmem, hwidth⟩ := hitem
    have hbit := bit_fpflagsClear (d := s.dev) (mask := mask.toNat) (hw := hw.toNat) hmem
    have hcnt := get_cnt_fpflagsClear (d := s.dev) (mask := mask.toNat) (hw := hw.toNat) hmem rfl
    dsimp only at hbit hcnt
    rw [hbit, hcnt, hwidth]
    refine ⟨fun hm hh => ?_, fun hm hh => ?_, fun hm hh => ?_⟩ <;> simp [hm, hh]

end Sys2Proof.Machine

/-! ## A vector word issues (R108, R116, R125)

Once nothing holds it, the word at the head of the queue leaves it and takes effect on the module that `taken` gives. -/

namespace Sys2Proof.Machine

theorem mput_mput {α : Type} (m : SMap α) (k : Nat) (v v' : α) : mput (mput m k v) k v' = mput m k v' := by
  induction m with
  | nil => simp [mput]
  | cons p r ih =>
    obtain ⟨j, x⟩ := p
    by_cases hj : j = k
    · simp [mput, hj]
    · by_cases hlt : k < j <;> simp [mput, hj, hlt, ih]

/-- The later of two writes to a key counts, where neither writes the default. -/
theorem mset_mset_of_ne {α : Type} [DecidableEq α] {d v v' : α} (m : SMap α) (k : Nat) (hv : v ≠ d) (hv' : v' ≠ d) :
    mset d (mset d m k v) k v' = mset d m k v' := by
  simp [mset, hv, hv', mput_mput]

theorem Core.ne_reset_of_cmd {k : Core} {m : LayerCmd} (h : k.cmd = some m) : k ≠ Core.reset := by
  rintro rfl
  cases h

theorem Dev.setCore_setCore (d : Dev) (c : Nat) {k k' : Core} (h : k ≠ Core.reset) (h' : k' ≠ Core.reset) :
    (d.setCore c k).setCore c k' = d.setCore c k' := by
  simp only [Dev.setCore, mset_mset_of_ne _ _ h h']

@[simp] theorem Core.occupy_cmd (w : Nat) (k : Core) : (k.occupy w).cmd = k.cmd := by
  unfold Core.occupy; split <;> rfl

variable {s : State} {c op : Nat} {w : DWord} {rest : List DWord} {m : LayerCmd} {u : List RfUpset}

theorem vecRow_of_op {n : Nat} (h : vOp n = op) : vecRow op n = true := by simp [vecRow, h]

@[simp] theorem Core.rfUpsets_vq (u : List RfUpset) (k : Core) : (k.rfUpsets u).vq = k.vq := rfl
@[simp] theorem Core.rfUpsets_cmd (u : List RfUpset) (k : Core) : (k.rfUpsets u).cmd = k.cmd := rfl
@[simp] theorem Core.rfUpsets_vl (u : List RfUpset) (k : Core) : (k.rfUpsets u).vl = k.vl := rfl
@[simp] theorem Core.rfUpsets_cu (u : List RfUpset) (k : Core) : (k.rfUpsets u).cu = k.cu := rfl
@[simp] theorem Core.rfUpsets_vecFree (u : List RfUpset) (k : Core) : (k.rfUpsets u).vecFree = k.vecFree := rfl
@[simp] theorem Core.rfUpsets_vecHeld (u : List RfUpset) (k : Core) (n : Nat) : (k.rfUpsets u).vecHeld n = k.vecHeld n := rfl

theorem Dev.vecIssue_of_issues {d : Dev} (h : VecIssues d c op w rest m u) (body : Nat → Nat → Dev → Dev) :
    d.vecIssue c op u body = body w.toNat m.step (taken d c w rest u) := by
  obtain ⟨hon, hqueue, hcmd, hfree, hheld, hrow, hlegal, hunit, hclean⟩ := h
  have htaken := d.setCore_setCore c (k := (d.core c).rfUpsets u) (k' := Core.occupy w.toNat { (d.core c).rfUpsets u with vq := rest })
    (Core.ne_reset_of_cmd (m := m) (by simpa using hcmd)) (Core.ne_reset_of_cmd (m := m) (by simpa using hcmd))
  unfold Dev.vecIssue taken
  dsimp only
  split
  · next bw rest' m' hq hc =>
    obtain ⟨rfl, rfl⟩ : w = bw ∧ rest = rest' := List.cons.inj (hqueue.symm.trans hq)
    obtain rfl : m = m' := Option.some.inj (hcmd.symm.trans hc)
    rw [if_neg (by simp [hon, hfree, vecRow_of_op hrow, hheld]), if_neg (by simp [hlegal]), if_neg (by simpa [hrow] using hunit),
      if_neg hclean, htaken]
  · next hno => exact absurd hcmd (hno w rest m hqueue)

/-! ### A word that changes registers and raises flags -/

/-- The end of such a word: the core's new registers, and the flags that the command and the core take. -/
def Dev.vecEnd (c : Nat) (r : Core × Flags) (d : Dev) : Dev := (d.setCore c r.1).fpRaiseCmd c r.2

theorem Dev.vecRegs_of_issues {d : Dev} (h : VecIssues d c op w rest m u) (f : Core → Nat → Nat → Core × Flags) :
    d.vecRegs c op (.issue u) f = (taken d c w rest u).vecEnd c (f ((taken d c w rest u).core c) w.toNat m.step) :=
  Dev.vecIssue_of_issues h fun w step d => d.vecEnd c (f (d.core c) w step)

theorem does_vecRegs {i : Instr} {f : Core → Nat → Nat → Core × Flags} {post : Dev → Prop}
    (hexec : exec i s = s.does (Dev.vecRegs c op (.issue u) f)) (h : VecIssues s.dev c op w rest m u)
    (hp : post ((taken s.dev c w rest u).vecEnd c (f ((taken s.dev c w rest u).core c) w.toNat m.step))) : Does i s post :=
  does_of_eq hexec (Dev.vecRegs_of_issues h f) hp

variable (d : Dev) (r : Core × Flags)

@[simp] theorem Dev.core_vecEnd_same : (d.vecEnd c r).core c = r.1.noteFlags r.2.toNat := by
  simp only [Dev.vecEnd, Dev.fpRaiseCmd, Dev.core_modCore_same]
  rw [Dev.core, (onlyRegs_fpRaise (d.setCore c r.1) c r.2).1]
  exact congrArg _ (Dev.core_setCore_same d c r.1)

theorem coresBut_vecEnd : coresBut c d (d.vecEnd c r) := fun j hj => by
  rw [Dev.vecEnd, Dev.fpRaiseCmd, Dev.core_modCore_other _ _ hj, Dev.core, (onlyRegs_fpRaise (d.setCore c r.1) c r.2).1]
  exact Dev.core_setCore_other d r.1 hj

theorem regsBut_vecEnd : regsBut (fpFields c) d (d.vecEnd c r) := (onlyRegs_fpRaise (d.setCore c r.1) c r.2).2

theorem regsBut_vecEnd_zero (k : Core) : regsBut [] d (d.vecEnd c (k, Flags.zero)) := fun _ _ => rfl

theorem raisesFlags_vecEnd : raisesFlags c r.2 d (d.vecEnd c r) := raisesFlags_fpRaise (d.setCore c r.1) c r.2

/-- In the core only what a vector word may change differs. -/
def VecKeeps (k k' : Core) : Prop := k' = { k with
  vreg := k'.vreg, vmask := k'.vmask, sreg := k'.sreg, rfEcc := k'.rfEcc, vl := k'.vl, srTid := k'.srTid, srBase := k'.srBase,
  srStep := k'.srStep, cmd := k'.cmd }

theorem VecKeeps.noteFlags {k k' : Core} (h : VecKeeps k k') (n : Nat) : VecKeeps k (k'.noteFlags n) := by
  rw [VecKeeps] at h ⊢
  conv =>
    lhs
    rw [h]
  rfl

variable {d r}

theorem vecFrame_vecEnd {fs : List Fld} (hcore : VecKeeps (d.core c) r.1) (hregs : regsBut fs d (d.vecEnd c r)) :
    vecFrame c fs d (d.vecEnd c r) := by
  refine ⟨?_, coresBut_vecEnd d r, hregs, ?_⟩
  · rw [Dev.vecEnd, Dev.fpRaiseCmd, (onlyRegs_fpRaise (d.setCore c r.1) c r.2).1]
    rfl
  · rw [Dev.core_vecEnd_same]
    exact hcore.noteFlags _

end Sys2Proof.Machine

/-! ## Elements of a vector register (R104, R105) -/

namespace Sys2Proof.Machine

theorem leBytes_eq_map (n v : Nat) : leBytes n v = (List.range n).map fun b => BitVec.ofNat 8 (v / 256 ^ b) := by
  induction n generalizing v with
  | zero => rfl
  | succ n ih => simp [leBytes, ih, List.range_succ_eq_map, Nat.div_div_eq_div_mul, Nat.pow_succ']

theorem leNat_leBytes (n v : Nat) : leNat (leBytes n v) = v % 2 ^ (8 * n) := by
  have hpow : 2 ^ (8 * n) = 256 ^ n := by rw [Nat.pow_mul]
  rw [hpow]
  clear hpow
  induction n generalizing v with
  | zero => simp [leBytes, leNat, Nat.mod_one]
  | succ n ih => simp [leBytes, leNat, ih, Nat.pow_succ', Nat.mod_mul]

/-- Writes of a run of keys: each key of the run reads what was written to it, every other key as before. -/
theorem mget_foldl_range (n base : Nat) (g : Nat → Nat) (m : SMap Nat) (key : Nat) :
    mget 0 ((List.range n).foldl (fun m b => mset 0 m (base + b) (g b)) m) key =
      if base ≤ key ∧ key < base + n then g (key - base) else mget 0 m key := by
  induction n with
  | zero =>
    have hno : ¬(base ≤ key ∧ key < base + 0) := by omega
    rw [if_neg hno]
    rfl
  | succ n ih =>
    rw [List.range_succ, List.foldl_append, List.foldl_cons, List.foldl_nil, mget_mset, ih]
    by_cases hkey : key = base + n
    · simp [hkey]
    · have : (base ≤ key ∧ key < base + (n + 1)) ↔ (base ≤ key ∧ key < base + n) := by omega
      simp [hkey, this]

/-- The store of the vector registers with one element written. -/
def putElem (size r : Nat) (m : SMap Nat) (e : Nat × Nat) : SMap Nat :=
  (List.range size).foldl (fun m b => mset 0 m (4096 * r + size * e.1 + b) (BitVec.ofNat 8 (e.2 / 256 ^ b)).toNat) m

/-- An element as it stands in the store. -/
def elemAt (size r : Nat) (m : SMap Nat) (i : Nat) : Nat :=
  leNat ((List.range size).map fun b => BitVec.ofNat 8 (mget 0 m (4096 * r + (size * i + b))))

theorem Core.vElem_eq (k : Core) (size r i : Nat) : k.vElem size r i = elemAt size r k.vreg i := rfl

theorem zipIdx_leBytes (n v : Nat) : (leBytes n v).zipIdx = (List.range n).map fun b => (BitVec.ofNat 8 (v / 256 ^ b), b) := by
  rw [leBytes_eq_map]
  exact List.ext_getElem (by simp) (by simp)

theorem Core.setVElems_vreg (k : Core) (size r : Nat) (es : List (Nat × Nat)) :
    (k.setVElems size r es).vreg = es.foldl (putElem size r) k.vreg := by
  simp only [Core.setVElems, Core.setVBytes, List.foldl_flatMap, zipIdx_leBytes, List.foldl_map, ← Nat.add_assoc]
  rfl

theorem mget_putElem (size r : Nat) (m : SMap Nat) (e : Nat × Nat) (key : Nat) : mget 0 (putElem size r m e) key =
    if 4096 * r + size * e.1 ≤ key ∧ key < 4096 * r + size * e.1 + size then
      (BitVec.ofNat 8 (e.2 / 256 ^ (key - (4096 * r + size * e.1)))).toNat
    else mget 0 m key := mget_foldl_range _ _ _ _ _

theorem elemAt_putElem_same (size r : Nat) (m : SMap Nat) (i v : Nat) : elemAt size r (putElem size r m (i, v)) i = v % 2 ^ (8 * size) := by
  rw [← leNat_leBytes, leBytes_eq_map, elemAt]
  refine congrArg leNat (List.map_congr_left fun b hb => ?_)
  have hb' := List.mem_range.1 hb
  rw [mget_putElem, if_pos (by dsimp only; omega)]
  rw [← Nat.add_assoc, Nat.add_sub_cancel_left, BitVec.ofNat_toNat, BitVec.setWidth_eq]

theorem elemAt_putElem_other (size r : Nat) (m : SMap Nat) {i j : Nat} (v : Nat) (h : j ≠ i) :
    elemAt size r (putElem size r m (i, v)) j = elemAt size r m j := by
  refine congrArg leNat (List.map_congr_left fun b hb => ?_)
  have hb' := List.mem_range.1 hb
  have hapart : size * j + size ≤ size * i ∨ size * i + size ≤ size * j := by
    obtain hlt | hlt := Nat.lt_or_gt_of_ne h
    · exact .inl (Nat.mul_le_mul_left size hlt)
    · exact .inr (Nat.mul_le_mul_left size hlt)
  rw [mget_putElem, if_neg (by dsimp only; omega)]

theorem elemAt_foldl_putElem_other (size r : Nat) {j : Nat} {es : List (Nat × Nat)} (h : ∀ e ∈ es, e.1 ≠ j) (m : SMap Nat) :
    elemAt size r (es.foldl (putElem size r) m) j = elemAt size r m j := by
  induction es generalizing m with
  | nil => rfl
  | cons e es ih =>
    obtain ⟨he, hes⟩ := List.forall_mem_cons.1 h
    rw [List.foldl_cons, ih hes, elemAt_putElem_other size r m e.2 he.symm]

theorem elemAt_foldl_putElem_mem (size r : Nat) {j v : Nat} {es : List (Nat × Nat)} (hnodup : (es.map Prod.fst).Nodup)
    (h : (j, v) ∈ es) (m : SMap Nat) : elemAt size r (es.foldl (putElem size r) m) j = v % 2 ^ (8 * size) := by
  induction es generalizing m with
  | nil => cases h
  | cons e es ih =>
    obtain ⟨he, hes⟩ := List.nodup_cons.1 hnodup
    obtain rfl | h := List.mem_cons.1 h
    · have hother : ∀ x ∈ es, x.1 ≠ j := fun x hx hj => he (List.mem_map.2 ⟨x, hx, hj⟩)
      rw [List.foldl_cons, elemAt_foldl_putElem_other size r hother, elemAt_putElem_same]
    · exact ih hes h _

/-- Elements that lie within one register leave the keys of the others. -/
theorem mget_foldl_putElem_outside {size r key : Nat} {es : List (Nat × Nat)} (hin : ∀ e ∈ es, size * e.1 + size ≤ 4096)
    (hkey : key < 4096 * r ∨ 4096 * r + 4096 ≤ key) (m : SMap Nat) : mget 0 (es.foldl (putElem size r) m) key = mget 0 m key := by
  induction es generalizing m with
  | nil => rfl
  | cons e es ih =>
    obtain ⟨he, hes⟩ := List.forall_mem_cons.1 hin
    rw [List.foldl_cons, ih hes, mget_putElem, if_neg (by omega)]

end Sys2Proof.Machine

/-! ## A vector register as destination (R106, R107) -/

namespace Sys2Proof.Machine

variable (k : Core) (w size : Nat)

theorem Core.lt_vl_of_isActive {k : Core} {w i : Nat} (h : k.isActive w i = true) : i < k.vl.val := by
  simp only [Core.isActive, Bool.and_eq_true, decide_eq_true_eq] at h
  exact h.1

theorem Core.mem_active {i : Nat} : i ∈ k.active w ↔ k.isActive w i = true := by
  simp only [Core.active, List.mem_filter, List.mem_range, and_iff_right_iff_imp]
  exact Core.lt_vl_of_isActive

theorem Core.mem_zeroed {i : Nat} :
    i ∈ k.zeroed w ↔ (decide (i < k.vl.val) && vMen w && vZm w) = true ∧ k.isActive w i = false := by
  unfold Core.zeroed
  split
  · next h => simp_all
  · next h => simp_all

/-- What an element operation writes: its results to the active elements, zeros to those ZM names. -/
def Core.results (f : Nat → Nat) : List (Nat × Nat) := (k.active w).map (fun i => (i, f i)) ++ (k.zeroed w).map fun i => (i, 0)

theorem Core.results_fst (f : Nat → Nat) : (k.results w f).map Prod.fst = k.active w ++ k.zeroed w := by
  simp [Core.results, Function.comp_def]

theorem Core.results_nodup (f : Nat → Nat) : ((k.results w f).map Prod.fst).Nodup := by
  rw [Core.results_fst]
  have hactive : (k.active w).Nodup := List.nodup_range.filter _
  have hzeroed : (k.zeroed w).Nodup := by
    unfold Core.zeroed
    split
    · exact List.nodup_range.filter _
    · exact .nil
  refine List.pairwise_append.2 ⟨hactive, hzeroed, fun i hi j hj hij => ?_⟩
  have hidle : k.isActive w i = false := ((k.mem_zeroed w).1 (hij ▸ hj)).2
  exact Bool.false_ne_true (hidle.symm.trans ((k.mem_active w).1 hi))

/-- Every element that is written lies below VL. -/
theorem Core.results_lt_vl (f : Nat → Nat) : ∀ e ∈ k.results w f, e.1 < k.vl.val := by
  intro e he
  have hmem : e.1 ∈ k.active w ++ k.zeroed w := k.results_fst w f ▸ List.mem_map_of_mem he
  obtain h | h := List.mem_append.1 hmem
  · exact Core.lt_vl_of_isActive ((k.mem_active w).1 h)
  · have := ((k.mem_zeroed w).1 h).1
    simp_all

theorem Core.elems_fst (f : Nat → Nat × Flags) :
    (k.elems w size f).1 = k.setVElems size (vVd w) (k.results w fun i => (f i).1) := by
  simp [Core.elems, Core.writeBack, Core.results, Function.comp_def]

theorem Core.elems_snd (f : Nat → Nat × Flags) :
    (k.elems w size f).2 = (k.active w).foldl (fun a i => a.or (f i).2) Flags.zero := by
  simp only [Core.elems, List.foldl_map]

theorem vElem_setVElems_results (f : Nat → Nat) (i : Nat) :
    (k.setVElems size (vVd w) (k.results w f)).vElem size (vVd w) i =
      if k.isActive w i then f i % 2 ^ (8 * size)
      else if decide (i < k.vl.val) && vMen w && vZm w then 0 else k.vElem size (vVd w) i := by
  rw [Core.vElem_eq, Core.setVElems_vreg]
  split
  · next hactive =>
    exact elemAt_foldl_putElem_mem _ _ (k.results_nodup w f)
      (List.mem_append_left _ (List.mem_map_of_mem ((k.mem_active w).2 hactive))) _
  · next hactive =>
    split
    · next hzero =>
      have hmem : (i, 0) ∈ k.results w f :=
        List.mem_append_right _ (List.mem_map_of_mem ((k.mem_zeroed w).2 ⟨hzero, by simpa using hactive⟩))
      rw [elemAt_foldl_putElem_mem _ _ (k.results_nodup w f) hmem, Nat.zero_mod]
    · next hzero =>
      refine elemAt_foldl_putElem_other _ _ (fun e he hi => ?_) _
      have hmem : i ∈ k.active w ++ k.zeroed w := k.results_fst w f ▸ hi ▸ List.mem_map_of_mem he
      rw [List.mem_append, Core.mem_active, Core.mem_zeroed] at hmem
      exact hmem.elim hactive fun h => hzero h.1

theorem vByte_setVElems_results (f : Nat → Nat) (hsize : size ≤ 4) {r i : Nat} (hr : r ≠ vVd w) (hi : i < 4096) :
    (k.setVElems size (vVd w) (k.results w f)).vByte r i = k.vByte r i := by
  have hin : ∀ e ∈ k.results w f, size * e.1 + size ≤ 4096 := fun e he => by
    have hlt := k.results_lt_vl w f e he
    have hvl := k.vl.isLt
    calc size * e.1 + size = size * (e.1 + 1) := rfl
      _ ≤ 4 * 1024 := Nat.mul_le_mul hsize (by omega)
  rw [Core.vByte, Core.setVElems_vreg, mget_foldl_putElem_outside hin (by omega)]
  rfl

end Sys2Proof.Machine

/-! ## Comparison, selection and mask words (O21) -/

namespace Sys2Proof.Machine

variable {s : State} {c op : Nat} {w : DWord} {rest : List DWord} {m : LayerCmd} {u : List RfUpset} {d : Dev}

/-! ### Lanes -/

theorem laneSize_le (t : Nat) : laneSize t ≤ 4 := by unfold laneSize; split <;> omega

@[simp] theorem Flags.or_zero (f : Flags) : f.or Flags.zero = f := by simp [Flags.or, Flags.zero]
@[simp] theorem Flags.zero_or (f : Flags) : Flags.zero.or f = f := by simp [Flags.or, Flags.zero]

theorem vecKeeps_elems (k : Core) (n size : Nat) (f : Nat → Nat × Flags) : VecKeeps k (k.elems n size f).1 := rfl

/-- The elements of the destination after an element operation. -/
theorem vecDest_vecEnd_elems {size : Nat} (hsize : size ≤ 4) {f : Nat → Nat × Flags} {g : Nat → Nat}
    (hfg : ∀ i, (f i).1 % 2 ^ (8 * size) = g i % 2 ^ (8 * size)) (fl : Flags) :
    vecDest c w size g d (d.vecEnd c (((d.core c).elems w.toNat size f).1, fl)) := by
  simp only [vecDest, Dev.core_vecEnd_same, Core.elems_fst]
  refine ⟨fun i _ => ?_, fun r i hr hi => ?_, rfl, rfl, rfl, rfl, rfl⟩
  · simp only [← hfg]
    exact vElem_setVElems_results (d.core c) w.toNat size (fun i => (f i).1) i
  · exact vByte_setVElems_results (d.core c) w.toNat size _ hsize hr hi

/-- An element operation that raises no flag of its own raises those of the broadcast scalar. -/
theorem Core.binary_of_quiet (k : Core) (n : Nat) {f : Nat → Nat → Nat → Nat × Flags} (hquiet : ∀ i a b, (f i a b).2 = Flags.zero) :
    k.binary n f =
      ((k.elems n (laneSize (vTyp n)) fun i => f i (k.vElem (laneSize (vTyp n)) (vVa n) i) (k.opB n i)).1, k.scalarFlags n) := by
  have hnone (l : List Nat) : l.foldl (fun a _ => a.or Flags.zero) Flags.zero = Flags.zero := by
    induction l with
    | nil => rfl
    | cons _ _ ih => exact ih
  simp only [Core.binary, Core.elems_snd, hquiet, hnone, Flags.zero_or]

/-- What a word leaves that gives each active lane its value of `f` and raises no flag but for converting a broadcast scalar. -/
def QuietLanes (c : Nat) (w : DWord) (f : Nat → Nat) (d e : Dev) : Prop :=
  vecFrame c (fpFields c) d e ∧ vecDest c w (laneSize (vTyp w.toNat)) f d e ∧ raisesFlags c ((d.core c).scalarFlags w.toNat) d e ∧
    (e.core c).srBase = (d.core c).srBase

theorem quietLanes_vecEnd_binary {f : Nat → Nat → Nat → Nat × Flags} {g : Nat → Nat} (hquiet : ∀ i a b, (f i a b).2 = Flags.zero)
    (hfg : ∀ i, (f i ((d.core c).vElem (laneSize (vTyp w.toNat)) (vVa w.toNat) i) ((d.core c).opB w.toNat i)).1 %
      2 ^ (8 * laneSize (vTyp w.toNat)) = g i % 2 ^ (8 * laneSize (vTyp w.toNat))) :
    QuietLanes c w g d (d.vecEnd c ((d.core c).binary w.toNat f)) := by
  rw [Core.binary_of_quiet _ _ hquiet]
  exact ⟨vecFrame_vecEnd (vecKeeps_elems _ _ _ _) (regsBut_vecEnd _ _), vecDest_vecEnd_elems (laneSize_le _) hfg _,
    raisesFlags_vecEnd _ _, by rw [Dev.core_vecEnd_same]; rfl⟩

/-! ### Smaller and larger (R65) -/

theorem bitsInt_eq_toInt (n : Nat) : bitsInt 32 n = (BitVec.ofNat 32 n).toInt := by
  simp only [bitsInt, BitVec.toInt_eq_toNat_cond, BitVec.toNat_ofNat]
  split <;> split <;> omega

theorem intBits_bitsInt (n : Nat) : intBits 32 (bitsInt 32 n) = n % 2 ^ 32 := by
  simp only [bitsInt, intBits]
  split <;> omega

theorem int_min_eq (x y : Int) : min x y = if decide (x ≤ y) then x else y := by
  by_cases h : x ≤ y
  · rw [if_pos (decide_eq_true h)]
    omega
  · rw [if_neg fun hd => h (of_decide_eq_true hd)]
    omega

theorem int_max_eq (x y : Int) : max x y = if decide (y ≤ x) then x else y := by
  by_cases h : y ≤ x
  · rw [if_pos (decide_eq_true h)]
    omega
  · rw [if_neg fun hd => h (of_decide_eq_true hd)]
    omega

/-- Of two INT32 lanes VMIN and VMAX give the one that the signed comparison picks. -/
theorem quietLanes_minMax_int {fi : Int → Int → Int} {g : Int → Int → Bool} (h : Val → Val → Val)
    (hpick : ∀ x y, fi x y = if g x y then x else y) (ht : vTyp w.toNat = 1) :
    QuietLanes c w (fun i =>
      if g (BitVec.ofNat 32 ((d.core c).vElem (laneSize (vTyp w.toNat)) (vVa w.toNat) i)).toInt
          (BitVec.ofNat 32 ((d.core c).opB w.toNat i)).toInt
      then (d.core c).vElem (laneSize (vTyp w.toNat)) (vVa w.toNat) i else (d.core c).opB w.toNat i)
      d (d.vecEnd c ((d.core c).minMax w.toNat fi h)) := by
  refine quietLanes_vecEnd_binary (fun i a b => by split <;> rfl) fun i => ?_
  simp only [laneInt, ht, decide_true, if_true, hpick, ← bitsInt_eq_toInt]
  split <;> simp [intBits_bitsInt, laneSize]

/-- Of two floating-point lanes they give the rounded value that R65 names. -/
theorem quietLanes_minMax_fp (fi : Int → Int → Int) (h : Val → Val → Val) (ht : vTyp w.toNat ≠ 1) :
    QuietLanes c w (fun i => ((laneFmt (vTyp w.toNat)).roundArith .nearest
      (h ((laneFmt (vTyp w.toNat)).decode ((d.core c).vElem (laneSize (vTyp w.toNat)) (vVa w.toNat) i))
        ((laneFmt (vTyp w.toNat)).decode ((d.core c).opB w.toNat i)))).1)
      d (d.vecEnd c ((d.core c).minMax w.toNat fi h)) :=
  quietLanes_vecEnd_binary (fun i a b => by split <;> rfl) fun i => by simp [laneInt, ht]

/-! ### Mask registers -/

/-- The number of the bits below `n` that `p` names. -/
def bitSum (p : Nat → Bool) (n : Nat) : Nat := (List.range n).foldl (fun a i => if p i then a + 2 ^ i else a) 0

theorem bitSum_succ (p : Nat → Bool) (n : Nat) : bitSum p (n + 1) = if p n then bitSum p n + 2 ^ n else bitSum p n := by
  simp only [bitSum, List.range_succ, List.foldl_append, List.foldl_cons, List.foldl_nil]

theorem bitSum_lt (p : Nat → Bool) (n : Nat) : bitSum p n < 2 ^ n := by
  induction n with
  | zero => simp [bitSum]
  | succ n ih =>
    rw [bitSum_succ, Nat.pow_succ]
    split <;> omega

theorem testBit_bitSum (p : Nat → Bool) (n i : Nat) : (bitSum p n).testBit i = (decide (i < n) && p i) := by
  induction n with
  | zero => simp [bitSum]
  | succ n ih =>
    have hor : bitSum p n + 2 ^ n = 2 ^ n ||| bitSum p n := by
      rw [Nat.add_comm]
      simpa using Nat.two_pow_add_eq_or_of_lt (bitSum_lt p n) 1
    rw [bitSum_succ]
    by_cases hi : i = n
    · subst hi
      cases hp : p i <;> simp [hor, ih]
    · have hlt : i < n + 1 ↔ i < n := by omega
      cases hp : p n <;> simp [hor, ih, hlt, Ne.symm hi]

/-- Bit `i` of a mask register as destination, R106 and R107. -/
def Core.maskLane (k : Core) (n : Nat) (f : Nat → Bool) (i : Nat) : Bool :=
  if i < k.vl.val then (if k.isActive n i then f i else if vZm n then false else (k.mask (vVd n)).testBit i)
  else (k.mask (vVd n)).testBit i

theorem Core.maskResult_eq (k : Core) (n : Nat) (f : Nat → Bool) : k.maskResult n f =
    k.setMask (vVd n) (bitSum (k.maskLane n f) 1024) fun i => decide (i < k.vl.val) && (k.isActive n i || vZm n) := rfl

theorem vecKeeps_setMask (k : Core) (r v : Nat) (written : Nat → Bool) : VecKeeps k (k.setMask r v written) := rfl

theorem mask_setMask (k : Core) (r v : Nat) (written : Nat → Bool) (j : Nat) :
    (k.setMask r v written).mask j = if j = r then v % 2 ^ 1024 else k.mask j := mget_mset _ _ _ _ _

/-- Besides a mask register nothing of the register file changes. -/
theorem noteFlags_setMask_frame (k : Core) (r v : Nat) (written : Nat → Bool) (bits : Nat) :
    ((k.setMask r v written).noteFlags bits).vreg = k.vreg ∧ ((k.setMask r v written).noteFlags bits).sreg = k.sreg ∧
      ((k.setMask r v written).noteFlags bits).vl = k.vl ∧ ((k.setMask r v written).noteFlags bits).srTid = k.srTid ∧
      ((k.setMask r v written).noteFlags bits).srBase = k.srBase ∧ ((k.setMask r v written).noteFlags bits).srStep = k.srStep :=
  ⟨rfl, rfl, rfl, rfl, rfl, rfl⟩

theorem maskBit_maskResult (k : Core) (n : Nat) (f : Nat → Bool) {i : Nat} (hi : i < 1024) :
    (k.maskResult n f).maskBit (vVd n) i =
      if k.isActive n i then f i else if decide (i < k.vl.val) && vZm n then false else k.maskBit (vVd n) i := by
  rw [Core.maskBit, Core.maskResult_eq, mask_setMask, if_pos rfl, Nat.testBit_mod_two_pow, testBit_bitSum, Core.maskLane]
  by_cases hvl : i < k.vl.val
  · simp [hi, hvl, Core.maskBit]
  · have hidle : ¬k.isActive n i = true := fun h => hvl (Core.lt_vl_of_isActive h)
    simp [hi, hvl, hidle, Core.maskBit]

theorem mask_maskResult_other (k : Core) (n : Nat) (f : Nat → Bool) {r : Nat} (hr : r ≠ vVd n) :
    (k.maskResult n f).mask r = k.mask r := by
  rw [Core.maskResult_eq, mask_setMask, if_neg hr]

@[simp] theorem Core.noteFlags_mask (k : Core) (bits r : Nat) : (k.noteFlags bits).mask r = k.mask r := rfl
@[simp] theorem Core.noteFlags_maskBit (k : Core) (bits r i : Nat) : (k.noteFlags bits).maskBit r i = k.maskBit r i := rfl

theorem maskDest_vecEnd (f : Nat → Bool) (fl : Flags) :
    maskDest c w f d (d.vecEnd c ((d.core c).maskResult w.toNat f, fl)) := by
  simp only [maskDest, Dev.core_vecEnd_same, Core.noteFlags_mask, Core.noteFlags_maskBit]
  refine ⟨fun i hi => maskBit_maskResult _ _ f hi, fun r hr => mask_maskResult_other _ _ f hr, ?_⟩
  rw [Core.maskResult_eq]
  exact noteFlags_setMask_frame _ _ _ _ _

theorem vecKeeps_maskResult (k : Core) (n : Nat) (f : Nat → Bool) : VecKeeps k (k.maskResult n f) := by
  rw [Core.maskResult_eq]
  exact vecKeeps_setMask _ _ _ _

/-- A mask word: the destination's active bits take `f`, and no register of control space changes. -/
theorem maskWord_vecEnd (f : Nat → Bool) :
    vecFrame c [] d (d.vecEnd c ((d.core c).maskResult w.toNat f, Flags.zero)) ∧
      maskDest c w f d (d.vecEnd c ((d.core c).maskResult w.toNat f, Flags.zero)) :=
  ⟨vecFrame_vecEnd (vecKeeps_maskResult _ _ f) (regsBut_vecEnd_zero _ _), maskDest_vecEnd f _⟩

/-! ### An S register as destination (R135) -/

theorem vecKeeps_setS32 (k : Core) (r v : Nat) : VecKeeps k (k.setS32 r v) := by
  unfold Core.setS32 Core.setS
  split <;> rfl

theorem s_setS32 (k : Core) (r v n : Nat) : (k.setS32 r v).s n = if n = r ∧ n ≠ 0 then v % 2 ^ 32 else k.s n := by
  have hfits : v % 2 ^ 32 % 2 ^ 64 % 2 ^ 64 = v % 2 ^ 32 := by omega
  unfold Core.setS32 Core.setS
  by_cases hr : r = 0
  · have hno : ¬(n = r ∧ n ≠ 0) := by omega
    rw [if_pos hr, if_neg hno]
  · by_cases hn : n = r
    · simp only [hr, if_false, hn, ne_eq, not_false_eq_true, and_self, if_true, Core.s, mget_mset_same, hfits]
    · simp [Core.s, hn, hr, mget_mset_other _ _ _ hn]

theorem setS32_frame (k : Core) (r v : Nat) : (k.setS32 r v).vreg = k.vreg ∧ (k.setS32 r v).vmask = k.vmask ∧
    (k.setS32 r v).srTid = k.srTid ∧ (k.setS32 r v).srStep = k.srStep := by
  unfold Core.setS32 Core.setS
  split <;> exact ⟨rfl, rfl, rfl, rfl⟩

theorem sDest_vecEnd (v : Nat) (fl : Flags) : sDest c w v d (d.vecEnd c ((d.core c).setS32 (vVd w.toNat) v, fl)) := by
  simp only [sDest, Dev.core_vecEnd_same]
  exact ⟨s_setS32 _ _ _, setS32_frame _ _ _⟩

theorem Core.mpop_eq (k : Core) (n : Nat) : k.mpop n =
    (k.setS32 (vVd n) ((List.range k.vl.val).filter fun j => k.isActive n j && k.maskBit (vVa n) j).length, Flags.zero) := by
  simp [Core.mpop, Core.active, List.filter_filter, Bool.and_comm]

/-! ### The statement -/

/-- Settles O21: VMIN, VMAX and VSEL by `QuietLanes`, VCMP and the mask words by `maskDest_vecEnd`, VMPOP by `sDest_vecEnd`. -/
theorem vectorCompareAndMask : Obligations.VectorCompareAndMask := by
  intro s c w rest m u
  refine ⟨fun h => ⟨fun ht => does_vecRegs rfl h (quietLanes_minMax_int minVal int_min_eq ht),
      fun ht => does_vecRegs rfl h (quietLanes_minMax_fp min minVal ht)⟩,
    fun h => ⟨fun ht => does_vecRegs rfl h (quietLanes_minMax_int maxVal int_max_eq ht),
      fun ht => does_vecRegs rfl h (quietLanes_minMax_fp max maxVal ht)⟩,
    fun h => does_vecRegs rfl h ?vcmp, fun h => does_vecRegs rfl h ?vsel, fun h => does_vecRegs rfl h (maskWord_vecEnd _),
    fun h => does_vecRegs rfl h (maskWord_vecEnd _), fun h => does_vecRegs rfl h (maskWord_vecEnd _),
    fun h => does_vecRegs rfl h ?vmpop⟩
  case vcmp =>
    exact ⟨vecFrame_vecEnd (vecKeeps_maskResult _ _ _) (regsBut_vecEnd _ _), maskDest_vecEnd _ _, raisesFlags_vecEnd _ _⟩
  case vsel => exact quietLanes_vecEnd_binary (fun _ _ _ => rfl) fun _ => rfl
  case vmpop =>
    rw [Core.mpop_eq]
    exact ⟨vecFrame_vecEnd (vecKeeps_setS32 _ _ _) (regsBut_vecEnd_zero _ _), sDest_vecEnd _ _⟩

end Sys2Proof.Machine

/-! ## The matrix arrays (O28)

ARRAY_TILE_DONE lets the rest of a tile enter where the core is engaged or owes the tile, and swaps the next tile in only where the core is not in
FAULT. O28 asks for the swap under the first condition alone. The two differ on a core in FAULT that owes a tile: the step that enters FAULT
(`Dev.seqEnd`) withdraws the tile, but the statement speaks of every state. -/

namespace Sys2Proof.Machine

variable {d : Dev} {c lo hi : Nat} {m : LayerCmd}

/-- The weight tile that comes next: its N-tile, its pass of R64 and its chunk of K. -/
def LayerCmd.position (m : LayerCmd) : Nat × Nat × Nat := (m.ntile, m.pass, m.kchunk)

theorem LayerCmd.position_advance_ne (m : LayerCmd) : m.advance.position ≠ m.position := by
  simp only [LayerCmd.advance, LayerCmd.position]
  split
  case isTrue => simp
  case isFalse => split <;> simp

theorem Dev.clmReads_of_unmarked (h : d.sramEcc = []) (spans : Dev → List (Nat × Nat)) (body : Dev → Dev) :
    d.clmReads c spans body = body d := if_pos h

theorem Dev.accRead_of_unmarked (h : (d.core c).accEcc = []) (es : List Nat) (body : Dev → Dev) : d.accRead c es body = body d := if_pos h

theorem Dev.core_fpRaiseCmd_same (d : Dev) (c : Nat) (f : Flags) : (d.fpRaiseCmd c f).core c = (d.core c).noteFlags f.toNat := by
  rw [Dev.fpRaiseCmd, Dev.core_modCore_same, Dev.core, (onlyRegs_fpRaise d c f).1]
  rfl

/-- Of the core, rows that enter change accumulator entries with their marks, the count of rows and the command's flags. -/
theorem Dev.core_feedRows_same (hsram : d.sramEcc = []) (hacc : (d.core c).accEcc = []) (t : WTile) :
    ∃ acc ecc bits, (d.feedRows c m t lo hi).core c =
      Core.noteFlags bits { d.core c with acc := acc, accEcc := ecc, cmd := some { m with fed := hi } } := by
  rw [Dev.feedRows, Dev.clmReads_of_unmarked hsram, Dev.accRead_of_unmarked hacc]
  exact ⟨_, _, _, (Dev.core_fpRaiseCmd_same _ c _).trans (congrArg _ (Dev.core_modCore_same _ c _))⟩

/-- In FAULT the rest of a tile enters, and the command stays at that tile. -/
theorem Dev.position_tile_of_fault (hseq : (d.core c).seq = .fault) (hsram : d.sramEcc = []) (hacc : (d.core c).accEcc = []) :
    ∃ v, ((d.tile c m).core c).cmd = some v ∧ v.position = m.position := by
  rw [Dev.tile, Dev.loadTile, Dev.clmReads_of_unmarked hsram]
  generalize Dev.loadRows _ _ _ _ = t
  dsimp only
  generalize hd : d.modCore c _ = d'
  have hseq' : (d'.core c).seq = .fault := by rw [← hd, Dev.core_modCore_same]; exact hseq
  have hacc' : (d'.core c).accEcc = [] := by rw [← hd, Dev.core_modCore_same]; exact hacc
  have hsram' : d'.sramEcc = [] := hd ▸ hsram
  obtain ⟨acc, ecc, bits, hcore⟩ := Dev.core_feedRows_same (m := m) (lo := m.fed) (hi := (arrRec m.record).ma) hsram' hacc' t
  rw [if_pos (by rw [hcore]; exact hseq'), hcore]
  exact ⟨_, rfl, rfl⟩

/-- ARRAY_TILE_DONE where a tile is ready and the core is engaged or owes it. -/
theorem exec_arrayTileDone_of_ready {s : State} {c : CoreId} {us : List AccUpset} (hd : s.dev.accUpset c us = d) (hcmd : (d.core c).cmd = some m)
    (hon : d.coreOn = true) (howed : (d.core c).engaged = true ∨ (d.core c).tileOwed = true) (hready : m.tileReady = true) :
    exec (.arrayTileDone c us) s = .next { s with dev := d.tile c m } := by
  subst hd
  change execArrayTileDone c us s = _
  simp [execArrayTileDone, State.does, State.on, hcmd, hon, howed, hready]

/-- A record with one output element of FP32, by its only bytes that are not zero: USE_MXA, SPLIT, AMASK, and M, K and N of 1. -/
def oneOutputRecord : List Byte :=
  (List.range 256).map fun i => if i = 0x21 then 4#8 else if i ∈ [0x01, 0x23, 0x24, 0x28, 0x2C] then 1#8 else 0#8

/-- The command of that record before its first tile. -/
def oneOutputCmd : LayerCmd :=
  { record := oneOutputRecord, recOff := 0, tag := 0, step := 0, isOpen := true, cycles := 0, startIn := 0, flags := 0, scanDue := false,
    intAcc := false, ntile := 0, pass := 0, kchunk := 0, due := [], spilled := false, kept := false }

/-- The module after reset but for core 0, which stands in FAULT and yet owes the tile of an open command. -/
def owedInFault : Dev := Dev.reset.setCore 0 { seq := .fault, tileOwed := true, cmd := some oneOutputCmd }

/-- Refutes O28: on a core in FAULT that owes a tile, ARRAY_TILE_DONE lets the tile enter but stays at its position, where the statement asks for the
position of `LayerCmd.advance`. -/
theorem not_matrixArrays : ¬ Obligations.MatrixArrays := by
  intro h
  have hon : owedInFault.coreOn = true := by decide
  have hready : oneOutputCmd.tileReady = true := by decide
  obtain ⟨harrays, -⟩ := h ⟨owedInFault, []⟩ 0 []
  obtain ⟨e, hexec, -, -, -, -, ⟨v, hcmd, hntile, hpass, hkchunk, -⟩, -⟩ :=
    ((harrays oneOutputCmd rfl hon).1 hready (.inr rfl) rfl).1 fun _ _ => rfl
  have he : owedInFault.tile 0 oneOutputCmd = e := by
    rw [exec_arrayTileDone_of_ready (d := owedInFault) rfl rfl hon (.inr rfl) hready] at hexec
    injection hexec with hstate
    exact congrArg State.dev hstate
  obtain ⟨w, hw, hstays⟩ := Dev.position_tile_of_fault (d := owedInFault) (c := 0) (m := oneOutputCmd) rfl rfl rfl
  rw [he] at hw
  obtain rfl : v = w := Option.some.inj (hcmd.symm.trans hw)
  have hadvances : v.position = oneOutputCmd.advance.position := by simp only [LayerCmd.position, hntile, hpass, hkchunk]
  exact LayerCmd.position_advance_ne oneOutputCmd (hadvances.symm.trans hstays)

end Sys2Proof.Machine

/-! ## A core stops with its job (R133, R143, R362)

Entering FAULT raises a job-fatal fault, whose STOP reaches every core of the module; a core that is in FAULT keeps its state. -/

namespace Sys2Proof.Machine

variable {d e f : Dev} {c : Nat}

theorem regsBut.mono {fs gs : List Fld} (h : regsBut fs d e) (hsub : fs ⊆ gs) : regsBut gs d e :=
  fun g hg => h g fun x hx => hg x (hsub hx)

/-! ### Writes of memory -/

theorem Dev.setBytes_eq (d : Dev) (p : Nat) (bs : List Byte) : d.setBytes p bs = { d with mem := (d.setBytes p bs).mem } := by
  induction bs generalizing d p with
  | nil => rfl
  | cons b bs ih =>
    rw [Dev.setBytes, ih]
    rfl

/-- A write into a core's CLM changes memory and its marks alone. -/
theorem Dev.setClm_frame (d : Dev) (c off : Nat) (bs : List Byte) :
    (d.setClm c off bs).cores = d.cores ∧ (d.setClm c off bs).regs = d.regs := by
  rw [Dev.setClm, Dev.setBytes_eq]
  exact ⟨rfl, rfl⟩

/-! ### The STOP -/

/-- The register fields that a STOP may change. -/
def stopFields : List Fld :=
  reportFields ++ [Reg.FLT_STATUS.HL, Reg.FLT_ERR.STOP, Reg.STG_STATUS.STATE, Reg.COL_STATUS.BUSY, Reg.COL_STATUS.STOPPED,
    Reg.COL_STATUS.HELD, Reg.PWR_STATUS.STATE, Reg.PWR_STATUS.MOVING, Reg.PWR_LADDER.TARGET] ++
    (List.range 64).map Reg.CORE_SEQ_CTRL.QREQ

/-- What every part of a STOP leaves: core `c`, where it is in FAULT, and the register fields outside `stopFields`. -/
structure SparesFaulted (c : Nat) (d e : Dev) : Prop where
  core : (d.core c).seq = .fault → e.core c = d.core c
  fields : regsBut stopFields d e

namespace SparesFaulted

theorem refl : SparesFaulted c d d := ⟨fun _ => rfl, .refl⟩

theorem trans (h : SparesFaulted c d e) (h' : SparesFaulted c e f) : SparesFaulted c d f where
  core hd := (h'.core (by rw [h.core hd]; exact hd)).trans (h.core hd)
  fields := h.fields.trans h'.fields

/-- A part that touches neither cores nor register fields. -/
theorem of_same (hcores : e.cores = d.cores) (hregs : e.regs = d.regs) : SparesFaulted c d e where
  core _ := by rw [Dev.core, hcores]; rfl
  fields _ _ := by rw [Dev.get, hregs]; rfl

theorem of_onlyRegs (h : onlyRegs stopFields d e) : SparesFaulted c d e where
  core _ := by rw [h.1]; rfl
  fields := h.2

theorem of_reported (h : Reported d e) : SparesFaulted c d e where
  core _ := by rw [Dev.core, h.cores]; rfl
  fields := h.fields.mono fun _ hf => List.mem_append_left _ (List.mem_append_left _ hf)

theorem foldl {α : Type} {step : Dev → α → Dev} {xs : List α} (h : ∀ d, ∀ x ∈ xs, SparesFaulted c d (step d x)) :
    SparesFaulted c d (xs.foldl step d) := by
  induction xs generalizing d with
  | nil => exact .refl
  | cons x xs ih =>
    exact (h d x List.mem_cons_self).trans (ih fun d y hy => h d y (List.mem_cons_of_mem _ hy))

end SparesFaulted

/-- A later write of a field that a STOP may change. -/
theorem SparesFaulted.set (h : SparesFaulted c d e) (x : Fld) (v : Nat) (hx : x ∈ stopFields) : SparesFaulted c d (e.set x v) :=
  h.trans (.of_onlyRegs (onlyRegs_set e v hx))

theorem SparesFaulted.wake (h : SparesFaulted c d e) : SparesFaulted c d e.wake :=
  .set (.set (.set h Reg.PWR_STATUS.STATE _ (by decide)) Reg.PWR_STATUS.MOVING _ (by decide)) Reg.PWR_LADDER.TARGET _ (by decide)

theorem SparesFaulted.roundDrop (h : SparesFaulted c d e) : SparesFaulted c d e.roundDrop := by
  unfold Dev.roundDrop
  dsimp only
  split
  · refine .set ?_ Reg.STG_STATUS.STATE _ (by decide)
    exact h.trans (.of_same rfl rfl)
  · exact h.trans (.of_same rfl rfl)

theorem SparesFaulted.colStop (h : SparesFaulted c d e) : SparesFaulted c d e.colStop := by
  refine .set (.set (.set ?_ Reg.COL_STATUS.BUSY _ (by decide)) Reg.COL_STATUS.STOPPED _ (by decide)) Reg.COL_STATUS.HELD _ (by decide)
  exact h.trans (.of_same rfl rfl)

theorem SparesFaulted.flood (h : SparesFaulted c d e) (n : Notice) (arrival : Option Nat) : SparesFaulted c d (e.flood n arrival) :=
  h.trans (.foldl fun d l _ => by
    split
    · exact .of_same rfl rfl
    · exact .refl)

/-- A quiesce request writes the resume record of a core in FAULT and leaves the core; another core it may stop. -/
theorem sparesFaulted_quiesceCore {j : Nat} (hj : j < 64) : SparesFaulted c d (d.quiesceCore j) := by
  have hqreq : Reg.CORE_SEQ_CTRL.QREQ j ∈ stopFields :=
    List.mem_append_right _ (List.mem_map_of_mem (List.mem_range.2 hj))
  have hresume : SparesFaulted c d (d.writeResume j) := .of_same (Dev.setClm_frame d _ _ _).1 (Dev.setClm_frame d _ _ _).2
  have hrequest : SparesFaulted c d (d.setBit (Reg.CORE_SEQ_CTRL.QREQ j) true) := .set .refl _ _ hqreq
  have hstop (hseq : (d.core j).seq ≠ .fault) (k : Core) :
      SparesFaulted c d ((d.setBit (Reg.CORE_SEQ_CTRL.QREQ j) true).setCore j k) :=
    ⟨fun hfault => Dev.core_setCore_other (d.setBit (Reg.CORE_SEQ_CTRL.QREQ j) true) k fun hc => hseq (hc ▸ hfault), hrequest.fields⟩
  unfold Dev.quiesceCore
  dsimp only
  cases hseq : (d.core j).seq
  case idle => exact hresume
  case halted => exact hresume
  case fault => exact hresume
  case quiesced => exact .refl
  case quiescing => exact hrequest
  case loadchk => exact hrequest
  case run => exact hstop (by rw [hseq]; decide) _
  case wait => exact hstop (by rw [hseq]; decide) _

/-- The record and the interrupt at the end of a STOP. -/
theorem reported_log_fltMsix (d : Dev) (ev : Ev) : Reported d (d.log ev).fltMsix := (reported_logOpen d ev).trans (reported_msix _ _)

theorem enterStopped_spares_and_stops (d : Dev) (c : Nat) (ev : Ev) :
    SparesFaulted c d (d.enterStopped ev) ∧ (d.enterStopped ev).get Reg.FLT_STATUS.HL = hlStopped := by
  unfold Dev.enterStopped
  dsimp only
  have hwake : SparesFaulted c d (if d.gliding then d.wake else d) := by
    split
    · exact .wake .refl
    · exact .refl
  have hcores := (hwake.roundDrop.colStop).trans (SparesFaulted.foldl (xs := List.range 64) (step := fun d c => d.quiesceCore c)
    fun _ _ hj => sparesFaulted_quiesceCore (List.mem_range.1 hj))
  generalize List.foldl _ _ (List.range 64) = x at hcores
  have hend : Reported _ (((x.set Reg.FLT_STATUS.HL hlStopped).setBit Reg.FLT_ERR.STOP true).log ev).fltMsix := reported_log_fltMsix _ ev
  refine ⟨.trans (.set (.set hcores Reg.FLT_STATUS.HL _ (by decide)) Reg.FLT_ERR.STOP _ (by decide)) (.of_reported hend), ?_⟩
  rw [hend.fields _ (by decide), Dev.get_setBit_other _ _ (by decide), Dev.get_set_same]
  rfl

/-- A job-fatal fault spares a core that is in FAULT, and the module is STOPPED. -/
theorem raise_jobFatal_spares_and_stops (d : Dev) (c : Nat) {ev : Ev} (h : faultClass ev.code = 4) :
    SparesFaulted c d (d.raise ev) ∧ (d.raise ev).get Reg.FLT_STATUS.HL = hlStopped := by
  have hraise : d.raise ev = (d.logOpen ev).2.stopJob ev := by simp only [Dev.raise, h]
  have hlog : SparesFaulted c d (d.logOpen ev).2 := .of_reported (reported_logOpen d ev)
  rw [hraise, Dev.stopJob]
  split
  · next hstopped => exact ⟨hlog, hstopped⟩
  · dsimp only
    generalize hx : Dev.flood _ none _ = x
    have hflood : SparesFaulted c d x := by
      rw [← hx]
      refine .flood ?_ _ none
      exact hlog.trans (.of_same rfl rfl)
    obtain ⟨hspares, hstops⟩ := enterStopped_spares_and_stops x c { code := Flt.HL_STOP, arg0 := ev.code, arg1 := Dev.node _ }
    exact ⟨hflood.trans hspares, hstops⟩

/-! ### The core enters FAULT -/

/-- The register fields of a core that its entry into FAULT may change. -/
def endFields (c : Nat) : List Fld :=
  [Reg.CORE_SEQ_TRACE_DROP.COUNT c, Reg.CORE_SEQ_ERR.FAULT c, Reg.CORE_MXA_STATUS.BUSY c, Reg.CORE_MXA_STATUS.ACTIVE c,
   Reg.CORE_MXA_STATUS.KEPT c, Reg.CORE_SEQ_CTRL.QREQ c]

/-- A flag of the error registers of core `c`, CORE_SEQ_ERR and CORE_VEC_ERR. -/
def Fld.isErr (c : Nat) (g : Fld) : Prop :=
  (g.off = 0x01000008 + c * 0x40000 ∨ g.off = 0x01008004 + c * 0x40000) ∧ g.lo < 32

/-- Such a flag is none of the fields that a STOP changes. -/
theorem Fld.isErr.not_stopField {g : Fld} (h : g.isErr c) : ∀ f ∈ stopFields, g.key ≠ f.key := by
  obtain ⟨hoff, hlo⟩ := h
  have hcentral : ∀ f ∈ stopFields, f.key < 0x20000000 ∨ ∃ j, f = Reg.CORE_SEQ_CTRL.QREQ j := by
    intro f hf
    obtain hf | hf := List.mem_append.1 hf
    · exact .inl ((by decide : ∀ f ∈ reportFields ++ [Reg.FLT_STATUS.HL, Reg.FLT_ERR.STOP, Reg.STG_STATUS.STATE, Reg.COL_STATUS.BUSY,
        Reg.COL_STATUS.STOPPED, Reg.COL_STATUS.HELD, Reg.PWR_STATUS.STATE, Reg.PWR_STATUS.MOVING, Reg.PWR_LADDER.TARGET],
        f.key < 0x20000000) f hf)
    · obtain ⟨j, -, rfl⟩ := List.mem_map.1 hf
      exact .inr ⟨j, rfl⟩
  intro f hf
  obtain hlt | ⟨j, rfl⟩ := hcentral f hf
  · simp only [Fld.key] at hlt ⊢
    omega
  · simp only [Fld.key, Reg.CORE_SEQ_CTRL.QREQ]
    omega

/-- Nor, but for FAULT itself, one that the entry into FAULT changes. -/
theorem Fld.isErr.not_endField {g : Fld} (h : g.isErr c) (hne : g.key ≠ (Reg.CORE_SEQ_ERR.FAULT c).key) :
    ∀ f ∈ endFields c, g.key ≠ f.key := by
  obtain ⟨hoff, hlo⟩ := h
  simp only [Fld.key, Reg.CORE_SEQ_ERR.FAULT] at hne
  simp only [endFields, List.forall_mem_cons, Fld.key, Reg.CORE_SEQ_TRACE_DROP.COUNT, Reg.CORE_SEQ_ERR.FAULT, Reg.CORE_MXA_STATUS.BUSY,
    Reg.CORE_MXA_STATUS.ACTIVE, Reg.CORE_MXA_STATUS.KEPT, Reg.CORE_SEQ_CTRL.QREQ]
  refine ⟨?_, ?_, ?_, ?_, ?_, ?_, fun _ h => absurd h List.not_mem_nil⟩ <;> omega

theorem isErr_fault (c : Nat) : (Reg.CORE_SEQ_ERR.FAULT c).isErr c := ⟨.inl rfl, Nat.lt_of_sub_eq_succ rfl⟩

/-- A trace entry changes of the core its queue and count of entries, and of the registers the count of dropped ones. -/
theorem trace_frame (d : Dev) (c typ tag a0 a1 : Nat) :
    (∃ q n, (d.trace c typ tag a0 a1).core c = { d.core c with traceQ := q, traceSeq := n }) ∧
      regsBut [Reg.CORE_SEQ_TRACE_DROP.COUNT c] d (d.trace c typ tag a0 a1) := by
  unfold Dev.trace
  dsimp only
  split
  · split
    · exact ⟨⟨_, _, Dev.core_setCore_same d c _⟩, .refl⟩
    · exact ⟨⟨_, _, Dev.core_setCore_same d c _⟩, (onlyRegs_set (Dev.setCore c _ d) _ (List.mem_singleton_self _)).2⟩
  · exact ⟨⟨_, _, rfl⟩, .refl⟩

theorem cmpStatus_frame (d : Dev) (c off status : Nat) (kept : Bool) (code : Nat) :
    (d.cmpStatus c off status kept code).cores = d.cores ∧ (d.cmpStatus c off status kept code).regs = d.regs := by
  unfold Dev.cmpStatus
  split
  · exact Dev.setClm_frame _ _ _ _
  · exact ⟨rfl, rfl⟩

/-- The registers that show the end: FAULT is set, and those of the arrays and of a quiesce follow. -/
def Dev.showEnd (c : Nat) (hadArrays : Bool) (d : Dev) : Dev :=
  let d := d.setBit (Reg.CORE_SEQ_ERR.FAULT c) true
  let d := if hadArrays then (d.mxaShow c).setBit (Reg.CORE_MXA_STATUS.KEPT c) false else d
  if d.bit (Reg.CORE_SEQ_CTRL.QREQ c) then (d.setBit (Reg.CORE_SEQ_CTRL.QREQ c) false).writeResume c else d

theorem showEnd_frame (d : Dev) (c : Nat) (hadArrays : Bool) :
    (d.showEnd c hadArrays).core c = d.core c ∧ (d.showEnd c hadArrays).bit (Reg.CORE_SEQ_ERR.FAULT c) = true ∧
      regsBut (endFields c) d (d.showEnd c hadArrays) := by
  let later : List Fld :=
    [Reg.CORE_MXA_STATUS.BUSY c, Reg.CORE_MXA_STATUS.ACTIVE c, Reg.CORE_MXA_STATUS.KEPT c, Reg.CORE_SEQ_CTRL.QREQ c]
  have hlater : ∀ g ∈ later, (Reg.CORE_SEQ_ERR.FAULT c).key ≠ g.key := by
    simp only [later, List.forall_mem_cons, Fld.key, Reg.CORE_SEQ_ERR.FAULT, Reg.CORE_MXA_STATUS.BUSY, Reg.CORE_MXA_STATUS.ACTIVE,
      Reg.CORE_MXA_STATUS.KEPT, Reg.CORE_SEQ_CTRL.QREQ]
    refine ⟨?_, ?_, ?_, ?_, fun _ h => absurd h List.not_mem_nil⟩ <;> omega
  have harrays (d : Dev) : onlyRegs later d (if hadArrays then (d.mxaShow c).setBit (Reg.CORE_MXA_STATUS.KEPT c) false else d) :=
    onlyRegs_ite (((onlyRegs_setBit d _ (by simp [later])).trans (onlyRegs_set _ _ (by simp [later]))).trans
      (onlyRegs_setBit _ _ (by simp [later]))) .refl
  unfold Dev.showEnd
  dsimp only
  have h := harrays (d.setBit (Reg.CORE_SEQ_ERR.FAULT c) true)
  generalize (if hadArrays then _ else _ : Dev) = x at h
  have hx : x.core c = d.core c ∧ x.bit (Reg.CORE_SEQ_ERR.FAULT c) = true ∧ regsBut (endFields c) d x := by
    refine ⟨by rw [h.1]; rfl, ?_, ?_⟩
    · rw [Dev.bit_congr (h.2 _ hlater), Dev.bit_setBit_same _ _ Nat.one_pos]
    · exact (onlyRegs_setBit d true (by simp [endFields])).2.trans (h.2.mono (by simp [later, endFields]))
  obtain ⟨hcore, hbit, hregs⟩ := hx
  split
  · obtain ⟨hcores, hsame⟩ := Dev.setClm_frame (x.setBit (Reg.CORE_SEQ_CTRL.QREQ c) false) c _ (Dev.resumeBytes _ c)
    have hquiesce : onlyRegs [Reg.CORE_SEQ_CTRL.QREQ c] x (x.setBit (Reg.CORE_SEQ_CTRL.QREQ c) false) :=
      onlyRegs_setBit x false (List.mem_singleton_self _)
    have hget (g : Fld) : ((x.setBit (Reg.CORE_SEQ_CTRL.QREQ c) false).writeResume c).get g =
        (x.setBit (Reg.CORE_SEQ_CTRL.QREQ c) false).get g := by
      rw [Dev.get, Dev.writeResume, hsame]; rfl
    refine ⟨?_, ?_, fun g hg => ?_⟩
    · rw [Dev.core, Dev.writeResume, hcores]
      exact hcore
    · rw [Dev.bit_congr (hget _), Dev.bit_setBit_other _ _ (hlater _ (by simp [later]))]
      exact hbit
    · rw [hget, hquiesce.2 g fun f hf => hg f (by simp_all [endFields]), hregs g hg]
  · exact ⟨hcore, hbit, hregs⟩

/-- The core's part of entering FAULT. -/
structure Ended (c : Nat) (d e : Dev) : Prop where
  seq : (e.core c).seq = .fault
  cmd : (e.core c).cmd = none
  queue : (e.core c).vq = []
  pc : (e.core c).pc = (d.core c).pc
  sreg : (e.core c).sreg = (d.core c).sreg
  flag : e.bit (Reg.CORE_SEQ_ERR.FAULT c) = true
  fields : regsBut (endFields c) d e

theorem ended_seqEnd (d : Dev) (c code tag : Nat) : Ended c d (d.seqEnd c code tag) := by
  obtain ⟨⟨q, n, htrace⟩, htraceRegs⟩ := trace_frame d c 11 tag code (d.core c).pc
  have hstatus : ∃ x : Dev, x.core c = { d.core c with traceQ := q, traceSeq := n } ∧ regsBut (endFields c) d x ∧
      (match (d.core c).cmd with
        | some m => (d.trace c 11 tag code (d.core c).pc).cmpStatus c m.recOff 3 false code
        | none => d.trace c 11 tag code (d.core c).pc) = x := by
    have htraceRegs' := htraceRegs.mono (gs := endFields c) (by simp [endFields])
    split
    · obtain ⟨hcores, hregs⟩ := cmpStatus_frame (d.trace c 11 tag code (d.core c).pc) c (LayerCmd.recOff ‹_›) 3 false code
      refine ⟨_, ?_, fun g hg => ?_, rfl⟩
      · rw [Dev.core, hcores]
        exact htrace
      · rw [← htraceRegs' g hg, Dev.get, hregs]
        rfl
    · exact ⟨_, htrace, htraceRegs', rfl⟩
  obtain ⟨x, hcore, hregs, hx⟩ := hstatus
  have hseqEnd : d.seqEnd c code tag = (x.modCore c fun k =>
      { k with seq := .fault, cmd := none, vq := [], lstartWait := false, draining := false, tileOwed := false,
               wActive := none, wShadow := none, sbOld := k.sb.length + k.sbWait.length,
               chain := if ((d.core c).cmd.map fun m => recUseMxa m.record).getD false then none else k.chain }).showEnd c
        (((d.core c).cmd.map fun m => recUseMxa m.record).getD false) := by
    rw [← hx]
    rfl
  rw [hseqEnd]
  generalize ((d.core c).cmd.map fun m => recUseMxa m.record).getD false = hadArrays
  obtain ⟨hshow, hbit, hshowRegs⟩ := showEnd_frame (x.modCore c fun k =>
      { k with seq := .fault, cmd := none, vq := [], lstartWait := false, draining := false, tileOwed := false,
               wActive := none, wShadow := none, sbOld := k.sb.length + k.sbWait.length,
               chain := if hadArrays then none else k.chain }) c hadArrays
  rw [Dev.core_modCore_same, hcore] at hshow
  exact ⟨by rw [hshow], by rw [hshow], by rw [hshow], by rw [hshow], by rw [hshow], hbit, hregs.trans hshowRegs⟩

/-- Entering FAULT for a job-fatal fault stops the core and the job, and leaves the other flags of the core's error registers. -/
theorem seqFaultTag_stops (d : Dev) (c tag arg0 : Nat) {code : Nat} (h : faultClass code = 4) :
    stopsAt c d (d.seqFaultTag c code tag arg0) ∧
      ∀ g : Fld, g.isErr c → g.key ≠ (Reg.CORE_SEQ_ERR.FAULT c).key → (d.seqFaultTag c code tag arg0).bit g = d.bit g := by
  obtain ⟨hseq, hcmd, hqueue, hpc, hsreg, hflag, hfields⟩ := ended_seqEnd d c code tag
  obtain ⟨hspares, hstops⟩ := raise_jobFatal_spares_and_stops (d.seqEnd c code tag) c
    (ev := { code := code, source := c, tag := tag, arg0 := arg0 }) h
  have hcore := hspares.core hseq
  refine ⟨⟨(congrArg Core.seq hcore).trans hseq, (congrArg Core.cmd hcore).trans hcmd, (congrArg Core.vq hcore).trans hqueue,
    (congrArg Core.pc hcore).trans hpc, (congrArg Core.sreg hcore).trans hsreg, ?_, hstops⟩, fun g hg hne => ?_⟩
  · exact (Dev.bit_congr (hspares.fields _ (isErr_fault c).not_stopField)).trans hflag
  · exact Dev.bit_congr ((hspares.fields g hg.not_stopField).trans (hfields g (hg.not_endField hne)))

theorem stopsAt_seqFault (d : Dev) (c arg0 : Nat) {code : Nat} (h : faultClass code = 4) : stopsAt c d (d.seqFault c code arg0) :=
  (seqFaultTag_stops d c _ arg0 h).1

/-- What came before the stop counts by the core's program counter and S registers alone. -/
theorem stopsAt.of_before (h : stopsAt c e f) (hpc : (e.core c).pc = (d.core c).pc) (hsreg : (e.core c).sreg = (d.core c).sreg) :
    stopsAt c d f := by
  obtain ⟨hseq, hcmd, hqueue, hpc', hsreg', hrest⟩ := h
  exact ⟨hseq, hcmd, hqueue, hpc'.trans hpc, hsreg'.trans hsreg, hrest⟩

end Sys2Proof.Machine

/-! ## Words that stop the core, and words that wait (O27) -/

namespace Sys2Proof.Machine

variable {s : State} {d : Dev} {c op : Nat} {ecc : WordEcc}

theorem faultClass_seqImemUe : faultClass Flt.SEQ_IMEM_UE = 4 := by decide
theorem faultClass_seqIllegal : faultClass Flt.SEQ_ILLEGAL = 4 := by decide

/-! ### The fetch (R127) -/

/-- The fetch: the errors that arise change nothing but the marks of the instruction words, then the word cannot be read, is corrected
and logged, or is good. -/
theorem fetchEcc_cases (d : Dev) (c : Nat) (ecc : WordEcc) :
    ∃ x : Dev, ((x.core c).pc = (d.core c).pc ∧ (x.core c).sreg = (d.core c).sreg) ∧
      (d.fetchEcc c ecc = (false, x.seqFault c Flt.SEQ_IMEM_UE (x.core c).pc) ∨
        d.fetchEcc c ecc =
          (true, x.raise { code := Flt.SEQ_IMEM_CE, source := c, tag := (x.core c).tagNow, arg0 := (x.core c).pc }) ∨
        d.fetchEcc c ecc = (true, x)) := by
  refine ⟨if ecc = .good then d else d.modCore c fun k => k.imemUpset k.bank k.pc ecc, ?_, ?_⟩
  · split
    · exact ⟨rfl, rfl⟩
    · rw [Dev.core_modCore_same]
      exact ⟨rfl, rfl⟩
  · unfold Dev.fetchEcc
    dsimp only
    split
    · exact .inl rfl
    · exact .inr (.inl rfl)
    · exact .inr (.inr rfl)

/-- A corrected error is logged and does nothing else. -/
theorem reported_raise_corrected (d : Dev) {ev : Ev} (h : faultClass ev.code = 1) : Reported d (d.raise ev) := by
  have hraise : d.raise ev = (d.logOpen ev).2 := by simp only [Dev.raise, h]
  rw [hraise]
  exact reported_logOpen d ev

/-- An uncorrectable word stops the core; a word that is read leaves its program counter and its S registers. -/
theorem fetchEcc_stops_or_keeps (d : Dev) (c : Nat) (ecc : WordEcc) :
    ((d.fetchEcc c ecc).1 = false → stopsAt c d (d.fetchEcc c ecc).2) ∧
      ((d.fetchEcc c ecc).1 = true → ((d.fetchEcc c ecc).2.core c).pc = (d.core c).pc ∧
        ((d.fetchEcc c ecc).2.core c).sreg = (d.core c).sreg) := by
  obtain ⟨x, ⟨hpc, hsreg⟩, hfetch | hfetch | hfetch⟩ := fetchEcc_cases d c ecc
  all_goals rw [hfetch]
  · exact ⟨fun _ => (stopsAt_seqFault x c _ faultClass_seqImemUe).of_before hpc hsreg, nofun⟩
  · have hcore : (x.raise { code := Flt.SEQ_IMEM_CE, source := c, tag := (x.core c).tagNow, arg0 := (x.core c).pc }).core c = x.core c := by
      rw [Dev.core, (reported_raise_corrected x (show faultClass Flt.SEQ_IMEM_CE = 1 by decide)).cores]
      rfl
    exact ⟨nofun, fun _ => ⟨(congrArg Core.pc hcore).trans hpc, (congrArg Core.sreg hcore).trans hsreg⟩⟩
  · exact ⟨nofun, fun _ => ⟨hpc, hsreg⟩⟩

/-! ### Scalar words (R122, R131 to R133) -/

theorem Core.issuing_of_run {k : Core} (hrun : k.seq = .run) (hfree : k.lstartWait = false) : k.issuing = true := by
  simp [Core.issuing, hrun, hfree]

theorem Core.atOp_of_row {k : Core} (hprog : k.inProg = true) (hclass : wClass k.word = 0) (hop : wOp k.word = op) : k.atOp op = true := by
  simp [Core.atOp, hprog, hclass, hop]

/-- NOP's row stands for a fetch outside the program and for the words of no row. -/
theorem Core.atOp_nop_of_illegal {k : Core}
    (h : k.inProg = false ∨ (k.inProg = true ∧ (wClass k.word = 1 ∨ wClass k.word = 2 ∨ (wClass k.word = 0 ∧ wOp k.word ∉ seqOps)))) :
    k.atOp opNop = true := by
  obtain hout | ⟨hin, hclass | hclass | ⟨hclass, hop⟩⟩ := h
  · simp [Core.atOp, hout]
  · simp [Core.atOp, hin, hclass]
  · simp [Core.atOp, hin, hclass]
  · simp [Core.atOp, hin, hclass, hop]

section
variable {uses : Nat → List Nat} {legal : Nat → Bool} {body : Nat → Dev → Dev}
  (hon : d.coreOn = true) (hissuing : (d.core c).issuing = true) (hat : (d.core c).atOp op = true)
include hon hissuing hat

/-- A word waits while an S register that it names has a vector result outstanding (R122). -/
theorem Dev.issue_of_outstanding {n : Nat} (hn : n ∈ uses (d.core c).word) (hout : (d.core c).outstanding n = true) :
    d.issue c ecc op uses legal body = d := by
  unfold Dev.issue
  dsimp only
  rw [if_neg (by simp [hon, hissuing, hat]), if_pos (List.any_eq_true.2 ⟨n, hn, hout⟩)]

/-- A word that cannot be read and one that is no legal word of the row stop the core. -/
theorem stopsAt_issue (hready : ∀ n ∈ uses (d.core c).word, (d.core c).outstanding n = false)
    (h : (d.fetchEcc c ecc).1 = false ∨ (d.core c).inProg = false ∨ wClass (d.core c).word ≠ 0 ∨ wOp (d.core c).word ≠ op ∨
      wRes (d.core c).word ≠ 0) : stopsAt c d (d.issue c ecc op uses legal body) := by
  obtain ⟨hstops, hkeeps⟩ := fetchEcc_stops_or_keeps d c ecc
  unfold Dev.issue
  dsimp only
  rw [if_neg (by simp [hon, hissuing, hat]), if_neg (by simpa using hready)]
  cases hread : (d.fetchEcc c ecc).1
  case false => exact hstops hread
  case true =>
    rw [hread] at h
    obtain ⟨hpc, hsreg⟩ := hkeeps hread
    rw [if_neg (by simp), if_pos]
    · exact (stopsAt_seqFault _ c _ faultClass_seqIllegal).of_before hpc hsreg
    · obtain h | h | h | h | h := h <;> simp_all

end

/-- Every scalar word issues by the rules of its row. -/
theorem exec_scalarRow (s : State) (c : CoreId) (ecc : WordEcc) : ∀ x ∈ scalarRows c ecc,
    ∃ legal body, exec x.2.2 s = .next { s with dev := s.dev.issue c ecc x.1 x.2.1 legal body } := by
  simp only [scalarRows, List.cons_append, List.nil_append, List.forall_mem_cons, List.not_mem_nil, false_imp_iff, implies_true, and_true]
  constructorm* _ ∧ _
  all_goals exact ⟨_, _, rfl⟩

/-! ### Vector words (R109, R115, R125) -/

/-- Every vector word is passed and issues by the rules of its row. -/
theorem exec_vectorRow (s : State) (c : CoreId) (p : VecStep) : ∀ x ∈ vectorRows c p,
    ∃ body, exec x.2 s = s.does (Dev.vec c x.1 p body) := by
  simp only [vectorRows, List.cons_append, List.nil_append, List.forall_mem_cons, List.not_mem_nil, false_imp_iff, implies_true, and_true]
  constructorm* _ ∧ _
  all_goals exact ⟨_, rfl⟩

/-- A fault of a vector word sets its flag and stops the core. -/
theorem stopsAt_vecFault (d : Dev) {f : Fld} {code : Nat} (arg0 : Nat) (hcode : faultClass code = 4) (herr : f.isErr c)
    (hne : f.key ≠ (Reg.CORE_SEQ_ERR.FAULT c).key) (hwidth : 0 < f.width) :
    stopsAt c d (d.vecFault c f code arg0) ∧ (d.vecFault c f code arg0).bit f = true := by
  obtain ⟨hstops, hkeeps⟩ := seqFaultTag_stops (d.setBit f true) c ((d.setBit f true).core c).tagNow arg0 hcode
  exact ⟨hstops, (hkeeps f herr hne).trans (Dev.bit_setBit_same d true hwidth)⟩

/-- A flag of CORE_VEC_ERR, of one bit. -/
def vecErrFlag (c lo : Nat) : Fld := ⟨0x01008004 + c * 0x40000, lo, 1, 0⟩

theorem stopsAt_vecFault_flag (d : Dev) {lo code : Nat} (arg0 : Nat) (hcode : faultClass code = 4) (hlo : lo < 32) :
    stopsAt c d (d.vecFault c (vecErrFlag c lo) code arg0) ∧ (d.vecFault c (vecErrFlag c lo) code arg0).bit (vecErrFlag c lo) = true := by
  refine stopsAt_vecFault d arg0 hcode ⟨.inr rfl, hlo⟩ ?_ Nat.one_pos
  simp only [Fld.key, vecErrFlag, Reg.CORE_SEQ_ERR.FAULT]
  omega

/-- A fault of a vector word after the errors of the register file that have arisen. -/
theorem stopsAt_vecFault_upset (d : Dev) (u : List RfUpset) {lo code : Nat} (hcode : faultClass code = 4) (hlo : lo < 32) :
    stopsAt c d ((d.setCore c ((d.core c).rfUpsets u)).vecFault c (vecErrFlag c lo) code 0) ∧
      ((d.setCore c ((d.core c).rfUpsets u)).vecFault c (vecErrFlag c lo) code 0).bit (vecErrFlag c lo) = true := by
  obtain ⟨hstops, hflag⟩ := stopsAt_vecFault_flag (c := c) (d.setCore c ((d.core c).rfUpsets u)) 0 hcode hlo
  exact ⟨hstops.of_before (by rw [Dev.core_setCore_same]; rfl) (by rw [Dev.core_setCore_same]; rfl), hflag⟩

section
variable {v : DWord} {rest : List DWord} {m : LayerCmd} {u : List RfUpset} {body : Nat → Nat → Dev → Dev}
  (hon : d.coreOn = true) (hqueue : (d.core c).vq = v :: rest) (hcmd : (d.core c).cmd = some m) (hfree : (d.core c).vecFree = true)
  (hheld : (d.core c).vecHeld v.toNat = false) (hrow : vecRow op v.toNat = true)
include hon hqueue hcmd hfree hheld hrow

/-- The word at the head of the queue, once nothing holds it: its checks, with the errors that have arisen in the register file. -/
theorem Dev.vecIssue_eq : d.vecIssue c op u body =
    if vIllegal v.toNat (d.core c).vl.val then
      (d.setCore c ((d.core c).rfUpsets u)).vecFault c (Reg.CORE_VEC_ERR.ILLEGAL c) Flt.VEC_ILLEGAL 0
    else if isPermute (vOp v.toNat) && !(d.core c).cu then
      (d.setCore c ((d.core c).rfUpsets u)).vecFault c (Reg.CORE_VEC_ERR.UNIT c) Flt.VEC_UNIT 0
    else if ((d.core c).rfUpsets u).rfMark v.toNat = 2 then
      (d.setCore c ((d.core c).rfUpsets u)).vecFault c (Reg.CORE_VEC_ERR.RF_UE c) Flt.VEC_RF_UE 0
    else body v.toNat m.step (taken d c v rest u) := by
  have htaken := d.setCore_setCore c (k := (d.core c).rfUpsets u) (k' := Core.occupy v.toNat { (d.core c).rfUpsets u with vq := rest })
    (Core.ne_reset_of_cmd (m := m) (by simpa using hcmd)) (Core.ne_reset_of_cmd (m := m) (by simpa using hcmd))
  unfold Dev.vecIssue taken
  dsimp only
  split
  · next bw rest' m' hq hc =>
    obtain ⟨rfl, rfl⟩ : v = bw ∧ rest = rest' := List.cons.inj (hqueue.symm.trans hq)
    obtain rfl : m = m' := Option.some.inj (hcmd.symm.trans hc)
    rw [if_neg (by simp [hon, hfree, hrow, hheld]), htaken]
    rfl
  · next hno => exact absurd hcmd (hno v rest m hqueue)

/-- A word that no rule of R109 allows stops the core. -/
theorem vecIssue_stops_of_illegal (hill : vIllegal v.toNat (d.core c).vl.val = true) :
    stopsAt c d (d.vecIssue c op u body) ∧ (d.vecIssue c op u body).bit (Reg.CORE_VEC_ERR.ILLEGAL c) = true := by
  rw [Dev.vecIssue_eq hon hqueue hcmd hfree hheld hrow, if_pos hill]
  exact stopsAt_vecFault_upset d u (lo := 2) (code := Flt.VEC_ILLEGAL) (by decide) (by decide)

/-- A permute stops the core while pipe B has the other role (R115). -/
theorem vecIssue_stops_of_unit (hlegal : vIllegal v.toNat (d.core c).vl.val = false) (hperm : isPermute (vOp v.toNat) = true)
    (hcu : (d.core c).cu = false) :
    stopsAt c d (d.vecIssue c op u body) ∧ (d.vecIssue c op u body).bit (Reg.CORE_VEC_ERR.UNIT c) = true := by
  rw [Dev.vecIssue_eq hon hqueue hcmd hfree hheld hrow, if_neg (by simp [hlegal]), if_pos (by simp [hperm, hcu])]
  exact stopsAt_vecFault_upset d u (lo := 1) (code := Flt.VEC_UNIT) (by decide) (by decide)

/-- A word that reads an uncorrectable register stops the core (R125). -/
theorem vecIssue_stops_of_register (hlegal : vIllegal v.toNat (d.core c).vl.val = false)
    (hunit : isPermute (vOp v.toNat) = true → (d.core c).cu = true) (hmark : ((d.core c).rfUpsets u).rfMark v.toNat = 2) :
    stopsAt c d (d.vecIssue c op u body) ∧ (d.vecIssue c op u body).bit (Reg.CORE_VEC_ERR.RF_UE c) = true := by
  rw [Dev.vecIssue_eq hon hqueue hcmd hfree hheld hrow, if_neg (by simp [hlegal]), if_neg (by simpa using hunit), if_pos hmark]
  exact stopsAt_vecFault_upset d u (lo := 4) (code := Flt.VEC_RF_UE) (by decide) (by decide)

end

/-! ### The statement -/

/-- Settles O27: the scalar words by `stopsAt_issue` and `Dev.issue_of_outstanding`, the vector words by the three stops of `vecIssue`. -/
theorem wordsThatStop : Obligations.WordsThatStop := by
  intro s c
  refine ⟨fun ecc hon hrun hfree => ⟨fun hread hill => ?nop, fun hprog hclass x hx hop => ⟨fun hready hbad => ?stops, fun r hr hout => ?waits⟩⟩,
    fun v rest m u hon hqueue hcmd hfree hheld => ⟨fun hop => ?unlisted, fun x hx hop => ?row⟩⟩
  case nop =>
    refine does_of rfl (stopsAt_issue hon (Core.issuing_of_run hrun hfree) (Core.atOp_nop_of_illegal hill) nofun ?_)
    obtain hout | ⟨-, hclass | hclass | ⟨-, hop⟩⟩ := hill
    · exact .inr (.inl hout)
    · exact .inr (.inr (.inl (by simp [hclass])))
    · exact .inr (.inr (.inl (by simp [hclass])))
    · exact .inr (.inr (.inr (.inl fun h => hop (h ▸ by decide))))
  case stops =>
    obtain ⟨legal, body, hexec⟩ := exec_scalarRow s c ecc x hx
    refine ⟨_, hexec, stopsAt_issue hon (Core.issuing_of_run hrun hfree) (Core.atOp_of_row hprog hclass hop) hready ?_⟩
    exact hbad.imp_right fun hres => .inr (.inr (.inr hres))
  case waits =>
    obtain ⟨legal, body, hexec⟩ := exec_scalarRow s c ecc x hx
    exact ⟨_, hexec, Dev.issue_of_outstanding hon (Core.issuing_of_run hrun hfree) (Core.atOp_of_row hprog hclass hop) hr hout⟩
  case unlisted =>
    have hrow : vecRow 0x10 v.toNat = true := by simp [vecRow, hop]
    have hill : vIllegal v.toNat (s.dev.core c).vl.val = true := by simp [vIllegal, hop]
    exact does_of rfl (vecIssue_stops_of_illegal hon hqueue hcmd hfree hheld hrow hill)
  case row =>
    have hrow : vecRow x.1 v.toNat = true := vecRow_of_op hop
    obtain ⟨body, hexec⟩ := exec_vectorRow s c (.issue u) x hx
    refine ⟨fun hill => does_of hexec ?_, fun hlegal hperm hcu => does_of hexec ?_, fun hlegal hunit hmark => does_of hexec ?_⟩
    · exact vecIssue_stops_of_illegal hon hqueue hcmd hfree hheld hrow hill
    · exact vecIssue_stops_of_unit hon hqueue hcmd hfree hheld hrow hlegal (hop ▸ hperm) hcu
    · exact vecIssue_stops_of_register hon hqueue hcmd hfree hheld hrow hlegal (hop ▸ hunit) hmark

end Sys2Proof.Machine

/-! ## Vector words pass to the issue queue (O19) -/

namespace Sys2Proof.Machine

variable {d : Dev} {c op : Nat} {ecc : WordEcc}

/-- A word that is passed goes to the end of the queue, or waits at the program counter while the queue is full (R108). -/
theorem Dev.vecPass_of_passes (h : Passes d c ecc op) : d.vecPass c ecc op =
    if 32 ≤ (d.core c).vq.length then fetched d c ecc
    else (fetched d c ecc).modCore c fun k => { k.next with vq := k.vq ++ [BitVec.ofNat 64 (d.core c).word] } := by
  obtain ⟨hon, hissuing, hprog, hread, hclass, hrow, hopen, huse⟩ := h
  unfold Dev.vecPass
  dsimp only
  rw [if_neg (by simp [hon, hissuing, hprog, hclass, vecRow_of_op hrow]), if_neg (by simp [hread]), if_neg (by simp [hopen, huse])]
  rfl

/-- A word that cannot be read stops the core, and so does one that is passed with no command of the vector engine open. -/
theorem stopsAt_vecPass (hon : d.coreOn = true) (hissuing : (d.core c).issuing = true) (hprog : (d.core c).inProg = true)
    (hclass : wClass (d.core c).word = 3) (hop : vOp (d.core c).word = op)
    (h : (d.fetchEcc c ecc).1 = false ∨ (d.core c).isOpen = false ∨
      (((d.core c).cmd.map fun m => recUseVec m.record).getD false) = false) : stopsAt c d (d.vecPass c ecc op) := by
  obtain ⟨hstops, hkeeps⟩ := fetchEcc_stops_or_keeps d c ecc
  unfold Dev.vecPass
  dsimp only
  rw [if_neg (by simp [hon, hissuing, hprog, hclass, vecRow_of_op hop])]
  cases hread : (d.fetchEcc c ecc).1
  case false => exact hstops hread
  case true =>
    rw [hread] at h
    obtain ⟨hpc, hsreg⟩ := hkeeps hread
    rw [if_neg (by simp), if_pos (by simpa using h)]
    exact (stopsAt_seqFault _ c _ faultClass_seqIllegal).of_before hpc hsreg

theorem onlyCore_modCore (d : Dev) (c : Nat) (g : Core → Core) : onlyCore c d (d.modCore c g) :=
  ⟨rfl, fun _ hj => Dev.core_modCore_other d g hj⟩

/-- Settles O19: the word passes by `Dev.vecPass_of_passes` and stops by `stopsAt_vecPass`. -/
theorem vectorPass : Obligations.VectorPass := by
  intro s c ecc
  dsimp only
  intro x hx
  obtain ⟨body, hexec⟩ := exec_vectorRow s c (.pass ecc) x hx
  refine ⟨fun h => ⟨fun hroom => does_of_eq hexec ((Dev.vecPass_of_passes h).trans (if_neg (Nat.not_le.2 hroom))) ?_,
      fun hfull => does_of_eq hexec ((Dev.vecPass_of_passes h).trans (if_pos hfull)) rfl⟩,
    fun hon hissuing hprog hclass hop hbad => does_of hexec (stopsAt_vecPass hon hissuing hprog hclass hop hbad)⟩
  exact ⟨onlyCore_modCore _ _ _, Dev.core_modCore_same _ _ _⟩

end Sys2Proof.Machine

/-! ## Reductions in the order of R121 -/

namespace Sys2Proof.Machine

/-- One halving of R121's partial results: the upper half joins the lower. -/
def halve {α : Type} (op : α → α → α) (ps : List α) (w : Nat) : List α := List.zipWith op (ps.take w) ((ps.drop w).take w)

/-- What a partial result takes of an element: nothing of one at VL or above, and of none that is not there. -/
def take1 {α : Type} (op : α → α → α) (vl : Nat) (elem : Nat → Option α) (p : α) (i : Nat) : α :=
  if i < vl then (match elem i with | some x => op p x | none => p) else p

theorem treeReduce_eq {α : Type} (op : α → α → α) (ident : α) (vl : Nat) (elem : Nat → Option α) :
    treeReduce op ident vl elem = ([128, 64, 32, 16, 8, 4, 2, 1].foldl (halve op)
      ((List.range 256).map fun j => [j, j + 256, j + 512, j + 768].foldl (take1 op vl elem) ident)).headD ident := by
  unfold treeReduce halve take1
  rfl

section
variable {op : Int → Int → Int} {n : Int} (hop : ∀ a b, op a b ≡ a + b [ZMOD n])
include hop

theorem sum_zipWith_modEq {l l' : List Int} (h : l.length = l'.length) : (List.zipWith op l l').sum ≡ l.sum + l'.sum [ZMOD n] := by
  induction l generalizing l' with
  | nil =>
    obtain rfl := List.length_eq_zero_iff.1 h.symm
    rfl
  | cons x xs ih =>
    cases l' with
    | nil => cases h
    | cons y ys =>
      simp only [List.zipWith_cons_cons, List.sum_cons]
      calc op x y + (List.zipWith op xs ys).sum
          ≡ (x + y) + (xs.sum + ys.sum) [ZMOD n] := (hop x y).add (ih (Nat.succ.inj h))
        _ = x + xs.sum + (y + ys.sum) := by ring

/-- A halving keeps the sum. -/
theorem sum_halve_modEq {ps : List Int} {w : Nat} (h : ps.length = 2 * w) : (halve op ps w).sum ≡ ps.sum [ZMOD n] := by
  have hdrop : (ps.drop w).take w = ps.drop w := List.take_of_length_le (by simp; omega)
  have hlen : (ps.take w).length = (ps.drop w).length := by simp; omega
  rw [halve, hdrop]
  calc (List.zipWith op (ps.take w) (ps.drop w)).sum ≡ (ps.take w).sum + (ps.drop w).sum [ZMOD n] := sum_zipWith_modEq hop hlen
    _ = ps.sum := by rw [← List.sum_append, List.take_append_drop]

/-- All halvings of a power of two of partial results leave one, their sum. -/
theorem foldl_halve_modEq (k : Nat) {ps : List Int} (h : ps.length = 2 ^ k) :
    ∃ x, ((List.range k).reverse.map (2 ^ ·)).foldl (halve op) ps = [x] ∧ x ≡ ps.sum [ZMOD n] := by
  induction k generalizing ps with
  | zero =>
    obtain ⟨x, rfl⟩ := List.length_eq_one_iff.1 h
    exact ⟨x, rfl, by simp⟩
  | succ k ih =>
    have hlen : (halve op ps (2 ^ k)).length = 2 ^ k := by simp [halve, h, Nat.pow_succ]; omega
    obtain ⟨x, hx, hsum⟩ := ih hlen
    refine ⟨x, ?_, hsum.trans (sum_halve_modEq hop (by rw [h, Nat.pow_succ']))⟩
    rw [List.range_succ, List.reverse_append]
    exact hx

/-- A partial result takes the elements of its column, those below VL that are there. -/
theorem foldl_column_modEq (vl : Nat) (elem : Nat → Option Int) (is : List Nat) (p : Int) :
    is.foldl (take1 op vl elem) p ≡
      p + (is.map fun i => if i < vl then (elem i).getD 0 else 0).sum [ZMOD n] := by
  induction is generalizing p with
  | nil => simp
  | cons i is ih =>
    have hstep : take1 op vl elem p i ≡ p + (if i < vl then (elem i).getD 0 else 0) [ZMOD n] := by
      unfold take1
      split
      · cases elem i with
        | none => simp
        | some x => exact hop p x
      · simp
    rw [List.foldl_cons, List.map_cons, List.sum_cons, ← add_assoc]
    exact (ih _).trans (hstep.add_right _)

/-- Where the operation adds up to a multiple of `n`, the order of R121 gives the sum of the elements. -/
theorem treeReduce_modEq {vl : Nat} (hvl : vl ≤ 1024) (elem : Nat → Option Int) :
    treeReduce op 0 vl elem ≡ ∑ i ∈ Finset.range vl, (elem i).getD 0 [ZMOD n] := by
  let g (i : Nat) : Int := if i < vl then (elem i).getD 0 else 0
  let part (j : Nat) : Int := [j, j + 256, j + 512, j + 768].foldl (take1 op vl elem) 0
  obtain ⟨x, hx, hsum⟩ := foldl_halve_modEq hop 8 (ps := (List.range 256).map part) (by simp)
  have htree : treeReduce op 0 vl elem = x := by
    have hwidths : [128, 64, 32, 16, 8, 4, 2, 1] = (List.range 8).reverse.map (2 ^ ·) := by decide
    rw [treeReduce_eq, hwidths, hx]
    rfl
  have hpart (j : Nat) : part j ≡ g j + g (256 + j) + g (512 + j) + g (768 + j) [ZMOD n] := by
    have hsum : ([j, j + 256, j + 512, j + 768].map g).sum = g j + g (256 + j) + g (512 + j) + g (768 + j) := by
      simp only [List.map_cons, List.map_nil, List.sum_cons, List.sum_nil, Nat.add_comm j]
      ring
    simpa only [zero_add, ← hsum] using foldl_column_modEq hop vl elem [j, j + 256, j + 512, j + 768] 0
  have hcolumns : ∑ j ∈ Finset.range 256, (g j + g (256 + j) + g (512 + j) + g (768 + j)) = ∑ i ∈ Finset.range 1024, g i := by
    rw [show 1024 = 256 + 256 + 256 + 256 from rfl, Finset.sum_range_add, Finset.sum_range_add, Finset.sum_range_add]
    simp only [Finset.sum_add_distrib]
  have hbelow : ∑ i ∈ Finset.range 1024, g i = ∑ i ∈ Finset.range vl, (elem i).getD 0 := by
    rw [← Finset.sum_subset (Finset.range_subset_range.2 hvl) fun i _ hi => if_neg (by simpa using hi)]
    exact Finset.sum_congr rfl fun i hi => if_pos (Finset.mem_range.1 hi)
  calc treeReduce op 0 vl elem = x := htree
    _ ≡ ((List.range 256).map part).sum [ZMOD n] := hsum
    _ = ∑ j ∈ Finset.range 256, part j := rfl
    _ ≡ ∑ j ∈ Finset.range 256, (g j + g (256 + j) + g (512 + j) + g (768 + j)) [ZMOD n] := Int.ModEq.sum fun j _ => hpart j
    _ = ∑ i ∈ Finset.range vl, (elem i).getD 0 := hcolumns.trans hbelow

end

/-! ### INT32 sums -/

theorem bitsInt_modEq (v : Nat) : bitsInt 32 v ≡ v [ZMOD 2 ^ 32] := by
  simp only [bitsInt, Int.ModEq]
  split <;> omega

theorem addInt32_modEq (a b : Int) : (addInt32 a b).1 ≡ a + b [ZMOD 2 ^ 32] := by
  refine (bitsInt_modEq _).trans ?_
  simp only [intBits, Int.ModEq]
  omega

/-- The sum of the elements of a list that `p` names, as a number and as an integer. -/
theorem foldl_filter_modEq {n : Int} {f : Nat → Nat} {g : Nat → Int} (h : ∀ j, g j ≡ f j [ZMOD n]) (p : Nat → Bool) (l : List Nat) (t : Nat) :
    (((l.filter p).foldl (fun t j => t + f j) t : Nat) : Int) ≡ t + (l.map fun j => if p j then g j else 0).sum [ZMOD n] := by
  induction l generalizing t with
  | nil => simp
  | cons j l ih =>
    cases hp : p j
    · simpa [hp] using ih t
    · simp only [List.filter_cons, hp, if_true, List.foldl_cons, List.map_cons, List.sum_cons, ← add_assoc]
      refine (ih _).trans (Int.ModEq.add_right _ ?_)
      push_cast
      exact (h j).symm.add_left _

/-- VRSUM of INT32 lanes: the sum of the active elements, at 32 bits. -/
theorem treeReduce_redInt_sum (k : Core) (w : Nat) :
    intBits 32 (treeReduce (fun a b => (addInt32 a b).1) 0 k.vl.val (k.redInt w)) % 2 ^ 32 =
      ((List.range k.vl.val).filter (k.isActive w)).foldl (fun t j => t + k.vElem 4 (vVa w) j) 0 % 2 ^ 32 := by
  have htree := treeReduce_modEq addInt32_modEq (Nat.le_of_lt_succ k.vl.isLt) (k.redInt w)
  have hlist := foldl_filter_modEq (fun j => bitsInt_modEq (k.vElem 4 (vVa w) j)) (k.isActive w) (List.range k.vl.val) 0
  have hsame : ∑ i ∈ Finset.range k.vl.val, (k.redInt w i).getD 0 =
      ((List.range k.vl.val).map fun j => if k.isActive w j then bitsInt 32 (k.vElem 4 (vVa w) j) else 0).sum := by
    refine Finset.sum_congr rfl fun i _ => ?_
    simp only [Core.redInt]
    split <;> rfl
  rw [hsame] at htree
  have h : treeReduce (fun a b => (addInt32 a b).1) 0 k.vl.val (k.redInt w) ≡
      (((List.range k.vl.val).filter (k.isActive w)).foldl (fun t j => t + k.vElem 4 (vVa w) j) 0 : Nat) [ZMOD 2 ^ 32] :=
    htree.trans (by simpa using hlist.symm)
  simp only [intBits, Int.ModEq] at h ⊢
  omega

end Sys2Proof.Machine

/-! ## The reductions, VSETVL and VSRI (O24) -/

namespace Sys2Proof.Machine

variable {s : State} {c op : Nat} {w : DWord} {rest : List DWord} {m : LayerCmd} {u : List RfUpset} {d : Dev}

theorem VecKeeps.trans {k k' k'' : Core} (h : VecKeeps k k') (h' : VecKeeps k' k'') : VecKeeps k k'' := by
  rw [VecKeeps] at h h' ⊢
  calc k'' = { k' with
        vreg := k''.vreg, vmask := k''.vmask, sreg := k''.sreg, rfEcc := k''.rfEcc, vl := k''.vl, srTid := k''.srTid,
        srBase := k''.srBase, srStep := k''.srStep, cmd := k''.cmd } := h'
    _ = _ := by rw [h]

/-- A result in an S register counts by its low 32 bits. -/
theorem sDest.congr {e : Dev} {v v' : Nat} (h : sDest c w v d e) (hv : v % 2 ^ 32 = v' % 2 ^ 32) : sDest c w v' d e := by
  simpa only [sDest, hv] using h

theorem Core.setS32_vl (k : Core) (r v : Nat) : (k.setS32 r v).vl = k.vl := by
  unfold Core.setS32 Core.setS
  split <;> rfl

theorem Core.setS32_srBase (k : Core) (r v : Nat) : (k.setS32 r v).srBase = k.srBase := by
  unfold Core.setS32 Core.setS
  split <;> rfl

theorem Core.redInt_eq (k : Core) (n : Nat) : k.redInt n =
    fun j => if k.isActive n j then some (BitVec.ofNat 32 (k.vElem 4 (vVa n) j)).toInt else none := by
  funext j
  rw [Core.redInt, bitsInt_eq_toInt]

theorem Core.redVal_eq (k : Core) (n : Nat) : k.redVal n =
    fun j => if k.isActive n j then some ((laneFmt (vTyp n)).decode (k.vElem (laneSize (vTyp n)) (vVa n) j)) else none := rfl

/-- What a word leaves that puts a whole number into an S register. -/
def WholeResult (c : Nat) (w : DWord) (v : Nat) (d e : Dev) : Prop :=
  vecFrame c [] d e ∧ sDest c w v d e ∧ (e.core c).vl = (d.core c).vl ∧ (e.core c).srBase = (d.core c).srBase

theorem wholeResult_vecEnd {v v' : Nat} (h : v % 2 ^ 32 = v' % 2 ^ 32) :
    WholeResult c w v' d (d.vecEnd c ((d.core c).setS32 (vVd w.toNat) v, Flags.zero)) := by
  refine ⟨vecFrame_vecEnd (vecKeeps_setS32 _ _ _) (regsBut_vecEnd_zero _ _), (sDest_vecEnd _ _).congr h, ?_, ?_⟩
  · rw [Dev.core_vecEnd_same]
    exact Core.setS32_vl _ _ _
  · rw [Dev.core_vecEnd_same]
    exact Core.setS32_srBase _ _ _

/-- What a word leaves that ends a floating-point reduction in the value `v` with the flags `f`: the pattern, or its rounded reciprocal. -/
def ReducedTo (c step : Nat) (w : DWord) (v : Val) (f : Flags) (d e : Dev) : Prop :=
  ((vImm w.toNat).testBit 0 = false →
    vecFrame c (fpFields c) d e ∧ sDest c w (bits32 v) d e ∧ raisesFlags c f d e ∧ (e.core c).srBase = (d.core c).srBase) ∧
  ((vImm w.toNat).testBit 0 = true →
    let p := fp32.roundArith ((d.core c).vRound w.toNat step 0) (rcpVal v).1
    vecFrame c (fpFields c) d e ∧ sDest c w p.1 d e ∧ raisesFlags c ((f.or (rcpVal v).2).or p.2) d e ∧
      (e.core c).srBase = if vRnd w.toNat = 2 then ((d.core c).srBase + (d.core c).srStep) % 2 ^ 64 else (d.core c).srBase)

theorem Core.srAdvance_eq (k : Core) (n count : Nat) :
    k.srAdvance n count = { k with srBase := if vRnd n = 2 then (k.srBase + count * k.srStep) % 2 ^ 64 else k.srBase } := by
  unfold Core.srAdvance
  split <;> rfl

theorem reducedTo_redEnd {step : Nat} (v : Val) (f : Flags) :
    ReducedTo c step w v f d (d.vecEnd c ((d.core c).redEnd w.toNat step v f)) := by
  refine ⟨fun himm => ?_, fun himm => ?_⟩
  · have hend : (d.core c).redEnd w.toNat step v f = ((d.core c).setS32 (vVd w.toNat) (bits32 v), f) := by simp [Core.redEnd, himm]
    rw [hend]
    refine ⟨vecFrame_vecEnd (vecKeeps_setS32 _ _ _) (regsBut_vecEnd _ _), sDest_vecEnd _ _, raisesFlags_vecEnd _ _, ?_⟩
    rw [Dev.core_vecEnd_same]
    exact Core.setS32_srBase _ _ _
  · intro p
    have hend : (d.core c).redEnd w.toNat step v f =
        (((d.core c).setS32 (vVd w.toNat) p.1).srAdvance w.toNat 1, (f.or (rcpVal v).2).or p.2) := by
      simp [Core.redEnd, himm, p]
    rw [hend, Core.srAdvance_eq]
    obtain ⟨hvreg, hvmask, htid, hstep⟩ := setS32_frame (d.core c) (vVd w.toNat) p.1
    refine ⟨vecFrame_vecEnd ((vecKeeps_setS32 _ _ _).trans rfl) (regsBut_vecEnd _ _), ?_, raisesFlags_vecEnd _ _, ?_⟩
    · simp only [sDest, Dev.core_vecEnd_same]
      exact ⟨s_setS32 _ _ _, hvreg, hvmask, htid, hstep⟩
    · rw [Dev.core_vecEnd_same]
      simp [Core.noteFlags, Core.setS32_srBase, hstep]

/-- The two forms of a reduction's end, as outcomes of its command. -/
theorem does_redEnd {i : Instr} {v : Val} {f : Flags} {g : Core → Nat → Nat → Core × Flags}
    (hexec : exec i s = s.does (Dev.vecRegs c op (.issue u) g)) (h : VecIssues s.dev c op w rest m u)
    (hd : taken s.dev c w rest u = d) (hg : g (d.core c) w.toNat m.step = (d.core c).redEnd w.toNat m.step v f) :
    ((vImm w.toNat).testBit 0 = false → Does i s fun e =>
      vecFrame c (fpFields c) d e ∧ sDest c w (bits32 v) d e ∧ raisesFlags c f d e ∧ (e.core c).srBase = (d.core c).srBase) ∧
    ((vImm w.toNat).testBit 0 = true → Does i s fun e =>
      let p := fp32.roundArith ((d.core c).vRound w.toNat m.step 0) (rcpVal v).1
      vecFrame c (fpFields c) d e ∧ sDest c w p.1 d e ∧ raisesFlags c ((f.or (rcpVal v).2).or p.2) d e ∧
        (e.core c).srBase = if vRnd w.toNat = 2 then ((d.core c).srBase + (d.core c).srStep) % 2 ^ 64 else (d.core c).srBase) := by
  subst hd
  have hend := reducedTo_redEnd (c := c) (w := w) (d := taken s.dev c w rest u) (step := m.step) v f
  rw [← hg] at hend
  exact ⟨fun himm => does_vecRegs hexec h (hend.1 himm), fun himm => does_vecRegs hexec h (hend.2 himm)⟩

/-- A result whose word puts a whole number into an S register. -/
theorem does_wholeResult {i : Instr} {v v' : Nat} {g : Core → Nat → Nat → Core × Flags}
    (hexec : exec i s = s.does (Dev.vecRegs c op (.issue u) g)) (h : VecIssues s.dev c op w rest m u)
    (hd : taken s.dev c w rest u = d) (hg : g (d.core c) w.toNat m.step = ((d.core c).setS32 (vVd w.toNat) v, Flags.zero))
    (hv : v % 2 ^ 32 = v' % 2 ^ 32) : Does i s (WholeResult c w v' d) := by
  subst hd
  exact does_vecRegs hexec h (hg ▸ wholeResult_vecEnd hv)

theorem Core.rsum_of_int {k : Core} {n : Nat} (step : Nat) (ht : vTyp n = 1) : k.rsum n step =
    (k.setS32 (vVd n) (intBits 32 (treeReduce (fun a b => (addInt32 a b).1) 0 k.vl.val (k.redInt n))), Flags.zero) :=
  if_pos (decide_eq_true ht)

/-- Two FP32 sums with the flags of their terms: the sum rounded to nearest even, with the flags that it raises (R121). -/
def addRounded (a b : Val × Flags) : Val × Flags :=
  let t := Val.add a.1 b.1
  let r := fp32.roundArith .nearest t.1
  (fp32.decode r.1, ((a.2.or b.2).or r.2).or (Flags.inv t.2))

theorem Core.rsum_of_fp {k : Core} {n : Nat} (step : Nat) (ht : vTyp n ≠ 1) : k.rsum n step =
    k.redEnd n step
      (treeReduce addRounded (Val.zero, Flags.zero) k.vl.val fun i => (k.redVal n i).map fun x => (x, Flags.zero)).1
      (treeReduce addRounded (Val.zero, Flags.zero) k.vl.val fun i => (k.redVal n i).map fun x => (x, Flags.zero)).2 := by
  have hint : ¬laneInt (vTyp n) = true := fun h => ht (of_decide_eq_true h)
  unfold Core.rsum
  rw [if_neg hint]
  generalize hleft : treeReduce (α := Val × Flags) _ _ _ _ = r
  have hright : treeReduce addRounded (Val.zero, Flags.zero) k.vl.val (fun i => (k.redVal n i).map fun x => (x, Flags.zero)) = r := hleft
  rw [hright]

theorem Core.rext_of_int {k : Core} {n : Nat} (step : Nat) (fi : Int → Int → Int) (ii : Int) (ff : Val → Val → Val) (iv : Val)
    (ht : vTyp n = 1) : k.rext n step fi ii ff iv =
      (k.setS32 (vVd n) (intBits 32 (treeReduce fi ii k.vl.val (k.redInt n))), Flags.zero) := if_pos (decide_eq_true ht)

theorem Core.rext_of_fp {k : Core} {n : Nat} (step : Nat) (fi : Int → Int → Int) (ii : Int) (ff : Val → Val → Val) (iv : Val)
    (ht : vTyp n ≠ 1) : k.rext n step fi ii ff iv = k.redEnd n step (treeReduce ff iv k.vl.val (k.redVal n)) Flags.zero :=
  if_neg fun h => ht (of_decide_eq_true h)

/-- VRNF counts the active elements that are not finite; an integer always is. -/
theorem Core.rnf_eq (k : Core) (n : Nat) : k.rnf n = (k.setS32 (vVd n) (if vTyp n = 1 then 0 else
    ((List.range k.vl.val).filter fun j => k.isActive n j &&
      !((laneFmt (vTyp n)).decode (k.vElem (laneSize (vTyp n)) (vVa n) j)).isFinite).length), Flags.zero) := by
  have hcount : (k.active n).filter (fun i => match k.redVal n i with | some v => !v.isFinite | none => false) =
      (List.range k.vl.val).filter fun j => k.isActive n j &&
        !((laneFmt (vTyp n)).decode (k.vElem (laneSize (vTyp n)) (vVa n) j)).isFinite := by
    rw [Core.active, List.filter_filter]
    refine List.filter_congr fun j _ => ?_
    cases hactive : k.isActive n j <;> simp [Core.redVal, hactive]
  have hrnf : k.rnf n = (k.setS32 (vVd n) (if laneInt (vTyp n) then 0 else
    ((k.active n).filter fun i => match k.redVal n i with | some v => !v.isFinite | none => false).length), Flags.zero) := rfl
  rw [hrnf, hcount]
  simp [laneInt]

theorem sext64_eq (v : Nat) : sext64 32 v = ((BitVec.ofNat 32 v).signExtend 64).toNat := by
  rw [sext64, bitsInt_eq_toInt]
  rfl

theorem intBits_eq (x : Int) : intBits 32 x = (BitVec.ofInt 32 x).toNat := rfl

/-- VSETVL returns the new VL in its S register. -/
theorem sDest_setVl : sDest c w (min (if vImm w.toNat % 2048 = 0 then (d.core c).s32 (vSa w.toNat) else vImm w.toNat % 2048) 1024) d
    (d.vecEnd c ((d.core c).setVl w.toNat)) := by
  simp only [sDest, Dev.core_vecEnd_same]
  exact ⟨s_setS32 _ _ _, setS32_frame _ _ _⟩

/-! ### The statement -/

/-- Settles O24: the whole results by `does_wholeResult`, the floating-point ends by `does_redEnd`, VRSUM of INT32 lanes by
`treeReduce_redInt_sum`. -/
theorem vectorReductions : Obligations.VectorReductions := by
  intro s c w rest m u
  refine ⟨fun h => ⟨fun ht => ?sumInt, fun ht => ?sumFp⟩, fun h => ⟨fun ht => ?maxInt, fun ht => ?maxFp⟩,
    fun h => ⟨fun ht => ?minInt, fun ht => ?minFp⟩, fun h => ?rnf, fun h => does_vecRegs rfl h ?setVl, fun h => does_vecRegs rfl h ?sri⟩
  case sumInt =>
    exact does_wholeResult rfl h rfl (Core.rsum_of_int _ ht) (treeReduce_redInt_sum _ _)
  case sumFp => exact does_redEnd rfl h rfl (Core.rsum_of_fp _ ht)
  case maxInt =>
    refine does_wholeResult rfl h rfl (Core.rext_of_int _ _ _ _ _ ht) ?_
    rw [Core.redInt_eq, intBits_eq]
  case maxFp => exact does_redEnd rfl h rfl (Core.rext_of_fp _ _ _ _ _ ht)
  case minInt =>
    refine does_wholeResult rfl h rfl (Core.rext_of_int _ _ _ _ _ ht) ?_
    rw [Core.redInt_eq, intBits_eq]
  case minFp => exact does_redEnd rfl h rfl (Core.rext_of_fp _ _ _ _ _ ht)
  case rnf => exact does_wholeResult rfl h rfl (Core.rnf_eq _ _) rfl
  case setVl =>
    refine ⟨vecFrame_vecEnd (.trans (k' := { (taken s.dev c w rest u).core c with vl := _ }) rfl (vecKeeps_setS32 _ _ _))
      (regsBut_vecEnd_zero _ _), ?_, sDest_setVl⟩
    rw [Dev.core_vecEnd_same]
    exact congrArg Fin.val (Core.setS32_vl _ _ _)
  case sri =>
    refine ⟨vecFrame_vecEnd rfl (regsBut_vecEnd_zero _ _), ?_⟩
    rw [Dev.core_vecEnd_same]
    exact ⟨rfl, rfl, rfl, rfl, rfl, rfl, sext64_eq _⟩

end Sys2Proof.Machine

/-! ## The permutes (O23) -/

namespace Sys2Proof.Machine

variable {s : State} {c op : Nat} {w : DWord} {rest : List DWord} {m : LayerCmd} {u : List RfUpset} {d : Dev}

/-! ### Elements written one by one -/

section
variable (k : Core) (size r : Nat)

theorem leNat_lt (bs : List Byte) : leNat bs < 2 ^ (8 * bs.length) := by
  induction bs with
  | nil => simp [leNat]
  | cons b bs ih =>
    have hb := b.isLt
    simp only [leNat, List.length_cons, Nat.mul_add, Nat.pow_add]
    omega

/-- An element fits its size. -/
theorem Core.vElem_mod (i : Nat) : k.vElem size r i % 2 ^ (8 * size) = k.vElem size r i := by
  have h := leNat_lt ((List.range size).map fun b => k.vByte r (size * i + b))
  rw [List.length_map, List.length_range] at h
  exact Nat.mod_eq_of_lt h

variable {k size r}

theorem vElem_setVElems_mem {j v : Nat} {es : List (Nat × Nat)} (hnodup : (es.map Prod.fst).Nodup) (h : (j, v) ∈ es) :
    (k.setVElems size r es).vElem size r j = v % 2 ^ (8 * size) := by
  rw [Core.vElem_eq, Core.setVElems_vreg, elemAt_foldl_putElem_mem size r hnodup h]

theorem vElem_setVElems_other {j : Nat} {es : List (Nat × Nat)} (h : j ∉ es.map Prod.fst) :
    (k.setVElems size r es).vElem size r j = k.vElem size r j := by
  have hother : ∀ e ∈ es, e.1 ≠ j := fun e he hj => h (hj ▸ List.mem_map_of_mem he)
  rw [Core.vElem_eq, Core.setVElems_vreg, elemAt_foldl_putElem_other size r hother]
  rfl

/-- Elements below VL lie within their register. -/
theorem vByte_setVElems_other {es : List (Nat × Nat)} (hsize : size ≤ 4) (hin : ∀ j ∈ es.map Prod.fst, j < k.vl.val) {r' i : Nat}
    (hr : r' ≠ r) (hi : i < 4096) : (k.setVElems size r es).vByte r' i = k.vByte r' i := by
  have hfit : ∀ e ∈ es, size * e.1 + size ≤ 4096 := fun e he => by
    have hlt := hin e.1 (List.mem_map_of_mem he)
    have hvl := k.vl.isLt
    calc size * e.1 + size = size * (e.1 + 1) := rfl
      _ ≤ 4 * 1024 := Nat.mul_le_mul hsize (by omega)
  rw [Core.vByte, Core.setVElems_vreg, mget_foldl_putElem_outside hfit (by omega)]
  rfl

theorem Core.setS32_vElem (n v i : Nat) : (k.setS32 n v).vElem size r i = k.vElem size r i := by
  simp only [Core.vElem_eq, (setS32_frame k n v).1]

theorem Core.setS32_vByte (n v i : Nat) : (k.setS32 n v).vByte r i = k.vByte r i := by
  simp only [Core.vByte, (setS32_frame k n v).1]

end

/-! ### VPERM and VSHUF -/

/-- An element operation that raises no flag. -/
theorem Core.elems_of_quiet (k : Core) (n size : Nat) {f : Nat → Nat × Flags} (hquiet : ∀ i, (f i).2 = Flags.zero) :
    k.elems n size f = ((k.elems n size f).1, Flags.zero) := by
  have hnone (l : List Nat) : l.foldl (fun a i => a.or (f i).2) Flags.zero = Flags.zero := by
    induction l with
    | nil => rfl
    | cons i _ ih => rw [List.foldl_cons, hquiet i]; exact ih
  exact Prod.ext rfl ((Core.elems_snd k n size f).trans (hnone _))

/-- What a word leaves that moves elements: its destination, and no register of control space. -/
theorem movedLanes_vecEnd_elems {size : Nat} (hsize : size ≤ 4) {f : Nat → Nat × Flags} {g : Nat → Nat} (hquiet : ∀ i, (f i).2 = Flags.zero)
    (hfg : ∀ i, (f i).1 = g i) :
    vecFrame c [] d (d.vecEnd c ((d.core c).elems w.toNat size f)) ∧
      ((d.vecEnd c ((d.core c).elems w.toNat size f)).core c).srBase = (d.core c).srBase ∧
      vecDest c w size g d (d.vecEnd c ((d.core c).elems w.toNat size f)) := by
  rw [Core.elems_of_quiet _ _ _ hquiet]
  refine ⟨vecFrame_vecEnd (vecKeeps_elems _ _ _ _) (regsBut_vecEnd_zero _ _), ?_, vecDest_vecEnd_elems hsize (fun i => by rw [hfg]) _⟩
  rw [Dev.core_vecEnd_same]
  rfl

/-! ### VPACK and VUNPACK -/

theorem vecKeeps_setVElems (k : Core) (size r : Nat) (es : List (Nat × Nat)) : VecKeeps k (k.setVElems size r es) := rfl

theorem Core.picked_nodup (k : Core) (n : Nat) : (k.picked n).Nodup := List.nodup_range.filter _

theorem Core.mem_picked {k : Core} {n j : Nat} : j ∈ k.picked n ↔ j < k.vl.val ∧ k.maskBit (vMsk n) j = true := by
  simp [Core.picked]

/-- What VPACK writes: the picked elements in order, then zeros up to VL. -/
def Core.packed (k : Core) (n size : Nat) : List (Nat × Nat) :=
  (List.range k.vl.val).map fun i => (i, ((k.picked n).map (k.vElem size (vVa n))).getD i 0)

theorem Core.packed_fst (k : Core) (n size : Nat) : (k.packed n size).map Prod.fst = List.range k.vl.val := by
  simp [Core.packed, Function.comp_def]

theorem Core.packed_lt_vl (k : Core) (n size : Nat) : ∀ j ∈ (k.packed n size).map Prod.fst, j < k.vl.val := by
  rw [Core.packed_fst]
  exact fun j => List.mem_range.1

theorem Core.pack_eq (k : Core) (n : Nat) : k.pack n =
    ((k.setVElems (laneSize (vTyp n)) (vVd n) (k.packed n (laneSize (vTyp n)))).setS32 (vSa n) (k.picked n).length, Flags.zero) := by
  simp only [Core.pack, List.length_map]
  rfl

/-- Element `j` of the destination of VPACK. -/
theorem vElem_packed (k : Core) (n size j : Nat) : (k.setVElems size (vVd n) (k.packed n size)).vElem size (vVd n) j =
    if j < k.vl.val then (if h : j < (k.picked n).length then k.vElem size (vVa n) (k.picked n)[j] else 0) else k.vElem size (vVd n) j := by
  split
  · next hj =>
    have hmem : (j, ((k.picked n).map (k.vElem size (vVa n))).getD j 0) ∈ k.packed n size :=
      List.mem_map_of_mem (List.mem_range.2 hj)
    rw [vElem_setVElems_mem (k.packed_fst n size ▸ List.nodup_range) hmem]
    split
    · next h => simp [h, Core.vElem_mod]
    · next h => simp [h]
  · next hj => exact vElem_setVElems_other (by rw [Core.packed_fst]; simpa using hj)

theorem Core.picked_length_lt (k : Core) (n : Nat) : (k.picked n).length < 2 ^ 32 := by
  have hlen : (k.picked n).length ≤ k.vl.val := (List.length_filter_le _ _).trans_eq List.length_range
  have hvl := k.vl.isLt
  omega

@[simp] theorem Core.noteFlags_s (k : Core) (bits r : Nat) : (k.noteFlags bits).s r = k.s r := rfl

/-- The S registers after VPACK. -/
theorem s_packed (k : Core) (n size r : Nat) :
    ((k.setVElems size (vVd n) (k.packed n size)).setS32 (vSa n) (k.picked n).length).s r =
      if r = vSa n ∧ r ≠ 0 then (k.picked n).length else k.s r := by
  rw [s_setS32, Nat.mod_eq_of_lt (k.picked_length_lt n)]
  rfl

/-- What VUNPACK writes: the elements of va in order to the picked places, and zeros to the others where ZM says so. -/
def Core.unpacked (k : Core) (n size : Nat) : List (Nat × Nat) :=
  ((k.picked n).zipIdx.map fun p => (p.1, k.vElem size (vVa n) p.2)) ++
    if vZm n then ((List.range k.vl.val).filter fun i => !k.maskBit (vMsk n) i).map fun i => (i, 0) else []

theorem Core.unpacked_fst (k : Core) (n size : Nat) : (k.unpacked n size).map Prod.fst =
    k.picked n ++ if vZm n then (List.range k.vl.val).filter fun i => !k.maskBit (vMsk n) i else [] := by
  have hpicked : ((k.picked n).zipIdx.map fun p => (p.1, k.vElem size (vVa n) p.2)).map Prod.fst = k.picked n := by
    rw [List.map_map]
    exact List.zipIdx_map_fst 0 (k.picked n)
  rw [Core.unpacked, List.map_append, hpicked]
  split <;> simp [Function.comp_def]

theorem Core.unpacked_nodup (k : Core) (n size : Nat) : ((k.unpacked n size).map Prod.fst).Nodup := by
  rw [Core.unpacked_fst]
  refine List.pairwise_append.2 ⟨k.picked_nodup n, ?_, fun i hi j hj hij => ?_⟩
  · split
    · exact List.nodup_range.filter _
    · exact .nil
  · subst hij
    have hbit := (Core.mem_picked.1 hi).2
    split at hj
    · simp_all
    · cases hj

/-- A picked element stands in the list of the picked ones at the number of those before it. -/
theorem Core.getElem?_picked {k : Core} {n j : Nat} (hj : j < k.vl.val) (hbit : k.maskBit (vMsk n) j = true) :
    (k.picked n)[((List.range j).filter fun i => k.maskBit (vMsk n) i).length]? = some j := by
  obtain ⟨x, hx⟩ : ∃ x, k.vl.val = j + (x + 1) := ⟨k.vl.val - j - 1, by omega⟩
  rw [Core.picked, hx, List.range_add, List.filter_append, List.getElem?_append_right (Nat.le_refl _), Nat.sub_self,
    List.range_succ_eq_map]
  simp [hbit]

/-- Element `j` of the destination of VUNPACK. -/
theorem vElem_unpacked (k : Core) (n size j : Nat) : (k.setVElems size (vVd n) (k.unpacked n size)).vElem size (vVd n) j =
    if j < k.vl.val then
      (if k.maskBit (vMsk n) j then k.vElem size (vVa n) ((List.range j).filter fun i => k.maskBit (vMsk n) i).length
       else if vZm n then 0 else k.vElem size (vVd n) j)
    else k.vElem size (vVd n) j := by
  by_cases hj : j < k.vl.val
  · rw [if_pos hj]
    cases hbit : k.maskBit (vMsk n) j
    case true =>
      have hmem : (j, k.vElem size (vVa n) ((List.range j).filter fun i => k.maskBit (vMsk n) i).length) ∈ k.unpacked n size :=
        List.mem_append_left _ (List.mem_map.2 ⟨(j, _), List.mk_mem_zipIdx_iff_getElem?.2 (Core.getElem?_picked hj hbit), rfl⟩)
      rw [vElem_setVElems_mem (k.unpacked_nodup n size) hmem, if_pos rfl, Core.vElem_mod]
    case false =>
      rw [if_neg Bool.false_ne_true]
      split
      · next hzm =>
        have hmem : (j, 0) ∈ k.unpacked n size := by simp [Core.unpacked, hzm, hj, hbit]
        rw [vElem_setVElems_mem (k.unpacked_nodup n size) hmem, Nat.zero_mod]
      · next hzm => exact vElem_setVElems_other (by simp [Core.unpacked_fst, Core.mem_picked, hzm, hbit])
  · rw [if_neg hj]
    refine vElem_setVElems_other ?_
    rw [Core.unpacked_fst]
    split <;> simp [Core.mem_picked, hj]

theorem Core.unpacked_lt_vl (k : Core) (n size : Nat) : ∀ j ∈ (k.unpacked n size).map Prod.fst, j < k.vl.val := by
  intro j hj
  rw [Core.unpacked_fst, List.mem_append] at hj
  obtain h | h := hj
  · exact (Core.mem_picked.1 h).1
  · split at h
    · exact List.mem_range.1 (List.mem_filter.1 h).1
    · cases h

theorem Core.unpack_eq (k : Core) (n : Nat) : k.unpack n =
    (k.setVElems (laneSize (vTyp n)) (vVd n) (k.unpacked n (laneSize (vTyp n))), Flags.zero) := rfl

theorem vecFrame_pack : vecFrame c [] d (d.vecEnd c ((d.core c).pack w.toNat)) := by
  rw [Core.pack_eq]
  exact vecFrame_vecEnd (.trans (vecKeeps_setVElems _ _ _ _) (vecKeeps_setS32 _ _ _)) (regsBut_vecEnd_zero _ _)

theorem vecFrame_unpack : vecFrame c [] d (d.vecEnd c ((d.core c).unpack w.toNat)) := by
  rw [Core.unpack_eq]
  exact vecFrame_vecEnd (vecKeeps_setVElems _ _ _ _) (regsBut_vecEnd_zero _ _)

/-- A word that reads registers sees none of the flags that are noted for its command. -/
@[simp] theorem Core.noteFlags_vElem (k : Core) (bits size r i : Nat) : (k.noteFlags bits).vElem size r i = k.vElem size r i := rfl
@[simp] theorem Core.noteFlags_vByte (k : Core) (bits r i : Nat) : (k.noteFlags bits).vByte r i = k.vByte r i := rfl

theorem sreg_noteFlags_setVElems (k : Core) (size r : Nat) (es : List (Nat × Nat)) (bits : Nat) :
    ((k.setVElems size r es).noteFlags bits).sreg = k.sreg := rfl

/-! ### The statement -/

/-- Settles O23: VPERM and VSHUF by `movedLanes_vecEnd_elems`, VPACK by `vElem_packed`, VUNPACK by `vElem_unpacked`. -/
theorem vectorPermutes : Obligations.VectorPermutes := by
  intro s c w rest m u
  refine ⟨fun h => does_vecRegs rfl h ?perm, fun h => does_vecRegs rfl h ?shuf, fun h => does_vecRegs rfl h ⟨vecFrame_pack, ?pack⟩,
    fun h => does_vecRegs rfl h ⟨vecFrame_unpack, ?unpack⟩⟩
  case perm => exact movedLanes_vecEnd_elems (laneSize_le _) (fun _ => rfl) fun _ => rfl
  case shuf =>
    refine movedLanes_vecEnd_elems (laneSize_le _) (fun i => ?_) fun i => ?_
    · cases shufSrc _ _ _ i <;> rfl
    · cases shufSrc _ _ _ i <;> rfl
  case pack =>
    rw [Dev.core_vecEnd_same, Core.pack_eq]
    refine ⟨fun j _ => ?_, fun r j hr hj => ?_, fun r => ?_⟩
    · rw [Core.noteFlags_vElem, Core.setS32_vElem]
      exact vElem_packed _ _ _ _
    · rw [Core.noteFlags_vByte, Core.setS32_vByte]
      exact vByte_setVElems_other (laneSize_le _) (Core.packed_lt_vl _ _ _) hr hj
    · rw [Core.noteFlags_s]
      exact s_packed _ _ _ r
  case unpack =>
    rw [Dev.core_vecEnd_same, Core.unpack_eq]
    refine ⟨sreg_noteFlags_setVElems _ _ _ _ _, fun j _ => ?_, fun r j hr hj => ?_⟩
    · rw [Core.noteFlags_vElem]
      exact vElem_unpacked _ _ _ _
    · rw [Core.noteFlags_vByte]
      exact vByte_setVElems_other (laneSize_le _) (Core.unpacked_lt_vl _ _ _) hr hj

end Sys2Proof.Machine

/-! ## Vector loads through the store buffer (O25) -/

namespace Sys2Proof.Machine

variable {s : State} {d e : Dev} {c op : Nat} {w : DWord} {rest : List DWord} {m : LayerCmd} {u : List RfUpset}

/-! ### Reads of CLM (R186) -/

theorem faultClass_clmUe : faultClass Flt.CLM_UE = 4 := by decide

/-- Words without a mark are read as they are. -/
theorem Dev.clmReads_of_clean {spans : Dev → List (Nat × Nat)} (body : Dev → Dev)
    (h : ∀ p ∈ spans d, d.sramMark (clmPlace c p.1) p.2 = 0) : d.clmReads c spans body = body d := by
  have hfind : (spans d).find? (fun p => d.clmUe c p.1 p.2) = none := by
    refine List.find?_eq_none.2 fun p hp => ?_
    simp [Dev.clmUe, h p hp]
  have hlog (ps : List (Nat × Nat)) (hps : ∀ p ∈ ps, d.sramMark (clmPlace c p.1) p.2 = 0) :
      ps.foldl (fun d p => d.clmCorrected c p.1 p.2) d = d := by
    induction ps with
    | nil => rfl
    | cons p ps ih =>
      obtain ⟨hp, hrest⟩ := List.forall_mem_cons.1 hps
      have hgood : d.clmCorrected c p.1 p.2 = d := if_neg (by rw [hp]; decide)
      rw [List.foldl_cons, hgood, ih hrest]
  unfold Dev.clmReads
  split
  · rfl
  · rw [hfind, hlog _ h]

/-- An uncorrectable word stops the core. -/
theorem stopsAt_clmReads {spans : Dev → List (Nat × Nat)} (body : Dev → Dev) (h : ∃ p ∈ spans d, d.clmUe c p.1 p.2 = true) :
    stopsAt c d (d.clmReads c spans body) := by
  obtain ⟨p, hp, hue⟩ := h
  have hmarked : d.sramEcc ≠ [] := fun hnone => by simp [Dev.clmUe, Dev.sramMark, hnone] at hue
  obtain ⟨q, hq⟩ : ∃ q, (spans d).find? (fun p => d.clmUe c p.1 p.2) = some q :=
    Option.isSome_iff_exists.1 (List.find?_isSome.2 ⟨p, hp, hue⟩)
  unfold Dev.clmReads
  rw [if_neg hmarked, hq]
  exact stopsAt_seqFault d c _ faultClass_clmUe

/-! ### Addresses (R118) -/

theorem Core.vBadAddr_eq_none {k : Core} {n : Nat} (h : ∀ j, k.isActive n j = true → vAddrOk (k.vAddr n j) (laneSize (vTyp n)) = true) :
    k.vBadAddr n = none :=
  List.find?_eq_none.2 fun j hj => by simp [h j ((k.mem_active n).1 hj)]

theorem Core.vBadAddr_eq_some {k : Core} {n : Nat} (h : ∃ j, k.isActive n j = true ∧ vAddrOk (k.vAddr n j) (laneSize (vTyp n)) = false) :
    ∃ i, k.vBadAddr n = some i := by
  obtain ⟨j, hj, hbad⟩ := h
  exact Option.isSome_iff_exists.1 (List.find?_isSome.2 ⟨j, (k.mem_active n).2 hj, by simp [hbad]⟩)

/-! ### The destination of a load -/

/-- What a load reads for element `j`. -/
def Dev.loaded (d : Dev) (c n : Nat) (j : Nat) : Nat :=
  leNat ((List.range (laneSize (vTyp n))).map fun b => d.clmSeen c (((d.core c).vAddr n j).toNat + b))

/-- The core with the values `f` in the destination of the load `n`, and with its stall at `x`. -/
def Core.withLoaded (k : Core) (n : Nat) (f : Nat → Nat) (x : Option LoadStall) : Core :=
  Core.setVElems (laneSize (vTyp n)) (vVd n) (k.results n f) { k with loadStall := x }

theorem vecDest_withLoaded {f : Nat → Nat} {x : Option LoadStall} (he : e.core c = (d.core c).withLoaded w.toNat f x) :
    vecDest c w (laneSize (vTyp w.toNat)) f d e := by
  simp only [vecDest, he]
  exact ⟨fun i _ => vElem_setVElems_results (d.core c) w.toNat _ f i,
    fun r i hr hi => vByte_setVElems_results (d.core c) w.toNat _ f (laneSize_le _) hr hi, rfl, rfl, rfl, rfl, rfl⟩

section
variable {d' : Dev} {x : Option LoadStall} {n : Nat} (hcore : d'.core c = { d.core c with loadStall := x })
include hcore

/-- The read of a load on a module that differs from `d` in the core's stall and in registers of control space alone. -/
theorem Dev.loadInto_of_clean (hmem : d'.mem = d.mem)
    (h : ∀ p ∈ (d.core c).loadSpans (vOp n) (laneSize (vTyp n)) ((d.core c).vAddrs n), d'.sramMark (clmPlace c p.1) p.2 = 0) :
    d'.loadInto c n ((d.core c).vAddrs n) = d'.setCore c ((d.core c).withLoaded n (d.loaded c n) x) := by
  have hseen (a : Nat) : d'.clmSeen c a = d.clmSeen c a := by
    unfold Dev.clmSeen Dev.byte
    rw [hcore, hmem]
  have hspans : (d'.core c).loadSpans (vOp n) (laneSize (vTyp n)) ((d.core c).vAddrs n) =
      (d.core c).loadSpans (vOp n) (laneSize (vTyp n)) ((d.core c).vAddrs n) := by
    rw [hcore]
    rfl
  unfold Dev.loadInto
  dsimp only
  rw [Dev.clmReads_of_clean _ (by rw [hspans]; exact h), Dev.modCore, hcore]
  simp only [Core.writeBack, Core.withLoaded, Core.results, Core.vAddrs, List.map_map, Function.comp_def, hseen]
  rfl

/-- A load that reads an uncorrectable word stops the core. -/
theorem stopsAt_loadInto
    (h : ∃ p ∈ (d.core c).loadSpans (vOp n) (laneSize (vTyp n)) ((d.core c).vAddrs n), d'.clmUe c p.1 p.2 = true) :
    stopsAt c d (d'.loadInto c n ((d.core c).vAddrs n)) := by
  have hspans : (d'.core c).loadSpans (vOp n) (laneSize (vTyp n)) ((d.core c).vAddrs n) =
      (d.core c).loadSpans (vOp n) (laneSize (vTyp n)) ((d.core c).vAddrs n) := by
    rw [hcore]
    rfl
  refine (stopsAt_clmReads _ (hspans ▸ h)).of_before ?_ ?_ <;> rw [hcore]

end

/-! ### The issue of a load (R118, R120) -/

/-- What R120 finds for the pieces of a load. -/
def Core.probes (k : Core) (op n : Nat) : List Probe :=
  (loadPieces op (laneSize (vTyp n)) (k.vAddrs n)).map fun q => probe q k.sb.zipIdx.reverse

/-- The module with the pieces counted that the store buffer serves. -/
def Dev.countForwards (c op n : Nat) (d : Dev) : Dev :=
  d.addSat (Reg.CORE_VEC_SBFWD.COUNT c) (((d.core c).probes op n).filter fun q => decide (q = .forward)).length

section
variable {d₀ : Dev} (h : VecIssues d₀ c op w rest m u) (hd : taken d₀ c w rest u = d)
include h hd

/-- An element that is misaligned or lies elsewhere stops the core. -/
theorem Dev.vecLoad_of_badAddr {i : Nat} (hbad : (d.core c).vBadAddr w.toNat = some i) : d₀.vecLoad c op (.issue u) =
    d.vecFault c (vecErrFlag c 0) Flt.VEC_ADDR (intBits 64 ((d.core c).vAddr w.toNat i)) := by
  subst hd
  unfold Dev.vecLoad
  dsimp only [Dev.vec]
  rw [Dev.vecIssue_of_issues h, hbad]
  rfl

/-- A piece that the store buffer serves in part waits for drains. -/
theorem Dev.vecLoad_of_stall {x : Nat} (hgood : (d.core c).vBadAddr w.toNat = none)
    (hstall : stallOf ((d.core c).probes op w.toNat) = some x) : d₀.vecLoad c op (.issue u) =
    (d.countForwards c op w.toNat).modCore c fun k => { k with loadStall := some ⟨w, x, (d.core c).vAddrs w.toNat⟩ } := by
  subst hd
  unfold Dev.vecLoad
  dsimp only [Dev.vec]
  rw [Dev.vecIssue_of_issues h, hgood]
  dsimp only
  unfold Core.probes at hstall
  rw [hstall, BitVec.ofNat_toNat, BitVec.setWidth_eq]
  rfl

theorem Dev.vecLoad_of_read (hgood : (d.core c).vBadAddr w.toNat = none) (hstall : stallOf ((d.core c).probes op w.toNat) = none) :
    d₀.vecLoad c op (.issue u) = (d.countForwards c op w.toNat).loadInto c w.toNat ((d.core c).vAddrs w.toNat) := by
  subst hd
  unfold Dev.vecLoad
  dsimp only [Dev.vec]
  rw [Dev.vecIssue_of_issues h, hgood]
  dsimp only
  unfold Core.probes at hstall
  rw [hstall]
  rfl

end

/-- Counting the forwards changes one register. -/
theorem onlyRegs_countForwards (d : Dev) (c op n : Nat) : onlyRegs [Reg.CORE_VEC_SBFWD.COUNT c] d (d.countForwards c op n) :=
  onlyRegs_set d _ (List.mem_singleton_self _)

/-- What a load leaves on the module that `taken` gives, with the forwards counted and the core at `k`. -/
theorem loadFrame_setCore (d : Dev) (c op n : Nat) (k : Core) :
    let e := (d.countForwards c op n).setCore c k
    e = { d with regs := e.regs, cores := e.cores } ∧ coresBut c d e ∧ regsBut [Reg.CORE_VEC_SBFWD.COUNT c] d e ∧ e.core c = k :=
  ⟨rfl, fun _ hj => Dev.core_setCore_other (d.countForwards c op n) k hj, (onlyRegs_countForwards d c op n).2, Dev.core_setCore_same _ _ _⟩

/-- A load as R118 to R120 give it, on a core `k` of the module `d` that the word has left the queue of. -/
def Loads (i : Instr) (s : State) (c op : Nat) (w : DWord) (d : Dev) : Prop :=
  ((∀ j, (d.core c).isActive w.toNat j = true → vAddrOk ((d.core c).vAddr w.toNat j) (laneSize (vTyp w.toNat)) = true) →
    (stallOf ((d.core c).probes op w.toNat) = none →
      ((∀ p ∈ (d.core c).loadSpans op (laneSize (vTyp w.toNat)) ((d.core c).vAddrs w.toNat), d.sramMark (clmPlace c p.1) p.2 = 0) →
        Does i s fun e => vecFrame c [Reg.CORE_VEC_SBFWD.COUNT c] d e ∧ vecDest c w (laneSize (vTyp w.toNat)) (d.loaded c w.toNat) d e) ∧
      ((∃ p ∈ (d.core c).loadSpans op (laneSize (vTyp w.toNat)) ((d.core c).vAddrs w.toNat), d.clmUe c p.1 p.2 = true) →
        Does i s (stopsAt c d))) ∧
    (∀ x, stallOf ((d.core c).probes op w.toNat) = some x → Does i s fun e =>
      e = { d with regs := e.regs, cores := e.cores } ∧ coresBut c d e ∧ regsBut [Reg.CORE_VEC_SBFWD.COUNT c] d e ∧
        e.core c = { d.core c with loadStall := some ⟨w, x, (d.core c).vAddrs w.toNat⟩ })) ∧
  ((∃ j, (d.core c).isActive w.toNat j = true ∧ vAddrOk ((d.core c).vAddr w.toNat j) (laneSize (vTyp w.toNat)) = false) →
    Does i s fun e => stopsAt c d e ∧ e.bit (Reg.CORE_VEC_ERR.ADDR c) = true)

theorem loads_of_issues {i : Instr} (hexec : exec i s = s.does (Dev.vecLoad c op (.issue u))) (h : VecIssues s.dev c op w rest m u) :
    Loads i s c op w (taken s.dev c w rest u) := by
  generalize hd : taken s.dev c w rest u = d
  have hop : vOp w.toNat = op := h.row
  refine ⟨fun hgood => ⟨fun hserved => ⟨fun hclean => ?read, fun hue => ?stops⟩, fun x hstall => ?stall⟩, fun hbad => ?badAddr⟩
  case read =>
    refine does_of_eq hexec ((Dev.vecLoad_of_read h hd (Core.vBadAddr_eq_none hgood) hserved).trans
      (Dev.loadInto_of_clean (d := d) (d' := d.countForwards c op w.toNat) (x := (d.core c).loadStall) rfl rfl (hop ▸ hclean))) ?_
    obtain ⟨hdev, hcores, hregs, hcore⟩ := loadFrame_setCore d c op w.toNat
      ((d.core c).withLoaded w.toNat (d.loaded c w.toNat) (d.core c).loadStall)
    exact ⟨⟨hdev, hcores, hregs, by rw [hcore]; rfl⟩, vecDest_withLoaded hcore⟩
  case stops =>
    refine does_of_eq hexec (Dev.vecLoad_of_read h hd (Core.vBadAddr_eq_none hgood) hserved) ?_
    exact stopsAt_loadInto (d' := d.countForwards c op w.toNat) (x := (d.core c).loadStall) rfl (hop ▸ hue)
  case stall =>
    exact does_of_eq hexec (Dev.vecLoad_of_stall h hd (Core.vBadAddr_eq_none hgood) hstall) (loadFrame_setCore d c op w.toNat _)
  case badAddr =>
    obtain ⟨i, hi⟩ := Core.vBadAddr_eq_some hbad
    refine does_of_eq hexec (Dev.vecLoad_of_badAddr h hd hi) ?_
    exact stopsAt_vecFault_flag d _ (by decide) (by decide)

/-! ### A stalled load (R120) -/

theorem exec_stalledLoadRead {c : CoreId} {l : LoadStall} (hl : (s.dev.core c).loadStall = some l) (hon : s.dev.coreOn = true)
    (hdrains : l.drains = 0) :
    exec (.stalledLoadRead c) s = .next { s with dev :=
      (s.dev.modCore c fun k => { k with loadStall := none }).loadInto c l.word.toNat l.addrs } := by
  change execStalledLoadRead c s = _
  simp [execStalledLoadRead, State.on, hl, hon, hdrains]

theorem core_endStall (d : Dev) (c : Nat) :
    (d.modCore c fun k => { k with loadStall := none }).core c = { d.core c with loadStall := none } := Dev.core_modCore_same _ _ _

/-! ### The statement -/

/-- Settles O25: the loads by `loads_of_issues`, the stalled load by `Dev.loadInto_of_clean` and `stopsAt_loadInto`. -/
theorem vectorLoads : Obligations.VectorLoads := by
  intro s c w rest m u
  refine ⟨⟨fun h => loads_of_issues rfl h, fun h => loads_of_issues rfl h, fun h => loads_of_issues rfl h⟩,
    fun l hl hon hdrains haddrs => ⟨fun hclean => ⟨_, exec_stalledLoadRead hl hon hdrains, ?read⟩,
      fun hue => ⟨_, exec_stalledLoadRead hl hon hdrains, ?stops⟩⟩⟩
  case read =>
    rw [haddrs] at hclean ⊢
    rw [Dev.loadInto_of_clean (core_endStall _ _) rfl hclean]
    generalize hk : (s.dev.core c).withLoaded l.word.toNat (s.dev.loaded c l.word.toNat) none = k
    have hsame : ((s.dev.modCore c fun k => { k with loadStall := none }).setCore c k).core c = k := Dev.core_setCore_same _ _ _
    refine ⟨⟨rfl, fun j hj => ?_⟩, ?_, ?_, ?_, vecDest_withLoaded (hsame.trans hk.symm)⟩
    · rw [Dev.core_setCore_other _ _ hj, Dev.core_modCore_other _ _ hj]
    all_goals
      rw [hsame, ← hk]
      rfl
  case stops =>
    rw [haddrs] at hue ⊢
    exact stopsAt_loadInto (core_endStall _ _) hue

end Sys2Proof.Machine

/-! ## Vector stores, the drain, VFENCE and the counter clear (O26) -/

namespace Sys2Proof.Machine

variable {s : State} {d e : Dev} {c op : Nat} {w : DWord} {rest : List DWord} {m : LayerCmd} {u : List RfUpset}

/-! ### The entries of a store (R119) -/

/-- Cutting elements into groups by their regions loses none and keeps their order. -/
theorem flatten_groupBy1k (es : List (Nat × Nat)) : (groupBy1k es).flatten = es := by
  induction es with
  | nil => rfl
  | cons e es ih =>
    unfold groupBy1k
    split
    · next f g gs hgs =>
      rw [hgs] at ih
      split
      · rw [List.flatten_cons, List.cons_append, ← ih, List.flatten_cons]
      · rw [List.flatten_cons, ih, List.singleton_append]
    · rw [List.flatten_cons, ih, List.singleton_append]

theorem flatten_chunksAux {α : Type} {n : Nat} (hn : 0 < n) (fuel : Nat) {l : List α} (h : l.length ≤ fuel) :
    (chunksAux n fuel l).flatten = l := by
  induction fuel generalizing l with
  | zero => exact (List.length_eq_zero_iff.1 (Nat.le_zero.1 h)).symm
  | succ fuel ih =>
    cases l with
    | nil => rfl
    | cons x xs =>
      have hlen : ((x :: xs).drop n).length ≤ fuel := by
        rw [List.length_drop, List.length_cons] at *
        omega
      rw [chunksAux, List.flatten_cons, ih hlen, List.take_append_drop]
      exact nofun

theorem flatten_chunks {α : Type} {n : Nat} (hn : 0 < n) (l : List α) : (chunks n l).flatten = l :=
  flatten_chunksAux hn _ (Nat.le_refl _)

/-- The bytes that a store writes for an element at an offset. -/
def Core.storeBytes (k : Core) (n : Nat) (e : Nat × Nat) : List (Nat × Byte) :=
  (List.range (laneSize (vTyp n))).map fun b =>
    (e.2 + b, BitVec.ofNat 8 (k.vElem (laneSize (vTyp n)) (vVd n) e.1 / 2 ^ (8 * b)))

theorem sbEntry_bytes (k : Core) (n : Nat) (scattered : Bool) (g : List (Nat × Nat)) :
    (k.sbEntry n scattered g).bytes = g.flatMap (k.storeBytes n) := by
  have hpow (b : Nat) : 256 ^ b = 2 ^ (8 * b) := (Nat.pow_mul 2 8 b).symm
  simp only [Core.sbEntry, zipIdx_leBytes, List.map_map, Function.comp_def, hpow]
  rfl

/-- The entries that a store makes. -/
def Core.storeEntries (k : Core) (op n : Nat) : List SbEntry :=
  if op = 4 then (groupBy1k (k.vAddrs n)).map (k.sbEntry n false) else (chunks 64 (k.vAddrs n)).map (k.sbEntry n true)

/-- Together they hold the bytes of the active elements in order. -/
theorem storeEntries_bytes (k : Core) (op n : Nat) : (k.storeEntries op n).flatMap SbEntry.bytes =
    (k.active n).flatMap fun j => (List.range (laneSize (vTyp n))).map fun b =>
      ((k.vAddr n j).toNat + b, BitVec.ofNat 8 (k.vElem (laneSize (vTyp n)) (vVd n) j / 2 ^ (8 * b))) := by
  have hgroups (scattered : Bool) {gs : List (List (Nat × Nat))} (hgs : gs.flatten = k.vAddrs n) :
      (gs.map (k.sbEntry n scattered)).flatMap SbEntry.bytes = (k.vAddrs n).flatMap (k.storeBytes n) := by
    rw [← hgs, List.flatMap_map, ← List.flatMap_id, List.flatMap_assoc]
    simp only [sbEntry_bytes, id]
  have hall : (k.storeEntries op n).flatMap SbEntry.bytes = (k.vAddrs n).flatMap (k.storeBytes n) := by
    unfold Core.storeEntries
    split
    · exact hgroups false (flatten_groupBy1k _)
    · exact hgroups true (flatten_chunks (by decide) _)
  rw [hall, Core.vAddrs, List.flatMap_map]
  rfl

/-- Entries enter the store buffer in order; they wait only while it is full. -/
theorem sbFill_spec (k : Core) : (k.sbFill.sbWait = [] ∨ 16 ≤ k.sbFill.sb.length) ∧ k.sbFill.sb ++ k.sbFill.sbWait = k.sb ++ k.sbWait := by
  constructor
  · by_cases h : k.sbWait.length ≤ 16 - k.sb.length
    · exact .inl (List.drop_eq_nil_of_le h)
    · refine .inr ?_
      simp only [Core.sbFill, List.length_append, List.length_take]
      omega
  · simp only [Core.sbFill, List.append_assoc, List.take_append_drop]

/-! ### The issue of a store -/

section
variable {d₀ : Dev} (h : VecIssues d₀ c op w rest m u) (hd : taken d₀ c w rest u = d)
include h hd

theorem Dev.vecStore_of_badAddr {i : Nat} (hbad : (d.core c).vBadAddr w.toNat = some i) : d₀.vecStore c op (.issue u) =
    d.vecFault c (vecErrFlag c 0) Flt.VEC_ADDR (intBits 64 ((d.core c).vAddr w.toNat i)) := by
  subst hd
  unfold Dev.vecStore
  dsimp only [Dev.vec]
  rw [Dev.vecIssue_of_issues h, hbad]
  rfl

theorem Dev.vecStore_of_good (hgood : (d.core c).vBadAddr w.toNat = none) : d₀.vecStore c op (.issue u) =
    d.setCore c (Core.sbFill { d.core c with sbWait := (d.core c).storeEntries op w.toNat }) := by
  subst hd
  unfold Dev.vecStore
  dsimp only [Dev.vec]
  rw [Dev.vecIssue_of_issues h, hgood]
  rfl

end

/-- A store as R109 and R119 give it, on the module `d` that the word has left the queue of. -/
def Stores (i : Instr) (s : State) (c : Nat) (w : DWord) (d : Dev) : Prop :=
  ((∀ j, (d.core c).isActive w.toNat j = true → vAddrOk ((d.core c).vAddr w.toNat j) (laneSize (vTyp w.toNat)) = true) →
    Does i s fun e =>
      onlyCore c d e ∧ e.core c = { d.core c with sb := (e.core c).sb, sbWait := (e.core c).sbWait } ∧
        ((e.core c).sbWait = [] ∨ 16 ≤ (e.core c).sb.length) ∧
        ((e.core c).sb ++ (e.core c).sbWait).flatMap SbEntry.bytes = (d.core c).sb.flatMap SbEntry.bytes ++
          ((d.core c).active w.toNat).flatMap fun j => (List.range (laneSize (vTyp w.toNat))).map fun b =>
            (((d.core c).vAddr w.toNat j).toNat + b,
              BitVec.ofNat 8 ((d.core c).vElem (laneSize (vTyp w.toNat)) (vVd w.toNat) j / 2 ^ (8 * b)))) ∧
  ((∃ j, (d.core c).isActive w.toNat j = true ∧ vAddrOk ((d.core c).vAddr w.toNat j) (laneSize (vTyp w.toNat)) = false) →
    Does i s fun e => stopsAt c d e ∧ e.bit (Reg.CORE_VEC_ERR.ADDR c) = true)

theorem stores_of_issues {i : Instr} (hexec : exec i s = s.does (Dev.vecStore c op (.issue u))) (h : VecIssues s.dev c op w rest m u) :
    Stores i s c w (taken s.dev c w rest u) := by
  generalize hd : taken s.dev c w rest u = d
  refine ⟨fun hgood => ?good, fun hbad => ?badAddr⟩
  case good =>
    refine does_of_eq hexec (Dev.vecStore_of_good h hd (Core.vBadAddr_eq_none hgood)) ?_
    obtain ⟨hwait, hbytes⟩ := sbFill_spec { d.core c with sbWait := (d.core c).storeEntries op w.toNat }
    refine ⟨⟨rfl, fun _ hj => Dev.core_setCore_other d _ hj⟩, ?_⟩
    rw [Dev.core_setCore_same, hbytes, List.flatMap_append, storeEntries_bytes]
    exact ⟨rfl, hwait, rfl⟩
  case badAddr =>
    obtain ⟨i, hi⟩ := Core.vBadAddr_eq_some hbad
    refine does_of_eq hexec (Dev.vecStore_of_badAddr h hd hi) ?_
    exact stopsAt_vecFault_flag d _ (by decide) (by decide)

/-! ### VFENCE -/

/-- Counting a corrected register leaves the cores. -/
theorem Dev.rfCorrected_cores (d : Dev) (c : Nat) : (d.rfCorrected c).cores = d.cores :=
  (reported_raise_corrected _ (show faultClass Flt.VEC_RF_CE = 1 by decide)).cores

/-- The core that a word has left the queue of. -/
theorem core_taken (d : Dev) (c : Nat) (w : DWord) (rest : List DWord) (u : List RfUpset) :
    (taken d c w rest u).core c = Core.occupy w.toNat { (d.core c).rfUpsets u with vq := rest } := by
  have hwalk (l : List Nat) (d : Dev) : (l.foldl (fun d _ => d.rfCorrected c) d).cores = d.cores := by
    induction l generalizing d with
    | nil => rfl
    | cons _ _ ih => exact (ih _).trans (d.rfCorrected_cores c)
  have hcore : (taken d c w rest u).core c = (d.setCore c (Core.occupy w.toNat { (d.core c).rfUpsets u with vq := rest })).core c := by
    unfold taken Dev.core
    dsimp only
    rw [hwalk]
  rw [hcore, Dev.core_setCore_same]

theorem Core.occupy_sb (n : Nat) (k : Core) : (k.occupy n).sb = k.sb := by
  unfold Core.occupy
  split <;> rfl

/-- A VFENCE that issues finds the store buffer empty (R119). -/
theorem sb_taken_of_vfence (h : VecIssues s.dev c 0x07 w rest m u) : ((taken s.dev c w rest u).core c).sb = [] := by
  have hheld := h.held
  simp only [Core.vecHeld, h.row, isStore] at hheld
  rw [core_taken, Core.occupy_sb]
  show (s.dev.core c).sb = []
  simpa using hheld

/-! ### The drain (R119, R123) -/

theorem Dev.setCells_eq (d : Dev) (bs : List (Nat × Byte)) : d.setCells bs = { d with mem := (d.setCells bs).mem } := by
  induction bs generalizing d with
  | nil => rfl
  | cons b bs ih =>
    rw [show d.setCells (b :: bs) = (d.setByte b.1 b.2).setCells bs from rfl, ih]
    rfl

/-- Of the bytes stored at a place the last wins. -/
theorem byte_setCells (d : Dev) (bs : List (Nat × Byte)) (p : Nat) :
    (d.setCells bs).byte p = ((bs.reverse.find? fun b => decide (b.1 = p)).map Prod.snd).getD (d.byte p) := by
  induction bs generalizing d with
  | nil => rfl
  | cons b bs ih =>
    rw [show d.setCells (b :: bs) = (d.setByte b.1 b.2).setCells bs from rfl, ih, List.reverse_cons, List.find?_append]
    cases bs.reverse.find? fun b => decide (b.1 = p) with
    | some x => rfl
    | none =>
      by_cases hp : b.1 = p
      · subst hp
        simp
      · simp [hp, Dev.byte_setByte_other d b.2 (Ne.symm hp)]

/-- The register fields that a count of non-finite elements changes. -/
def nonFiniteFields (c : Nat) : List Fld :=
  [Reg.CORE_SEQ_FPFLAGS.NONFINITE c, Reg.CORE_SEQ_FPEVENTS.NONFINITE_CNT c, Reg.CORE_SEQ_NFCOUNT.COUNT c]

/-- What the count of `n` non-finite elements of core `c` makes of `d` (R68, R123). -/
structure NonFiniteCounted (c n : Nat) (d e : Dev) : Prop where
  rest : e = { d with regs := e.regs, cores := e.cores }
  cores : coresBut c d e
  core : e.core c = { d.core c with cmd := (e.core c).cmd }
  regs : regsBut (nonFiniteFields c) d e
  flag : e.bit (Reg.CORE_SEQ_FPFLAGS.NONFINITE c) = (d.bit (Reg.CORE_SEQ_FPFLAGS.NONFINITE c) || decide (n ≠ 0))
  count : e.get (Reg.CORE_SEQ_NFCOUNT.COUNT c) = min (d.get (Reg.CORE_SEQ_NFCOUNT.COUNT c) + n) (2 ^ 32 - 1)

theorem nonFiniteCounted_zero (d : Dev) (c : Nat) : NonFiniteCounted c 0 d d := by
  have hlt : d.get (Reg.CORE_SEQ_NFCOUNT.COUNT c) < 2 ^ 32 := d.get_lt _
  refine ⟨rfl, fun _ _ => rfl, rfl, .refl, (Bool.or_false _).symm, ?_⟩
  omega

theorem nonFiniteCounted_pos (d : Dev) (c : Nat) {n : Nat} (hn : n ≠ 0) :
    NonFiniteCounted c n d (((d.flag (Reg.CORE_SEQ_FPFLAGS.NONFINITE c) (Reg.CORE_SEQ_FPEVENTS.NONFINITE_CNT c)).addSat
      (Reg.CORE_SEQ_NFCOUNT.COUNT c) n).modCore c (Core.noteFlags 32)) := by
  have hcount : (Reg.CORE_SEQ_NFCOUNT.COUNT c).key ≠ (Reg.CORE_SEQ_FPEVENTS.NONFINITE_CNT c).key := by
    simp only [Fld.key, Reg.CORE_SEQ_NFCOUNT.COUNT, Reg.CORE_SEQ_FPEVENTS.NONFINITE_CNT]
    omega
  have hflag : (Reg.CORE_SEQ_FPFLAGS.NONFINITE c).key ≠ (Reg.CORE_SEQ_FPEVENTS.NONFINITE_CNT c).key ∧
      (Reg.CORE_SEQ_FPFLAGS.NONFINITE c).key ≠ (Reg.CORE_SEQ_NFCOUNT.COUNT c).key := by
    simp only [Fld.key, Reg.CORE_SEQ_FPFLAGS.NONFINITE, Reg.CORE_SEQ_NFCOUNT.COUNT, Reg.CORE_SEQ_FPEVENTS.NONFINITE_CNT]
    omega
  refine ⟨rfl, fun j hj => Dev.core_modCore_other _ _ hj, ?core, ?regs, ?flag, ?count⟩
  case core =>
    rw [Dev.core_modCore_same]
    rfl
  case regs =>
    exact ((onlyRegs_flag d List.mem_cons_self (List.mem_cons_of_mem _ List.mem_cons_self)).trans
      (onlyRegs_set _ _ (List.mem_cons_of_mem _ (List.mem_cons_of_mem _ List.mem_cons_self)))).2
  case flag =>
    rw [Dev.modCore_bit', Dev.addSat, Dev.bit_set_other _ _ hflag.2, Dev.flag, Dev.addSat, Dev.bit_set_other _ _ hflag.1,
      decide_eq_true hn, Bool.or_true]
    exact Dev.bit_setBit_same _ true Nat.one_pos
  case count =>
    have hsame : (d.flag (Reg.CORE_SEQ_FPFLAGS.NONFINITE c) (Reg.CORE_SEQ_FPEVENTS.NONFINITE_CNT c)).get (Reg.CORE_SEQ_NFCOUNT.COUNT c) =
        d.get (Reg.CORE_SEQ_NFCOUNT.COUNT c) :=
      (Dev.get_set_other _ _ hcount).trans (Dev.get_setBit_other _ _ hflag.2.symm)
    rw [Dev.modCore_get', Dev.addSat, Dev.get_set_same, hsame]
    exact Nat.mod_eq_of_lt (lt_of_le_of_lt (Nat.min_le_right _ _) (by norm_num [Reg.CORE_SEQ_NFCOUNT.COUNT]))

theorem nonFiniteCounted (d : Dev) (c n : Nat) : NonFiniteCounted c n d (d.nonFinite c n) := by
  unfold Dev.nonFinite Dev.nonFiniteSeen
  split
  · next hn => exact hn ▸ nonFiniteCounted_zero d c
  · next hn => exact nonFiniteCounted_pos d c hn

/-- The module after the oldest entry `x` has gone to CLM, before its non-finite elements are counted. -/
def Dev.drained (d : Dev) (c : Nat) (x : SbEntry) (r : List SbEntry) : Dev :=
  ((d.goodPlaces (x.bytes.map fun b => clmPlace c b.1)).setCells (x.bytes.map fun b => (clmPlace c b.1, b.2))).modCore c fun k =>
    Core.sbFill { k with sb := r, sbOld := k.sbOld - 1, loadStall := k.loadStall.map fun l => { l with drains := l.drains - 1 } }

theorem Dev.sbDrain_of_cons {x : SbEntry} {r : List SbEntry} (h : (d.core c).sb = x :: r) :
    d.sbDrain c = (d.drained c x r).nonFinite c x.nonfinite := by
  simp only [Dev.sbDrain, h, Dev.drained]

theorem Dev.drained_eq (d : Dev) (c : Nat) (x : SbEntry) (r : List SbEntry) : d.drained c x r =
    { d with cores := (d.drained c x r).cores, mem := (d.drained c x r).mem, sramEcc := (d.drained c x r).sramEcc } := by
  unfold Dev.drained
  rw [Dev.setCells_eq]
  rfl

theorem Dev.sramEcc_drained (d : Dev) (c : Nat) (x : SbEntry) (r : List SbEntry) : (d.drained c x r).sramEcc ⊆ d.sramEcc := by
  unfold Dev.drained
  rw [Dev.setCells_eq]
  exact List.filter_subset_self _

theorem Dev.byte_drained (d : Dev) (c : Nat) (x : SbEntry) (r : List SbEntry) (p : Nat) : (d.drained c x r).byte p =
    match x.bytes.reverse.find? fun b => decide (clmPlace c b.1 = p) with
    | some b => b.2
    | none => d.byte p := by
  rw [Dev.drained, Dev.modCore_byte', byte_setCells, ← List.map_reverse, List.find?_map]
  simp only [Function.comp_def]
  cases x.bytes.reverse.find? fun b => decide (clmPlace c b.1 = p) <;> rfl

theorem Dev.core_drained (d : Dev) (c : Nat) (x : SbEntry) (r : List SbEntry) : (d.drained c x r).core c =
    Core.sbFill { d.core c with
      sb := r, sbOld := (d.core c).sbOld - 1, loadStall := (d.core c).loadStall.map fun l => { l with drains := l.drains - 1 } } := by
  rw [Dev.drained, Dev.setCells_eq, Dev.core_modCore_same]
  rfl

theorem Dev.core_drained_other (d : Dev) {c j : Nat} (x : SbEntry) (r : List SbEntry) (hj : j ≠ c) : (d.drained c x r).core j = d.core j := by
  rw [Dev.drained, Dev.setCells_eq, Dev.core_modCore_other _ _ hj]
  rfl

theorem Dev.get_drained (d : Dev) (c : Nat) (x : SbEntry) (r : List SbEntry) (f : Fld) : (d.drained c x r).get f = d.get f := by
  rw [Dev.drained_eq]
  rfl

/-- What the drain of the oldest entry makes of the module. -/
def DrainsTo (c : Nat) (x : SbEntry) (r : List SbEntry) (d e : Dev) : Prop :=
  let k := d.core c
  e = { d with regs := e.regs, cores := e.cores, mem := e.mem, sramEcc := e.sramEcc } ∧ coresBut c d e ∧ (∀ q ∈ e.sramEcc, q ∈ d.sramEcc) ∧
    (∀ p, e.byte p = match x.bytes.reverse.find? fun b => decide (clmPlace c b.1 = p) with
      | some b => b.2
      | none => d.byte p) ∧
    (e.core c).sb = r ++ k.sbWait.take (16 - r.length) ∧ (e.core c).sbWait = k.sbWait.drop (16 - r.length) ∧
    (e.core c).loadStall = k.loadStall.map (fun l => { l with drains := l.drains - 1 }) ∧
    regsBut (nonFiniteFields c) d e ∧
    e.bit (Reg.CORE_SEQ_FPFLAGS.NONFINITE c) = (d.bit (Reg.CORE_SEQ_FPFLAGS.NONFINITE c) || decide (x.nonfinite ≠ 0)) ∧
    e.get (Reg.CORE_SEQ_NFCOUNT.COUNT c) = min (d.get (Reg.CORE_SEQ_NFCOUNT.COUNT c) + x.nonfinite) (2 ^ 32 - 1)

theorem drainsTo_of_counted {x : SbEntry} {r : List SbEntry} (h : NonFiniteCounted c x.nonfinite (d.drained c x r) e) : DrainsTo c x r d e := by
  obtain ⟨hrest, hcores, hcore, hregs, hflag, hcount⟩ := h
  have hmem : e.mem = (d.drained c x r).mem := by rw [hrest]
  have hecc : e.sramEcc = (d.drained c x r).sramEcc := by rw [hrest]
  rw [Dev.core_drained] at hcore
  have hget := Dev.get_drained d c x r
  refine ⟨?rest, ?cores, ?ecc, ?bytes, ?sb, ?sbWait, ?loadStall, ?regs, ?flag, ?count⟩
  case rest =>
    rw [hmem, hecc]
    calc e = { d.drained c x r with regs := e.regs, cores := e.cores } := hrest
      _ = _ := by rw [Dev.drained_eq]
  case cores => exact fun j hj => (hcores j hj).trans (d.core_drained_other x r hj)
  case ecc => exact fun q hq => d.sramEcc_drained c x r (hecc ▸ hq)
  case bytes => exact fun p => (congrArg (mget 0 · p) hmem).trans (d.byte_drained c x r p)
  case sb | sbWait | loadStall =>
    rw [hcore]
    rfl
  case regs => exact fun g hg => (hregs g hg).trans (hget g)
  case flag => rw [hflag, Dev.bit, hget, ← Dev.bit]
  case count => rw [hcount, hget]

theorem storeBufferDrain_drains {c : CoreId} {x : SbEntry} {r : List SbEntry} (h : (s.dev.core c).sb = x :: r) (hon : s.dev.coreOn = true) :
    Does (.storeBufferDrain c) s (DrainsTo c x r s.dev) :=
  does_of_eq (show exec (.storeBufferDrain c) s = s.does fun d => if d.coreOn then d.sbDrain c else d from rfl)
    ((if_pos hon).trans (Dev.sbDrain_of_cons h)) (drainsTo_of_counted (nonFiniteCounted _ c x.nonfinite))

/-! ### The counters -/

/-- Both counters read 0 after the clear. -/
theorem vecClear_spec (d : Dev) (c : Nat) : onlyRegs [Reg.CORE_VEC_SBSTALL.COUNT c, Reg.CORE_VEC_SBFWD.COUNT c] d (d.vecClear c) ∧
    (d.vecClear c).get (Reg.CORE_VEC_SBSTALL.COUNT c) = 0 ∧ (d.vecClear c).get (Reg.CORE_VEC_SBFWD.COUNT c) = 0 := by
  have hkey : (Reg.CORE_VEC_SBSTALL.COUNT c).key ≠ (Reg.CORE_VEC_SBFWD.COUNT c).key := by
    simp only [Fld.key, Reg.CORE_VEC_SBSTALL.COUNT, Reg.CORE_VEC_SBFWD.COUNT]
    omega
  refine ⟨(onlyRegs_set d _ List.mem_cons_self).trans (onlyRegs_set _ _ (List.mem_cons_of_mem _ List.mem_cons_self)), ?_, ?_⟩
  · rw [Dev.vecClear, Dev.get_set_other _ _ hkey, Dev.get_set_same, Nat.zero_mod]
  · rw [Dev.vecClear, Dev.get_set_same, Nat.zero_mod]

/-- Settles O26: a store by `stores_of_issues`, VFENCE by `sb_taken_of_vfence`, the drain by `storeBufferDrain_drains`. -/
theorem vectorStores : Obligations.VectorStores := by
  unfold Obligations.VectorStores
  intro s c w rest m u
  refine ⟨⟨?vst, ?vsts, ?vstx, ?vfence⟩, ?drain, ?clear⟩
  case vst | vsts | vstx => exact fun h => stores_of_issues rfl h
  case vfence =>
    intro h
    have hissue : Dev.vec c 0x07 (.issue u) (fun _ _ d => d) s.dev = taken s.dev c w rest u :=
      Dev.vecIssue_of_issues h fun _ _ d => d
    exact does_of_eq rfl hissue ⟨rfl, sb_taken_of_vfence h⟩
  case drain => exact fun x r hsb hon => storeBufferDrain_drains hsb hon
  case clear => exact fun hawake => does_coreWrite rfl hawake (vecClear_spec s.dev c)

end Sys2Proof.Machine

/-! ## A scalar word issues (R122, R127, R131 to R133)

Once nothing holds it, a legal word takes effect on the module that `fetched` gives, and an illegal one stops the core. -/

namespace Sys2Proof.Machine

variable {s : State} {d : Dev} {c op w : Nat} {ecc : WordEcc} {uses : Nat → List Nat} {legal : Nat → Bool} {body : Nat → Dev → Dev}

/-- The row's checks have passed: the word is read, and what is left is its legality. -/
theorem Dev.issue_of_read (hon : d.coreOn = true) (hissuing : (d.core c).issuing = true) (hat : (d.core c).atOp op = true)
    (hready : ∀ n ∈ uses (d.core c).word, (d.core c).outstanding n = false) (hread : (d.fetchEcc c ecc).1 = true) :
    d.issue c ecc op uses legal body =
      if !(d.core c).inProg || decide (wClass (d.core c).word ≠ 0) || decide (wOp (d.core c).word ≠ op) ||
          decide (wRes (d.core c).word ≠ 0) || !legal (d.core c).word then
        (fetched d c ecc).seqFault c Flt.SEQ_ILLEGAL (d.core c).pc
      else body (d.core c).word (fetched d c ecc) := by
  unfold Dev.issue
  dsimp only
  rw [if_neg (by simp [hon, hissuing, hat]), if_neg (by simpa using hready), if_neg (by simp [hread])]
  rfl

/-- A word that issues is legal but for a condition of its row's own, and acts unless that condition fails. -/
theorem Dev.issue_of_issues (h : Issues d c ecc w (uses w)) (hop : wOp w = op) : d.issue c ecc op uses legal body =
    if legal w then body w (fetched d c ecc) else (fetched d c ecc).seqFault c Flt.SEQ_ILLEGAL (d.core c).pc := by
  obtain ⟨hon, hrun, hfree, hprog, rfl, hread, hclass, hzeros, hready⟩ := h
  rw [Dev.issue_of_read hon (Core.issuing_of_run hrun hfree) (Core.atOp_of_row hprog hclass hop) hready hread]
  cases legal (d.core c).word <;> simp [hprog, hclass, hop, hzeros]

/-- A legal word's command does what its row says. -/
theorem does_issue {i : Instr} {post : Dev → Prop} (hexec : exec i s = s.does (Dev.issue c ecc op uses legal body))
    (h : Issues s.dev c ecc w (uses w)) (hop : wOp w = op) (hlegal : legal w = true) (hp : post (body w (fetched s.dev c ecc))) :
    Does i s post :=
  does_of_eq hexec ((Dev.issue_of_issues h hop).trans (if_pos hlegal)) hp

/-- A word whose row forbids it stops the core. -/
theorem does_issue_stops {i : Instr} (hexec : exec i s = s.does (Dev.issue c ecc op uses legal body))
    (h : Issues s.dev c ecc w (uses w)) (hop : wOp w = op) (hlegal : legal w = false) : Does i s (stopsAt c (fetched s.dev c ecc)) :=
  does_of_eq hexec ((Dev.issue_of_issues h hop).trans (if_neg (by simp [hlegal]))) (stopsAt_seqFault _ c _ faultClass_seqIllegal)

/-- A fetch that reads its word changes of the core the marks of the instruction words at most. -/
theorem core_fetched (h : (d.fetchEcc c ecc).1 = true) : ∃ m, (fetched d c ecc).core c = { d.core c with imemEcc := m } := by
  have hmark : ∃ m, (if ecc = .good then d else d.modCore c fun k => k.imemUpset k.bank k.pc ecc).core c =
      { d.core c with imemEcc := m } := by
    split
    · exact ⟨_, rfl⟩
    · exact ⟨_, Dev.core_modCore_same _ _ _⟩
  unfold Dev.fetchEcc at h
  unfold fetched Dev.fetchEcc
  dsimp only at h ⊢
  generalize (if ecc = .good then d else _ : Dev) = x at h hmark ⊢
  split at h
  · cases h
  · have hcores := (reported_raise_corrected x (ev := { code := Flt.SEQ_IMEM_CE, source := c, tag := (x.core c).tagNow, arg0 := (x.core c).pc })
      (show faultClass Flt.SEQ_IMEM_CE = 1 by decide)).cores
    obtain ⟨m, hm⟩ := hmark
    exact ⟨m, (congrArg (mget Core.reset · c) hcores).trans hm⟩
  · exact hmark

/-! ### A fetch outside the program (O6) -/

theorem Core.inProg_of_outside {k : Core} (h : k.pc = 0 ∨ k.progLen k.bank < k.pc) : k.inProg = false := by
  simp only [Core.inProg, Bool.and_eq_false_iff, decide_eq_false_iff_not]
  omega

/-- Outside the program no row but NOP's acts. -/
theorem Dev.issue_of_outside (hprog : (d.core c).inProg = false) (hop : op ≠ opNop) : d.issue c ecc op uses legal body = d := by
  unfold Dev.issue
  dsimp only
  rw [if_pos (by simp [Core.atOp, hprog, hop])]

theorem Dev.vecPass_of_outside (hprog : (d.core c).inProg = false) : d.vecPass c ecc op = d := by
  unfold Dev.vecPass
  dsimp only
  rw [if_pos (by simp [hprog])]

/-- Settles O6: NOP's row by `Dev.issue_of_read`, the other rows by `Dev.issue_of_outside` and `Dev.vecPass_of_outside`. -/
theorem illegalFetch : Obligations.IllegalFetch := by
  intro s c ecc d k hon hrun hfree hout
  have hprog : k.inProg = false := Core.inProg_of_outside hout
  refine ⟨fun hread => ?nop, fun x hx hop => ?scalar, fun x hx => ?vector⟩
  case nop =>
    have hissue : Dev.issue c ecc opNop usesNone anyWord (fun _ d => d.nextPc c) s.dev = (fetched d c ecc).seqFault c Flt.SEQ_ILLEGAL k.pc :=
      (Dev.issue_of_read (uses := usesNone) hon (Core.issuing_of_run hrun hfree) (Core.atOp_nop_of_illegal (.inl hprog))
        (fun _ hn => absurd hn List.not_mem_nil) hread).trans
        (if_pos (by simp [d, k, hprog]))
    obtain ⟨hpc, hsreg⟩ := (fetchEcc_stops_or_keeps d c ecc).2 hread
    exact does_of_eq rfl hissue ⟨rfl, (stopsAt_seqFault _ c _ faultClass_seqIllegal).of_before hpc hsreg⟩
  case scalar =>
    obtain ⟨legal, body, hexec⟩ := exec_scalarRow s c ecc x hx
    exact ⟨_, hexec, Dev.issue_of_outside hprog hop⟩
  case vector =>
    obtain ⟨body, hexec⟩ := exec_vectorRow s c (.pass ecc) x hx
    exact does_of hexec (Dev.vecPass_of_outside hprog)

end Sys2Proof.Machine

/-! ## The scalar arithmetic words (O9) -/

namespace Sys2Proof.Machine

variable {s : State} {d : Dev} {c : Nat} {ecc : WordEcc} {w : Nat}

/-! ### An S register written -/

theorem Core.setS_eq (k : Core) (r v : Nat) : k.setS r v = { k with sreg := (k.setS r v).sreg } := by
  unfold Core.setS
  split <;> rfl

/-- S0 discards the write; the register takes the low 64 bits. -/
theorem s_setS (k : Core) (r v n : Nat) : (k.setS r v).s n = if n = r ∧ n ≠ 0 then v % 2 ^ 64 else k.s n := by
  unfold Core.setS
  by_cases hr : r = 0
  · rw [if_pos hr, if_neg (by omega)]
  · by_cases hn : n = r
    · simp [Core.s, hr, hn]
    · simp [Core.s, hr, hn, mget_mset_other _ _ _ hn]

/-- What a word does that writes the S register `r` and goes on to the next word. -/
def WritesS (c r v : Nat) (d e : Dev) : Prop :=
  onlyCore c d e ∧ e.core c = { d.core c with sreg := (e.core c).sreg, pc := ((d.core c).pc + 1) % 4096 } ∧
    ∀ n, (e.core c).s n = if n = r ∧ n ≠ 0 then v else (d.core c).s n

theorem writesS_setS (d : Dev) (c r : Nat) {v v' : Nat} (h : v % 2 ^ 64 = v') :
    WritesS c r v' d (d.setCore c ((d.core c).setS r v).next) := by
  refine ⟨⟨rfl, fun _ hj => Dev.core_setCore_other d _ hj⟩, ?_, fun n => ?_⟩
  · rw [Dev.core_setCore_same, Core.next, Core.setS_eq]
  · rw [Dev.core_setCore_same, ← h]
    exact s_setS (d.core c) r v n

/-! ### Operations of 64 bits as operations on words -/

theorem sub64_eq (a b : Nat) (hb : b < 2 ^ 64) : sub64 a b % 2 ^ 64 = (BitVec.ofNat 64 a - BitVec.ofNat 64 b).toNat := by
  simp only [sub64, BitVec.toNat_sub, BitVec.toNat_ofNat]
  omega

theorem bitsInt64_eq_toInt (n : Nat) : bitsInt 64 n = (BitVec.ofNat 64 n).toInt := by
  simp only [bitsInt, BitVec.toInt_eq_toNat_cond, BitVec.toNat_ofNat]
  split <;> split <;> omega

theorem sar64_eq (a b : Nat) : sar64 a b % 2 ^ 64 = ((BitVec.ofNat 64 a).sshiftRight (b % 64)).toNat := by
  have h : sar64 a b = ((BitVec.ofNat 64 a).sshiftRight (b % 64)).toNat := by
    rw [sar64, bitsInt64_eq_toInt, BitVec.sshiftRight, Int.shiftRight_eq_div_pow]
    rfl
  rw [h, Nat.mod_eq_of_lt (BitVec.isLt _)]

theorem Core.s_lt (k : Core) (n : Nat) : k.s n < 2 ^ 64 := by
  unfold Core.s
  split
  · omega
  · exact Nat.mod_lt _ (by omega)

theorem shr64_eq {a : Nat} (ha : a < 2 ^ 64) (n : Nat) : (a >>> n) % 2 ^ 64 = (BitVec.ofNat 64 a >>> n).toNat := by
  rw [BitVec.toNat_ushiftRight, BitVec.toNat_ofNat, Nat.mod_eq_of_lt ha]
  exact Nat.mod_eq_of_lt (lt_of_le_of_lt (Nat.shiftRight_le _ _) ha)

theorem shl64_eq (a n : Nat) : (a <<< n) % 2 ^ 64 = (BitVec.ofNat 64 a <<< n).toNat := by
  rw [BitVec.toNat_shiftLeft, BitVec.toNat_ofNat, Nat.shiftLeft_eq, Nat.shiftLeft_eq, Nat.mod_mul_mod]

theorem wImm_eq (w : Nat) : sext64 32 (wImm w) = ((BitVec.ofNat 32 w).signExtend 64).toNat := by
  have himm : BitVec.ofNat 32 (wImm w) = BitVec.ofNat 32 w := by
    apply BitVec.eq_of_toNat_eq
    simp [wImm, bitsOf]
  rw [sext64_eq, himm]

/-- An arithmetic word of two operands. -/
theorem does_alu {i : Instr} {op v : Nat} {f : Nat → Nat → Nat} (hexec : exec i s = s.does (Dev.alu c ecc op f))
    (h : Issues s.dev c ecc w [wRd w, wRa w, wRb w]) (hop : wOp w = op)
    (hv : f (((fetched s.dev c ecc).core c).s (wRa w)) (((fetched s.dev c ecc).core c).s (wRb w)) % 2 ^ 64 = v) :
    Does i s (WritesS c (wRd w) v (fetched s.dev c ecc)) :=
  does_issue (uses := usesAlu) hexec h hop rfl (writesS_setS _ c _ hv)

/-- Settles O9: the words of two operands by `does_alu`, the others as writes of one S register too. -/
theorem scalarArithmetic : Obligations.ScalarArithmetic := by
  intro s c ecc w d k goal a b imm
  have ha : k.s (wRa w) < 2 ^ 64 := k.s_lt _
  have hb : k.s (wRb w) < 2 ^ 64 := k.s_lt _
  refine ⟨fun h => ⟨fun hop => does_alu rfl h hop ?add, fun hop => does_alu rfl h hop (sub64_eq _ _ hb), fun hop => does_alu rfl h hop ?and,
      fun hop => does_alu rfl h hop ?or, fun hop => does_alu rfl h hop ?xor, fun hop => does_alu rfl h hop (shl64_eq _ _),
      fun hop => does_alu rfl h hop (shr64_eq ha _), fun hop => does_alu rfl h hop (sar64_eq _ _), fun hop => does_alu rfl h hop ?mul⟩,
    fun h hop => does_issue (uses := usesRdRa) rfl h hop rfl (writesS_setS d c _ ?addi),
    fun h hop => does_issue (uses := usesRd) rfl h hop rfl (writesS_setS d c _ ?ldi)⟩
  case add => exact (BitVec.toNat_ofNat _ _).symm.trans (by rw [BitVec.ofNat_add])
  case and => exact (BitVec.toNat_ofNat _ _).symm.trans (by rw [BitVec.ofNat_and])
  case or => exact (BitVec.toNat_ofNat _ _).symm.trans (by rw [BitVec.ofNat_or])
  case xor => exact (BitVec.toNat_ofNat _ _).symm.trans (by rw [BitVec.ofNat_xor])
  case mul => exact (BitVec.toNat_ofNat _ _).symm.trans (by rw [BitVec.ofNat_mul])
  case addi => rw [wImm_eq, BitVec.toNat_add, BitVec.toNat_ofNat, Nat.mod_add_mod]
  case ldi => rw [wImm_eq]; exact Nat.mod_eq_of_lt (BitVec.isLt _)

end Sys2Proof.Machine

/-! ## Branches and loops (O11) -/

namespace Sys2Proof.Machine

variable {s : State} {d : Dev} {c : Nat} {ecc : WordEcc} {w : Nat}

/-- What a branch does: the core is at `k₁` where it is taken and at `k₂` where it is not, and nothing else differs. -/
def BranchesTo (c : Nat) (taken : Prop) (k₁ k₂ : Core) (d e : Dev) : Prop :=
  onlyCore c d e ∧ (taken → e.core c = k₁) ∧ (¬taken → e.core c = k₂)

theorem branchesTo_ite {taken p : Prop} [Decidable p] (h : p ↔ taken) (d : Dev) (c : Nat) (k₁ k₂ : Core) :
    BranchesTo c taken k₁ k₂ d (d.setCore c (if p then k₁ else k₂)) :=
  ⟨⟨rfl, fun _ hj => Dev.core_setCore_other d _ hj⟩, fun ht => (Dev.core_setCore_same d c _).trans (if_pos (h.2 ht)),
    fun ht => (Dev.core_setCore_same d c _).trans (if_neg fun hp => ht (h.1 hp))⟩

/-- A branch that falls through where `p` holds is taken where it does not. -/
theorem BranchesTo.swap {e : Dev} {p : Prop} {k₁ k₂ : Core} (h : BranchesTo c p k₂ k₁ d e) : BranchesTo c (¬p) k₁ k₂ d e :=
  ⟨h.1, h.2.2, fun hp => h.2.1 (not_not.1 hp)⟩

/-- A branch word tests its condition on two S registers. -/
theorem does_branch {i : Instr} {op : Nat} {cond : Nat → Nat → Bool} {taken : Prop} (hexec : exec i s = s.does (Dev.branch c ecc op cond))
    (h : Issues s.dev c ecc w [wRa w, wRb w]) (hop : wOp w = op)
    (ht : cond (((fetched s.dev c ecc).core c).s (wRa w)) (((fetched s.dev c ecc).core c).s (wRb w)) = true ↔ taken) :
    let k := (fetched s.dev c ecc).core c
    Does i s (BranchesTo c taken { k with pc := wTarget w } k.next (fetched s.dev c ecc)) :=
  does_issue (uses := usesRaRb) hexec h hop rfl (branchesTo_ite ht _ c _ _)

/-- A comparison of FP32 patterns holds only between numbers. -/
theorem fp32Cmp_iff (p : Int → Prop) [DecidablePred p] (a b : Nat) : fp32Cmp (fun x => decide (p x)) a b = true ↔
    ((fp32.decode (a % 2 ^ 32)).isNan = false ∧ (fp32.decode (b % 2 ^ 32)).isNan = false) ∧
      p (Val.cmp (fp32.decode (a % 2 ^ 32)) (fp32.decode (b % 2 ^ 32))) := by
  simp only [fp32Cmp, Bool.and_eq_true, Bool.not_eq_true', decide_eq_true_eq]

/-- Settles O11: the branches on two S registers by `does_branch`, BR, LOOP and ENDL by `branchesTo_ite`. -/
theorem branches : Obligations.Branches := by
  intro s c ecc w d k goal a b sa sb x y num
  have hlt : decide (bitsInt 64 a < bitsInt 64 b) = true ↔ sa < sb := by simp only [decide_eq_true_eq, bitsInt64_eq_toInt, sa, sb]
  have hge : decide (bitsInt 64 b ≤ bitsInt 64 a) = true ↔ sb ≤ sa := by simp only [decide_eq_true_eq, bitsInt64_eq_toInt, sa, sb]
  refine ⟨fun h => ⟨fun hop => does_branch rfl h hop decide_eq_true_iff, fun hop => does_branch rfl h hop decide_eq_true_iff,
      fun hop => does_branch rfl h hop hlt, fun hop => does_branch rfl h hop hge, fun hop => does_branch rfl h hop decide_eq_true_iff,
      fun hop => does_branch rfl h hop (fp32Cmp_iff (· < 0) a b), fun hop => does_branch rfl h hop (fp32Cmp_iff (0 ≤ ·) a b)⟩,
    fun h hop => does_issue (uses := usesNone) rfl h hop rfl ?br, fun h hop => does_issue (uses := usesRa) rfl h hop rfl ?loop,
    fun h hop => does_issue (uses := usesNone) rfl h hop rfl ?endl⟩
  case br => exact branchesTo_ite (p := True) Iff.rfl d c { k with pc := wTarget w } k.next
  case loop => exact branchesTo_ite Iff.rfl d c _ _
  case endl =>
    simp only [k, Dev.modCore]
    generalize (mget 0 (d.core c).loops (wLc w) + 2 ^ 32 - 1) % 2 ^ 32 = n
    exact (branchesTo_ite Iff.rfl d c _ _).swap

end Sys2Proof.Machine

/-! ## The scalar loads and stores (O10) -/

namespace Sys2Proof.Machine

variable {s : State} {d e : Dev} {c : Nat} {ecc : WordEcc} {w : Nat}

/-! ### Bytes in a core's CLM -/

theorem Dev.byte_setBytes (d : Dev) (p : Nat) (bs : List Byte) (a : Nat) :
    (d.setBytes p bs).byte a = if p ≤ a then bs.getD (a - p) (d.byte a) else d.byte a := by
  induction bs generalizing d p with
  | nil => simp [Dev.setBytes]
  | cons b bs ih =>
    rw [Dev.setBytes, ih]
    by_cases ha : a = p
    · subst ha
      simp
    · rw [Dev.byte_setByte_other d b ha]
      by_cases hle : p ≤ a
      · have hsucc : a - p = (a - (p + 1)) + 1 := by omega
        rw [if_pos (by omega), if_pos hle, hsucc, List.getD_cons_succ]
      · rw [if_neg (by omega), if_neg hle]

/-- Only memory and its marks differ, memory within `n` bytes at place `p`. -/
structure WroteAt (p n : Nat) (d e : Dev) : Prop where
  frame : e = { d with mem := e.mem, sramEcc := e.sramEcc, grnBad := e.grnBad }
  bytes : bytesBut p n d e

theorem wroteAt_setClm (d : Dev) (c off : Nat) (bs : List Byte) : WroteAt (clmPlace c off) bs.length d (d.setClm c off bs) where
  frame := by
    rw [Dev.setClm, Dev.setBytes_eq]
    rfl
  bytes a ha := by
    rw [Dev.setClm, Dev.byte_setBytes]
    split
    · rw [List.getD_eq_default _ _ (by omega)]
      rfl
    · rfl

theorem byte_setClm (d : Dev) (c off : Nat) (bs : List Byte) {j : Nat} (hj : j < bs.length) :
    (d.setClm c off bs).byte (clmPlace c off + j) = bs.getD j 0#8 := by
  rw [Dev.setClm, Dev.byte_setBytes, if_pos (Nat.le_add_right _ _), Nat.add_sub_cancel_left,
    List.getD_eq_getElem _ _ hj, List.getD_eq_getElem _ _ hj]

@[simp] theorem length_leBytes (n v : Nat) : (leBytes n v).length = n := by simp [leBytes_eq_map]

theorem getD_leBytes (n v : Nat) {j : Nat} (hj : j < n) (x : Byte) : (leBytes n v).getD j x = BitVec.ofNat 8 (v / 2 ^ (8 * j)) := by
  rw [List.getD_eq_getElem _ _ (by simpa using hj)]
  simp [leBytes_eq_map, Nat.pow_mul]

/-- A corrected word of CLM is logged and does nothing else. -/
theorem reported_clmCorrected (d : Dev) (c off n : Nat) : Reported d (d.clmCorrected c off n) := by
  unfold Dev.clmCorrected
  split
  · exact reported_raise_corrected d (show faultClass Flt.CLM_CE = 1 by decide)
  · exact .refl

theorem core_clmCorrected (d : Dev) (c off n j : Nat) : (d.clmCorrected c off n).core j = d.core j :=
  congrArg (mget Core.reset · j) (reported_clmCorrected d c off n).cores

/-! ### The words -/

theorem slAddr_eq (k : Core) (w : Nat) :
    k.slAddr w = (BitVec.ofNat 64 (k.s (wRa w)) + (BitVec.ofNat 32 w).signExtend 64).toNat := by
  rw [Core.slAddr, wImm_eq, BitVec.toNat_add, BitVec.toNat_ofNat, Nat.mod_add_mod]

theorem slOk_eq_true {a n : Nat} (halign : a % n = 0) (hin : a + n ≤ clmSize) : slOk a n = true := by simp [slOk, halign, hin]

theorem slOk_eq_false {a n : Nat} (h : a % n ≠ 0 ∨ clmSize < a + n) : slOk a n = false := by
  simp only [slOk, Bool.and_eq_false_iff, decide_eq_false_iff_not]
  omega

theorem faultClass_seqAddr : faultClass Flt.SEQ_ADDR = 4 := by decide

/-- A load as R136 and R186 give it. -/
def ScalarLoads (i : Instr) (s : State) (c w n : Nat) (d : Dev) : Prop :=
  let a := (d.core c).slAddr w
  (a % n = 0 → a + n ≤ clmSize → d.clmUe c a n = false → Does i s fun e =>
    WritesS c (wRd w) (leNat (d.bytes (clmPlace c a) n)) (d.clmCorrected c a n) e) ∧
  (a % n ≠ 0 ∨ clmSize < a + n ∨ d.clmUe c a n = true → Does i s (stopsAt c d))

theorem scalarLoads_of_issues {i : Instr} {op n : Nat} (hexec : exec i s = s.does (Dev.scalarLoad c ecc op n))
    (h : Issues s.dev c ecc w [wRd w, wRa w]) (hop : wOp w = op) (hn : n ≤ 8) : ScalarLoads i s c w n (fetched s.dev c ecc) := by
  generalize hd : fetched s.dev c ecc = d
  have hload : Dev.scalarLoad c ecc op n s.dev = _ := Dev.issue_of_issues (uses := usesRdRa) (legal := anyWord) h hop
  rw [if_pos (by rfl), hd] at hload
  dsimp only at hload
  refine ⟨fun halign hin hclean => does_of_eq hexec hload ?read, fun hbad => does_of_eq hexec hload ?stops⟩
  case read =>
    have hlt : leNat (d.bytes (clmPlace c ((d.core c).slAddr w)) n) < 2 ^ 64 := by
      refine lt_of_lt_of_le (leNat_lt _) (Nat.pow_le_pow_right (by decide) ?_)
      simp only [Dev.bytes, List.length_map, List.length_range]
      omega
    rw [if_neg (by simp [slOk_eq_true halign hin]), if_neg (by simp [hclean])]
    exact writesS_setS _ c _ (Nat.mod_eq_of_lt hlt)
  case stops =>
    split
    · exact stopsAt_seqFault d c _ faultClass_seqAddr
    · next hok =>
      have hue : d.clmUe c ((d.core c).slAddr w) n = true := by
        obtain h | h | h := hbad
        · exact absurd (slOk_eq_false (.inl h)) (by simpa using hok)
        · exact absurd (slOk_eq_false (.inr h)) (by simpa using hok)
        · exact h
      rw [if_pos hue]
      exact stopsAt_seqFault d c _ faultClass_clmUe

/-- A store as R136 gives it. -/
def ScalarStores (i : Instr) (s : State) (c w n : Nat) (d : Dev) : Prop :=
  let a := (d.core c).slAddr w
  (a % n = 0 → a + n ≤ clmSize → Does i s fun e =>
    e = { d with mem := e.mem, sramEcc := e.sramEcc, grnBad := e.grnBad, cores := e.cores } ∧ coresBut c d e ∧
      e.core c = (d.core c).next ∧ bytesBut (clmPlace c a) n d e ∧
      ∀ j, j < n → e.byte (clmPlace c a + j) = BitVec.ofNat 8 ((d.core c).s (wRb w) / 2 ^ (8 * j))) ∧
  (a % n ≠ 0 ∨ clmSize < a + n → Does i s (stopsAt c d))

theorem scalarStores_of_issues {i : Instr} {op n : Nat} (hexec : exec i s = s.does (Dev.scalarStore c ecc op n))
    (h : Issues s.dev c ecc w [wRa w, wRb w]) (hop : wOp w = op) : ScalarStores i s c w n (fetched s.dev c ecc) := by
  generalize hd : fetched s.dev c ecc = d
  have hstore : Dev.scalarStore c ecc op n s.dev = _ := Dev.issue_of_issues (uses := usesRaRb) (legal := anyWord) h hop
  rw [if_pos (by rfl), hd] at hstore
  dsimp only at hstore
  refine ⟨fun halign hin => does_of_eq hexec hstore ?write, fun hbad => does_of_eq hexec hstore ?stops⟩
  case write =>
    rw [if_neg (by simp [slOk_eq_true halign hin])]
    generalize hbs : leBytes n ((d.core c).s (wRb w)) = bs
    have hlen : bs.length = n := by rw [← hbs, length_leBytes]
    obtain ⟨hframe, hbytes⟩ := wroteAt_setClm d c ((d.core c).slAddr w) bs
    have hcores (j : Nat) : (d.setClm c ((d.core c).slAddr w) bs).core j = d.core j := by rw [hframe]; rfl
    refine ⟨?_, fun j hj => (Dev.core_modCore_other _ _ hj).trans (hcores j), (Dev.core_modCore_same _ _ _).trans (congrArg _ (hcores c)),
      hlen ▸ hbytes, fun j hj => ?_⟩
    · rw [Dev.nextPc, hframe]
      rfl
    · rw [Dev.nextPc, Dev.modCore_byte', byte_setClm d c _ bs (hlen ▸ hj), ← hbs, getD_leBytes n _ hj]
  case stops =>
    rw [if_pos (by simp [slOk_eq_false hbad])]
    exact stopsAt_seqFault d c _ faultClass_seqAddr

/-- Settles O10: the loads by `scalarLoads_of_issues`, the stores by `scalarStores_of_issues`. -/
theorem scalarMemory : Obligations.ScalarMemory := by
  intro s c ecc w d k a load store
  have ha : k.slAddr w = a := slAddr_eq k w
  have hload {i : Instr} {n : Nat} (h : ScalarLoads i s c w n d) : load i n := by
    simp only [ScalarLoads, WritesS, core_clmCorrected] at h
    rw [ha] at h
    exact h
  have hstore {i : Instr} {n : Nat} (h : ScalarStores i s c w n d) : store i n := by
    simp only [ScalarStores] at h
    rw [ha] at h
    exact h
  exact ⟨fun h => ⟨fun hop => hload (scalarLoads_of_issues rfl h hop (by decide)), fun hop => hload (scalarLoads_of_issues rfl h hop (by decide))⟩,
    fun h => ⟨fun hop => hstore (scalarStores_of_issues rfl h hop), fun hop => hstore (scalarStores_of_issues rfl h hop)⟩⟩

end Sys2Proof.Machine

/-! ## One core and register fields

The frame of the sequencer's commands: one core is at a given value, some register fields and no others differ, and nothing else does. -/

namespace Sys2Proof.Machine

variable {d e f : Dev} {c : Nat} {fs gs : List Fld} {k k' : Core}

/-- Nothing but core `c`, now at `k`, and register fields among `fs` differs. -/
structure CoreRegs (c : Nat) (fs : List Fld) (k : Core) (d e : Dev) : Prop where
  frame : e = { d with regs := e.regs, cores := e.cores }
  cores : coresBut c d e
  core : e.core c = k
  regs : regsBut fs d e

namespace CoreRegs

theorem mem (h : CoreRegs c fs k d e) : e.mem = d.mem := by rw [h.frame]

theorem byte (h : CoreRegs c fs k d e) (a : Nat) : e.byte a = d.byte a := congrArg (mget memDefault · a) h.mem

theorem trans (h : CoreRegs c fs k d e) (h' : CoreRegs c fs k' e f) : CoreRegs c fs k' d f where
  frame := by
    calc f = { e with regs := f.regs, cores := f.cores } := h'.frame
      _ = { d with regs := f.regs, cores := f.cores } := by rw [h.frame]
  cores j hj := (h'.cores j hj).trans (h.cores j hj)
  core := h'.core
  regs := h.regs.trans h'.regs

theorem mono (h : CoreRegs c fs k d e) (hsub : fs ⊆ gs) : CoreRegs c gs k d e := ⟨h.frame, h.cores, h.core, h.regs.mono hsub⟩

theorem of_onlyRegs (h : onlyRegs fs d e) : CoreRegs c fs (d.core c) d e where
  frame := by
    rw [h.1]
  cores j _ := by
    rw [h.1]
    rfl
  core := by
    rw [h.1]
    rfl
  regs := h.2

/-- Then the core takes another value. -/
theorem modCore (h : CoreRegs c fs k d e) (g : Core → Core) : CoreRegs c fs (g k) d (e.modCore c g) :=
  h.trans ⟨rfl, fun _ hj => Dev.core_modCore_other e g hj, (Dev.core_modCore_same e c g).trans (congrArg g h.core), .refl⟩

/-- Then register fields change. -/
theorem thenRegs (h : CoreRegs c fs k d e) (h' : onlyRegs fs e f) : CoreRegs c fs k d f :=
  h.trans (h.core ▸ .of_onlyRegs h')

theorem set (h : CoreRegs c fs k d e) (x : Fld) (v : Nat) (hx : x ∈ fs) : CoreRegs c fs k d (e.set x v) := h.thenRegs (onlyRegs_set e v hx)

end CoreRegs

/-- A word that changes register fields and goes on to the next word. -/
theorem coreRegs_nextPc (h : onlyRegs fs d e) : CoreRegs c fs (d.core c).next d (e.nextPc c) := (CoreRegs.of_onlyRegs h).modCore _

/-- What a trace entry leaves of the core. -/
def Core.traced (k : Core) (q : List TraceEnt) (n : Nat) : Core := { k with traceQ := q, traceSeq := n }

theorem coreRegs_trace (d : Dev) (c typ tag a0 a1 : Nat) :
    ∃ q n, CoreRegs c [Reg.CORE_SEQ_TRACE_DROP.COUNT c] ((d.core c).traced q n) d (d.trace c typ tag a0 a1) := by
  have hcore (k : Core) : CoreRegs c [Reg.CORE_SEQ_TRACE_DROP.COUNT c] k d (d.setCore c k) :=
    ⟨rfl, fun _ hj => Dev.core_setCore_other d k hj, Dev.core_setCore_same d c k, .refl⟩
  unfold Dev.trace
  dsimp only
  split
  · split
    · exact ⟨_, _, hcore _⟩
    · exact ⟨_, _, (hcore _).set _ _ (List.mem_singleton_self _)⟩
  · exact ⟨_, _, rfl, fun _ _ => rfl, rfl, .refl⟩

/-- With trace off no entry is made. -/
theorem Dev.trace_of_off (d : Dev) {c : Nat} (h : d.bit (Reg.CORE_SEQ_TRACE_CTL.EN c) = false) (typ tag a0 a1 : Nat) :
    d.trace c typ tag a0 a1 = d := by
  unfold Dev.trace
  rw [if_neg (by simp [h])]

/-- With room in the queue and STOP at 0 the entry is queued (R156, R157). -/
theorem Dev.trace_of_room (d : Dev) {c : Nat} (hen : d.bit (Reg.CORE_SEQ_TRACE_CTL.EN c) = true)
    (hstop : d.bit (Reg.CORE_SEQ_TRACE_CTL.STOP c) = false) (hroom : (d.core c).traceQ.length < 16) (typ tag a0 a1 : Nat) :
    d.trace c typ tag a0 a1 = d.setCore c ((d.core c).traced
      ((d.core c).traceQ ++ [leBytes 8 d.mt ++ leBytes 4 tag ++ leBytes 1 typ ++ leBytes 1 c ++ leBytes 2 (d.core c).traceSeq ++
        leBytes 8 a0 ++ leBytes 8 a1]) ((d.core c).traceSeq + 1)) := by
  unfold Dev.trace
  simp [hen, hstop, hroom, Core.traced]

end Sys2Proof.Machine

/-! ## Event, time, step, trace and NOP words (O14) -/

namespace Sys2Proof.Machine

variable {d e : Dev} {c : Nat}

/-! ### Setting and clearing one event (R145) -/

/-- The registers of the events. -/
def evtFields (c : Nat) : List Fld := [Reg.CORE_SEQ_EVT_LO.EVT c, Reg.CORE_SEQ_EVT_HI.EVT c]

theorem eventFld_mem (c n : Nat) : eventFld c n ∈ evtFields c := by
  unfold eventFld evtFields
  split <;> simp

theorem onlyRegs_setEvent (d : Dev) (c ev : Nat) : onlyRegs (evtFields c) d (d.setEvent c ev) :=
  onlyRegs_ite (onlyRegs_set d _ (eventFld_mem c ev)) .refl

theorem onlyRegs_clearEvent (d : Dev) (c ev : Nat) : onlyRegs (evtFields c) d (d.clearEvent c ev) :=
  onlyRegs_ite (onlyRegs_set d _ (eventFld_mem c ev)) .refl

/-- Taking a set bit away clears it and leaves the others. -/
theorem testBit_sub_two_pow {x i : Nat} (h : x.testBit i = true) (j : Nat) : (x - 2 ^ i).testBit j = (decide (j ≠ i) && x.testBit j) := by
  obtain ⟨r, lo, hlo, rfl⟩ : ∃ r lo, lo < 2 ^ i ∧ x = 2 ^ i * (2 * r + 1) + lo := by
    refine ⟨x / 2 ^ i / 2, x % 2 ^ i, Nat.mod_lt _ (Nat.two_pow_pos i), ?_⟩
    have hodd : x / 2 ^ i % 2 = 1 := by simpa [Nat.testBit_eq_decide_div_mod_eq] using h
    rw [show 2 * (x / 2 ^ i / 2) + 1 = x / 2 ^ i by omega, Nat.div_add_mod]
  have hsub : 2 ^ i * (2 * r + 1) + lo - 2 ^ i = 2 ^ i * (2 * r) + lo := by
    rw [Nat.mul_add, Nat.mul_one]
    omega
  rw [hsub, Nat.testBit_two_pow_mul_add _ hlo, Nat.testBit_two_pow_mul_add _ hlo]
  by_cases hj : j < i
  · simp [hj, Nat.ne_of_lt hj]
  · rw [if_neg hj, if_neg hj]
    cases hk : j - i with
    | zero =>
      have : j = i := by omega
      simp [this]
    | succ m =>
      have : j ≠ i := by omega
      simp [Nat.testBit_succ, this, show (2 * r + 1) / 2 = r by omega]

/-- After a write of the register of event `ev`, an event of the same half reads its bit of the value written, another as before. -/
theorem event_set (d : Dev) (c ev : Nat) {v n : Nat} (hv : v < 2 ^ 32) : (d.set (eventFld c ev) v).event c n =
    if decide (32 ≤ n) = decide (32 ≤ ev) then v.testBit (n % 32) else d.event c n := by
  rw [Dev.event, Dev.event, eventFld_eq c ev, eventFld_eq c n]
  split
  · next h => rw [h, Dev.get_set_same, evtHalf_width, Nat.mod_eq_of_lt hv]
  · next h => rw [Dev.get_set_other d _ (evtHalf_key_ne c h)]

theorem get_eventFld_lt (d : Dev) (c ev : Nat) : d.get (eventFld c ev) < 2 ^ 32 := by
  have h := d.get_lt (eventFld c ev)
  rwa [eventFld_eq, evtHalf_width, ← eventFld_eq] at h

/-- The events of one half lie in one register. -/
theorem eventFld_congr (c : Nat) {n ev : Nat} (h : decide (32 ≤ n) = decide (32 ≤ ev)) : eventFld c ev = eventFld c n := by
  rw [eventFld_eq, eventFld_eq, h]

/-- Setting an event sets it and no other; 127 names none. -/
theorem event_setEvent (d : Dev) (c ev : Nat) {n : Nat} (hn : n < 64) :
    (d.setEvent c ev).event c n = (decide (n = ev) || d.event c n) := by
  unfold Dev.setEvent
  split
  · next hev =>
    have hlt : d.get (eventFld c ev) ||| 2 ^ (ev % 32) < 2 ^ 32 :=
      Nat.or_lt_two_pow (get_eventFld_lt d c ev) (Nat.pow_lt_pow_right (by decide) (Nat.mod_lt _ (by decide)))
    rw [event_set d c ev hlt]
    split
    · next h =>
      have hsame : ev % 32 = n % 32 ↔ n = ev := by
        rw [decide_eq_decide] at h
        omega
      rw [Nat.testBit_or, Nat.testBit_two_pow, eventFld_congr c h, Bool.or_comm, decide_eq_decide.2 hsame]
      rfl
    · next h =>
      have hne : n ≠ ev := fun h' => h (by rw [h'])
      simp [hne]
  · next hev =>
    have hne : n ≠ ev := by omega
    simp [hne]

/-- Clearing an event clears it and no other. -/
theorem event_clearEvent (d : Dev) (c : Nat) {ev n : Nat} (hev : ev < 64) (hn : n < 64) :
    (d.clearEvent c ev).event c n = (decide (n ≠ ev) && d.event c n) := by
  unfold Dev.clearEvent
  split
  · next hset =>
    rw [event_set d c ev (Nat.lt_of_le_of_lt (Nat.sub_le _ _) (get_eventFld_lt d c ev))]
    split
    · next h =>
      have hsame : n % 32 ≠ ev % 32 ↔ n ≠ ev := by
        rw [decide_eq_decide] at h
        omega
      rw [testBit_sub_two_pow hset, eventFld_congr c h, decide_eq_decide.2 hsame]
      rfl
    · next h =>
      have hne : n ≠ ev := fun h' => h (by rw [h'])
      simp [hne]
  · next hset =>
    by_cases hne : n = ev
    · simpa [hne] using hset
    · simp [hne]

/-! ### The step number -/

theorem get64_set64 (d : Dev) {x : Fld} {v : Nat} (hkey : x.key ≠ x.hi.key) (hwidth : x.width = 32) (hv : v < 2 ^ 64) :
    (d.set64 x v).get64 x = v := by
  have hhi : x.hi.width = 32 := hwidth
  rw [Dev.get64, Dev.set64, Dev.get_set_other _ _ hkey, Dev.get_set_same, Dev.get_set_same, hwidth, hhi]
  omega

theorem stepKey_ne_hi (c : Nat) : (Reg.CORE_SEQ_STEP_LO.STEP c).key ≠ (Reg.CORE_SEQ_STEP_LO.STEP c).hi.key := by
  simp only [Fld.key, Fld.hi, Reg.CORE_SEQ_STEP_LO.STEP]
  omega

/-! ### The statement -/

/-- Settles O14: the events by `event_setEvent` and `event_clearEvent`, the trace entry by `Dev.trace_of_room`. -/
theorem eventAndStepWords : Obligations.EventAndStepWords := by
  intro s c ecc w d k ev evs
  have hev : ev < 64 := Nat.mod_lt _ (by decide)
  refine ⟨fun h => ⟨fun hop => does_issue (uses := usesNone) rfl h hop rfl ?setev, fun hop => does_issue (uses := usesNone) rfl h hop rfl ?clrev,
      fun hop => does_issue (uses := usesNone) rfl h hop rfl ?nop⟩,
    fun h hop => does_issue (uses := usesRd) rfl h hop rfl (writesS_setS d c _ rfl),
    fun h hop => does_issue (uses := usesRa) rfl h hop rfl ?stepset, fun h hop => does_issue (uses := usesRaRb) rfl h hop rfl ?trace⟩
  case setev =>
    obtain ⟨hframe, hcores, hcore, hregs⟩ := coreRegs_nextPc (c := c) (onlyRegs_setEvent d c ev)
    exact ⟨hframe, hcores, hcore, hregs, fun n hn => event_setEvent d c ev hn⟩
  case clrev =>
    obtain ⟨hframe, hcores, hcore, hregs⟩ := coreRegs_nextPc (c := c) (onlyRegs_clearEvent d c ev)
    exact ⟨hframe, hcores, hcore, hregs, fun n hn => event_clearEvent d c hev hn⟩
  case nop => exact ⟨onlyCore_modCore d c _, Dev.core_modCore_same d c _⟩
  case stepset =>
    obtain ⟨hframe, hcores, hcore, hregs⟩ := coreRegs_nextPc (c := c) (onlyRegs_set64 d (Reg.CORE_SEQ_STEP_LO.STEP c) (k.s (wRa w)))
    exact ⟨hframe, hcores, hcore, get64_set64 d (stepKey_ne_hi c) rfl (k.s_lt _), hregs⟩
  case trace =>
    obtain ⟨q, n, htrace⟩ := coreRegs_trace d c 10 k.tagNow (k.s (wRa w)) (k.s (wRb w))
    have hend := htrace.modCore Core.next
    refine ⟨hend.cores, congrArg Core.pc hend.core, hend.mem, hend.regs, fun hoff => ?_, fun hen hstop hroom => ?_⟩
    · rw [Dev.traceCmd, Dev.trace_of_off d hoff]
      exact Dev.core_modCore_same d c _
    · rw [Dev.traceCmd, Dev.trace_of_room d hen hstop hroom, Dev.nextPc, Dev.core_modCore_same, Dev.core_setCore_same]
      rfl

end Sys2Proof.Machine

/-! ## The wait words and the waiting core (O13) -/

namespace Sys2Proof.Machine

variable {s : State} {d x : Dev} {c w op : Nat} {ecc : WordEcc} {q : List TraceEnt} {n : Nat}

/-! ### Conditions (R137, R145 to R147) -/

section
variable (d : Dev) (c : Nat)

theorem Dev.waitDone_lwait (h : wOp w = 0x2A) : d.waitDone c w = (d.core c).cmd.isNone := by simp [Dev.waitDone, h]

theorem Dev.waitDone_waitev (h : wOp w = 0x2D) : d.waitDone c w = d.event c (wImm w % 64) := by simp [Dev.waitDone, h]

theorem Dev.waitDone_ixwait (h : wOp w = 0x36) : d.waitDone c w = decide ((d.core c).ixq = []) := by simp [Dev.waitDone, h]

theorem Dev.waitDone_colgo (h : wOp w = 0x30) : d.waitDone c w = (d.core c).cmd.isNone := by simp [Dev.waitDone, h]

theorem Dev.waitDone_colwait (h : wOp w = 0x31) : d.waitDone c w = !(d.core c).colgo.contains ((d.core c).s (wRa w)) := by
  simp [Dev.waitDone, h]

theorem Dev.waitDone_halt (h : wOp w = 0x3C) : d.waitDone c w = ((d.core c).cmd.isNone && decide ((d.core c).ixq = [])) := by
  simp [Dev.waitDone, h]

/-! ### Ends of a wait -/

/-- The core goes on with the next word. -/
def Core.resumed (k : Core) : Core := { k.next with seq := .run }

theorem Dev.waitEnd_plain (h : wOp w = 0x2A ∨ wOp w = 0x36) : d.waitEnd c w = d.modCore c Core.resumed := by
  obtain h | h := h
  · simp [Dev.waitEnd, h]
    rfl
  · simp [Dev.waitEnd, h]
    rfl

theorem Dev.waitEnd_waitev (h : wOp w = 0x2D) :
    d.waitEnd c w = (if (wImm w).testBit 8 then d.clearEvent c (wImm w % 64) else d).modCore c Core.resumed := by
  simp [Dev.waitEnd, h]
  rfl

theorem Dev.waitEnd_colwait (h : wOp w = 0x31) :
    d.waitEnd c w = (d.traceCmd c 7 ((d.core c).s (wRa w)) 0).modCore c Core.resumed := by
  simp [Dev.waitEnd, h]
  rfl

theorem Dev.waitEnd_colgo (h : wOp w = 0x30) : d.waitEnd c w =
    ((d.traceCmd c 6 ((d.core c).s (wRa w)) 0).modCore c Core.resumed).modCore c fun k =>
      { k with colgo := k.colgo ++ [k.s (wRa w)] } := by
  simp [Dev.waitEnd, h]
  rfl

/-- The core halts; with bit 0 of the immediate it then asks for a start check. -/
theorem Dev.waitEnd_halt (h : wOp w = 0x3C) : d.waitEnd c w =
    let e := (d.traceCmd c 13 ((d.core c).progId (d.core c).bank) (d.core c).pc).modCore c fun k => { k.next with seq := .halted }
    if (wImm w).testBit 0 then e.startReq c else e := by
  simp [Dev.waitEnd, h]

end

/-- The core goes on: nothing of its command and of memory differs. -/
def GoesOn (c : Nat) (d e : Dev) : Prop :=
  coresBut c d e ∧ (e.core c).pc = ((d.core c).pc + 1) % 4096 ∧ (e.core c).seq = .run ∧ (e.core c).cmd = (d.core c).cmd ∧ e.mem = d.mem

/-- The core goes on with a script entry marked. -/
def Marks (c w : Nat) (d e : Dev) : Prop :=
  coresBut c d e ∧ (e.core c).pc = ((d.core c).pc + 1) % 4096 ∧ (e.core c).seq = .run ∧
    (e.core c).colgo = (d.core c).colgo ++ [(d.core c).s (wRa w)] ∧ e.mem = d.mem

/-- The core halts, or halts and begins a start check. -/
def Halts (c w : Nat) (d e : Dev) : Prop :=
  coresBut c d e ∧ (e.core c).pc = ((d.core c).pc + 1) % 4096 ∧ e.mem = d.mem ∧
    (e.core c).seq = if (wImm w).testBit 0 then .loadchk else .halted

/-- The core waits at its word. -/
def Stays (c : Nat) (d e : Dev) : Prop :=
  coresBut c d e ∧ (e.core c).pc = (d.core c).pc ∧ (e.core c).seq = .wait ∧ (e.core c).cmd = (d.core c).cmd ∧ e.mem = d.mem ∧
    regsBut [Reg.CORE_SEQ_TRACE_DROP.COUNT c] d e

/-- Nothing but the core's waiting trace entries, and the count of those dropped, differs. -/
def TracedOnly (c : Nat) (q : List TraceEnt) (n : Nat) (d x : Dev) : Prop :=
  CoreRegs c [Reg.CORE_SEQ_TRACE_DROP.COUNT c] ((d.core c).traced q n) d x

theorem tracedOnly_refl (d : Dev) (c : Nat) : TracedOnly c (d.core c).traceQ (d.core c).traceSeq d d := ⟨rfl, fun _ _ => rfl, rfl, .refl⟩

theorem TracedOnly.traceCmd (h : TracedOnly c q n d x) (typ a0 a1 : Nat) : ∃ q n, TracedOnly c q n d (x.traceCmd c typ a0 a1) := by
  obtain ⟨q', n', htrace⟩ := coreRegs_trace x c typ (x.core c).tagNow a0 a1
  have hcore : (x.core c).traced q' n' = (d.core c).traced q' n' := by
    rw [h.core]
    rfl
  exact ⟨q', n', CoreRegs.trans h (hcore ▸ htrace)⟩

theorem CoreRegs.goesOn {fs : List Fld} (h : CoreRegs c fs ((d.core c).traced q n).resumed d x) : GoesOn c d x := by
  have hcore := h.core
  exact ⟨h.cores, (congrArg Core.pc hcore :), (congrArg Core.seq hcore :), (congrArg Core.cmd hcore :), h.mem⟩

theorem stays_trace (d : Dev) (c typ tag a0 a1 : Nat) :
    Stays c d ((d.trace c typ tag a0 a1).modCore c fun k => { k with seq := .wait }) := by
  obtain ⟨q, n, htrace⟩ := coreRegs_trace d c typ tag a0 a1
  have hend := htrace.modCore fun k => { k with seq := .wait }
  have hcore := hend.core
  exact ⟨hend.cores, (congrArg Core.pc hcore :), (congrArg Core.seq hcore :), (congrArg Core.cmd hcore :), hend.mem, hend.regs⟩

/-- The count of dropped trace entries lies in no register of the events. -/
theorem eventFld_key_ne_drop (c m : Nat) : (eventFld c m).key ≠ (Reg.CORE_SEQ_TRACE_DROP.COUNT c).key := by
  have hkeys : ∀ f ∈ evtFields c, f.key ≠ (Reg.CORE_SEQ_TRACE_DROP.COUNT c).key := by
    simp [evtFields, Fld.key, Reg.CORE_SEQ_EVT_LO.EVT, Reg.CORE_SEQ_EVT_HI.EVT, Reg.CORE_SEQ_TRACE_DROP.COUNT]
  exact hkeys _ (eventFld_mem c m)

section
variable (h : TracedOnly c q n d x)
include h

theorem TracedOnly.event (m : Nat) : x.event c m = d.event c m := by
  rw [Dev.event, Dev.event, h.regs (eventFld c m) fun f hf => List.mem_singleton.1 hf ▸ eventFld_key_ne_drop c m]

/-- LWAIT, IXWAIT, WAITEV and COLWAIT end so. -/
theorem goesOn_waitEnd (hop : wOp w = 0x2A ∨ wOp w = 0x36 ∨ wOp w = 0x2D ∨ wOp w = 0x31) : GoesOn c d (x.waitEnd c w) := by
  have hplain (hop : wOp w = 0x2A ∨ wOp w = 0x36) : GoesOn c d (x.waitEnd c w) := by
    rw [Dev.waitEnd_plain x c hop]
    exact (CoreRegs.modCore h Core.resumed).goesOn
  obtain hop | hop | hop | hop := hop
  · exact hplain (.inl hop)
  · exact hplain (.inr hop)
  · rw [Dev.waitEnd_waitev x c hop]
    have hclear : onlyRegs (evtFields c) x (if (wImm w).testBit 8 then x.clearEvent c (wImm w % 64) else x) :=
      onlyRegs_ite (onlyRegs_clearEvent x c _) .refl
    exact (CoreRegs.modCore ((CoreRegs.mono h (List.subset_append_left _ (evtFields c))).thenRegs
      (hclear.mono (List.subset_append_right _ _))) Core.resumed).goesOn
  · rw [Dev.waitEnd_colwait x c hop]
    obtain ⟨q', n', htrace⟩ := h.traceCmd 7 ((x.core c).s (wRa w)) 0
    exact (CoreRegs.modCore htrace Core.resumed).goesOn

/-- WAITEV clears its event where bit 8 of the immediate asks for it. -/
theorem event_waitEnd (hop : wOp w = 0x2D) {m : Nat} (hm : m < 64) : (x.waitEnd c w).event c m =
    (d.event c m && !(decide (m = wImm w % 64) && (wImm w).testBit 8)) := by
  have hmod (y : Dev) : (y.modCore c Core.resumed).event c m = y.event c m := rfl
  rw [Dev.waitEnd_waitev x c hop, hmod]
  split
  · next hb => rw [event_clearEvent x c (Nat.mod_lt _ (by decide)) hm, h.event, hb, Bool.and_true, Bool.and_comm, ← decide_not]
  · next hb => rw [h.event, Bool.eq_false_of_not_eq_true hb, Bool.and_false, Bool.not_false, Bool.and_true]

theorem marks_waitEnd (hop : wOp w = 0x30) : Marks c w d (x.waitEnd c w) := by
  obtain ⟨q', n', htrace⟩ := h.traceCmd 6 ((x.core c).s (wRa w)) 0
  have hend := (CoreRegs.modCore htrace Core.resumed).modCore fun k => { k with colgo := k.colgo ++ [k.s (wRa w)] }
  have hcore := hend.core
  rw [Dev.waitEnd_colgo x c hop]
  exact ⟨hend.cores, (congrArg Core.pc hcore :), (congrArg Core.seq hcore :), (congrArg Core.colgo hcore :), hend.mem⟩

theorem halts_waitEnd (hop : wOp w = 0x3C) : Halts c w d (x.waitEnd c w) := by
  obtain ⟨q', n', htrace⟩ := h.traceCmd 13 ((x.core c).progId (x.core c).bank) (x.core c).pc
  have hhalt := CoreRegs.modCore htrace fun k => { k.next with seq := .halted }
  rw [Dev.waitEnd_halt x c hop]
  dsimp only
  generalize Dev.modCore c _ (x.traceCmd c 13 _ _) = y at hhalt ⊢
  have hcore := hhalt.core
  split
  · next hb =>
    have hstart : y.startReq c = y.modCore c fun k => { k with prev := k.seq, seq := .loadchk } := if_pos (by rw [hcore]; exact .inr (.inl rfl))
    have hcheck := hhalt.modCore fun k => { k with prev := k.seq, seq := .loadchk }
    have hcore := hcheck.core
    rw [hstart]
    exact ⟨hcheck.cores, (congrArg Core.pc hcore :), hcheck.mem, (congrArg Core.seq hcore).trans (if_pos hb).symm⟩
  · next hb => exact ⟨hhalt.cores, (congrArg Core.pc hcore :), hhalt.mem, (congrArg Core.seq hcore).trans (if_neg hb).symm⟩

end

/-! ### A wait word issues -/

section
variable {i : Instr} {uses : Nat → List Nat} {legal : Nat → Bool} (hexec : exec i s = s.does (Dev.waitIssue c ecc op uses legal))
  (h : Issues s.dev c ecc w (uses w)) (hop : wOp w = op) (hlegal : legal w = true)
include hexec h hop hlegal

theorem does_waitIssue_of_done {post : Dev → Prop} (hdone : (fetched s.dev c ecc).waitDone c w = true)
    (hp : post ((fetched s.dev c ecc).waitEnd c w)) : Does i s post :=
  does_issue hexec h hop hlegal (by rwa [if_pos hdone])

theorem does_waitIssue_of_waiting (hdone : (fetched s.dev c ecc).waitDone c w = false) : Does i s (Stays c (fetched s.dev c ecc)) :=
  does_issue hexec h hop hlegal (by rw [if_neg (by simp [hdone])]; exact stays_trace _ c _ _ _ _)

end

theorem isOpen_fetched (h : (d.fetchEcc c ecc).1 = true) : ((fetched d c ecc).core c).isOpen = (d.core c).isOpen := by
  obtain ⟨m, hm⟩ := core_fetched h
  rw [hm]
  rfl

theorem Core.isOpen_of_none {k : Core} (h : k.cmd = none) : k.isOpen = false := by simp [Core.isOpen, h]

/-! ### WAITMT (R146) -/

theorem roundTarget_eq (t : Nat) : roundTarget t = (t + 15) / 16 * 16 := rfl

/-- The fields of the late waits. -/
def lateFields (c : Nat) : List Fld := [Reg.CORE_SEQ_ERR.LATE c, Reg.CORE_SEQ_ERR.LATE_CNT c]

theorem lateWait_spec (d : Dev) (c : Nat) : onlyRegs (lateFields c) d (d.lateWait c) ∧ (d.lateWait c).bit (Reg.CORE_SEQ_ERR.LATE c) = true ∧
    (d.lateWait c).get (Reg.CORE_SEQ_ERR.LATE_CNT c) =
      min (d.get (Reg.CORE_SEQ_ERR.LATE_CNT c) + 1) (2 ^ (Reg.CORE_SEQ_ERR.LATE_CNT c).width - 1) := by
  have hkey : (Reg.CORE_SEQ_ERR.LATE c).key ≠ (Reg.CORE_SEQ_ERR.LATE_CNT c).key := by
    simp only [Fld.key, Reg.CORE_SEQ_ERR.LATE, Reg.CORE_SEQ_ERR.LATE_CNT]
    omega
  refine ⟨onlyRegs_flag d (by simp [lateFields]) (by simp [lateFields]), ?_, ?_⟩
  · rw [Dev.lateWait, Dev.flag, Dev.addSat, Dev.bit_set_other _ _ hkey, Dev.bit_setBit_same _ _ Nat.one_pos]
  · rw [Dev.lateWait, Dev.flag, Dev.addSat, Dev.get_set_same, Dev.get_setBit_other _ _ hkey.symm]
    exact Nat.mod_eq_of_lt (lt_of_le_of_lt (Nat.min_le_right _ _) (Nat.sub_lt (Nat.two_pow_pos _) Nat.one_pos))

/-! ### The waiting core -/

section
variable {c : CoreId} {w : Nat} (hon : s.dev.coreOn = true) (hwait : (s.dev.core c).seq = .wait) (hw : (s.dev.core c).word = w)
include hon hwait hw

/-- A waiting core whose condition holds goes on after a trace entry. -/
theorem does_waitConditionMet {post : Dev → Prop} (hop : wOp w ≠ 0x2C) (hdone : s.dev.waitDone c w = true)
    (hp : ∀ q n x, TracedOnly c q n s.dev x → post (x.waitEnd c w)) : Does (.waitConditionMet c) s post := by
  obtain ⟨q, n, htrace⟩ := (tracedOnly_refl s.dev c).traceCmd 5 (wOp w) ((s.dev.core c).waitOperand w)
  refine ⟨_, rfl, ?_⟩
  dsimp only
  rw [hw, if_pos (by simp [hon, hwait, hop, hdone])]
  exact hp q n _ htrace

theorem does_waitmtTrigger (hop : wOp w = 0x2C) (hreached : roundTarget ((s.dev.core c).s (wRa w)) ≤ s.dev.mt) :
    Does (.waitmtTrigger c) s (GoesOn c s.dev) := by
  obtain ⟨q, n, htrace⟩ := (tracedOnly_refl s.dev c).traceCmd 5 0x2C ((s.dev.core c).s (wRa w))
  refine ⟨_, rfl, ?_⟩
  dsimp only
  rw [hw, if_pos (by simp [hon, hwait, hop, hreached])]
  exact (CoreRegs.modCore htrace Core.resumed).goesOn

theorem does_seqWaitTimeout (hop : wOp w = 0x2A ∨ wOp w = 0x2D ∨ wOp w = 0x36) (hdone : s.dev.waitDone c w = false)
    (hlim : s.dev.get (Reg.CORE_SEQ_WAITLIM.US c) ≠ 0) : Does (.seqWaitTimeout c) s (stopsAt c s.dev) := by
  refine ⟨_, rfl, ?_⟩
  dsimp only
  rw [hw, if_pos]
  · exact stopsAt_seqFault s.dev c _ (by decide)
  · obtain hop | hop | hop := hop <;> simp [hon, hwait, hop, hdone, hlim]

end

/-! ### The statement -/

/-- Settles O13: the words by `does_waitIssue_of_done` and `does_waitIssue_of_waiting`, the waiting core by `does_waitConditionMet`,
`does_waitmtTrigger` and `does_seqWaitTimeout`. -/
theorem waitWords : Obligations.WaitWords := by
  intro s c ecc w goOn clears marks halts
  refine ⟨?issue, ?waiting⟩
  case issue =>
    intro d k ra stay
    have here := tracedOnly_refl d c
    have hnone {a : Option LayerCmd} (h : a ≠ none) : a.isNone = false := by simpa [Option.ne_none_iff_isSome] using h
    refine ⟨fun h => ⟨fun hop => ⟨fun hcmd => ?lwait, fun hcmd => ?lwaitStays⟩,
        fun hop => ⟨fun hev => ⟨?waitev, ?waitevClears⟩, fun hev => ?waitevStays⟩,
        fun hop => ⟨fun hq => ?ixwait, fun hq => ?ixwaitStays⟩, fun hop => ⟨fun hcmd hq => ?halt, fun hbusy => ?haltStays⟩⟩,
      fun h => ⟨fun hop => ⟨fun hmark => ?colwait, fun hmark => ?colwaitStays⟩,
        fun hop => ⟨fun hcmd => ?colgo, fun hcmd hopen => ?colgoStays, fun hopen => ?colgoStops⟩, fun hop => ?waitmt⟩⟩
    case lwait =>
      exact does_waitIssue_of_done (uses := usesNone) rfl h hop rfl ((d.waitDone_lwait c hop).trans (by rw [hcmd]; rfl))
        (goesOn_waitEnd here (.inl hop))
    case lwaitStays =>
      exact does_waitIssue_of_waiting (uses := usesNone) rfl h hop rfl ((d.waitDone_lwait c hop).trans (hnone hcmd))
    case waitev =>
      exact does_waitIssue_of_done (uses := usesNone) rfl h hop rfl ((d.waitDone_waitev c hop).trans hev)
        (goesOn_waitEnd here (.inr (.inr (.inl hop))))
    case waitevClears =>
      exact does_waitIssue_of_done (uses := usesNone) rfl h hop rfl ((d.waitDone_waitev c hop).trans hev) fun n hn => event_waitEnd here hop hn
    case waitevStays => exact does_waitIssue_of_waiting (uses := usesNone) rfl h hop rfl ((d.waitDone_waitev c hop).trans hev)
    case ixwait =>
      exact does_waitIssue_of_done (uses := usesNone) rfl h hop rfl ((d.waitDone_ixwait c hop).trans (decide_eq_true hq))
        (goesOn_waitEnd here (.inr (.inl hop)))
    case ixwaitStays =>
      exact does_waitIssue_of_waiting (uses := usesNone) rfl h hop rfl ((d.waitDone_ixwait c hop).trans (decide_eq_false hq))
    case halt =>
      exact does_waitIssue_of_done (uses := usesNone) rfl h hop rfl ((d.waitDone_halt c hop).trans (by rw [hcmd, hq]; rfl))
        (halts_waitEnd here hop)
    case haltStays =>
      exact does_waitIssue_of_waiting (uses := usesNone) rfl h hop rfl ((d.waitDone_halt c hop).trans
        (Bool.and_eq_false_iff.2 (hbusy.imp hnone decide_eq_false)))
    case colwait =>
      exact does_waitIssue_of_done (uses := usesRa) rfl h hop rfl ((d.waitDone_colwait c hop).trans (by simpa using hmark))
        (goesOn_waitEnd here (.inr (.inr (.inr hop))))
    case colwaitStays =>
      exact does_waitIssue_of_waiting (uses := usesRa) rfl h hop rfl ((d.waitDone_colwait c hop).trans (by simpa using hmark))
    case colgo =>
      have hopen : (!(s.dev.core c).isOpen) = true := by
        rw [← isOpen_fetched h.read, Core.isOpen_of_none hcmd]
        rfl
      exact does_waitIssue_of_done (uses := usesRa) (legal := fun _ => !(s.dev.core c).isOpen) rfl h hop hopen
        ((d.waitDone_colgo c hop).trans (by rw [hcmd]; rfl)) (marks_waitEnd here hop)
    case colgoStays =>
      exact does_waitIssue_of_waiting (uses := usesRa) (legal := fun _ => !(s.dev.core c).isOpen) rfl h hop (by simp [hopen])
        ((d.waitDone_colgo c hop).trans (hnone hcmd))
    case colgoStops =>
      exact does_issue_stops (uses := usesRa) (legal := fun _ => !(s.dev.core c).isOpen) rfl h hop (by simp [hopen])
    case waitmt =>
      have hwaitmt {post : Dev → Prop} := does_issue (i := .waitmt c ecc) (uses := usesRa) (post := post) rfl h hop rfl
      intro t
      refine ⟨fun hlate => hwaitmt ?_, fun hnow => hwaitmt ?_, fun hlater => hwaitmt ?_⟩
      · obtain ⟨honly, hbit, hcnt⟩ := lateWait_spec d c
        have hend := coreRegs_nextPc (c := c) honly
        rw [roundTarget_eq, if_pos hlate]
        exact ⟨⟨hend.frame, hend.cores⟩, hend.core, hbit, hcnt⟩
      · rw [roundTarget_eq, if_neg (hnow ▸ Nat.lt_irrefl d.mt), if_pos hnow]
        exact ⟨onlyCore_modCore d c _, Dev.core_modCore_same d c _⟩
      · rw [roundTarget_eq, if_neg (Nat.lt_asymm hlater), if_neg (Nat.ne_of_lt hlater)]
        exact stays_trace d c _ _ _ _
  case waiting =>
    intro d k ra hon hwait hw
    have hmet {post : Dev → Prop} (op : Nat) (hne : op ≠ 0x2C) (hop : wOp w = op) (hdone : d.waitDone c w = true)
        (hp : ∀ q n x, TracedOnly c q n s.dev x → post (x.waitEnd c w)) : Does (.waitConditionMet c) s post :=
      does_waitConditionMet hon hwait hw (hop ▸ hne) hdone hp
    refine ⟨fun hop ht => does_waitmtTrigger hon hwait hw hop ht,
      fun hop hcmd => hmet _ (by decide) hop ?lwait fun _ _ _ hx => goesOn_waitEnd hx (.inl hop),
      fun hop hev => ⟨hmet _ (by decide) hop ?waitev fun _ _ _ hx => goesOn_waitEnd hx (.inr (.inr (.inl hop))),
        hmet _ (by decide) hop ?waitev fun _ _ _ hx n hn => event_waitEnd hx hop hn⟩,
      fun hop hq => hmet _ (by decide) hop ?ixwait fun _ _ _ hx => goesOn_waitEnd hx (.inr (.inl hop)),
      fun hop hmark => hmet _ (by decide) hop ?colwait fun _ _ _ hx => goesOn_waitEnd hx (.inr (.inr (.inr hop))),
      fun hop hcmd => hmet _ (by decide) hop ?colgo fun _ _ _ hx => marks_waitEnd hx hop,
      fun hop hcmd hq => hmet _ (by decide) hop ?halt fun _ _ _ hx => halts_waitEnd hx hop, fun hwaiting hlim => ?timeout⟩
    case lwait => rw [d.waitDone_lwait c hop, hcmd]; rfl
    case waitev => rw [d.waitDone_waitev c hop, hev]
    case ixwait => rw [d.waitDone_ixwait c hop, hq]; rfl
    case colwait => rw [d.waitDone_colwait c hop]; simpa using hmark
    case colgo => rw [d.waitDone_colgo c hop, hcmd]; rfl
    case halt => rw [d.waitDone_halt c hop, hcmd, hq]; rfl
    case timeout =>
      obtain ⟨hop, hcmd⟩ | ⟨hop, hev⟩ | ⟨hop, hq⟩ := hwaiting
      · exact does_seqWaitTimeout hon hwait hw (.inl hop) (by rw [d.waitDone_lwait c hop]; simpa [Option.ne_none_iff_isSome] using hcmd) hlim
      · exact does_seqWaitTimeout hon hwait hw (.inr (.inl hop)) (by rw [d.waitDone_waitev c hop, hev]) hlim
      · exact does_seqWaitTimeout hon hwait hw (.inr (.inr hop)) (by rw [d.waitDone_ixwait c hop]; exact decide_eq_false hq) hlim

end Sys2Proof.Machine

/-! ## A STOP leaves every core that does not run (R152, R362)

Its quiesce requests change a core only in RUN and in WAIT. -/

namespace Sys2Proof.Machine

variable {d e f : Dev} {c : Nat}

/-- Core `c` is as before, but where it was in RUN or WAIT. -/
def KeepsStill (c : Nat) (d e : Dev) : Prop := (d.core c).seq ≠ .run → (d.core c).seq ≠ .wait → e.core c = d.core c

theorem KeepsStill.of_cores (h : e.cores = d.cores) : KeepsStill c d e := fun _ _ => congrArg (mget Core.reset · c) h

theorem KeepsStill.trans (h : KeepsStill c d e) (h' : KeepsStill c e f) : KeepsStill c d f := fun hrun hwait =>
  (h' (by rwa [h hrun hwait]) (by rwa [h hrun hwait])).trans (h hrun hwait)

theorem KeepsStill.foldl {α : Type} {step : Dev → α → Dev} {xs : List α} (h : ∀ d, ∀ x ∈ xs, KeepsStill c d (step d x)) :
    KeepsStill c d (xs.foldl step d) := by
  induction xs generalizing d with
  | nil => exact .of_cores rfl
  | cons x xs ih => exact (h d x List.mem_cons_self).trans (ih fun d y hy => h d y (List.mem_cons_of_mem _ hy))

theorem Dev.writeResume_cores (d : Dev) (c : Nat) : (d.writeResume c).cores = d.cores := (Dev.setClm_frame d _ _ _).1

theorem keepsStill_quiesceCore (d : Dev) (c j : Nat) : KeepsStill c d (d.quiesceCore j) := by
  intro hrun hwait
  have hstop (hseq : (d.core j).seq = .run ∨ (d.core j).seq = .wait) (k : Core) :
      ((d.setBit (Reg.CORE_SEQ_CTRL.QREQ j) true).setCore j k).core c = d.core c := by
    refine Dev.core_setCore_other (d.setBit _ true) k fun hcj => ?_
    rw [← hcj] at hseq
    exact hseq.elim hrun hwait
  unfold Dev.quiesceCore
  dsimp only
  split
  · exact congrArg (mget Core.reset · c) (d.writeResume_cores j)
  · exact congrArg (mget Core.reset · c) (d.writeResume_cores j)
  · exact congrArg (mget Core.reset · c) (d.writeResume_cores j)
  · rfl
  · rfl
  · rfl
  · next hseq => exact hstop (.inl hseq) _
  · next hseq => exact hstop (.inr hseq) _

theorem Dev.roundDrop_cores (d : Dev) : d.roundDrop.cores = d.cores := by
  unfold Dev.roundDrop
  dsimp only
  split <;> rfl

theorem Dev.flood_cores (d : Dev) (n : Notice) (arrival : Option Nat) : (d.flood n arrival).cores = d.cores := by
  have hwalk (ls : List Nat) (step : Dev → Nat → Dev) (hstep : ∀ d l, (step d l).cores = d.cores) (d : Dev) :
      (ls.foldl step d).cores = d.cores := by
    induction ls generalizing d with
    | nil => rfl
    | cons l ls ih => exact (ih _).trans (hstep d l)
  refine hwalk _ _ (fun d l => ?_) d
  split <;> rfl

theorem keepsStill_enterStopped (d : Dev) (c : Nat) (ev : Ev) : KeepsStill c d (d.enterStopped ev) := by
  unfold Dev.enterStopped
  dsimp only
  have hwake : KeepsStill c d (if d.gliding then d.wake else d) := .of_cores (by split <;> rfl)
  have hdrop (d : Dev) : KeepsStill c d d.roundDrop.colStop := .of_cores d.roundDrop_cores
  have hcores := (hwake.trans (hdrop _)).trans (KeepsStill.foldl (xs := List.range 64) (step := fun d c => d.quiesceCore c)
    fun d j _ => keepsStill_quiesceCore d c j)
  generalize List.foldl _ _ (List.range 64) = x at hcores ⊢
  exact hcores.trans (.of_cores (reported_log_fltMsix ((x.set Reg.FLT_STATUS.HL hlStopped).setBit Reg.FLT_ERR.STOP true) ev).cores)

/-- A job-fatal fault leaves a core that neither runs nor waits. -/
theorem core_raise_jobFatal {ev : Ev} (h : faultClass ev.code = 4) (hrun : (d.core c).seq ≠ .run) (hwait : (d.core c).seq ≠ .wait) :
    (d.raise ev).core c = d.core c := by
  have hraise : d.raise ev = (d.logOpen ev).2.stopJob ev := by simp only [Dev.raise, h]
  have hlog : KeepsStill c d (d.logOpen ev).2 := .of_cores (reported_logOpen d ev).cores
  have hstop (d : Dev) : KeepsStill c d (d.stopJob ev) := by
    unfold Dev.stopJob
    split
    · exact .of_cores rfl
    · dsimp only
      generalize hx : Dev.flood _ none _ = x
      have hflood : KeepsStill c d x := .of_cores (by rw [← hx, Dev.flood_cores])
      exact hflood.trans (keepsStill_enterStopped x c _)
  rw [hraise]
  exact (hlog.trans (hstop _)) hrun hwait

/-- A job-fatal fault on a core at rest: the core stays, the job is stopped, and the error flags of the core stay. -/
theorem raise_jobFatal_at_rest {ev : Ev} (h : faultClass ev.code = 4) (hrun : (d.core c).seq ≠ .run) (hwait : (d.core c).seq ≠ .wait) :
    (d.raise ev).core c = d.core c ∧ (d.raise ev).get Reg.FLT_STATUS.HL = hlStopped ∧
      ∀ g : Fld, g.isErr c → (d.raise ev).bit g = d.bit g := by
  obtain ⟨hspares, hstops⟩ := raise_jobFatal_spares_and_stops d c h
  exact ⟨core_raise_jobFatal h hrun hwait, hstops, fun g hg => Dev.bit_congr (hspares.fields g hg.not_stopField)⟩

end Sys2Proof.Machine

/-! ## Starting a core, its check, and instruction memory writes (O15) -/

namespace Sys2Proof.Machine

variable {s : State} {d : Dev} {c : Nat} {k : Core}

theorem onlyCore_setCore (d : Dev) (c : Nat) (k : Core) : onlyCore c d (d.setCore c k) := ⟨rfl, fun _ hj => Dev.core_setCore_other d k hj⟩

theorem onlyRegs_and_bit_setBit (d : Dev) (f : Fld) (h : 0 < f.width) : onlyRegs [f] d (d.setBit f true) ∧ (d.setBit f true).bit f = true :=
  ⟨onlyRegs_setBit d true (List.mem_singleton_self f), Dev.bit_setBit_same d true h⟩

/-! ### The start request (R130) -/

theorem Dev.startReq_of_stopped (h : (d.core c).seq = .idle ∨ (d.core c).seq = .halted ∨ (d.core c).seq = .quiesced) :
    d.startReq c = d.setCore c { d.core c with prev := (d.core c).seq, seq := .loadchk } := if_pos h

theorem Dev.startReq_of_not_stopped (h : ¬((d.core c).seq = .idle ∨ (d.core c).seq = .halted ∨ (d.core c).seq = .quiesced)) :
    d.startReq c = d.setBit (Reg.CORE_SEQ_ERR.START_REJ c) true := if_neg h

/-! ### Writes of instruction memory (R128) -/

theorem Core.imem_setImem (k : Core) (bank : Bool) (w v : Nat) (b : Bool) (j : Nat) :
    (k.setImem bank w v).imem b j = if b = bank ∧ j = w then v % 2 ^ 64 else k.imem b j := by
  cases bank <;> cases b <;> simp [Core.imem, Core.setImem, mget_mset]

theorem Core.setImem_frame (k : Core) (bank : Bool) (w v : Nat) : k.setImem bank w v =
    { k with imem0 := (k.setImem bank w v).imem0, imem1 := (k.setImem bank w v).imem1, imemEcc := (k.setImem bank w v).imemEcc } := by
  cases bank <;> rfl

/-- The word with one half written. -/
def halfWritten (old : Nat) (hi : Bool) (v : Nat) : Nat :=
  if hi then old % 2 ^ 32 + 2 ^ 32 * (v % 2 ^ 32) else old / 2 ^ 32 * 2 ^ 32 + v % 2 ^ 32

theorem Dev.imemWrite_of_inactive {bank : Bool} (hbank : bank ≠ (d.core c).bank) (hseq : (d.core c).seq ≠ .loadchk) (w : Nat) (hi : Bool)
    (v : Nat) : d.imemWrite c bank w hi v = d.setCore c ((d.core c).setImem bank w (halfWritten ((d.core c).imem bank w) hi v)) := by
  unfold Dev.imemWrite
  dsimp only
  rw [if_neg (by simp [hbank, hseq])]
  rfl

theorem Dev.imemWrite_of_busy {bank : Bool} (h : bank = (d.core c).bank ∨ (d.core c).seq = .loadchk) (w : Nat) (hi : Bool) (v : Nat) :
    d.imemWrite c bank w hi v = d.setBit (Reg.CORE_SEQ_ERR.IMEM_BUSY c) true := by
  unfold Dev.imemWrite
  dsimp only
  rw [if_pos (by simpa using h)]

/-! ### The start check (R129, R130) -/

/-- Errors that have arisen in the words change nothing but their marks. -/
theorem Core.bankUpsets_eq (errs : List (BitVec 12 × WordEcc)) (k : Core) :
    k.bankUpsets errs = { k with imemEcc := (k.bankUpsets errs).imemEcc } := by
  induction errs generalizing k with
  | nil => rfl
  | cons e es ih => exact ih (k.imemUpset (!k.bank) e.1.toNat e.2)

theorem Dev.lateQuiesce_of_none (h : d.bit (Reg.CORE_SEQ_CTRL.QREQ c) = false) : d.lateQuiesce c = d := if_neg (by simp [h])

/-- The registers that show what occupies the arrays. -/
theorem onlyRegs_mxaShow (d : Dev) (c : Nat) : onlyRegs [Reg.CORE_MXA_STATUS.BUSY c, Reg.CORE_MXA_STATUS.ACTIVE c] d (d.mxaShow c) :=
  (onlyRegs_setBit d _ (by simp)).trans (onlyRegs_set _ _ (by simp))

/-- The register fields that a passed start check may change. -/
def startFields (c : Nat) : List Fld :=
  [Reg.CORE_SEQ_TRACE_DROP.COUNT c, Reg.CORE_MXA_STATUS.BUSY c, Reg.CORE_MXA_STATUS.ACTIVE c, Reg.CORE_MXA_STATUS.KEPT c]

theorem qreq_not_startField (c : Nat) : ∀ f ∈ startFields c, (Reg.CORE_SEQ_CTRL.QREQ c).key ≠ f.key := by
  simp only [startFields, List.forall_mem_cons, Fld.key, Reg.CORE_SEQ_TRACE_DROP.COUNT, Reg.CORE_MXA_STATUS.BUSY, Reg.CORE_MXA_STATUS.ACTIVE,
    Reg.CORE_MXA_STATUS.KEPT, Reg.CORE_SEQ_CTRL.QREQ]
  refine ⟨?_, ?_, ?_, ?_, fun _ h => absurd h List.not_mem_nil⟩ <;> omega

theorem coreRegs_startUp (hreq : d.bit (Reg.CORE_SEQ_CTRL.QREQ c) = false) (k : Core) :
    ∃ q n, CoreRegs c (startFields c) (k.startRun.traced q n) d (d.startUp c k) := by
  have hswap : CoreRegs c (startFields c) k.startRun d (d.setCore c k.startRun) :=
    ⟨rfl, (onlyCore_setCore d c _).2, Dev.core_setCore_same d c _, .refl⟩
  have hshow (d : Dev) : onlyRegs (startFields c) d
      (if (k.cmd.map fun m => recUseMxa m.record).getD false then (d.mxaShow c).setBit (Reg.CORE_MXA_STATUS.KEPT c) false else d) :=
    onlyRegs_ite (((onlyRegs_mxaShow d c).mono (by simp [startFields])).trans (onlyRegs_setBit _ _ (by simp [startFields]))) .refl
  have hend (x : Dev) (hx : CoreRegs c (startFields c) k.startRun d x) :
      ∃ q n, CoreRegs c (startFields c) (k.startRun.traced q n) d ((x.trace c 12 0 (k.progId (!k.bank)) 1).lateQuiesce c) := by
    obtain ⟨q, n, htrace⟩ := coreRegs_trace x c 12 0 (k.progId (!k.bank)) 1
    rw [hx.core] at htrace
    have hall := hx.trans (htrace.mono (by simp [startFields]))
    rw [Dev.lateQuiesce_of_none ((Dev.bit_congr (hall.regs _ (qreq_not_startField c))).trans hreq)]
    exact ⟨q, n, hall⟩
  exact hend _ (hswap.thenRegs (hshow _))

section
variable {c : CoreId} {errs : List (BitVec 12 × WordEcc)} (hon : s.dev.coreOn = true) (hseq : (s.dev.core c).seq = .loadchk)
include hon hseq

/-- A check that passes runs the core. -/
theorem does_loadchkDone_of_good {post : Dev → Prop} (hok : ((s.dev.core c).bankUpsets errs).bankOk (!(s.dev.core c).bank) = true)
    (hp : post (s.dev.startUp c ((s.dev.core c).bankUpsets errs))) : Does (.loadchkDone c errs) s post := by
  have hk := Core.bankUpsets_eq errs (s.dev.core c)
  refine ⟨_, rfl, ?_⟩
  dsimp only
  generalize (s.dev.core c).bankUpsets errs = kb at hk hok hp ⊢
  have hbank : kb.bank = (s.dev.core c).bank := (congrArg Core.bank hk :)
  have hcheck : kb.seq = .loadchk := (congrArg Core.seq hk :).trans hseq
  rw [if_neg (by simp [hon, hcheck]), hbank, if_pos hok]
  exact hp

/-- A check that fails returns the core to its earlier state and stops the job (R129, R130). -/
theorem does_loadchkDone_of_bad (hreq : s.dev.bit (Reg.CORE_SEQ_CTRL.QREQ c) = false)
    (hbad : ((s.dev.core c).bankUpsets errs).bankOk (!(s.dev.core c).bank) = false)
    (hrun : (s.dev.core c).prev ≠ .run) (hwait : (s.dev.core c).prev ≠ .wait) : Does (.loadchkDone c errs) s fun e =>
      (e.core c).seq = (s.dev.core c).prev ∧ (e.core c).bank = (s.dev.core c).bank ∧ e.bit (Reg.CORE_SEQ_ERR.START_FAIL c) = true ∧
        e.get Reg.FLT_STATUS.HL = hlStopped := by
  have hk := Core.bankUpsets_eq errs (s.dev.core c)
  refine ⟨_, rfl, ?_⟩
  dsimp only
  generalize (s.dev.core c).bankUpsets errs = kb at hk hbad ⊢
  have hbank : kb.bank = (s.dev.core c).bank := (congrArg Core.bank hk :)
  have hprev : kb.prev = (s.dev.core c).prev := (congrArg Core.prev hk :)
  have hcheck : kb.seq = .loadchk := (congrArg Core.seq hk :).trans hseq
  rw [if_neg (by simp [hon, hcheck]), if_neg (by simp [hbank, hbad])]
  generalize hx : (s.dev.setCore c { kb with seq := kb.prev }).setBit (Reg.CORE_SEQ_ERR.START_FAIL c) true = x
  have hcore : x.core c = { kb with seq := kb.prev } := by rw [← hx, Dev.setBit_core', Dev.core_setCore_same]
  have hflag : x.bit (Reg.CORE_SEQ_ERR.START_FAIL c) = true := hx ▸ Dev.bit_setBit_same _ true Nat.one_pos
  have hkey : (Reg.CORE_SEQ_CTRL.QREQ c).key ≠ (Reg.CORE_SEQ_ERR.START_FAIL c).key := by
    simp only [Fld.key, Reg.CORE_SEQ_CTRL.QREQ, Reg.CORE_SEQ_ERR.START_FAIL]
    omega
  have hquiet : x.bit (Reg.CORE_SEQ_CTRL.QREQ c) = false := hx ▸ (Dev.bit_setBit_other _ true hkey).trans hreq
  rw [Dev.lateQuiesce_of_none hquiet]
  obtain ⟨hkept, hstops, hflags⟩ := raise_jobFatal_at_rest (d := x) (c := c)
    (ev := { code := Flt.SEQ_IMEM_CRC, source := c, tag := (x.core c).tagNow }) (show faultClass Flt.SEQ_IMEM_CRC = 4 by decide)
    (by rw [hcore]; exact hprev ▸ hrun) (by rw [hcore]; exact hprev ▸ hwait)
  have hend := hkept.trans hcore
  exact ⟨(congrArg Core.seq hend).trans hprev, (congrArg Core.bank hend).trans hbank,
    (hflags _ ⟨.inl rfl, show 2 < 32 by decide⟩).trans hflag, hstops⟩

end

/-! ### The statement -/

/-- Settles O15: the request by its two cases, the writes by `Core.imem_setImem`, the check by `coreRegs_startUp` and
`does_loadchkDone_of_bad`. -/
theorem startAndImem : Obligations.StartAndImem := by
  intro s c r d k
  refine ⟨fun hawake => ⟨fun hstopped => ?start, fun hnot => ?reject, fun bank word hi v => ⟨fun hbank hseq => ?write, fun hbusy => ?busy⟩⟩,
    fun errs hon hseq hreq => ⟨fun hok => ?passed, fun hbad hprev => ?failed⟩⟩
  case start => exact does_coreWrite rfl hawake (Dev.startReq_of_stopped hstopped ▸ ⟨onlyCore_setCore d c _, Dev.core_setCore_same d c _⟩)
  case reject => exact does_coreWrite rfl hawake (Dev.startReq_of_not_stopped hnot ▸ onlyRegs_and_bit_setBit d _ Nat.one_pos)
  case busy => exact does_coreWrite rfl hawake (Dev.imemWrite_of_busy hbusy _ _ _ ▸ onlyRegs_and_bit_setBit d _ Nat.one_pos)
  case write =>
    have hv : v.toNat < 2 ^ 32 := v.isLt
    refine does_coreWrite rfl hawake (Dev.imemWrite_of_inactive hbank hseq word.toNat hi v.toNat ▸ ?_)
    rw [Dev.core_setCore_same]
    simp only [k]
    refine ⟨onlyCore_setCore d c _, Core.setImem_frame _ _ _ _, fun j hj => ?_, fun j => ?_, fun hhi => ?_, fun hlo => ?_⟩
    · rw [Core.imem_setImem, if_neg fun h => hj h.2]
    · rw [Core.imem_setImem, if_neg fun h => hbank h.1.symm]
    · rw [Core.imem_setImem, if_pos ⟨rfl, rfl⟩, halfWritten, if_pos hhi]
      omega
    · rw [Core.imem_setImem, if_pos ⟨rfl, rfl⟩, halfWritten, if_neg (by simp [hlo])]
      omega
  case passed =>
    obtain ⟨q, n, hup⟩ := coreRegs_startUp (c := c) hreq (k.bankUpsets errs)
    have hk := Core.bankUpsets_eq errs k
    have hcore := hup.core
    refine does_loadchkDone_of_good hon hseq hok ⟨hup.cores, hup.mem, ?_, (congrArg Core.pc hcore :), (congrArg Core.seq hcore :),
      (congrArg Core.cmd hcore :), (congrArg Core.ixq hcore :), fun n => ?_, hup.regs⟩
    · rw [hcore, hk]
      rfl
    · rw [hcore, hk]
      rfl
  case failed =>
    have hrest : k.prev ≠ .run ∧ k.prev ≠ .wait := by
      obtain h | h | h := hprev <;> rw [h] <;> exact ⟨nofun, nofun⟩
    exact does_loadchkDone_of_bad hon hseq hreq hbad hrest.1 hrest.2

end Sys2Proof.Machine

/-! ## A core and its CLM

The frame of the layer commands: one core is at a given value, some register fields and no others differ, and of memory some bytes. -/

namespace Sys2Proof.Machine

variable {d e f : Dev} {c p n : Nat} {fs gs : List Fld} {k k' : Core}

/-- Of the cores only core `c` differs, now at `k`; of the registers only fields among `fs`; of memory only the `n` bytes at place `p`. -/
structure Touches (c : Nat) (fs : List Fld) (p n : Nat) (k : Core) (d e : Dev) : Prop where
  cores : coresBut c d e
  core : e.core c = k
  regs : regsBut fs d e
  bytes : bytesBut p n d e

theorem CoreRegs.touches (h : CoreRegs c fs k d e) (p n : Nat) : Touches c fs p n k d e := ⟨h.cores, h.core, h.regs, fun a _ => h.byte a⟩

namespace Touches

theorem trans (h : Touches c fs p n k d e) (h' : Touches c fs p n k' e f) : Touches c fs p n k' d f where
  cores j hj := (h'.cores j hj).trans (h.cores j hj)
  core := h'.core
  regs := h.regs.trans h'.regs
  bytes a ha := (h'.bytes a ha).trans (h.bytes a ha)

theorem thenCoreRegs (h : Touches c fs p n k d e) (h' : CoreRegs c fs k' e f) : Touches c fs p n k' d f := h.trans (h'.touches p n)

/-- Then bytes of the core's CLM are written. -/
theorem setClm (h : Touches c fs p n k d e) {off : Nat} {bs : List Byte} (hlo : p ≤ clmPlace c off) (hhi : clmPlace c off + bs.length ≤ p + n) :
    Touches c fs p n k d (e.setClm c off bs) := by
  obtain ⟨hframe, hbytes⟩ := wroteAt_setClm e c off bs
  have hcores (j : Nat) : (e.setClm c off bs).core j = e.core j := by rw [hframe]; rfl
  refine h.trans ⟨fun j _ => hcores j, (hcores c).trans h.core, fun g _ => ?_, fun a ha => hbytes a (by omega)⟩
  rw [hframe]
  rfl

end Touches

theorem clmPlace_add (c off j : Nat) : clmPlace c (off + j) = clmPlace c off + j := (Nat.add_assoc _ _ _).symm

/-! ### The completion area (R139, R142) -/

theorem Dev.cmpStatus_of_backed (d : Dev) (c : Nat) {off : Nat} (h : off + 256 ≤ clmSize) (status : Nat) (kept : Bool) (code : Nat) :
    d.cmpStatus c off status kept code =
      d.setClm c (off + 0xE8) (leBytes 4 (status + (if kept then 256 else 0) + 65536 * code)) := if_pos h

theorem Touches.cmpStatus (h : Touches c fs (clmPlace c (p + 0xE8)) n k d e) (hn : 4 ≤ n) (hp : p + 256 ≤ clmSize)
    (status : Nat) (kept : Bool) (code : Nat) : Touches c fs (clmPlace c (p + 0xE8)) n k d (e.cmpStatus c p status kept code) := by
  rw [Dev.cmpStatus_of_backed e c hp]
  exact h.setClm (Nat.le_refl _) (by simpa using hn)

theorem Touches.cmpArea {m : LayerCmd} (h : Touches c fs (clmPlace c (m.recOff + 0xE8)) 24 k d e) :
    Touches c fs (clmPlace c (m.recOff + 0xE8)) 24 k d (e.cmpArea c m) := by
  have hplace : clmPlace c (m.recOff + 0xEC) = clmPlace c (m.recOff + 0xE8) + 4 := clmPlace_add c (m.recOff + 0xE8) 4
  refine h.setClm ?_ ?_
  · rw [hplace]
    exact Nat.le_add_right _ _
  · rw [hplace]
    simp

/-- The bytes of the status word. -/
theorem byte_cmpStatus (d : Dev) (c : Nat) {off : Nat} (h : off + 256 ≤ clmSize) (status : Nat) (kept : Bool) (code : Nat) {j : Nat} (hj : j < 4) :
    (d.cmpStatus c off status kept code).byte (clmPlace c (off + 0xE8) + j) =
      BitVec.ofNat 8 ((status + (if kept then 256 else 0) + 65536 * code) / 2 ^ (8 * j)) := by
  rw [Dev.cmpStatus_of_backed d c h, byte_setClm d c _ _ (by simpa using hj), getD_leBytes 4 _ hj]

end Sys2Proof.Machine

/-! ## Layer commands from LSTART to completion (O12) -/

namespace Sys2Proof.Machine

variable {s : State} {d x : Dev} {c w off tag : Nat} {ecc : WordEcc} {r : List Byte}

/-! ### A record that opens its command (R138) -/

/-- The register fields that the opening of a command may change. -/
def openFields (c : Nat) : List Fld :=
  [Reg.CORE_SEQ_TAG.TAG c, Reg.CORE_SEQ_NFCOUNT.COUNT c, Reg.CORE_MXA_STATUS.MODE c, Reg.CORE_SEQ_TRACE_DROP.COUNT c]

/-- The vector state that a command with a vector part begins with. -/
def Core.vecBegin (r : List Byte) (k : Core) : Core :=
  let cu := (recVecCtl r).testBit 0
  if recUseVec r then { k with vl := 1024, srTid := 0, srBase := 0, srStep := 0, cu := cu, cuSwitch := if cu = k.cu then 0 else 32 } else k

/-- The command that a record opens. -/
def openedCmd (r : List Byte) (off tag step : Nat) : LayerCmd :=
  let a := arrRec r
  { record := r, recOff := off, tag := tag, step := step, isOpen := true, cycles := 0, startIn := 24, flags := 0,
    scanDue := recUseMxa r && a.isInt && a.hasMx, intAcc := recUseMxa r && a.isInt && !a.hasMx, ntile := 0, pass := 0, kchunk := 0, due := [],
    spilled := false, kept := false }

/-- The core with the command open, at the next word. -/
def Core.opened (r : List Byte) (off tag step : Nat) (k : Core) : Core :=
  { (k.vecBegin r).next with lstartWait := false, cmd := some (openedCmd r off tag step) }

theorem Core.vecBegin_pc (r : List Byte) (k : Core) : (k.vecBegin r).pc = k.pc := by
  unfold Core.vecBegin
  dsimp only
  split <;> rfl

theorem Core.vecBegin_sreg (r : List Byte) (k : Core) : (k.vecBegin r).sreg = k.sreg := by
  unfold Core.vecBegin
  dsimp only
  split <;> rfl

/-- The core with the record taken into the message of the program digest. -/
def Core.digested (r : List Byte) (k : Core) : Core := { k with progMsg := k.progMsg ++ r.take 0xE8 }

/-- What is done between the zeroed status and the open command: the trace entry and the arrays' mode. -/
def Dev.openShow (c off tag : Nat) (r : List Byte) (d : Dev) : Dev :=
  let d := d.trace c 1 tag (recField r 0x04 4) off
  if recUseMxa r then d.set (Reg.CORE_MXA_STATUS.MODE c) (arrRec r).mode else d

/-- What is done for a well-formed record before the core has the command. -/
def Dev.openPrelude (c off tag : Nat) (r : List Byte) (d : Dev) : Dev :=
  (((d.modCore c (Core.digested r)).set (Reg.CORE_SEQ_NFCOUNT.COUNT c) 0).cmpStatus c off 0 false 0).openShow c off tag r

theorem Dev.openLayer_of_ok (hok : recOk c (d.core c).chain off r = true) : d.openLayer c off tag r =
    let z := d.openPrelude c off tag r
    z.modCore c (Core.opened r off tag (z.get64 (Reg.CORE_SEQ_STEP_LO.STEP c))) := by
  unfold Dev.openLayer
  dsimp only
  rw [Dev.core_modCore_same, if_neg (by simp [hok])]
  rfl

theorem Dev.openLayer_of_malformed (hok : recOk c (d.core c).chain off r = false) : d.openLayer c off tag r =
    ((d.modCore c (Core.digested r)).cmpStatus c off 3 false Flt.LREC_MALFORMED).seqFaultTag c Flt.LREC_MALFORMED tag off := by
  unfold Dev.openLayer
  dsimp only
  rw [Dev.core_modCore_same, if_pos (by simp [hok])]
  rfl

theorem coreRegs_openShow (d : Dev) (c off tag : Nat) (r : List Byte) :
    ∃ q n, CoreRegs c [Reg.CORE_MXA_STATUS.MODE c, Reg.CORE_SEQ_TRACE_DROP.COUNT c] ((d.core c).traced q n) d (d.openShow c off tag r) := by
  obtain ⟨q, n, htrace⟩ := coreRegs_trace d c 1 tag (recField r 0x04 4) off
  exact ⟨q, n, (htrace.mono (by simp)).thenRegs (onlyRegs_ite (onlyRegs_set _ _ (by simp)) .refl)⟩

/-- The tag, the count of non-finite elements and the step number lie apart from the fields that the opening writes after them. -/
theorem openFields_apart (c : Nat) :
    let show' := [Reg.CORE_MXA_STATUS.MODE c, Reg.CORE_SEQ_TRACE_DROP.COUNT c]
    (∀ f ∈ Reg.CORE_SEQ_NFCOUNT.COUNT c :: show', (Reg.CORE_SEQ_TAG.TAG c).key ≠ f.key) ∧
      (∀ f ∈ show', (Reg.CORE_SEQ_NFCOUNT.COUNT c).key ≠ f.key) ∧
      (∀ f ∈ openFields c, (Reg.CORE_SEQ_STEP_LO.STEP c).key ≠ f.key) ∧
      ∀ f ∈ openFields c, (Reg.CORE_SEQ_STEP_LO.STEP c).hi.key ≠ f.key := by
  simp only [openFields, List.forall_mem_cons, Fld.key, Fld.hi, Reg.CORE_SEQ_TRACE_DROP.COUNT, Reg.CORE_MXA_STATUS.MODE,
    Reg.CORE_SEQ_NFCOUNT.COUNT, Reg.CORE_SEQ_TAG.TAG, Reg.CORE_SEQ_STEP_LO.STEP, List.not_mem_nil, false_imp_iff, implies_true, and_true]
  and_intros <;> omega

/-- The core's part in FAULT and the job stopped. -/
def Faulted (c : Nat) (e : Dev) : Prop :=
  (e.core c).seq = .fault ∧ (e.core c).cmd = none ∧ e.bit (Reg.CORE_SEQ_ERR.FAULT c) = true ∧ e.get Reg.FLT_STATUS.HL = hlStopped

theorem faulted_seqFaultTag (d : Dev) (c tag arg0 : Nat) {code : Nat} (h : faultClass code = 4) : Faulted c (d.seqFaultTag c code tag arg0) := by
  obtain ⟨hseq, hcmd, -, -, -, hflag, hstops⟩ := (seqFaultTag_stops d c tag arg0 h).1
  exact ⟨hseq, hcmd, hflag, hstops⟩

end Sys2Proof.Machine

namespace Sys2Proof.Machine

variable {s : State} {d e x : Dev} {c w off tag : Nat} {ecc : WordEcc} {r : List Byte}

theorem get64_congr {x : Fld} (hlo : e.get x = d.get x) (hhi : e.get x.hi = d.get x.hi) : e.get64 x = d.get64 x := by
  rw [Dev.get64, Dev.get64, hlo, hhi]

/-- The prelude zeroes the count and the status, and touches no field that holds the tag or the step number. -/
theorem touches_openPrelude (hin : off + 256 ≤ clmSize) (tag : Nat) (r : List Byte) : ∃ q n,
    Touches c (openFields c) (clmPlace c (off + 0xE8)) 4 (((d.core c).digested r).traced q n) d (d.openPrelude c off tag r) ∧
      (d.openPrelude c off tag r).get (Reg.CORE_SEQ_TAG.TAG c) = d.get (Reg.CORE_SEQ_TAG.TAG c) ∧
      (d.openPrelude c off tag r).get (Reg.CORE_SEQ_NFCOUNT.COUNT c) = 0 ∧
      ∀ j, j < 4 → (d.openPrelude c off tag r).byte (clmPlace c (off + 0xE8) + j) = 0#8 := by
  obtain ⟨htagApart, hnfApart, -⟩ := openFields_apart c
  have hmod : CoreRegs c [Reg.CORE_SEQ_NFCOUNT.COUNT c] ((d.core c).digested r) d (d.modCore c (Core.digested r)) :=
    ⟨rfl, (onlyCore_modCore d c _).2, Dev.core_modCore_same d c _, .refl⟩
  have hcount := hmod.set (Reg.CORE_SEQ_NFCOUNT.COUNT c) 0 (List.mem_singleton_self _)
  unfold Dev.openPrelude
  have hzero : ((d.modCore c (Core.digested r)).set (Reg.CORE_SEQ_NFCOUNT.COUNT c) 0).get (Reg.CORE_SEQ_NFCOUNT.COUNT c) = 0 := Dev.get_set_same _ _ _
  generalize (d.modCore c (Core.digested r)).set (Reg.CORE_SEQ_NFCOUNT.COUNT c) 0 = y at hcount hzero ⊢
  obtain ⟨hcores, hregs⟩ := cmpStatus_frame y c off 0 false 0
  have hstatus := ((hcount.mono (by simp [openFields])).touches (clmPlace c (off + 0xE8)) 4 : Touches c (openFields c) _ _ _ _ _).cmpStatus
    (Nat.le_refl 4) hin 0 false 0
  have hbytes (j : Nat) (hj : j < 4) : (y.cmpStatus c off 0 false 0).byte (clmPlace c (off + 0xE8) + j) = 0#8 :=
    (byte_cmpStatus y c hin 0 false 0 hj).trans (by simp)
  have hget (g : Fld) : (y.cmpStatus c off 0 false 0).get g = y.get g := by
    rw [Dev.get, hregs]
    rfl
  obtain ⟨q, n, hshow⟩ := coreRegs_openShow (y.cmpStatus c off 0 false 0) c off tag r
  rw [hstatus.core] at hshow
  refine ⟨q, n, hstatus.thenCoreRegs (hshow.mono (by simp [openFields])), ?_, ?_, fun j hj => (hshow.byte _).trans (hbytes j hj)⟩
  · rw [hshow.regs _ fun f hf => htagApart f (List.mem_cons_of_mem _ hf), hget,
      hcount.regs _ fun f hf => htagApart f (List.mem_singleton.1 hf ▸ List.mem_cons_self)]
  · rw [hshow.regs _ hnfApart, hget, hzero]

/-- The core's program number and the word's give a tag of 32 bits. -/
theorem tag_lt (k : Core) (b : Bool) (w : Nat) : k.progId b * 2 ^ 20 + w % 2 ^ 20 < 2 ^ 32 := by
  have : k.progId b < 4096 := Nat.mod_lt _ (by decide)
  omega

theorem Dev.clmUe_of_clean {n : Nat} (h : d.sramMark (clmPlace c off) n = 0) : d.clmUe c off n = false := by simp [Dev.clmUe, h]

theorem Dev.clmCorrected_of_clean {n : Nat} (h : d.sramMark (clmPlace c off) n = 0) : d.clmCorrected c off n = d := by
  simp [Dev.clmCorrected, h]

/-- The tag that LSTART gives its command. -/
def Core.tagOf (k : Core) (w : Nat) : Nat := k.progId k.bank * 2 ^ 20 + wImm w % 2 ^ 20

/-- The offset of LSTART's record. -/
def Core.recordOff (k : Core) (w : Nat) : Nat := k.s (wRa w) % 2 ^ 22

/-- LSTART's cases, after it has written the tag. -/
theorem Dev.lstartGo_eq (d : Dev) (c w : Nat) : d.lstartGo c w =
    let off := (d.core c).recordOff w
    let tag := (d.core c).tagOf w
    let y := d.set (Reg.CORE_SEQ_TAG.TAG c) tag
    if clmSize < off + 256 then y.seqFaultTag c Flt.LREC_MALFORMED tag off
    else if d.clmUe c off 256 then y.seqFaultTag c Flt.CLM_UE tag (clmAddr c off)
    else (y.clmCorrected c off 256).openLayer c off tag (d.clm c off 256) := by
  have hclm (v off : Nat) : (d.set (Reg.CORE_SEQ_TAG.TAG c) v).clm c off 256 = d.clm c off 256 := rfl
  have hue (v off : Nat) : (d.set (Reg.CORE_SEQ_TAG.TAG c) v).clmUe c off 256 = d.clmUe c off 256 := rfl
  unfold Dev.lstartGo Core.recordOff Core.tagOf
  dsimp only
  rw [hclm, hue]

/-- LSTART of a record that can be read checks it. -/
theorem Dev.lstartGo_of_clean (hin : (d.core c).recordOff w + 256 ≤ clmSize)
    (hclean : d.sramMark (clmPlace c ((d.core c).recordOff w)) 256 = 0) : d.lstartGo c w =
      (d.set (Reg.CORE_SEQ_TAG.TAG c) ((d.core c).tagOf w)).openLayer c ((d.core c).recordOff w) ((d.core c).tagOf w)
        (d.clm c ((d.core c).recordOff w) 256) := by
  have hmark (v p n : Nat) : (d.set (Reg.CORE_SEQ_TAG.TAG c) v).sramMark p n = d.sramMark p n := rfl
  rw [Dev.lstartGo_eq]
  dsimp only
  rw [if_neg (Nat.not_lt.2 hin), if_neg (by simp [Dev.clmUe_of_clean hclean]), Dev.clmCorrected_of_clean ((hmark _ _ _).trans hclean)]

/-- LSTART of a record that reaches past the CLM, cannot be read or is malformed stops the core. -/
theorem faulted_lstartGo (h : clmSize < (d.core c).recordOff w + 256 ∨ d.clmUe c ((d.core c).recordOff w) 256 = true ∨
    (d.sramMark (clmPlace c ((d.core c).recordOff w)) 256 = 0 ∧
      recOk c (d.core c).chain ((d.core c).recordOff w) (d.clm c ((d.core c).recordOff w) 256) = false)) :
    Faulted c (d.lstartGo c w) := by
  by_cases hout : clmSize < (d.core c).recordOff w + 256
  · rw [Dev.lstartGo_eq]
    dsimp only
    rw [if_pos hout]
    exact faulted_seqFaultTag _ c _ _ (by decide)
  · obtain h | hue | ⟨hclean, hbad⟩ := h
    · exact absurd h hout
    · rw [Dev.lstartGo_eq]
      dsimp only
      rw [if_neg hout, if_pos hue]
      exact faulted_seqFaultTag _ c _ _ faultClass_clmUe
    · rw [Dev.lstartGo_of_clean (Nat.not_lt.1 hout) hclean, Dev.openLayer_of_malformed (by rw [Dev.set_core']; exact hbad)]
      exact faulted_seqFaultTag _ c _ _ (by decide)

/-- What the opening of a command leaves. -/
structure Opens (c w : Nat) (d e : Dev) : Prop where
  touches : ∃ k' : Core, k'.pc = (d.core c).pc ∧ k'.sreg = (d.core c).sreg ∧
    Touches c (openFields c) (clmPlace c ((d.core c).recordOff w + 0xE8)) 4
      (k'.opened (d.clm c ((d.core c).recordOff w) 256) ((d.core c).recordOff w) ((d.core c).tagOf w)
        (d.get64 (Reg.CORE_SEQ_STEP_LO.STEP c))) d e
  tag : e.get (Reg.CORE_SEQ_TAG.TAG c) = (d.core c).tagOf w
  count : e.get (Reg.CORE_SEQ_NFCOUNT.COUNT c) = 0
  status : ∀ j, j < 4 → e.byte (clmPlace c ((d.core c).recordOff w + 0xE8) + j) = 0#8

theorem opens_lstartGo (hin : (d.core c).recordOff w + 256 ≤ clmSize)
    (hclean : d.sramMark (clmPlace c ((d.core c).recordOff w)) 256 = 0)
    (hok : recOk c (d.core c).chain ((d.core c).recordOff w) (d.clm c ((d.core c).recordOff w) 256) = true) :
    Opens c w d (d.lstartGo c w) := by
  obtain ⟨-, -, hstepApart, hstepHiApart⟩ := openFields_apart c
  rw [Dev.lstartGo_of_clean hin hclean]
  have htag := CoreRegs.of_onlyRegs (c := c) (onlyRegs_set (fs := openFields c) d ((d.core c).tagOf w)
    (show Reg.CORE_SEQ_TAG.TAG c ∈ openFields c by simp [openFields]))
  have htagRead : (d.set (Reg.CORE_SEQ_TAG.TAG c) ((d.core c).tagOf w)).get (Reg.CORE_SEQ_TAG.TAG c) = (d.core c).tagOf w :=
    (Dev.get_set_same d _ _).trans (Nat.mod_eq_of_lt (tag_lt _ _ _))
  generalize d.set (Reg.CORE_SEQ_TAG.TAG c) ((d.core c).tagOf w) = y at htag htagRead ⊢
  rw [Dev.openLayer_of_ok (by rw [htag.core]; exact hok)]
  dsimp only
  obtain ⟨q, n, hprelude, htagKept, hcount, hstatus⟩ := touches_openPrelude (d := y) (c := c) hin ((d.core c).tagOf w)
    (d.clm c ((d.core c).recordOff w) 256)
  generalize y.openPrelude c _ _ _ = z at hprelude htagKept hcount hstatus ⊢
  have hz := (htag.touches _ _).trans hprelude
  have hcore := hz.core
  rw [htag.core] at hcore
  rw [get64_congr (hz.regs _ hstepApart) (hz.regs _ hstepHiApart)]
  have hcoreMod (g : Core → Core) : CoreRegs c (openFields c) (g (z.core c)) z (z.modCore c g) :=
    (CoreRegs.of_onlyRegs (onlyRegs.refl)).modCore g
  exact ⟨⟨z.core c, (congrArg Core.pc hcore :), (congrArg Core.sreg hcore :), hz.thenCoreRegs (hcoreMod _)⟩,
    htagKept.trans htagRead, hcount, hstatus⟩

theorem Opens.core (h : Opens c w d e) :
    (e.core c).pc = ((d.core c).pc + 1) % 4096 ∧ (e.core c).lstartWait = false ∧
      (e.core c).cmd = some (openedCmd (d.clm c ((d.core c).recordOff w) 256) ((d.core c).recordOff w) ((d.core c).tagOf w)
        (d.get64 (Reg.CORE_SEQ_STEP_LO.STEP c))) ∧
      (recUseVec (d.clm c ((d.core c).recordOff w) 256) = true → (e.core c).vl = 1024) ∧ ∀ n, (e.core c).s n = (d.core c).s n := by
  obtain ⟨k', hpc, hsreg, htouches⟩ := h.touches
  have hcore := htouches.core
  generalize d.clm c ((d.core c).recordOff w) 256 = r at hcore ⊢
  refine ⟨?_, (congrArg Core.lstartWait hcore :), (congrArg Core.cmd hcore :), fun hvec => ?_, fun n => ?_⟩
  · rw [hcore, ← hpc, ← Core.vecBegin_pc r k']
    rfl
  · rw [hcore]
    simp [Core.opened, Core.next, Core.vecBegin, hvec]
  · have hregs : (e.core c).sreg = (d.core c).sreg := by
      rw [hcore, ← hsreg, ← Core.vecBegin_sreg r k']
      rfl
    simp [Core.s, hregs]

/-! ### Completion (R142) -/

/-- The core after its command has completed. -/
def Core.completed (m : LayerCmd) (k : Core) : Core :=
  { k with cmd := none, tileOwed := false, wActive := none, wShadow := none, chain := if recUseMxa m.record then some (chainOf m) else k.chain }

/-- What is shown once the command is gone. -/
def Dev.completeShow (c : Nat) (m : LayerCmd) (d : Dev) : Dev :=
  if recUseMxa m.record then (d.mxaShow c).setBit (Reg.CORE_MXA_STATUS.KEPT c) (recUseMxa m.record && !(arrRec m.record).writeOut) else d

theorem Dev.complete_eq (d : Dev) (c : Nat) (m : LayerCmd) : d.complete c m =
    let kept := recUseMxa m.record && !(arrRec m.record).writeOut
    let y := ((d.cmpArea c m).cmpStatus c m.recOff 1 kept 0).setEvent c (recEvtDone m.record)
    ((y.trace c 2 m.tag (1 + (if kept then 256 else 0))
      (min m.cycles 0xFFFFFFFF + 2 ^ 32 * d.get (Reg.CORE_SEQ_NFCOUNT.COUNT c))).modCore c (Core.completed m)).completeShow c m := rfl

/-- The array registers of a core that a completion may change lie apart from its events. -/
theorem eventFld_key_ne_startField (c n : Nat) : ∀ f ∈ startFields c, (eventFld c n).key ≠ f.key := by
  have hkeys : ∀ g ∈ evtFields c, ∀ f ∈ startFields c, g.key ≠ f.key := by
    simp only [startFields, evtFields, List.forall_mem_cons, Fld.key, Reg.CORE_SEQ_TRACE_DROP.COUNT, Reg.CORE_MXA_STATUS.BUSY,
      Reg.CORE_MXA_STATUS.ACTIVE, Reg.CORE_MXA_STATUS.KEPT, Reg.CORE_SEQ_EVT_LO.EVT, Reg.CORE_SEQ_EVT_HI.EVT, List.not_mem_nil,
      false_imp_iff, implies_true, and_true]
    and_intros <;> omega
  exact hkeys _ (eventFld_mem c n)

theorem onlyRegs_completeShow (d : Dev) (c : Nat) (m : LayerCmd) : onlyRegs (startFields c) d (d.completeShow c m) :=
  onlyRegs_ite (((onlyRegs_mxaShow d c).mono (by simp [startFields])).trans (onlyRegs_setBit _ _ (by simp [startFields]))) .refl

/-- The status registers after an array command has completed (R95, R103). -/
theorem mxaStatus_completeShow (m : LayerCmd) (hcmd : (d.core c).cmd = none) (hmxa : recUseMxa m.record = true) :
    (d.completeShow c m).bit (Reg.CORE_MXA_STATUS.BUSY c) = false ∧
      (d.completeShow c m).bit (Reg.CORE_MXA_STATUS.KEPT c) = !(arrRec m.record).writeOut := by
  have hidle : (d.core c).occupies = false := by simp [Core.occupies, hcmd]
  have hkept : (Reg.CORE_MXA_STATUS.BUSY c).key ≠ (Reg.CORE_MXA_STATUS.KEPT c).key := by
    simp only [Fld.key, Reg.CORE_MXA_STATUS.BUSY, Reg.CORE_MXA_STATUS.KEPT]
    omega
  have hactive : (Reg.CORE_MXA_STATUS.BUSY c).key ≠ (Reg.CORE_MXA_STATUS.ACTIVE c).key := by
    simp only [Fld.key, Reg.CORE_MXA_STATUS.BUSY, Reg.CORE_MXA_STATUS.ACTIVE]
    omega
  rw [Dev.completeShow, if_pos hmxa, hmxa, Bool.true_and, Dev.mxaShow, hidle]
  refine ⟨?_, Dev.bit_setBit_same _ _ Nat.one_pos⟩
  rw [Dev.bit_setBit_other _ _ hkept, Dev.bit_set_other _ _ hactive, Dev.bit_setBit_same _ _ Nat.one_pos]

/-- The fields that the completion of a command may change. -/
def completeFields (c : Nat) : List Fld := evtFields c ++ startFields c

section
variable {m : LayerCmd} (hin : m.recOff + 256 ≤ clmSize)
include hin

/-- What completion leaves of the core, its registers and the completion area. -/
theorem touches_complete (d : Dev) (c : Nat) : ∃ q n, Touches c (completeFields c) (clmPlace c (m.recOff + 0xE8)) 24
      (((d.core c).traced q n).completed m) d (d.complete c m) ∧
      (recUseMxa m.record = true → (d.complete c m).bit (Reg.CORE_MXA_STATUS.BUSY c) = false ∧
        (d.complete c m).bit (Reg.CORE_MXA_STATUS.KEPT c) = !(arrRec m.record).writeOut) ∧
      (d.complete c m).byte (clmPlace c (m.recOff + 0xE8)) = 1#8 ∧
      (recEvtDone m.record < 64 → (d.complete c m).event c (recEvtDone m.record) = true) := by
  rw [Dev.complete_eq]
  dsimp only
  generalize (recUseMxa m.record && !(arrRec m.record).writeOut) = kept
  have hhere : Touches c (completeFields c) (clmPlace c (m.recOff + 0xE8)) 24 (d.core c) d d :=
    (CoreRegs.of_onlyRegs .refl).touches _ _
  have hstatus := hhere.cmpArea.cmpStatus (by decide) hin 1 kept 0
  have hbyte : ((d.cmpArea c m).cmpStatus c m.recOff 1 kept 0).byte (clmPlace c (m.recOff + 0xE8)) = 1#8 :=
    (byte_cmpStatus (d.cmpArea c m) c hin 1 kept 0 (j := 0) (by decide)).trans (by cases kept <;> rfl)
  generalize (d.cmpArea c m).cmpStatus c m.recOff 1 kept 0 = x at hstatus hbyte ⊢
  have hset := CoreRegs.of_onlyRegs (c := c) (onlyRegs_setEvent x c (recEvtDone m.record))
  have hevent (hev : recEvtDone m.record < 64) : (x.setEvent c (recEvtDone m.record)).event c (recEvtDone m.record) = true := by
    rw [event_setEvent x c _ hev]
    simp
  generalize x.setEvent c (recEvtDone m.record) = y at hset hevent ⊢
  obtain ⟨q, n, htrace⟩ := coreRegs_trace y c 2 m.tag (1 + (if kept then 256 else 0))
    (min m.cycles 0xFFFFFFFF + 2 ^ 32 * d.get (Reg.CORE_SEQ_NFCOUNT.COUNT c))
  rw [hset.core, hstatus.core] at htrace
  have hshown := ((htrace.mono (by simp [startFields] : _ ⊆ startFields c)).modCore (Core.completed m)).thenRegs
    (onlyRegs_completeShow _ c m)
  refine ⟨q, n, (hstatus.thenCoreRegs (hset.mono (by simp [completeFields]))).thenCoreRegs (hshown.mono (by simp [completeFields])),
    mxaStatus_completeShow m (by rw [Dev.core_modCore_same]; rfl), ?_, ?_⟩
  · exact (hshown.byte _).trans ((hset.byte _).trans hbyte)
  · intro hev
    rw [Dev.event, hshown.regs _ (eventFld_key_ne_startField c _)]
    exact hevent hev

end

/-! ### LSTART and LEND issue (R138, R141) -/

section
variable {c : CoreId}

theorem does_lstart {post : Dev → Prop} (h : Issues s.dev c ecc w [wRa w]) (hop : wOp w = 0x28) (himm : wImm w % 2 ^ 20 ≠ 0)
    (hopen : ((fetched s.dev c ecc).core c).isOpen = false)
    (hp : post (if ((fetched s.dev c ecc).core c).lstartFree then (fetched s.dev c ecc).lstartGo c w
      else (fetched s.dev c ecc).modCore c fun k => { k with lstartWait := true })) : Does (.lstart c ecc) s post := by
  refine does_issue (uses := usesRa) rfl h hop rfl ?_
  dsimp only
  rw [if_neg (by rw [hopen, decide_eq_false himm]; exact Bool.false_ne_true)]
  exact hp

theorem does_lstart_stops (h : Issues s.dev c ecc w [wRa w]) (hop : wOp w = 0x28)
    (hbad : wImm w % 2 ^ 20 = 0 ∨ ((fetched s.dev c ecc).core c).isOpen = true) :
    Does (.lstart c ecc) s (stopsAt c (fetched s.dev c ecc)) := by
  refine does_issue (uses := usesRa) rfl h hop rfl ?_
  dsimp only
  rw [if_pos (by rw [Bool.or_eq_true, decide_eq_true_iff]; exact hbad.symm)]
  exact stopsAt_seqFault _ c _ faultClass_seqIllegal

theorem does_lend {m : LayerCmd} (h : Issues s.dev c ecc w []) (hop : wOp w = 0x29) (hcmd : ((fetched s.dev c ecc).core c).cmd = some m)
    (hopen : m.isOpen = true) : Does (.lend c ecc) s fun e => onlyCore c (fetched s.dev c ecc) e ∧
      e.core c = { ((fetched s.dev c ecc).core c).next with cmd := some { m with isOpen := false } } := by
  refine does_issue (uses := usesNone) rfl h hop rfl ?_
  dsimp only
  rw [if_pos (by rw [Core.isOpen, hcmd]; exact hopen)]
  refine ⟨onlyCore_modCore _ c _, (Dev.core_modCore_same _ c _).trans ?_⟩
  rw [hcmd]
  rfl

theorem does_lend_stops (h : Issues s.dev c ecc w []) (hop : wOp w = 0x29) (hopen : ((fetched s.dev c ecc).core c).isOpen = false) :
    Does (.lend c ecc) s (stopsAt c (fetched s.dev c ecc)) := by
  refine does_issue (uses := usesNone) rfl h hop rfl ?_
  dsimp only
  rw [if_neg (Bool.eq_false_iff.1 hopen)]
  exact stopsAt_seqFault _ c _ faultClass_seqIllegal

theorem Core.lstartFree_iff (k : Core) : k.lstartFree = true ↔ k.cmd = none ∧ k.colgo = [] := by
  simp [Core.lstartFree]

end

/-! ### The statement -/

/-- Settles O12: the opening by `opens_lstartGo` and `faulted_lstartGo`, the end by `touches_complete`. -/
theorem layerCommands : Obligations.LayerCommands := by
  intro s c ecc w opens
  have hopens (i : Instr) (d : Dev) (hi : ∀ post : Dev → Prop, post (d.lstartGo c w) → Does i s post) : opens i d := by
    refine ⟨fun hin hclean hok => hi _ ?opened, fun hbad => hi _ (faulted_lstartGo hbad)⟩
    have hopened := opens_lstartGo (w := w) hin hclean hok
    obtain ⟨hpc, hwait, hcmd, hvl, hs⟩ := hopened.core
    obtain ⟨⟨k', -, -, htouches⟩, htag, hcount, hstatus⟩ := hopened
    exact ⟨htouches.cores, hpc, hwait, ⟨_, hcmd, rfl, rfl, rfl, rfl, rfl, rfl, rfl, rfl, rfl, rfl, rfl⟩, htag, hcount, hstatus, htouches.bytes,
      hvl, hs, htouches.regs⟩
  intro d k
  refine ⟨fun h hop => ⟨fun himm hopen => ⟨fun hcmd hcolgo => hopens _ d fun post hp => does_lstart h hop himm hopen ?start,
      fun hbusy => does_lstart h hop himm hopen ?stall⟩, does_lstart_stops h hop⟩,
    fun h hop => ⟨fun m hcmd hopen => does_lend h hop hcmd hopen, does_lend_stops h hop⟩, ?later⟩
  case start => rwa [if_pos (k.lstartFree_iff.2 ⟨hcmd, hcolgo⟩)]
  case stall =>
    rw [if_neg fun hfree => hbusy.elim (· (k.lstartFree_iff.1 hfree).1) (· (k.lstartFree_iff.1 hfree).2)]
    exact ⟨onlyCore_modCore d c _, Dev.core_modCore_same d c _⟩
  case later =>
    intro d k
    refine ⟨fun hon hrun hwait hw hcmd hcolgo => hopens _ d fun post hp => does_of_eq rfl (if_pos ?_) (hw ▸ hp),
      fun m hcmd hon hseq => ⟨fun hdone hin => ?done, fun hwdog => ?wdog⟩⟩
    · simp [k, d] at hon hrun hwait hcmd hcolgo
      simp [Core.lstartFree, hon, hrun, hwait, hcmd, hcolgo]
    case done =>
      obtain ⟨q, n, ⟨hcores, hcore, hregs, hbytes⟩, hmxa, hbyte, hevent⟩ := touches_complete hin d c
      refine ⟨_, rfl, ?_⟩
      dsimp only
      rw [show (s.dev.core c).cmd = some m from hcmd]
      dsimp only
      rw [if_pos (by rw [Bool.and_eq_true, Bool.and_eq_true, decide_eq_true_iff]; exact ⟨⟨hon, hseq⟩, hdone⟩)]
      exact ⟨hcores, (congrArg Core.cmd hcore :), (congrArg Core.seq hcore :), (congrArg Core.pc hcore :), hbyte, hbytes, hevent, hmxa⟩
    case wdog =>
      refine ⟨_, rfl, ?_⟩
      dsimp only
      rw [show (s.dev.core c).cmd = some m from hcmd]
      dsimp only
      rw [if_pos (by rw [Bool.and_eq_true, Bool.and_eq_true, decide_eq_true_iff, decide_eq_true_iff]; exact ⟨⟨hon, hseq⟩, hwdog⟩)]
      exact stopsAt_seqFault d c _ (by decide)

end Sys2Proof.Machine

/-! ## Quiescing and resuming a core (O16) -/

namespace Sys2Proof.Machine

variable {s : State} {d e x : Dev} {c : Nat} {m : LayerCmd}

/-! ### The resume record (R153) -/

theorem bytes_setClm (d : Dev) (c off : Nat) (bs : List Byte) : (d.setClm c off bs).bytes (clmPlace c off) bs.length = bs := by
  refine List.ext_getElem (by simp [Dev.bytes]) fun j hj hj' => ?_
  simp only [Dev.bytes, List.getElem_map, List.getElem_range]
  rw [byte_setClm d c off bs hj', List.getD_eq_getElem _ _ hj']

theorem length_resumeBytes (d : Dev) (c : Nat) : (d.resumeBytes c).length = 64 := by
  unfold Dev.resumeBytes
  dsimp only
  split <;> simp

theorem writeResume_spec (d : Dev) (c : Nat) : WroteAt (clmPlace c (d.resumeOff c)) 64 d (d.writeResume c) ∧
    (d.writeResume c).bytes (clmPlace c (d.resumeOff c)) 64 = d.resumeBytes c := by
  have hwrote := wroteAt_setClm d c (d.resumeOff c) (d.resumeBytes c)
  have hbytes := bytes_setClm d c (d.resumeOff c) (d.resumeBytes c)
  rw [length_resumeBytes] at hwrote hbytes
  exact ⟨hwrote, hbytes⟩

/-! ### A quiesce request (R152) -/

/-- A running core stops issuing and drains. -/
def Core.quiescing (k : Core) : Core :=
  { k with
    seq := .quiescing, draining := true, inWait := decide (k.seq = .wait), lstartWait := false,
    tileOwed := k.wActive.isSome && (k.cmd.map LayerCmd.tileReady).getD false, cmd := k.cmd.map fun m => { m with spilled := false } }

theorem Dev.quiesceCore_of_running (h : (d.core c).seq = .run ∨ (d.core c).seq = .wait) :
    d.quiesceCore c = (d.setBit (Reg.CORE_SEQ_CTRL.QREQ c) true).setCore c (d.core c).quiescing := by
  unfold Dev.quiesceCore
  dsimp only
  obtain h | h := h <;> rw [h] <;> simp only [Core.quiescing, h]

theorem Dev.quiesceCore_of_stopped (h : (d.core c).seq = .idle ∨ (d.core c).seq = .halted ∨ (d.core c).seq = .fault) :
    d.quiesceCore c = d.writeResume c := by
  unfold Dev.quiesceCore
  dsimp only
  obtain h | h | h := h <;> rw [h]

theorem Dev.quiesceCore_of_quiesced (h : (d.core c).seq = .quiesced) : d.quiesceCore c = d := by
  unfold Dev.quiesceCore
  dsimp only
  rw [h]

theorem Dev.quiesceCore_of_pending (h : (d.core c).seq = .loadchk ∨ (d.core c).seq = .quiescing) :
    d.quiesceCore c = d.setBit (Reg.CORE_SEQ_CTRL.QREQ c) true := by
  unfold Dev.quiesceCore
  dsimp only
  obtain h | h := h <;> rw [h]

/-! ### Resume (R154) -/

/-- The core's command and position come from the record. -/
def Core.resumedAt (k : Core) (pc : Nat) (cmd : Option LayerCmd) : Core := { k with seq := .run, pc := pc, inWait := false, cmd := cmd }

theorem Dev.clmUe_of_unmarked (h : d.sramEcc = []) (c off n : Nat) : d.clmUe c off n = false := by
  simp [Dev.clmUe, Dev.sramMark, h]

/-- A good record continues the core at its PC. -/
theorem coreRegs_resume (hseq : (d.core c).seq = .quiesced) (hunmarked : d.sramEcc = [])
    (hok : d.resumeOk c (d.clm c (d.resumeOff c) 64) = true) :
    ∃ (k' : Core) (cmd : Option LayerCmd), k'.sreg = (d.core c).sreg ∧
      cmd.isSome = (resumeRec (d.clm c (d.resumeOff c) 64)).flags.testBit 0 ∧
      CoreRegs c [Reg.CORE_SEQ_TRACE_DROP.COUNT c, Reg.CORE_SEQ_NFCOUNT.COUNT c]
        (k'.resumedAt (resumeRec (d.clm c (d.resumeOff c) 64)).pc cmd) d (d.resume c) := by
  have hclean := Dev.clmUe_of_unmarked hunmarked c
  unfold Dev.resume
  dsimp only
  rw [if_neg (by simp [hseq]), if_neg (by simp [hclean]), if_neg (by simp [hok])]
  generalize resumeRec (d.clm c (d.resumeOff c) 64) = r
  obtain ⟨q, n, htrace⟩ := coreRegs_trace d c 9 (if r.flags.testBit 0 then r.tag else 0) r.pc r.flags
  generalize d.trace c 9 _ _ _ = x at htrace ⊢
  have hx := htrace.mono (gs := [Reg.CORE_SEQ_TRACE_DROP.COUNT c, Reg.CORE_SEQ_NFCOUNT.COUNT c]) (by simp)
  split
  · next hcmd =>
    have hcleanX := Dev.clmUe_of_unmarked (d := x) (by rw [htrace.frame]; exact hunmarked) c
    rw [if_neg (by simp [hcleanX])]
    generalize restoreCmd _ _ _ = m
    have hspill : ∃ acc, CoreRegs c [Reg.CORE_SEQ_TRACE_DROP.COUNT c, Reg.CORE_SEQ_NFCOUNT.COUNT c]
        { (d.core c).traced q n with acc := acc } d (if m.spilled then x.spillIn c m else x) := by
      split
      · exact ⟨_, hx.modCore fun k => { k with
          acc := ((arrRec m.record).spillEntries m.ntile).zipIdx.foldl
            (fun acc p => mset 0 acc p.1 (x.clmNat c ((arrRec m.record).spill + 4 * p.2) 4)) k.acc }⟩
      · exact ⟨_, hx⟩
    obtain ⟨acc, hspill⟩ := hspill
    exact ⟨{ (d.core c).traced q n with acc := acc }, some m, rfl, hcmd.symm,
      (hspill.set _ _ (by simp)).modCore fun k => k.resumedAt r.pc (some m)⟩
  · next hcmd => exact ⟨(d.core c).traced q n, none, rfl, (Bool.eq_false_of_not_eq_true hcmd).symm, hx.modCore fun k => k.resumedAt r.pc none⟩

/-- A record that cannot be read, or that fails its checks, leaves the core QUIESCED and stops the job. -/
theorem resume_of_bad (hseq : (d.core c).seq = .quiesced)
    (hbad : d.clmUe c (d.resumeOff c) 64 = true ∨ d.resumeOk c (d.clm c (d.resumeOff c) 64) = false) :
    ((d.resume c).core c).seq = .quiesced ∧ (d.resume c).get Reg.FLT_STATUS.HL = hlStopped := by
  have hraise {ev : Ev} (h : faultClass ev.code = 4) :
      ((d.raise ev).core c).seq = .quiesced ∧ (d.raise ev).get Reg.FLT_STATUS.HL = hlStopped := by
    obtain ⟨hcore, hstops, -⟩ := raise_jobFatal_at_rest (d := d) (c := c) h (by rw [hseq]; exact nofun) (by rw [hseq]; exact nofun)
    exact ⟨(congrArg Core.seq hcore).trans hseq, hstops⟩
  unfold Dev.resume
  dsimp only
  rw [if_neg (by simp [hseq])]
  split
  · exact hraise faultClass_clmUe
  · next hread =>
    have hcheck : d.resumeOk c (d.clm c (d.resumeOff c) 64) = false := hbad.resolve_left fun hue => hread (by rw [hue]; rfl)
    rw [if_pos (by simp [hcheck])]
    exact hraise (show faultClass Flt.SEQ_RESUME_BAD = 4 by decide)

/-! ### The end of the drain (R98, R152) -/

/-- The core is QUIESCED. -/
def Core.atRest (k : Core) : Core := { k with seq := .quiesced, draining := false, wActive := none, wShadow := none }

/-- The completion area of a command that is quiesced (R143). -/
def Dev.cmpQuiesced (c : Nat) (d : Dev) : Dev :=
  match (d.core c).cmd with
  | some m => (d.cmpArea c m).cmpStatus c m.recOff 2 false 0
  | none => d

theorem Dev.cmpQuiesced_cores (d : Dev) (c : Nat) : (d.cmpQuiesced c).cores = d.cores := by
  unfold Dev.cmpQuiesced
  split
  · exact (cmpStatus_frame _ c _ 2 false 0).1.trans (Dev.setClm_frame d c _ _).1
  · rfl

theorem Dev.quiesced_eq (d : Dev) (c : Nat) : d.quiesced c =
    let y := (d.cmpQuiesced c).writeResume c
    let z := ((y.traceCmd c 8 (y.core c).pc (y.core c).rrFlags).setBit (Reg.CORE_SEQ_CTRL.QREQ c) false).modCore c Core.atRest
    if (y.core c).cmd.isSome then z.mxaShow c else z := rfl

/-- Parts 3 to 5 of R152. -/
theorem quiesced_spec (d : Dev) (c : Nat) : ∃ q n, coresBut c d (d.quiesced c) ∧ (d.quiesced c).core c = ((d.core c).traced q n).atRest ∧
    (d.quiesced c).bit (Reg.CORE_SEQ_CTRL.QREQ c) = false ∧ ((d.core c).cmd = none → (d.quiesced c).mem = (d.writeResume c).mem) := by
  have hnone (hcmd : (d.core c).cmd = none) : d.cmpQuiesced c = d := by
    unfold Dev.cmpQuiesced
    rw [hcmd]
  have hcores := ((d.cmpQuiesced c).writeResume_cores c).trans (d.cmpQuiesced_cores c)
  rw [Dev.quiesced_eq]
  dsimp only
  have hmem (hcmd : (d.core c).cmd = none) : ((d.cmpQuiesced c).writeResume c).mem = (d.writeResume c).mem := by rw [hnone hcmd]
  generalize (d.cmpQuiesced c).writeResume c = y at hcores hmem ⊢
  have hcore (j : Nat) : y.core j = d.core j := congrArg (mget Core.reset · j) hcores
  obtain ⟨q, n, htrace⟩ := coreRegs_trace y c 8 (d.core c).tagNow (d.core c).pc (d.core c).rrFlags
  rw [hcore] at htrace
  rw [Dev.traceCmd, hcore]
  generalize y.trace c 8 _ _ _ = z at htrace ⊢
  have hshows (P : Prop) [Decidable P] (x : Dev) :
      onlyRegs [Reg.CORE_MXA_STATUS.BUSY c, Reg.CORE_MXA_STATUS.ACTIVE c] x (if P then x.mxaShow c else x) :=
    onlyRegs_ite (onlyRegs_mxaShow x c) .refl
  have hrest := (((htrace.mono (List.subset_cons_self _ _ : _ ⊆ [Reg.CORE_SEQ_CTRL.QREQ c, Reg.CORE_SEQ_TRACE_DROP.COUNT c])).thenRegs
    (onlyRegs_setBit z (x := Reg.CORE_SEQ_CTRL.QREQ c) false (by simp))).modCore Core.atRest)
  have hquiet : ((z.setBit (Reg.CORE_SEQ_CTRL.QREQ c) false).modCore c Core.atRest).bit (Reg.CORE_SEQ_CTRL.QREQ c) = false :=
    Dev.bit_setBit_same z false Nat.one_pos
  generalize (z.setBit (Reg.CORE_SEQ_CTRL.QREQ c) false).modCore c Core.atRest = x at hrest hquiet ⊢
  have hshow := hshows ((d.core c).cmd.isSome = true) x
  have hend := CoreRegs.of_onlyRegs (c := c) hshow
  refine ⟨q, n, fun j hj => (hend.cores j hj).trans ((hrest.cores j hj).trans (hcore j)), hend.core.trans hrest.core, ?_,
    fun hcmd => (hend.mem.trans hrest.mem).trans (hmem hcmd)⟩
  rw [Dev.bit_congr (hshow.2 _ fun f hf => qreq_not_startField c f ((show _ ⊆ startFields c by simp [startFields]) hf))]
  exact hquiet

/-- Entries without an error are read as they are (R97). -/
theorem Dev.accRead_of_good {es : List Nat} (h : ∀ x ∈ es, mget 0 (d.core c).accEcc x = 0) (body : Dev → Dev) : d.accRead c es body = body d := by
  unfold Dev.accRead
  dsimp only
  split
  · rfl
  · have hue : (es.any fun e => decide (mget 0 (d.core c).accEcc e = 2)) = false := by
      rw [List.any_eq_false]
      intro x hx
      simp [h x hx]
    have hce : (es.filter fun e => decide (mget 0 (d.core c).accEcc e = 1)) = [] := by
      rw [List.filter_eq_nil_iff]
      intro x hx
      simp [h x hx]
    rw [hue, hce]
    rfl

/-- An uncorrectable entry ends the command (R97). -/
theorem Dev.accRead_of_uncorrectable {es : List Nat} (h : ∃ x ∈ es, mget 0 (d.core c).accEcc x = 2) (body : Dev → Dev) :
    d.accRead c es body = d.accUncorrectable c := by
  obtain ⟨x, hx, hue⟩ := h
  unfold Dev.accRead
  dsimp only
  rw [if_neg fun hnone => by simp [hnone, mget] at hue, if_pos (List.any_eq_true.2 ⟨x, hx, decide_eq_true hue⟩)]

/-- The fields that a STOP changes lie below the cores' blocks, but for the cores' quiesce requests. -/
theorem stopField_key {f : Fld} (hf : f ∈ stopFields) : f.key < 0x20000000 ∨ ∃ j, f = Reg.CORE_SEQ_CTRL.QREQ j := by
  obtain hf | hf := List.mem_append.1 hf
  · refine .inl ?_
    revert f
    decide
  · obtain ⟨j, -, rfl⟩ := List.mem_map.1 hf
    exact .inr ⟨j, rfl⟩

theorem accUe_apart (c : Nat) : (∀ f ∈ stopFields, (Reg.CORE_MXA_ERR.ACC_UE c).key ≠ f.key) ∧
    ∀ f ∈ endFields c, (Reg.CORE_MXA_ERR.ACC_UE c).key ≠ f.key := by
  refine ⟨fun f hf => ?_, ?_⟩
  · obtain hlt | ⟨j, rfl⟩ := stopField_key hf
    · simp only [Fld.key, Reg.CORE_MXA_ERR.ACC_UE] at hlt ⊢
      omega
    · simp only [Fld.key, Reg.CORE_MXA_ERR.ACC_UE, Reg.CORE_SEQ_CTRL.QREQ]
      omega
  · simp only [endFields, List.forall_mem_cons, Fld.key, Reg.CORE_SEQ_TRACE_DROP.COUNT, Reg.CORE_SEQ_ERR.FAULT, Reg.CORE_MXA_STATUS.BUSY,
      Reg.CORE_MXA_STATUS.ACTIVE, Reg.CORE_MXA_STATUS.KEPT, Reg.CORE_SEQ_CTRL.QREQ, Reg.CORE_MXA_ERR.ACC_UE, List.not_mem_nil,
      false_imp_iff, implies_true, and_true]
    and_intros <;> omega

theorem accUncorrectable_spec (d : Dev) (c : Nat) : ((d.accUncorrectable c).core c).seq = .fault ∧
    (d.accUncorrectable c).bit (Reg.CORE_MXA_ERR.ACC_UE c) = true ∧ (d.accUncorrectable c).get Reg.FLT_STATUS.HL = hlStopped := by
  unfold Dev.accUncorrectable
  have hset : (d.setBit (Reg.CORE_MXA_ERR.ACC_UE c) true).bit (Reg.CORE_MXA_ERR.ACC_UE c) = true := Dev.bit_setBit_same d true Nat.one_pos
  generalize d.setBit (Reg.CORE_MXA_ERR.ACC_UE c) true = x at hset ⊢
  obtain ⟨hstop, hend⟩ := accUe_apart c
  obtain ⟨hseq, -, -, hstops⟩ := faulted_seqFaultTag x c (x.core c).tagNow 0 (show faultClass Flt.MXA_ACC_UE = 4 by decide)
  have hfields := (ended_seqEnd x c Flt.MXA_ACC_UE (x.core c).tagNow).fields
  have hspares := (raise_jobFatal_spares_and_stops (x.seqEnd c Flt.MXA_ACC_UE (x.core c).tagNow) c
    (ev := { code := Flt.MXA_ACC_UE, source := c, tag := (x.core c).tagNow, arg0 := 0 }) (show faultClass Flt.MXA_ACC_UE = 4 by decide)).1
  exact ⟨hseq, (Dev.bit_congr ((hspares.fields _ hstop).trans (hfields _ hend))).trans hset, hstops⟩

theorem Dev.accUpset_get (d : Dev) (c : Nat) (us : List AccUpset) (f : Fld) : (d.accUpset c us).get f = d.get f := by
  cases us <;> rfl

theorem Dev.ixQuiesce_of_none {c : CoreId} (h : (d.core c).ixq = []) : d.ixQuiesce c = d := by
  unfold Dev.ixQuiesce
  rw [h]

theorem Dev.quiesceEnd_of_unspilled {c : CoreId} (h : ∀ m, (d.core c).cmd = some m → m.spills = false) : d.quiesceEnd c = d.quiesced c := by
  unfold Dev.quiesceEnd
  dsimp only
  split
  · next m hcmd => rw [if_neg (by simp [h m hcmd])]
  · rfl

theorem Dev.quiesceEnd_of_spills {c : CoreId} (hcmd : (d.core c).cmd = some m) (h : m.spills = true) :
    d.quiesceEnd c = d.accRead c ((arrRec m.record).spillEntries m.ntile) fun d =>
      ((d.spillOut c m).modCore c fun k => { k with cmd := some { m with spilled := true } }).quiesced c := by
  unfold Dev.quiesceEnd
  dsimp only
  rw [hcmd]
  dsimp only
  rw [if_pos h]

theorem does_quiesceDone {c : CoreId} {us : List AccUpset} {post : Dev → Prop} (hd : s.dev.accUpset c us = d) (hon : d.coreOn = true)
    (hseq : (d.core c).seq = .quiescing) (hdrained : (d.core c).drained = true) (hixq : (d.core c).ixq = []) (hp : post (d.quiesceEnd c)) :
    Does (.quiesceDone c us) s post := by
  subst hd
  refine ⟨_, rfl, ?_⟩
  dsimp only
  rw [if_pos (by simp [hon, hseq, hdrained]), Dev.ixQuiesce_of_none hixq]
  exact hp

/-- The spill of the live rows writes CLM, and the command is marked (R98). -/
theorem quiesced_of_spilled (d : Dev) (c : Nat) (m : LayerCmd) :
    let e := ((d.spillOut c m).modCore c fun k => { k with cmd := some { m with spilled := true } }).quiesced c
    coresBut c d e ∧ (e.core c).seq = .quiesced ∧ (e.core c).pc = (d.core c).pc ∧ e.bit (Reg.CORE_SEQ_CTRL.QREQ c) = false ∧
      (e.core c).cmd = some { m with spilled := true } := by
  have hcore (j : Nat) : (d.spillOut c m).core j = d.core j := congrArg (mget Core.reset · j) (Dev.setClm_frame d c _ _).1
  dsimp only
  generalize hy : (d.spillOut c m).modCore c _ = y
  have hyCores : coresBut c d y := fun j hj => by
    rw [← hy, Dev.core_modCore_other _ _ hj, hcore]
  have hyCore : y.core c = { d.core c with cmd := some { m with spilled := true } } := by
    rw [← hy, Dev.core_modCore_same, hcore]
  obtain ⟨q, n, hcores, hend, hquiet, -⟩ := quiesced_spec y c
  rw [hyCore] at hend
  exact ⟨fun j hj => (hcores j hj).trans (hyCores j hj), (congrArg Core.seq hend :), (congrArg Core.pc hend :), hquiet,
    (congrArg Core.cmd hend :)⟩

/-! ### The statement -/

/-- Settles O16: the requests by the state of the core, resume by `coreRegs_resume` and `resume_of_bad`, the end of the drain by
`quiesced_spec`. -/
theorem quiesceAndResume : Obligations.QuiesceAndResume := by
  intro s c r d k p b
  refine ⟨fun hawake => ⟨fun hrunning => ?running, fun hstopped => ?stopped, fun hquiesced => ?quiesced, fun hpending => ?pending,
      fun hnot => ?refused, fun hquiesced hunmarked hok => ?resumed, fun hquiesced hbad => ?bad⟩,
    fun us => ?drain⟩
  case running =>
    have hquiesce := CoreRegs.of_onlyRegs (c := c) (onlyRegs_and_bit_setBit d (Reg.CORE_SEQ_CTRL.QREQ c) Nat.one_pos).1
    have hend := hquiesce.modCore Core.quiescing
    have hcore := hend.core
    refine does_coreWrite rfl hawake (Dev.quiesceCore_of_running hrunning ▸ ?_)
    exact ⟨hend.frame, hend.cores, (congrArg Core.seq hcore :), (congrArg Core.pc hcore :), (congrArg Core.sreg hcore :), hend.regs,
      Dev.bit_setBit_same d true Nat.one_pos, (congrArg Core.tileOwed hcore :)⟩
  case stopped =>
    obtain ⟨⟨hframe, hbut⟩, hbytes⟩ := writeResume_spec d c
    exact does_coreWrite rfl hawake (Dev.quiesceCore_of_stopped hstopped ▸ ⟨hframe, hbut, hbytes⟩)
  case quiesced => exact does_coreWrite rfl hawake (Dev.quiesceCore_of_quiesced hquiesced)
  case pending =>
    exact does_coreWrite rfl hawake (Dev.quiesceCore_of_pending hpending ▸ onlyRegs_and_bit_setBit d _ Nat.one_pos)
  case refused =>
    have hrefused : d.resume c = d.setBit (Reg.CORE_SEQ_ERR.RESUME_REJ c) true := if_pos hnot
    exact does_coreWrite rfl hawake (hrefused ▸ onlyRegs_and_bit_setBit d _ Nat.one_pos)
  case resumed =>
    obtain ⟨k', cmd, hsreg, hcmd, hresume⟩ := coreRegs_resume hquiesced hunmarked hok
    have hcore := hresume.core
    exact does_coreWrite rfl hawake ⟨hresume.cores, hresume.mem, (congrArg Core.seq hcore :), (congrArg Core.pc hcore :),
      (congrArg Core.sreg hcore).trans hsreg, (congrArg (Option.isSome ·.cmd) hcore).trans hcmd⟩
  case bad => exact does_coreWrite rfl hawake (resume_of_bad hquiesced hbad)
  case drain =>
    intro d k hon hseq hdrained hixq
    have hdone {post : Dev → Prop} := does_quiesceDone (post := post) (us := us) rfl hon hseq hdrained hixq
    refine ⟨fun hunspilled => hdone ?_, fun m hcmd hspills => ⟨fun hgood => hdone ?_, fun hue => hdone ?_⟩⟩
    · obtain ⟨q, n, hcores, hcore, hquiet, hmem⟩ := quiesced_spec d c
      rw [Dev.quiesceEnd_of_unspilled hunspilled]
      refine ⟨hcores, (congrArg Core.seq hcore :), (congrArg Core.draining hcore :), (congrArg Core.pc hcore :), (congrArg Core.sreg hcore :),
        hquiet, fun hnone => ?_⟩
      obtain ⟨⟨-, hbut⟩, hbytes⟩ := writeResume_spec d c
      have hbyte (a : Nat) : (d.quiesced c).byte a = (d.writeResume c).byte a := congrArg (mget memDefault · a) (hmem hnone)
      have hp : clmPlace c (d.resumeOff c) = p := by rw [Dev.resumeOff, Dev.accUpset_get]
      rw [hp] at hbut hbytes
      refine ⟨fun a ha => (hbyte a).trans (hbut a ha), Eq.trans ?_ hbytes⟩
      simp only [Dev.bytes, hbyte]
    · obtain ⟨hcores, hrest, hpc, hquiet, hmarked⟩ := quiesced_of_spilled d c m
      rw [Dev.quiesceEnd_of_spills hcmd hspills, Dev.accRead_of_good hgood]
      exact ⟨hcores, hrest, hpc, hquiet, _, hmarked, rfl, rfl⟩
    · rw [Dev.quiesceEnd_of_spills hcmd hspills, Dev.accRead_of_uncorrectable hue]
      exact accUncorrectable_spec d c

end Sys2Proof.Machine

/-! ## The index unit's queue (O18, R148, R150) -/

namespace Sys2Proof.Machine

variable {s : State} {d e : Dev} {c w op : Nat} {ecc : WordEcc}

/-! ### A core that enters FAULT keeps the index unit's queue -/

/-- The core's part of its entry into FAULT. -/
def Core.faulted (hadArrays : Bool) (k : Core) : Core :=
  { k with seq := .fault, cmd := none, vq := [], lstartWait := false, draining := false, tileOwed := false, wActive := none, wShadow := none,
           sbOld := k.sb.length + k.sbWait.length, chain := if hadArrays then none else k.chain }

/-- The completion area of a command that ends with a fault (R143). -/
def Dev.cmpFaulted (c : Nat) (cmd : Option LayerCmd) (code : Nat) (d : Dev) : Dev :=
  match cmd with
  | some m => d.cmpStatus c m.recOff 3 false code
  | none => d

theorem Dev.seqEnd_eq (d : Dev) (c code tag : Nat) : d.seqEnd c code tag =
    let hadArrays := ((d.core c).cmd.map fun m => recUseMxa m.record).getD false
    (((d.trace c 11 tag code (d.core c).pc).cmpFaulted c (d.core c).cmd code).modCore c (Core.faulted hadArrays)).showEnd c hadArrays := rfl

theorem core_cmpFaulted (d : Dev) (c : Nat) (cmd : Option LayerCmd) (code j : Nat) : (d.cmpFaulted c cmd code).core j = d.core j := by
  unfold Dev.cmpFaulted
  split
  · exact congrArg (mget Core.reset · j) (cmpStatus_frame d c _ 3 false code).1
  · rfl

theorem ixq_seqEnd (d : Dev) (c code tag : Nat) : ((d.seqEnd c code tag).core c).ixq = (d.core c).ixq := by
  obtain ⟨q, n, htrace⟩ := coreRegs_trace d c 11 tag code (d.core c).pc
  rw [Dev.seqEnd_eq]
  dsimp only
  rw [(showEnd_frame _ c _).1, Dev.core_modCore_same, core_cmpFaulted, htrace.core]
  rfl

theorem ixq_seqFaultTag (d : Dev) (c tag arg0 : Nat) {code : Nat} (h : faultClass code = 4) :
    ((d.seqFaultTag c code tag arg0).core c).ixq = (d.core c).ixq := by
  have hspares := (raise_jobFatal_spares_and_stops (d.seqEnd c code tag) c (ev := { code := code, source := c, tag := tag, arg0 := arg0 }) h).1
  exact (congrArg Core.ixq (hspares.core (ended_seqEnd d c code tag).seq)).trans (ixq_seqEnd d c code tag)

/-! ### IXG and IXS issue -/

/-- The descriptor of an IXG or IXS lies in CLM at a multiple of 32. -/
def inClm (a : Nat) : Prop := a % 32 = 0 ∧ a + 32 ≤ clmSize

/-- The core at the next word with an operation queued. -/
def Core.queued (o : IxOp) (k : Core) : Core := { k.next with ixq := k.ixq ++ [o] }

/-- What IXG and IXS do (R148): nothing where the queue is full, a stop where the descriptor cannot be read, else an operation queued. -/
structure Queues (i : Instr) (s : State) (c w : Nat) (scatter : Bool) (d : Dev) : Prop where
  reads : ((d.core c).ixq.length < 4) → inClm ((d.core c).s (wRa w)) → d.clmUe c ((d.core c).s (wRa w)) 32 = false → Does i s fun e =>
    onlyCore c (d.clmCorrected c ((d.core c).s (wRa w)) 32) e ∧ e.core c =
      (d.core c).queued ⟨d.bytes (clmPlace c ((d.core c).s (wRa w))) 32, scatter, wImm w % 128, (wImm w).testBit 8, 0⟩
  stops : ((d.core c).ixq.length < 4) → inClm ((d.core c).s (wRa w)) → d.clmUe c ((d.core c).s (wRa w)) 32 = true → Does i s (stopsAt c d)
  outside : ((d.core c).ixq.length < 4) → ¬inClm ((d.core c).s (wRa w)) → Does i s fun e =>
    onlyCore c d e ∧ e.core c = (d.core c).queued ⟨[], scatter, wImm w % 128, (wImm w).testBit 8, 0⟩
  full : 4 ≤ (d.core c).ixq.length → Does i s fun e => e = d

theorem queues_of_issues {i : Instr} {scatter : Bool} (hexec : exec i s = s.does (Dev.ixQueue c ecc op scatter))
    (h : Issues s.dev c ecc w [wRa w]) (hop : wOp w = op) (hlegal : (scatter || !(wImm w).testBit 8) = true) :
    Queues i s c w scatter (fetched s.dev c ecc) := by
  generalize hd : fetched s.dev c ecc = d
  have hqueue : Dev.ixQueue c ecc op scatter s.dev = _ :=
    Dev.issue_of_issues (uses := usesRa) (legal := fun w => scatter || !(wImm w).testBit 8) h hop
  rw [if_pos hlegal, hd] at hqueue
  dsimp only at hqueue
  generalize ha : (d.core c).s (wRa w) = a at hqueue
  have hcheck : (decide (a % 32 = 0) && decide (a + 32 ≤ clmSize)) = true ↔ inClm a := by
    rw [Bool.and_eq_true, decide_eq_true_iff, decide_eq_true_iff]
    rfl
  generalize (decide (a % 32 = 0) && decide (a + 32 ≤ clmSize)) = inside at hcheck hqueue
  refine ⟨fun hroom hin hread => ?_, fun hroom hin hue => ?_, fun hroom hout => ?_, fun hfull => ?_⟩
  · rw [ha] at hin hread ⊢
    rw [if_neg (Nat.not_le.2 hroom), hcheck.2 hin, hread] at hqueue
    simp only [Bool.and_false, Bool.false_eq_true, ↓reduceIte] at hqueue
    have hcore := core_clmCorrected d c a 32 c
    have hmem : (d.clmCorrected c a 32).clm c a 32 = d.bytes (clmPlace c a) 32 := by
      rw [(reported_clmCorrected d c a 32).frame]
      rfl
    rw [hmem] at hqueue
    exact does_of_eq hexec hqueue ⟨onlyCore_modCore _ c _, (Dev.core_modCore_same _ c _).trans (congrArg (Core.queued _) hcore)⟩
  · rw [ha] at hin hue
    rw [if_neg (Nat.not_le.2 hroom), hcheck.2 hin, hue] at hqueue
    exact does_of_eq hexec hqueue (stopsAt_seqFault d c _ faultClass_clmUe)
  · rw [ha] at hout
    rw [if_neg (Nat.not_le.2 hroom), Bool.eq_false_iff.2 (mt hcheck.1 hout)] at hqueue
    simp only [Bool.false_and, Bool.false_eq_true, ↓reduceIte] at hqueue
    exact does_of_eq hexec hqueue ⟨onlyCore_modCore d c _, Dev.core_modCore_same d c _⟩
  · rw [if_pos hfull] at hqueue
    exact does_of_eq hexec hqueue rfl

/-! ### A malformed operation (R150) -/

theorem does_indexOpDone {c : CoreId} {o : IxOp} {rest : List IxOp} {post : Dev → Prop} (hq : (s.dev.core c).ixq = o :: rest)
    (hon : s.dev.coreOn = true) (hdraining : (s.dev.core c).draining = false) (hquiesced : (s.dev.core c).seq ≠ .quiesced)
    (hcheck : (s.dev.core c).seq ≠ .loadchk)
    (hp : post (if !o.ok then s.dev.ixMalformed c rest else (s.dev.ixRows c o o.done (ixDesc o.desc).count).ixEnd c o rest)) :
    Does (.indexOpDone c) s post := by
  refine ⟨_, rfl, ?_⟩
  dsimp only
  rw [hq]
  dsimp only
  rw [if_neg (by simp [hon, hdraining, hquiesced, hcheck])]
  exact hp

theorem ixMalformed_spec (d : Dev) (c : CoreId) (rest : List IxOp) : ((d.ixMalformed c rest).core c).seq = .fault ∧
    ((d.ixMalformed c rest).core c).ixq = rest ∧ (d.ixMalformed c rest).get Reg.FLT_STATUS.HL = hlStopped := by
  have hclass : faultClass Flt.IDX_MALFORMED = 4 := by decide
  unfold Dev.ixMalformed
  have hrest : ((d.modCore c fun k => { k with ixq := rest }).core c).ixq = rest := congrArg Core.ixq (Dev.core_modCore_same d c _)
  generalize (d.modCore c fun k => { k with ixq := rest } : Dev) = x at hrest ⊢
  obtain ⟨hseq, -, -, hstops⟩ := faulted_seqFaultTag x c (x.core c).tagNow 0 hclass
  exact ⟨hseq, (ixq_seqFaultTag x c _ 0 hclass).trans hrest, hstops⟩

end Sys2Proof.Machine

/-! ## Memory that reads and writes without an error

With no mark on any word and no port dead, a range that is memory reads as its bytes, and a write that touches no reduction buffer stores them. -/

namespace Sys2Proof.Machine

variable {d e : Dev} {c a n p q : Nat} {bs : List Byte}

/-! ### Where addresses lead (R160 to R165) -/

/-- The registers of the address map agree. -/
def SameMap (d e : Dev) : Prop := ∀ g : Fld, g.off < 0x01000000 → g.lo < 32 → e.get g = d.get g

theorem SameMap.grnLoc (h : SameMap d e) (ha : a < 0x006000000000) : e.grnLoc a = d.grnLoc a := by
  have hget (g : Fld) (hg : g.off = 0x00280000 + a / 2 ^ 30 * 4) (hlo : g.lo < 32) : e.get g = d.get g := h g (by omega) hlo
  unfold Dev.grnLoc
  dsimp only
  rw [hget (Reg.GRN_IAT.SLOT (a / 2 ^ 30)) rfl (show 5 < 32 by decide),
    hget (Reg.GRN_IAT.PART (a / 2 ^ 30)) rfl (show 11 < 32 by decide),
    hget (Reg.GRN_IAT.MODE (a / 2 ^ 30)) rfl (show 0 < 32 by decide),
    hget (Reg.GRN_IAT.HOME (a / 2 ^ 30)) rfl (show 2 < 32 by decide)]

theorem SameMap.gdmLoc (h : SameMap d e) (ha : a < 0x004000000000) : e.gdmLoc a = d.gdmLoc a := by
  have hget (g : Fld) (hg : g.off = 0x00280800 + a / 2 ^ 30 * 4) (hlo : g.lo < 32) : e.get g = d.get g := h g (by omega) hlo
  unfold Dev.gdmLoc
  dsimp only
  rw [hget (Reg.GDM_IAT.SLOT (a / 2 ^ 30)) rfl (show 7 < 32 by decide),
    hget (Reg.GDM_IAT.PART (a / 2 ^ 30)) rfl (show 12 < 32 by decide),
    hget (Reg.GDM_IAT.MODE (a / 2 ^ 30)) rfl (show 0 < 32 by decide),
    hget (Reg.GDM_IAT.HOME (a / 2 ^ 30)) rfl (show 2 < 32 by decide)]

theorem SameMap.loc (h : SameMap d e) (a : Nat) : e.loc a = d.loc a := by
  unfold Dev.loc
  refine ite_congr rfl (fun ha => by rw [h.grnLoc ha]) fun _ => ite_congr rfl (fun _ => rfl) fun _ =>
    ite_congr rfl (fun ha => ?_) fun _ => ?_
  · rw [h.gdmLoc (by rw [gdmBase]; omega)]
  · rw [h Reg.HST_HWIN_SIZE (by decide) (by decide)]

theorem SameMap.place (h : SameMap d e) (a : Nat) : e.place a = d.place a := by rw [Dev.place, Dev.place, h.loc]

theorem SameMap.of_regs (h : e.regs = d.regs) : SameMap d e := fun g _ _ => by rw [Dev.get, h]; rfl

theorem Dev.grnLoc_bound {k o : Nat} (h : d.grnLoc a = some (k, o)) : k < 8 ∧ o < 2 ^ 36 := by
  have hhome : d.get (Reg.GRN_IAT.HOME (a / 2 ^ 30)) < 2 ^ 3 := d.get_lt _
  have hslot : d.get (Reg.GRN_IAT.SLOT (a / 2 ^ 30)) < 2 ^ 6 := d.get_lt _
  have hpart : d.get (Reg.GRN_IAT.PART (a / 2 ^ 30)) < 2 ^ 3 := d.get_lt _
  unfold Dev.grnLoc at h
  dsimp only at h
  split at h
  · simp only [Option.some.injEq, Prod.mk.injEq] at h
    omega
  · simp only [Option.some.injEq, Prod.mk.injEq] at h
    omega
  · cases h

theorem Dev.gdmLoc_bound {k o : Nat} (h : d.gdmLoc a = some (k, o)) : k < 128 ∧ o < 2 ^ 36 := by
  have hhome : d.get (Reg.GDM_IAT.HOME (a / 2 ^ 30)) < 2 ^ 5 := d.get_lt _
  have hslot : d.get (Reg.GDM_IAT.SLOT (a / 2 ^ 30)) < 2 ^ 5 := d.get_lt _
  have hpart : d.get (Reg.GDM_IAT.PART (a / 2 ^ 30)) < 2 ^ 3 := d.get_lt _
  unfold Dev.gdmLoc at h
  dsimp only at h
  split at h
  · simp only [Option.some.injEq, Prod.mk.injEq] at h
    omega
  · simp only [Option.some.injEq, Prod.mk.injEq] at h
    omega
  · simp only [Option.some.injEq, Prod.mk.injEq] at h
    omega
  · cases h

theorem Dev.place_eq_some : d.place a = some p ↔ d.loc a = .mem p := by
  unfold Dev.place
  split <;> simp_all

/-- Below the CSMs lie Granary and GDDR, whose places come before those of the CLMs. -/
theorem place_lt_of_table (ha : a < csmBase) (hp : d.place a = some p) : p < 2 ^ 42 := by
  rw [Dev.place_eq_some, Dev.loc] at hp
  split at hp
  · split at hp
    · next k o hloc =>
      obtain ⟨hk, ho⟩ := Dev.grnLoc_bound hloc
      simp only [Loc.mem.injEq, grnPlace] at hp
      omega
    · cases hp
  · split at hp
    · cases hp
    · split at hp
      · split at hp
        · next k o hloc =>
          obtain ⟨hk, ho⟩ := Dev.gdmLoc_bound hloc
          simp only [Loc.mem.injEq, gdmPlace] at hp
          omega
        · cases hp
      · cases hp

/-- A byte of a core's CLM. -/
theorem place_clmAddr (d : Dev) (c : CoreId) {off : Nat} (h : off < clmSize) : d.place (clmAddr c off) = some (clmPlace c off) := by
  have hc : c.val < 64 := c.isLt
  have hoff : off < 3 * 2 ^ 20 := h
  have hlow : (clmAddr c off - clmBase) % 2 ^ 22 = off ∧ (clmAddr c off - clmBase) / 2 ^ 22 = c.val := by
    rw [clmAddr, Nat.add_assoc, Nat.add_sub_cancel_left]
    omega
  have hat : clmBase ≤ clmAddr c off ∧ clmAddr c off < clmBase + 64 * 2 ^ 22 := by
    rw [clmAddr]
    omega
  have hbases : 0x006000000000 ≤ gdmBase ∧ gdmBase ≤ 0x00C000000000 ∧ 0x00C000000000 ≤ csmBase ∧
      csmBase + 8 * 2 ^ 24 ≤ clmBase := by decide
  rw [Dev.place_eq_some, Dev.loc]
  dsimp only
  rw [if_neg (by omega), if_neg (by omega), if_neg (by omega), if_neg (by omega), if_neg (by omega), if_neg (by omega), if_pos hat.2, hlow.1,
    hlow.2, if_pos h]

/-! ### Reads -/

/-- No word carries a mark and every port lives. -/
structure Unmarked (d : Dev) : Prop where
  sram : d.sramEcc = []
  grn : d.grnBad = []
  ports : d.gdmDead = []

theorem Unmarked.of_wrote (h : Unmarked d) (hframe : e = { d with mem := e.mem }) : Unmarked e := by
  rw [hframe]
  exact ⟨h.sram, h.grn, h.ports⟩

theorem firstUnmapped_of_mem (h : ∀ i, i < n → (d.place (a + i)).isSome) : d.firstUnmapped a n = none := by
  rw [Dev.firstUnmapped, List.find?_eq_none]
  intro x hx
  obtain ⟨i, hi, rfl⟩ := List.mem_map.1 hx
  have hsome := h i (List.mem_range.1 hi)
  rw [Option.isSome_iff_ne_none] at hsome
  simpa using hsome

theorem Unmarked.firstDead (h : Unmarked d) (a n : Nat) : d.firstDead a n = none := if_pos h.ports

theorem Unmarked.firstUe (h : Unmarked d) (a n : Nat) : d.firstUe a n = none := if_pos ⟨h.grn, h.sram⟩

theorem readMem_of_mem (h : Unmarked d) (hmem : ∀ i, i < n → (d.place (a + i)).isSome) (r : MemRequester) :
    d.readMem r a n = (some (d.rdBytes a n), d) := by
  have herr : d.readErr a n = none := by
    rw [Dev.readErr, firstUnmapped_of_mem hmem]
    dsimp only
    rw [Dev.firstBad, h.firstUe, h.firstDead]
    rfl
  rw [Dev.readMem, herr]

theorem rd_of_place (h : d.place a = some p) : d.rd a = d.byte p := by rw [Dev.rd, h]

/-- The index unit reads its core's CLM. -/
theorem ixRead_of_clm (h : Unmarked d) (c : CoreId) {off : Nat} (hin : off + n ≤ clmSize) : d.ixRead c off n = (some (d.clm c off n), d) := by
  have hplace (i : Nat) (hi : i < n) : d.place (clmAddr c off + i) = some (clmPlace c off + i) :=
    (congrArg d.place (Nat.add_assoc _ _ _)).trans ((place_clmAddr d c (by omega)).trans (congrArg some (clmPlace_add c off i)))
  have hbytes : d.rdBytes (clmAddr c off) n = d.clm c off n := by
    rw [Dev.rdBytes, Dev.clm, Dev.bytes]
    exact List.map_congr_left fun i hi => rd_of_place (hplace i (List.mem_range.1 hi))
  rw [Dev.ixRead, readMem_of_mem h (fun i hi => by rw [hplace i hi]; rfl), hbytes]

/-! ### Writes -/

theorem Dev.byte_setByte (d : Dev) (p : Nat) (b : Byte) (q : Nat) : (d.setByte p b).byte q = if q = p then b else d.byte q :=
  mget_mset memDefault d.mem p q b

theorem Dev.wrBytes_frame (d : Dev) (a : Nat) (bs : List Byte) : d.wrBytes a bs = { d with mem := (d.wrBytes a bs).mem } := by
  induction bs generalizing a d with
  | nil => rfl
  | cons b bs ih =>
    have hwr : d.wr a b = { d with mem := (d.wr a b).mem } := by
      unfold Dev.wr
      split <;> rfl
    rw [Dev.wrBytes, ih, hwr]

theorem Dev.wrBytes_append (d : Dev) (a : Nat) (bs cs : List Byte) : d.wrBytes a (bs ++ cs) = (d.wrBytes a bs).wrBytes (a + bs.length) cs := by
  induction bs generalizing a d with
  | nil => rfl
  | cons b bs ih =>
    rw [List.cons_append, Dev.wrBytes, ih, Dev.wrBytes, List.length_cons, Nat.add_assoc, Nat.add_comm 1]

theorem place_wr (d : Dev) (a : Nat) (b : Byte) (x : Nat) : (d.wr a b).place x = d.place x := by
  refine (SameMap.of_regs ?_).place x
  unfold Dev.wr
  split <;> rfl

theorem byte_wr (d : Dev) (a : Nat) (b : Byte) (q : Nat) : (d.wr a b).byte q = if d.place a = some q then b else d.byte q := by
  unfold Dev.wr
  split
  · next p hp =>
    rw [Dev.byte_setByte]
    exact if_congr (by rw [hp, Option.some.injEq, eq_comm]) rfl rfl
  · next hp => rw [if_neg (by rw [hp]; exact nofun)]

/-- A place to which no byte of a write goes keeps its byte. -/
theorem byte_wrBytes_other (h : ∀ i, i < bs.length → d.place (a + i) ≠ some q) : (d.wrBytes a bs).byte q = d.byte q := by
  induction bs generalizing a d with
  | nil => rfl
  | cons b bs ih =>
    rw [Dev.wrBytes, ih fun i hi => ?_, byte_wr, if_neg (show d.place a ≠ some q from h 0 (Nat.zero_lt_succ _))]
    rw [place_wr, Nat.add_assoc, Nat.add_comm 1]
    exact h (i + 1) (Nat.succ_lt_succ hi)

/-- The last byte of a write that goes to a place is what it holds. -/
theorem byte_wrBytes_last {i : Nat} (hi : i < bs.length) (hp : d.place (a + i) = some q)
    (hlast : ∀ j, i < j → j < bs.length → d.place (a + j) ≠ some q) : (d.wrBytes a bs).byte q = bs[i] := by
  induction bs generalizing a d i with
  | nil => exact absurd hi (Nat.not_lt_zero _)
  | cons b bs ih =>
    have hshift (j : Nat) : (d.wr a b).place (a + 1 + j) = d.place (a + (j + 1)) := by rw [place_wr, Nat.add_assoc, Nat.add_comm 1]
    rw [Dev.wrBytes]
    cases i with
    | zero =>
      rw [byte_wrBytes_other fun j hj => ?_, byte_wr, if_pos (show d.place a = some q from hp)]
      · rfl
      · rw [hshift]
        exact hlast (j + 1) (Nat.zero_lt_succ _) (Nat.succ_lt_succ hj)
    | succ i =>
      refine ih (Nat.lt_of_succ_lt_succ hi) ((hshift i).trans hp) fun j hj hlt => ?_
      rw [hshift]
      exact hlast (j + 1) (Nat.succ_lt_succ hj) (Nat.succ_lt_succ hlt)

/-- No reduction buffer is enabled. -/
def BuffersOff (d : Dev) : Prop := ∀ i, i < 256 → d.bit (Reg.GRN_RBT_CTL.EN i) = false

theorem BuffersOff.rbtHit (h : BuffersOff d) (a n : Nat) : d.rbtHit a n = [] := by
  unfold Dev.rbtHit
  split
  · rfl
  · rw [List.filter_eq_nil_iff]
    intro i hi
    simp [h i (List.mem_range.1 hi)]

/-- A write to memory without an error stores its bytes. -/
theorem putMem_of_mem (h : Unmarked d) (hoff : BuffersOff d) (hmem : ∀ i, i < bs.length → (d.place (a + i)).isSome) (r : MemRequester) :
    d.putMem r a bs = d.wrBytes a bs := by
  have hhit := hoff.rbtHit a bs.length
  have herr : d.writeErr a bs = none := by
    rw [Dev.writeErr]
    dsimp only
    rw [firstUnmapped_of_mem hmem, h.firstDead, hhit, Dev.firstPartialUe, if_pos h.grn]
    rfl
  have hgood : d.writeGood r a bs = d.wrBytes a bs := by
    rw [Dev.writeGood, hhit]
    dsimp only
    rw [Dev.heal, if_pos ⟨h.grn, h.sram⟩]
  rw [Dev.putMem, Dev.writeMem, herr]
  exact hgood

end Sys2Proof.Machine

/-! ## The rows of an index operation (O18, R149 to R151) -/

namespace Sys2Proof.Machine

variable {d e y z : Dev} {c : CoreId} {o : IxOp} {x : IxDesc} {lo hi j n : Nat}

/-! ### What a descriptor names -/

/-- Index `j` of an operation. -/
def Dev.ixIdx (d : Dev) (c : CoreId) (x : IxDesc) (j : Nat) : Nat := d.clmNat c (x.idxAddr + 4 * j) 4

/-- Index `j` names a row of the table. -/
def Dev.ixNamed (d : Dev) (c : CoreId) (x : IxDesc) (j : Nat) : Prop := d.ixIdx c x j ≠ 0xFFFFFFFF ∧ d.ixIdx c x j < x.bound

/-- The address of the table's row that index `j` names. -/
def Dev.ixAt (d : Dev) (c : CoreId) (x : IxDesc) (j : Nat) : Nat := x.table + d.ixIdx c x j * x.rowStride

/-- The place of row `j` in CLM. -/
def ixPlace (c : CoreId) (x : IxDesc) (j : Nat) : Nat := clmPlace c (x.clmAddr + j * x.rowBytes)

/-- The indices from `lo` up to `hi` that lie at or above BOUND. -/
def Dev.ixOob (d : Dev) (c : CoreId) (x : IxDesc) (lo hi : Nat) : Nat :=
  ((List.range hi).filter fun j => decide (lo ≤ j ∧ d.ixIdx c x j ≠ 0xFFFFFFFF ∧ x.bound ≤ d.ixIdx c x j)).length

theorem ixOob_of_le (h : hi ≤ lo) : d.ixOob c x lo hi = 0 := by
  rw [Dev.ixOob, List.length_eq_zero_iff, List.filter_eq_nil_iff]
  intro j hj
  have := List.mem_range.1 hj
  simp
  omega

theorem ixOob_succ (d : Dev) (c : CoreId) (x : IxDesc) (lo hi : Nat) : d.ixOob c x lo (hi + 1) =
    d.ixOob c x lo hi + if lo ≤ hi ∧ d.ixIdx c x hi ≠ 0xFFFFFFFF ∧ x.bound ≤ d.ixIdx c x hi then 1 else 0 := by
  rw [Dev.ixOob, Dev.ixOob, List.range_succ, List.filter_append, List.length_append, List.filter_singleton]
  congr 1
  split
  · next h => rw [decide_eq_true h]; rfl
  · next h => rw [decide_eq_false h]; rfl

/-- What a well-formed descriptor says of its ranges (R148, R150). -/
structure IxDesc.Fits (x : IxDesc) : Prop where
  indices : x.idxAddr + 4 * x.count ≤ clmSize
  rows : x.clmAddr + x.count * x.rowBytes ≤ clmSize
  picks : x.rowBytes % 32 = 0
  short : x.rowBytes ≤ 4096
  table : x.table + x.bound * x.rowStride ≤ 0x00C000000000

theorem IxOp.fits (h : o.ok = true) : (ixDesc o.desc).Fits := by
  simp only [IxOp.ok, Bool.and_eq_true, Bool.or_eq_true, decide_eq_true_eq] at h
  obtain ⟨⟨⟨⟨⟨⟨⟨⟨⟨⟨⟨-, htable⟩, -⟩, -⟩, -⟩, hpicks⟩, -⟩, hshort⟩, -⟩, -⟩, hindices⟩, hrows⟩ := h
  refine ⟨hindices, hrows, hpicks, hshort, ?_⟩
  obtain ⟨-, hlast⟩ | ⟨⟨-, hlast⟩, -⟩ := htable <;> omega

namespace IxDesc.Fits

variable (hx : x.Fits)
include hx

theorem row_le (hj : j < x.count) : x.clmAddr + j * x.rowBytes + x.rowBytes ≤ clmSize := by
  have hmul : (j + 1) * x.rowBytes ≤ x.count * x.rowBytes := Nat.mul_le_mul_right _ hj
  have := hx.rows
  rw [Nat.add_mul, Nat.one_mul] at hmul
  omega

/-- A named row lies below the CLMs. -/
theorem at_lt {i : Nat} (hnamed : d.ixNamed c x j) (hi : i < x.rowBytes) : d.ixAt c x j + i < csmBase := by
  have hmul : d.ixIdx c x j * x.rowStride ≤ x.bound * x.rowStride := Nat.mul_le_mul_right _ hnamed.2.le
  have htable := hx.table
  have hshort := hx.short
  have hgap : 0x00C000000000 + 4096 ≤ csmBase := by decide
  unfold Dev.ixAt
  omega

end IxDesc.Fits

/-! ### The rows one by one -/

theorem Dev.ixRows_of_le (d : Dev) (c : CoreId) (o : IxOp) (h : hi ≤ lo) : d.ixRows c o lo hi = d := by
  rw [Dev.ixRows, Nat.sub_eq_zero_of_le h]
  rfl

theorem Dev.ixRows_succ (d : Dev) (c : CoreId) (o : IxOp) (h : lo ≤ hi) :
    d.ixRows c o lo (hi + 1) = (d.ixRows c o lo hi).ixRow c o hi := by
  rw [Dev.ixRows, Dev.ixRows, Nat.succ_sub h, List.range_succ, List.map_append, List.foldl_append, List.map_singleton, List.foldl_cons,
    List.foldl_nil, Nat.add_sub_cancel' h]

/-- What holds before the first row, and is kept by each row, holds after the last. -/
theorem ixRows_induction {P : Nat → Dev → Prop} (hbase : ∀ hi, hi ≤ lo → P hi d)
    (hstep : ∀ hi y, lo ≤ hi → hi < n → P hi y → P (hi + 1) (y.ixRow c o hi)) (hhi : hi ≤ n) : P hi (d.ixRows c o lo hi) := by
  induction hi with
  | zero =>
    rw [Dev.ixRows_of_le d c o (Nat.zero_le lo)]
    exact hbase 0 (Nat.zero_le lo)
  | succ hi ih =>
    by_cases hle : lo ≤ hi
    · rw [Dev.ixRows_succ d c o hle]
      exact hstep hi _ hle hhi (ih (Nat.le_of_succ_le hhi))
    · rw [Dev.ixRows_of_le d c o (Nat.not_le.1 hle)]
      exact hbase _ (Nat.not_le.1 hle)

/-- A row whose index can be read. The read is generalized before the definition is applied: the kernel would evaluate it. -/
theorem Dev.ixRow_eq (hy : Unmarked y) (hx : (ixDesc o.desc).Fits) (hj : j < (ixDesc o.desc).count) : y.ixRow c o j =
    let x := ixDesc o.desc
    let row := x.clmAddr + j * x.rowBytes
    let i := y.ixIdx c x j
    if i = 0xFFFFFFFF ∨ x.bound ≤ i then y.ixSkip c o i row
    else if o.scatter then y.putPicks (.index c) (x.table + i * x.rowStride) (y.clm c row x.rowBytes)
    else y.ixPicks c (x.table + i * x.rowStride) row (x.rowBytes / 32) := by
  have hindices := hx.indices
  have hindex := ixRead_of_clm hy c (off := (ixDesc o.desc).idxAddr + 4 * j) (n := 4) (by omega)
  have hrow := ixRead_of_clm hy c (hx.row_le hj)
  have hidx : leNat (y.clm c ((ixDesc o.desc).idxAddr + 4 * j) 4) = y.ixIdx c (ixDesc o.desc) j := rfl
  have hdef : Dev.ixRow = Dev.ixRow := rfl
  conv at hdef =>
    rhs
    delta Dev.ixRow
  generalize Dev.ixRead = read at hindex hrow hdef
  simp only [hdef, hindex, hrow, hidx]

/-! ### What every row leaves -/

/-- The register fields that count indices out of bounds. -/
def oobFields (c : Nat) : List Fld := [Reg.CORE_SEQ_ERR.IDX_OOB c, Reg.CORE_SEQ_ERR.OOB_CNT c]

/-- After the rows from `lo` up to `hi`: cores and marks as before, and the indices out of bounds flagged and counted. -/
structure RowsDone (d : Dev) (c : CoreId) (x : IxDesc) (lo hi : Nat) (e : Dev) : Prop where
  cores : e.cores = d.cores
  unmarked : Unmarked e
  regs : regsBut (oobFields c) d e
  flag : e.bit (Reg.CORE_SEQ_ERR.IDX_OOB c) = (d.bit (Reg.CORE_SEQ_ERR.IDX_OOB c) || decide (d.ixOob c x lo hi ≠ 0))
  count : e.get (Reg.CORE_SEQ_ERR.OOB_CNT c) =
    min (d.get (Reg.CORE_SEQ_ERR.OOB_CNT c) + d.ixOob c x lo hi) (2 ^ (Reg.CORE_SEQ_ERR.OOB_CNT c).width - 1)

theorem oobField_key {f : Fld} {c : Nat} (hf : f ∈ oobFields c) {g : Fld} (hoff : g.off < 0x01000000) (hlo : g.lo < 32) : g.key ≠ f.key := by
  simp only [oobFields, List.mem_cons, List.not_mem_nil, or_false] at hf
  obtain rfl | rfl := hf
  · simp only [Fld.key, Reg.CORE_SEQ_ERR.IDX_OOB]
    omega
  · simp only [Fld.key, Reg.CORE_SEQ_ERR.OOB_CNT]
    omega

namespace RowsDone

theorem sameMap (h : RowsDone d c x lo hi e) : SameMap d e := fun g hoff hlo => h.regs g fun _ hf => oobField_key hf hoff hlo

theorem refl (hd : Unmarked d) (h : hi ≤ lo) : RowsDone d c x lo hi d where
  cores := rfl
  unmarked := hd
  regs := .refl
  flag := by simp [ixOob_of_le h]
  count := by
    have := d.get_lt (Reg.CORE_SEQ_ERR.OOB_CNT c)
    rw [ixOob_of_le h, Nat.add_zero, Nat.min_eq_left (by omega)]

/-- A write of memory leaves the rest. -/
theorem of_memory (h : RowsDone d c x lo hi y) (hcores : z.cores = y.cores) (hregs : z.regs = y.regs) (hz : Unmarked z) :
    RowsDone d c x lo hi z := by
  have hget (g : Fld) : z.get g = y.get g := by
    rw [Dev.get, hregs]
    rfl
  exact ⟨hcores.trans h.cores, hz, fun g hg => (hget g).trans (h.regs g hg), (Dev.bit_congr (hget _)).trans h.flag, (hget _).trans h.count⟩

/-- A row whose index is not out of bounds adds nothing to the count. -/
theorem succ (h : RowsDone d c x lo hi y) (hin : ¬(d.ixIdx c x hi ≠ 0xFFFFFFFF ∧ x.bound ≤ d.ixIdx c x hi)) :
    RowsDone d c x lo (hi + 1) y := by
  have hoob : d.ixOob c x lo (hi + 1) = d.ixOob c x lo hi := by
    rw [ixOob_succ, if_neg fun h => hin h.2, Nat.add_zero]
  exact ⟨h.cores, h.unmarked, h.regs, hoob ▸ h.flag, hoob ▸ h.count⟩

/-- One that is out of bounds is flagged and counted. -/
theorem flagged (h : RowsDone d c x lo hi y) (hle : lo ≤ hi) (hne : d.ixIdx c x hi ≠ 0xFFFFFFFF) (hout : x.bound ≤ d.ixIdx c x hi) :
    RowsDone d c x lo (hi + 1) (y.flag (Reg.CORE_SEQ_ERR.IDX_OOB c) (Reg.CORE_SEQ_ERR.OOB_CNT c)) := by
  have hoob : d.ixOob c x lo (hi + 1) = d.ixOob c x lo hi + 1 := by
    rw [ixOob_succ, if_pos ⟨hle, hne, hout⟩]
  have hkey : (Reg.CORE_SEQ_ERR.IDX_OOB c).key ≠ (Reg.CORE_SEQ_ERR.OOB_CNT c).key := by
    simp only [Fld.key, Reg.CORE_SEQ_ERR.IDX_OOB, Reg.CORE_SEQ_ERR.OOB_CNT]
    omega
  have hflag : onlyRegs (oobFields c) y (y.flag (Reg.CORE_SEQ_ERR.IDX_OOB c) (Reg.CORE_SEQ_ERR.OOB_CNT c)) :=
    onlyRegs_flag y (by simp [oobFields]) (by simp [oobFields])
  refine ⟨?_, ?_, h.regs.trans hflag.2, ?_, ?_⟩
  · rw [hflag.1]
    exact h.cores
  · rw [hflag.1]
    exact ⟨h.unmarked.sram, h.unmarked.grn, h.unmarked.ports⟩
  · rw [Dev.flag, Dev.addSat, Dev.bit_set_other _ _ hkey, Dev.bit_setBit_same _ _ Nat.one_pos, hoob]
    simp
  · rw [Dev.flag, Dev.addSat, Dev.get_set_same, Dev.get_setBit_other _ _ hkey.symm, h.count, hoob]
    have hpos : 0 < 2 ^ (Reg.CORE_SEQ_ERR.OOB_CNT c).width := Nat.two_pow_pos _
    generalize 2 ^ (Reg.CORE_SEQ_ERR.OOB_CNT c).width = m at hpos ⊢
    rw [Nat.mod_eq_of_lt (by omega)]
    omega

end RowsDone

end Sys2Proof.Machine

/-! ## Gathers (O18, R149) -/

namespace Sys2Proof.Machine

variable {d e y z : Dev} {c : CoreId} {o : IxOp} {x : IxDesc} {lo hi j n a row : Nat} {bs : List Byte}

/-- A pick that can be read is written; the read is generalized as in `Dev.ixRow_eq`. -/
theorem Dev.ixPicks_succ (hread : (y.ixPicks c a row n).readMem (.index c) (a + 32 * n) 32 = (some bs, y.ixPicks c a row n)) :
    y.ixPicks c a row (n + 1) = (y.ixPicks c a row n).setClm c (row + 32 * n) bs := by
  have hdef : Dev.ixPicks = Dev.ixPicks := rfl
  conv at hdef =>
    rhs
    delta Dev.ixPicks
  generalize Dev.readMem = read at hread hdef
  simp only [hdef] at hread ⊢
  rw [List.range_succ, List.foldl_append, List.foldl_cons, List.foldl_nil, hread]

theorem Unmarked.setClm (h : Unmarked y) (c off : Nat) (bs : List Byte) : Unmarked (y.setClm c off bs) := by
  rw [Dev.setClm, Dev.setBytes_eq]
  refine ⟨?_, ?_, h.ports⟩
  · simp only [Dev.goodWrite, h.sram, List.filter_nil]
  · simp only [Dev.goodWrite, h.grn, List.filter_nil]

theorem setClm_regs (y : Dev) (c off : Nat) (bs : List Byte) : (y.setClm c off bs).regs = y.regs := (Dev.setClm_frame y c off bs).2

/-- A range of memory that lies below the CLMs. -/
def TableRange (d : Dev) (a n : Nat) : Prop := ∀ i, i < n → ∃ p, d.place (a + i) = some p ∧ p < 2 ^ 42

theorem le_clmPlace (c off : Nat) : 2 ^ 42 ≤ clmPlace c off := by
  rw [clmPlace]
  omega

/-- A write into a CLM leaves the table. -/
theorem rd_of_within {p m n i : Nat} (hmap : SameMap d e) (hbut : bytesBut p m d e) (hp : 2 ^ 42 ≤ p) (htable : TableRange d a n) (hi : i < n) :
    e.rd (a + i) = d.rd (a + i) := by
  obtain ⟨q, hq, hlt⟩ := htable i hi
  rw [rd_of_place hq, rd_of_place ((hmap.place _).trans hq), hbut q (by omega)]

/-- The picks of one row copy it. -/
structure Picked (c : CoreId) (a row n : Nat) (y z : Dev) : Prop where
  cores : z.cores = y.cores
  regs : z.regs = y.regs
  unmarked : Unmarked z
  within : bytesBut (clmPlace c row) (32 * n) y z
  bytes : ∀ i, i < 32 * n → z.byte (clmPlace c row + i) = y.rd (a + i)

theorem picked_ixPicks (hy : Unmarked y) (htable : TableRange y a (32 * n)) : Picked c a row n y (y.ixPicks c a row n) := by
  induction n with
  | zero => exact ⟨rfl, rfl, hy, fun _ _ => rfl, fun i hi => absurd hi (Nat.not_lt_zero i)⟩
  | succ n ih =>
    obtain ⟨hcores, hregs, hunmarked, hwithin, hbytes⟩ := ih fun i hi => htable i (by omega)
    have hmap : SameMap y (y.ixPicks c a row n) := .of_regs hregs
    have hmem (i : Nat) (hi : i < 32) : ((y.ixPicks c a row n).place (a + 32 * n + i)).isSome := by
      obtain ⟨p, hp, -⟩ := htable (32 * n + i) (by omega)
      rw [hmap.place, Nat.add_assoc, hp]
      rfl
    rw [Dev.ixPicks_succ (readMem_of_mem hunmarked hmem _)]
    have hread (i : Nat) (hi : i < 32) : ((y.ixPicks c a row n).rdBytes (a + 32 * n) 32).getD i 0#8 = y.rd (a + (32 * n + i)) := by
      rw [List.getD_eq_getElem _ _ (by simpa [Dev.rdBytes] using hi), ← rd_of_within hmap hwithin (le_clmPlace c row) htable (by omega)]
      simp [Dev.rdBytes, Nat.add_assoc]
    have hlen : ((y.ixPicks c a row n).rdBytes (a + 32 * n) 32).length = 32 := by simp [Dev.rdBytes]
    generalize (y.ixPicks c a row n).rdBytes (a + 32 * n) 32 = bs at hread hlen ⊢
    generalize y.ixPicks c a row n = x at hcores hregs hunmarked hwithin hbytes ⊢
    have hplace : clmPlace c (row + 32 * n) = clmPlace c row + 32 * n := clmPlace_add c row (32 * n)
    obtain ⟨-, hbut⟩ := wroteAt_setClm x c (row + 32 * n) bs
    have hwrote (i : Nat) (hi : i < bs.length) := byte_setClm x c (row + 32 * n) bs hi
    rw [hplace, hlen] at hbut
    rw [hplace, hlen] at hwrote
    refine ⟨(Dev.setClm_frame x c _ bs).1.trans hcores, (setClm_regs x c _ bs).trans hregs, hunmarked.setClm c _ bs, fun p hp => ?_, fun i hi => ?_⟩
    · rw [hbut p (by omega), hwithin p (by omega)]
    · by_cases hlt : i < 32 * n
      · rw [hbut _ (by omega), hbytes i hlt]
      · obtain ⟨t, rfl⟩ := Nat.exists_eq_add_of_le (Nat.le_of_not_lt hlt)
        rw [← Nat.add_assoc, hwrote t (by omega), hread t (by omega)]

/-! ### The rows of a gather -/

/-- The rows from `lo` up to `hi` have been gathered: each named row at its place, zeros where an index names none, nothing else written. -/
structure Gathered (d : Dev) (c : CoreId) (x : IxDesc) (lo hi : Nat) (e : Dev) : Prop where
  within : bytesBut (ixPlace c x lo) ((hi - lo) * x.rowBytes) d e
  rows : ∀ j i, lo ≤ j → j < hi → i < x.rowBytes →
    (d.ixNamed c x j → e.byte (ixPlace c x j + i) = d.rd (d.ixAt c x j + i)) ∧ (¬d.ixNamed c x j → e.byte (ixPlace c x j + i) = 0#8)

theorem ixPlace_eq (c : CoreId) (x : IxDesc) (j : Nat) : ixPlace c x j = clmPlace c x.clmAddr + j * x.rowBytes := clmPlace_add c x.clmAddr _

theorem ixPlace_add (c : CoreId) (x : IxDesc) (j t : Nat) : ixPlace c x (j + t) = ixPlace c x j + t * x.rowBytes := by
  rw [ixPlace_eq, ixPlace_eq, Nat.add_mul, Nat.add_assoc]

theorem Gathered.refl (h : hi ≤ lo) : Gathered d c x lo hi d := ⟨fun _ _ => rfl, fun j _ hlo hhi => by omega⟩

/-- One more row. -/
theorem Gathered.succ (h : Gathered d c x lo hi y) (hle : lo ≤ hi) (hbut : bytesBut (ixPlace c x hi) x.rowBytes y z)
    (hrow : ∀ i, i < x.rowBytes → (d.ixNamed c x hi → z.byte (ixPlace c x hi + i) = d.rd (d.ixAt c x hi + i)) ∧
      (¬d.ixNamed c x hi → z.byte (ixPlace c x hi + i) = 0#8)) : Gathered d c x lo (hi + 1) z := by
  obtain ⟨t, rfl⟩ := Nat.exists_eq_add_of_le hle
  have hlast := ixPlace_add c x lo t
  refine ⟨fun p hp => ?_, fun j i hlo hhi hi => ?_⟩
  · rw [Nat.add_assoc, Nat.add_sub_cancel_left, Nat.add_mul, Nat.one_mul] at hp
    rw [hbut p (by omega), h.within p (by rw [Nat.add_sub_cancel_left]; omega)]
  · by_cases hj : j = lo + t
    · rw [hj]
      exact hrow i hi
    · have hbefore : ixPlace c x j + i < ixPlace c x (lo + t) := by
        have hmul : (j + 1) * x.rowBytes ≤ (lo + t) * x.rowBytes := Nat.mul_le_mul_right _ (by omega)
        rw [Nat.add_mul, Nat.one_mul] at hmul
        rw [ixPlace_eq, ixPlace_eq]
        omega
      rw [hbut _ (by omega)]
      exact h.rows j i hlo (by omega) hi

/-- The places of the indices lie apart from the rows that a gather writes. -/
theorem ixIdx_of_gathered (h : Gathered d c x lo hi y) (hle : lo ≤ hi) (hhi : hi < x.count)
    (hapart : x.idxAddr + 4 * x.count ≤ x.clmAddr ∨ x.clmAddr + x.count * x.rowBytes ≤ x.idxAddr) : y.ixIdx c x hi = d.ixIdx c x hi := by
  obtain ⟨t, rfl⟩ := Nat.exists_eq_add_of_le hle
  have hmul : (lo + t) * x.rowBytes ≤ x.count * x.rowBytes := Nat.mul_le_mul_right _ hhi.le
  have hbyte (i : Nat) (hi : i < 4) : y.byte (clmPlace c (x.idxAddr + 4 * (lo + t)) + i) = d.byte (clmPlace c (x.idxAddr + 4 * (lo + t)) + i) := by
    refine h.within _ ?_
    rw [Nat.add_sub_cancel_left, ixPlace, clmPlace, clmPlace]
    rw [Nat.add_mul] at hmul
    omega
  rw [Dev.ixIdx, Dev.ixIdx, Dev.clmNat, Dev.clmNat]
  exact congrArg leNat (List.map_congr_left fun i hi => hbyte i (List.mem_range.1 hi))

/-! ### An index that names no row -/

/-- The note of an index that names no row. -/
def Dev.oobNote (c : Nat) (i : Nat) (d : Dev) : Dev :=
  if i = 0xFFFFFFFF then d else d.flag (Reg.CORE_SEQ_ERR.IDX_OOB c) (Reg.CORE_SEQ_ERR.OOB_CNT c)

theorem Dev.ixSkip_eq (d : Dev) (c : CoreId) (o : IxOp) (i row : Nat) : d.ixSkip c o i row =
    if o.scatter then d.oobNote c i else (d.oobNote c i).setClm c row (List.replicate (ixDesc o.desc).rowBytes 0#8) := by
  unfold Dev.ixSkip Dev.oobNote
  dsimp only

theorem byte_oobNote (d : Dev) (c i p : Nat) : (d.oobNote c i).byte p = d.byte p := by
  unfold Dev.oobNote
  split <;> rfl

theorem rowsDone_oobNote (h : RowsDone d c x lo hi y) (hle : lo ≤ hi) (hnot : ¬d.ixNamed c x hi) :
    RowsDone d c x lo (hi + 1) (y.oobNote c (d.ixIdx c x hi)) := by
  unfold Dev.oobNote
  split
  · next hnone => exact h.succ fun hout => hout.1 hnone
  · next hsome => exact h.flagged hle hsome (Nat.not_lt.1 fun hlt => hnot ⟨hsome, hlt⟩)

/-- The rows of the table that memory backs. -/
theorem tableRange_of_named (hx : x.Fits) (hnamed : d.ixNamed c x j) (hmem : d.memRange (d.ixAt c x j) x.rowBytes = true) :
    TableRange d (d.ixAt c x j) x.rowBytes := by
  intro i hi
  have hsome := List.all_eq_true.1 hmem i (List.mem_range.2 hi)
  obtain ⟨p, hp⟩ := Option.isSome_iff_exists.1 hsome
  exact ⟨p, hp, place_lt_of_table (hx.at_lt hnamed hi) hp⟩

/-- An index names a row where it is neither the mark of no row nor out of bounds. -/
theorem ixNamed_iff : d.ixNamed c x j ↔ ¬(d.ixIdx c x j = 0xFFFFFFFF ∨ x.bound ≤ d.ixIdx c x j) := by
  rw [Dev.ixNamed, not_or, Nat.not_le]

section
variable (hx : (ixDesc o.desc).Fits) (hd : Unmarked d)
  (hmem : ∀ j, j < (ixDesc o.desc).count → d.ixNamed c (ixDesc o.desc) j →
    d.memRange (d.ixAt c (ixDesc o.desc) j) (ixDesc o.desc).rowBytes = true)
  (hgather : o.scatter = false)
  (hapart : (ixDesc o.desc).idxAddr + 4 * (ixDesc o.desc).count ≤ (ixDesc o.desc).clmAddr ∨
    (ixDesc o.desc).clmAddr + (ixDesc o.desc).count * (ixDesc o.desc).rowBytes ≤ (ixDesc o.desc).idxAddr)
include hx hmem hgather hapart

/-- One row of a gather. -/
theorem gathered_ixRow (hdone : RowsDone d c (ixDesc o.desc) lo hi y) (hrows : Gathered d c (ixDesc o.desc) lo hi y) (hle : lo ≤ hi)
    (hhi : hi < (ixDesc o.desc).count) :
    RowsDone d c (ixDesc o.desc) lo (hi + 1) (y.ixRow c o hi) ∧ Gathered d c (ixDesc o.desc) lo (hi + 1) (y.ixRow c o hi) := by
  rw [Dev.ixRow_eq hdone.unmarked hx hhi]
  dsimp only
  rw [ixIdx_of_gathered hrows hle hhi hapart]
  by_cases hnamed : d.ixNamed c (ixDesc o.desc) hi
  · rw [if_neg (ixNamed_iff.1 hnamed), if_neg (by simp [hgather])]
    have htable := tableRange_of_named hx hnamed (hmem hi hhi hnamed)
    have hbytes : 32 * ((ixDesc o.desc).rowBytes / 32) = (ixDesc o.desc).rowBytes := by
      have := hx.picks
      omega
    obtain ⟨hcores, hregs, hunmarked, hwithin, hcopied⟩ := picked_ixPicks (c := c) (row := (ixDesc o.desc).clmAddr + hi * (ixDesc o.desc).rowBytes)
      (n := (ixDesc o.desc).rowBytes / 32) hdone.unmarked (a := d.ixAt c (ixDesc o.desc) hi) fun i hi => by
        obtain ⟨p, hp, hlt⟩ := htable i (hbytes ▸ hi)
        exact ⟨p, (hdone.sameMap.place _).trans hp, hlt⟩
    rw [hbytes] at hwithin hcopied
    refine ⟨(hdone.succ fun hout => absurd hnamed.2 (Nat.not_lt.2 hout.2)).of_memory hcores hregs hunmarked,
      hrows.succ hle hwithin fun i hi => ⟨fun _ => (hcopied i hi).trans ?_, fun hnot => absurd hnamed hnot⟩⟩
    exact rd_of_within hdone.sameMap hrows.within (le_clmPlace c _) htable hi
  · rw [if_pos (not_not.1 (mt ixNamed_iff.2 hnamed)), Dev.ixSkip_eq, if_neg (by simp [hgather])]
    have hnoted := rowsDone_oobNote hdone hle hnamed
    have hbyte (p : Nat) := byte_oobNote y c (d.ixIdx c (ixDesc o.desc) hi) p
    generalize y.oobNote c (d.ixIdx c (ixDesc o.desc) hi) = z at hnoted hbyte ⊢
    generalize hzeros : List.replicate (ixDesc o.desc).rowBytes 0#8 = zeros
    have hlen : zeros.length = (ixDesc o.desc).rowBytes := by rw [← hzeros, List.length_replicate]
    have hbut := (wroteAt_setClm z c ((ixDesc o.desc).clmAddr + hi * (ixDesc o.desc).rowBytes) zeros).bytes
    have hzero (i : Nat) (hi : i < zeros.length) : zeros.getD i 0#8 = 0#8 := by
      rw [← hzeros] at hi ⊢
      rw [List.getD_eq_getElem _ _ hi, List.getElem_replicate]
    have hwrote (i : Nat) (hi' : i < zeros.length) :=
      (byte_setClm z c ((ixDesc o.desc).clmAddr + hi * (ixDesc o.desc).rowBytes) zeros hi').trans (hzero i hi')
    rw [hlen] at hbut hwrote
    refine ⟨hnoted.of_memory (Dev.setClm_frame z c _ zeros).1 (setClm_regs z c _ zeros) (hnoted.unmarked.setClm c _ zeros),
      hrows.succ hle (fun p hp => (hbut p hp).trans (hbyte p)) fun i hi => ⟨fun h => absurd h hnamed, fun _ => hwrote i hi⟩⟩

include hd

/-- The rows of a gather. -/
theorem gathered_ixRows (hhi : hi ≤ (ixDesc o.desc).count) :
    RowsDone d c (ixDesc o.desc) lo hi (d.ixRows c o lo hi) ∧ Gathered d c (ixDesc o.desc) lo hi (d.ixRows c o lo hi) :=
  ixRows_induction (P := fun hi y => RowsDone d c (ixDesc o.desc) lo hi y ∧ Gathered d c (ixDesc o.desc) lo hi y)
    (fun _ hle => ⟨.refl hd hle, .refl hle⟩)
    (fun _ _ hle hlt h => gathered_ixRow hx hmem hgather hapart h.1 h.2 hle hlt) hhi

end

end Sys2Proof.Machine

/-! ## Scatters (O18, R150, R183) -/

namespace Sys2Proof.Machine

variable {s : State} {d e y z : Dev} {c : CoreId} {o : IxOp} {x : IxDesc} {lo hi j n a w : Nat} {bs : List Byte} {ecc : WordEcc}

/-- The writes of the picks, one after another, store the bytes in their order. -/
theorem foldl_putMem (r : MemRequester) (a fuel k : Nat) {bs : List Byte} (hfuel : bs.length ≤ fuel) (hd : Unmarked d) (hoff : BuffersOff d)
    (hmem : ∀ i, i < bs.length → (d.place (a + 32 * k + i)).isSome) :
    ((chunksAux 32 fuel bs).zipIdx k).foldl (fun d p => d.putMem r (a + 32 * p.2) p.1) d = d.wrBytes (a + 32 * k) bs := by
  induction fuel generalizing bs d k with
  | zero =>
    rw [List.length_eq_zero_iff.1 (Nat.le_zero.1 hfuel)]
    rfl
  | succ fuel ih =>
    cases bs with
    | nil => rfl
    | cons b bs =>
      rw [chunksAux, List.zipIdx_cons, List.foldl_cons]
      · have hlen : ((b :: bs).take 32).length ≤ (b :: bs).length := List.length_take_le' _ _
        rw [putMem_of_mem hd hoff fun i hi => hmem i (Nat.lt_of_lt_of_le hi hlen)]
        have hframe := d.wrBytes_frame (a + 32 * k) ((b :: bs).take 32)
        have hwhole := d.wrBytes_append (a + 32 * k) ((b :: bs).take 32) ((b :: bs).drop 32)
        rw [List.take_append_drop] at hwhole
        generalize d.wrBytes (a + 32 * k) ((b :: bs).take 32) = z at hframe hwhole ⊢
        have hmap : SameMap d z := .of_regs (by rw [hframe])
        have hoffZ : BuffersOff z := fun i hi => by
          rw [hframe]
          exact hoff i hi
        have hrest : ((b :: bs).drop 32).length ≤ fuel := by
          rw [List.length_drop, List.length_cons] at *
          omega
        rw [ih (k + 1) hrest (hd.of_wrote hframe) hoffZ fun i hi => ?_, hwhole]
        · by_cases hshort : (b :: bs).length ≤ 32
          · rw [List.drop_eq_nil_of_le hshort]
            rfl
          · rw [List.length_take_of_le (by omega), Nat.mul_succ, Nat.add_assoc]
        · rw [List.length_drop] at hi
          rw [hmap.place, Nat.mul_succ, ← Nat.add_assoc, Nat.add_assoc (a + 32 * k)]
          exact hmem (32 + i) (by omega)
      · simp

theorem putPicks_of_mem (r : MemRequester) (hd : Unmarked d) (hoff : BuffersOff d) (hmem : ∀ i, i < bs.length → (d.place (a + i)).isSome) :
    d.putPicks r a bs = d.wrBytes a bs := foldl_putMem r a bs.length 0 (Nat.le_refl _) hd hoff hmem

/-! ### The rows of a scatter -/

/-- The rows from `lo` up to `hi` have been scattered: a place holds the last byte written to it, and no other place has changed. -/
structure Scattered (d : Dev) (c : CoreId) (x : IxDesc) (lo hi : Nat) (e : Dev) : Prop where
  others : ∀ q, (∀ j i, lo ≤ j → j < hi → d.ixNamed c x j → i < x.rowBytes → d.place (d.ixAt c x j + i) ≠ some q) →
    e.byte q = d.byte q
  last : ∀ j i q, lo ≤ j → j < hi → d.ixNamed c x j → i < x.rowBytes → d.place (d.ixAt c x j + i) = some q →
    (∀ j' i', j < j' → j' < hi → d.ixNamed c x j' → i' < x.rowBytes → d.place (d.ixAt c x j' + i') ≠ some q) →
    (∀ i', i < i' → i' < x.rowBytes → d.place (d.ixAt c x j + i') ≠ some q) → e.byte q = d.byte (ixPlace c x j + i)

theorem Scattered.refl (h : hi ≤ lo) : Scattered d c x lo hi d := ⟨fun _ _ => rfl, fun j _ _ hlo hhi => by omega⟩

/-- An index that names no row adds no write. -/
theorem Scattered.skip (h : Scattered d c x lo hi y) (hnot : ¬d.ixNamed c x hi) (hbytes : ∀ p, z.byte p = y.byte p) :
    Scattered d c x lo (hi + 1) z where
  others q hq := (hbytes q).trans (h.others q fun j i hlo hhi => hq j i hlo (Nat.lt_succ_of_lt hhi))
  last j i q hlo hhi hnamed hi' hp hlater := by
    have hne : j ≠ hi := fun heq => hnot (heq ▸ hnamed)
    exact fun hlast => (hbytes q).trans (h.last j i q hlo (by omega) hnamed hi' hp
      (fun j' i' hlt hhi' => hlater j' i' hlt (Nat.lt_succ_of_lt hhi')) hlast)

/-- A named row is written. -/
theorem Scattered.write (h : Scattered d c x lo hi y) (hle : lo ≤ hi) (hmap : SameMap d y) (hlen : bs.length = x.rowBytes)
    (hnamed : d.ixNamed c x hi) (hbs : ∀ i (hi' : i < bs.length), bs[i] = d.byte (ixPlace c x hi + i)) :
    Scattered d c x lo (hi + 1) (y.wrBytes (d.ixAt c x hi) bs) where
  others q hq := by
    rw [byte_wrBytes_other fun i hi' => ?_]
    · exact h.others q fun j i hlo hhi => hq j i hlo (Nat.lt_succ_of_lt hhi)
    · rw [hmap.place]
      exact hq hi i hle (Nat.lt_succ_self _) hnamed (hlen ▸ hi')
  last j i q hlo hhi hnamedJ hi' hp hlater hlast := by
    by_cases hj : j = hi
    · subst hj
      rw [byte_wrBytes_last (hlen ▸ hi') ((hmap.place _).trans hp), hbs]
      intro i' hlt hi''
      rw [hmap.place]
      exact hlast i' hlt (hlen ▸ hi'')
    · rw [byte_wrBytes_other fun i' hi'' => ?_]
      · exact h.last j i q hlo (by omega) hnamedJ hi' hp (fun j' i' hlt hhi' => hlater j' i' hlt (Nat.lt_succ_of_lt hhi')) hlast
      · rw [hmap.place]
        exact hlater hi i' (by omega) (Nat.lt_succ_self _) hnamed (hlen ▸ hi'')

section
variable (hx : (ixDesc o.desc).Fits) (hd : Unmarked d)
  (hmem : ∀ j, j < (ixDesc o.desc).count → d.ixNamed c (ixDesc o.desc) j →
    d.memRange (d.ixAt c (ixDesc o.desc) j) (ixDesc o.desc).rowBytes = true)
  (hscatter : o.scatter = true) (hoff : BuffersOff d)
include hx hmem

/-- A scatter leaves the CLMs. -/
theorem byte_clm_of_scattered (h : Scattered d c (ixDesc o.desc) lo hi y) (hhi : hi ≤ (ixDesc o.desc).count) {p : Nat} (hp : 2 ^ 42 ≤ p) :
    y.byte p = d.byte p := by
  refine h.others p fun j i _ hj hnamed hi' hplace => ?_
  obtain ⟨q, hq, hlt⟩ := tableRange_of_named hx hnamed (hmem j (by omega) hnamed) i hi'
  rw [hq, Option.some.injEq] at hplace
  omega

include hscatter hoff

/-- One row of a scatter. -/
theorem scattered_ixRow (hdone : RowsDone d c (ixDesc o.desc) lo hi y) (hrows : Scattered d c (ixDesc o.desc) lo hi y) (hle : lo ≤ hi)
    (hhi : hi < (ixDesc o.desc).count) :
    RowsDone d c (ixDesc o.desc) lo (hi + 1) (y.ixRow c o hi) ∧ Scattered d c (ixDesc o.desc) lo (hi + 1) (y.ixRow c o hi) := by
  have hclm (off n : Nat) : y.clm c off n = d.clm c off n :=
    List.map_congr_left fun i _ => byte_clm_of_scattered hx hmem hrows hhi.le (Nat.le_add_right_of_le (le_clmPlace c off))
  have hidx : y.ixIdx c (ixDesc o.desc) hi = d.ixIdx c (ixDesc o.desc) hi := congrArg leNat (hclm _ _)
  rw [Dev.ixRow_eq hdone.unmarked hx hhi]
  dsimp only
  rw [hidx, hclm]
  by_cases hnamed : d.ixNamed c (ixDesc o.desc) hi
  · rw [if_neg (ixNamed_iff.1 hnamed), if_pos hscatter]
    have htable := tableRange_of_named hx hnamed (hmem hi hhi hnamed)
    have hlen : (d.clm c ((ixDesc o.desc).clmAddr + hi * (ixDesc o.desc).rowBytes) (ixDesc o.desc).rowBytes).length = (ixDesc o.desc).rowBytes := by
      simp [Dev.clm, Dev.bytes]
    have hbs (i : Nat) (hi' : i < (d.clm c ((ixDesc o.desc).clmAddr + hi * (ixDesc o.desc).rowBytes) (ixDesc o.desc).rowBytes).length) :
        (d.clm c ((ixDesc o.desc).clmAddr + hi * (ixDesc o.desc).rowBytes) (ixDesc o.desc).rowBytes)[i] =
          d.byte (ixPlace c (ixDesc o.desc) hi + i) := by
      simp [Dev.clm, Dev.bytes, ixPlace]
    generalize d.clm c ((ixDesc o.desc).clmAddr + hi * (ixDesc o.desc).rowBytes) (ixDesc o.desc).rowBytes = bs at hlen hbs ⊢
    have hoffY : BuffersOff y := fun i hi => by
      have hlow : (Reg.GRN_RBT_CTL.EN i).off < 0x01000000 := by
        simp only [Reg.GRN_RBT_CTL.EN]
        omega
      exact (Dev.bit_congr (hdone.sameMap _ hlow (show 5 < 32 by decide))).trans (hoff i hi)
    have hput := putPicks_of_mem (.index c) hdone.unmarked hoffY (a := d.ixAt c (ixDesc o.desc) hi) (bs := bs) fun i hi' => by
      obtain ⟨p, hp, -⟩ := htable i (hlen ▸ hi')
      rw [hdone.sameMap.place, hp]
      rfl
    have hframe := y.wrBytes_frame (d.ixAt c (ixDesc o.desc) hi) bs
    rw [Dev.ixAt] at hput
    rw [hput]
    refine ⟨(hdone.succ fun hout => absurd hnamed.2 (Nat.not_lt.2 hout.2)).of_memory ?_ ?_ (hdone.unmarked.of_wrote hframe),
      hrows.write hle hdone.sameMap hlen hnamed hbs⟩
    · exact (congrArg Dev.cores hframe :)
    · exact (congrArg Dev.regs hframe :)
  · rw [if_pos (not_not.1 (mt ixNamed_iff.2 hnamed)), Dev.ixSkip_eq, if_pos hscatter]
    exact ⟨rowsDone_oobNote hdone hle hnamed, hrows.skip hnamed (byte_oobNote y c _)⟩

include hd

/-- The rows of a scatter. -/
theorem scattered_ixRows (hhi : hi ≤ (ixDesc o.desc).count) :
    RowsDone d c (ixDesc o.desc) lo hi (d.ixRows c o lo hi) ∧ Scattered d c (ixDesc o.desc) lo hi (d.ixRows c o lo hi) :=
  ixRows_induction (P := fun hi y => RowsDone d c (ixDesc o.desc) lo hi y ∧ Scattered d c (ixDesc o.desc) lo hi y)
    (fun _ hle => ⟨.refl hd hle, .refl hle⟩)
    (fun _ _ hle hlt h => scattered_ixRow hx hmem hscatter hoff h.1 h.2 hle hlt) hhi

end

/-! ### The end of an operation (R151) -/

/-- The events lie apart from the fields that count indices out of bounds. -/
theorem evtFields_apart_oob (c : Nat) : ∀ g ∈ evtFields c, ∀ f ∈ oobFields c, g.key ≠ f.key := by
  simp only [evtFields, oobFields, List.forall_mem_cons, Fld.key, Reg.CORE_SEQ_EVT_LO.EVT, Reg.CORE_SEQ_EVT_HI.EVT,
    Reg.CORE_SEQ_ERR.IDX_OOB, Reg.CORE_SEQ_ERR.OOB_CNT, List.not_mem_nil, false_imp_iff, implies_true, and_true]
  and_intros <;> omega

/-- What an operation leaves besides memory. -/
structure IxEnded (d : Dev) (c : CoreId) (o : IxOp) (rest : List IxOp) (e : Dev) : Prop where
  cores : coresBut c d e
  core : e.core c = { d.core c with ixq := rest }
  events : ∀ v, v < 64 → e.event c v = (decide (v = o.event) || d.event c v)
  flag : e.bit (Reg.CORE_SEQ_ERR.IDX_OOB c) =
    (d.bit (Reg.CORE_SEQ_ERR.IDX_OOB c) || decide (d.ixOob c (ixDesc o.desc) o.done (ixDesc o.desc).count ≠ 0))
  count : e.get (Reg.CORE_SEQ_ERR.OOB_CNT c) =
    min (d.get (Reg.CORE_SEQ_ERR.OOB_CNT c) + d.ixOob c (ixDesc o.desc) o.done (ixDesc o.desc).count)
      (2 ^ (Reg.CORE_SEQ_ERR.OOB_CNT c).width - 1)

theorem ixEnded_ixEnd (h : RowsDone d c (ixDesc o.desc) o.done (ixDesc o.desc).count y) (rest : List IxOp) :
    IxEnded d c o rest (y.ixEnd c o rest) := by
  have hcore (j : Nat) : y.core j = d.core j := congrArg (mget Core.reset · j) h.cores
  have hevents := onlyRegs_setEvent (y.modCore c fun k => { k with ixq := rest }) c o.event
  have hend := CoreRegs.of_onlyRegs (c := c) hevents
  have hkept {f : Fld} (hf : f ∈ oobFields c) : (y.ixEnd c o rest).get f = y.get f :=
    hevents.2 f fun g hg => (evtFields_apart_oob c g hg f hf).symm
  refine ⟨fun j hj => ?_, ?_, fun v hv => ?_, ?_, ?_⟩
  · exact (hend.cores j hj).trans ((Dev.core_modCore_other y _ hj).trans (hcore j))
  · refine hend.core.trans ((Dev.core_modCore_same y c _).trans ?_)
    rw [hcore]
  · have hevent : y.event c v = d.event c v := by
      rw [Dev.event, Dev.event, h.regs _ (evtFields_apart_oob c _ (eventFld_mem c v))]
    exact (event_setEvent (y.modCore c fun k => { k with ixq := rest }) c o.event hv).trans (congrArg (decide (v = o.event) || ·) hevent)
  · exact (Dev.bit_congr (hkept (by simp [oobFields]))).trans h.flag
  · exact (hkept (by simp [oobFields])).trans h.count

theorem byte_ixEnd (y : Dev) (c : CoreId) (o : IxOp) (rest : List IxOp) (p : Nat) : (y.ixEnd c o rest).byte p = y.byte p :=
  (CoreRegs.of_onlyRegs (c := c) (onlyRegs_setEvent (y.modCore c fun k => { k with ixq := rest }) c o.event)).byte p

/-! ### The statement -/

/-- Settles O18: the queue by `queues_of_issues`, the rows by `gathered_ixRows` and `scattered_ixRows`, the end by `ixEnded_ixEnd`. -/
theorem indexUnit : Obligations.IndexUnit := by
  intro s c ecc w
  refine ⟨?queue, ?done⟩
  case queue =>
    intro d k a inClm' queues h
    have hqueues {i : Instr} {scatter : Bool} (hi : Queues i s c w scatter d) : queues i scatter :=
      ⟨fun hroom => ⟨hi.reads hroom, hi.stops hroom, hi.outside hroom⟩, hi.full⟩
    refine ⟨fun hop => ⟨fun hacc => hqueues (queues_of_issues rfl h hop (by simp [hacc])), fun hacc => ?_⟩,
      fun hop => hqueues (queues_of_issues rfl h hop rfl)⟩
    exact does_issue_stops (uses := usesRa) (legal := fun w => false || !(wImm w).testBit 8) rfl h hop (by simp [hacc])
  case done =>
    intro d k o rest hq hon hdraining hquiesced hcheck
    have hdone {post : Dev → Prop} := does_indexOpDone (post := post) hq hon hdraining hquiesced hcheck
    refine ⟨fun hbad => hdone ?malformed, fun hok => ?rows⟩
    case malformed =>
      rw [if_pos (by simp [hbad])]
      exact ixMalformed_spec d c rest
    case rows =>
      intro x n idx named at_ row oob ended hsram hgrn hports hmem
      have hx := IxOp.fits hok
      have hd : Unmarked d := ⟨hsram, hgrn, hports⟩
      have hended {e : Dev} (h : IxEnded d c o rest e) : ended e := ⟨h.cores, h.core, h.events, h.flag, h.count⟩
      have hwell {post : Dev → Prop} (hp : post ((d.ixRows c o o.done x.count).ixEnd c o rest)) : Does (.indexOpDone c) s post :=
        hdone (by rwa [if_neg (by simp [hok])])
      refine ⟨fun hgather hapart => hwell ?_, fun hscatter hoff => hwell ?_⟩
      · obtain ⟨hrows, hwithin, hbytes⟩ := gathered_ixRows (lo := o.done) (hi := x.count) hx hd hmem hgather hapart (Nat.le_refl _)
        refine ⟨hended (ixEnded_ixEnd hrows rest), fun p hp => (byte_ixEnd _ c o rest p).trans (hwithin p hp), fun j i hlo hhi hi' => ?_⟩
        rw [byte_ixEnd]
        exact hbytes j i hlo hhi hi'
      · obtain ⟨hrows, hothers, hlast⟩ := scattered_ixRows (lo := o.done) (hi := x.count) hx hd hmem hscatter hoff (Nat.le_refl _)
        refine ⟨hended (ixEnded_ixEnd hrows rest), fun q hq' => (byte_ixEnd _ c o rest q).trans (hothers q hq'),
          fun j i q hlo hhi hnamed hi' hp hlater hlastHere => (byte_ixEnd _ c o rest q).trans (hlast j i q hlo hhi hnamed hi' hp hlater hlastHere)⟩

end Sys2Proof.Machine

/-! ## What the memories log (R173 to R180, R190, R191)

A corrected, a retried or an uncorrectable access changes the error registers of its stack or port and is recorded. It changes no byte, no mark
and no table that leads an address to its place. -/

namespace Sys2Proof.Machine

variable {d e f x : Dev} {k p a n : Nat} {fs gs : List Fld}

/-! ### Raised counts and noted addresses -/

theorem get_addSat_same (d : Dev) (x : Fld) (n : Nat) : (d.addSat x n).get x = min (d.get x + n) (2 ^ x.width - 1) := by
  have hpos : 0 < 2 ^ x.width := Nat.two_pow_pos _
  rw [Dev.addSat, Dev.get_set_same, Nat.mod_eq_of_lt (by omega)]

/-- The address of an error is noted, but while the flag holds an earlier one. -/
def Dev.noteAddr (ue lo : Fld) (a : Nat) (d : Dev) : Dev := if d.bit ue then d else d.set64 lo a

theorem onlyRegs_noteAddr (d : Dev) (ue lo : Fld) (a : Nat) : onlyRegs [lo, lo.hi] d (d.noteAddr ue lo a) :=
  onlyRegs_ite .refl (onlyRegs_set64 d lo a)

theorem Dev.grnUe_eq (d : Dev) (k a : Nat) :
    d.grnUe k a = (d.noteAddr (Reg.GRN_ERR.UE k) (Reg.GRN_ERRADDR_LO.ADDR k) a).setBit (Reg.GRN_ERR.UE k) true := rfl

theorem Dev.gdmUe_eq (d : Dev) (p a : Nat) :
    d.gdmUe p a = (d.noteAddr (Reg.GDM_ERR.UE p) (Reg.GDM_ERRADDR_LO.ADDR p) a).setBit (Reg.GDM_ERR.UE p) true := rfl

/-! ### The frame of what is logged -/

/-- The fields of the memory units: the Granary stacks, or the GDDR ports and what lies above them. -/
def Fld.inMemUnit (g : Fld) : Prop := (0x00200000 ≤ g.off ∧ g.off < 0x00280000 ∨ 0x00300000 ≤ g.off) ∧ g.lo < 32

theorem Fld.inMemUnit.not_reportField {g : Fld} (h : g.inMemUnit) : ∀ f ∈ reportFields, g.key ≠ f.key := by
  obtain ⟨hoff, -⟩ := h
  have hlow : ∀ f ∈ reportFields, f.key < 0x00200000 * 32 := by decide
  intro f hf
  have := hlow f hf
  simp only [Fld.key] at this ⊢
  omega

/-- Nothing differs but register fields among `fs`, what the stacks and the ports hold about errors, and what recording an event changes. -/
structure Logged (fs : List Fld) (d e : Dev) : Prop where
  frame : e = { d with regs := e.regs, grn := e.grn, gdmCe := e.gdmCe, flt := e.flt, host := e.host, out := e.out }
  fields : regsBut (fs ++ reportFields) d e

namespace Logged

theorem trans (h : Logged fs d e) (h' : Logged fs e f) : Logged fs d f where
  frame := by
    calc f = { e with regs := f.regs, grn := f.grn, gdmCe := f.gdmCe, flt := f.flt, host := f.host, out := f.out } := h'.frame
      _ = { d with regs := f.regs, grn := f.grn, gdmCe := f.gdmCe, flt := f.flt, host := f.host, out := f.out } := by rw [h.frame]
  fields := h.fields.trans h'.fields

theorem mono (h : Logged fs d e) (hsub : fs ⊆ gs) : Logged gs d e :=
  ⟨h.frame, h.fields.mono (List.append_subset.2 ⟨List.subset_append_of_subset_left _ hsub, List.subset_append_right _ _⟩)⟩

theorem of_reported (h : Reported d e) : Logged fs d e where
  frame := by rw [h.frame]
  fields := h.fields.mono (List.subset_append_right _ _)

theorem of_onlyRegs (h : onlyRegs fs d e) : Logged fs d e where
  frame := by rw [h.1]
  fields := h.2.mono (List.subset_append_left _ _)

theorem of_grn (m : SMap Granary) : Logged fs d { d with grn := m } := ⟨rfl, fun _ _ => rfl⟩

theorem of_gdmCe (m : SMap Nat) : Logged fs d { d with gdmCe := m } := ⟨rfl, fun _ _ => rfl⟩

theorem mem (h : Logged fs d e) : e.mem = d.mem := by rw [h.frame]
theorem cores (h : Logged fs d e) : e.cores = d.cores := by rw [h.frame]
theorem grnBad (h : Logged fs d e) : e.grnBad = d.grnBad := by rw [h.frame]
theorem sramEcc (h : Logged fs d e) : e.sramEcc = d.sramEcc := by rw [h.frame]
theorem gdmDead (h : Logged fs d e) : e.gdmDead = d.gdmDead := by rw [h.frame]

end Logged

/-! ### Where addresses lead -/

/-- The translation tables and the size of the host window agree. -/
structure SameTables (d e : Dev) : Prop where
  tables : ∀ g : Fld, 0x00280000 ≤ g.off → g.off < 0x00281000 → g.lo < 32 → e.get g = d.get g
  window : e.get Reg.HST_HWIN_SIZE = d.get Reg.HST_HWIN_SIZE

theorem SameTables.of_regs (h : e.regs = d.regs) : SameTables d e :=
  have hget (g : Fld) : e.get g = d.get g := by rw [Dev.get, h]; rfl
  ⟨fun g _ _ _ => hget g, hget _⟩

theorem SameTables.grnLoc (h : SameTables d e) (ha : a < 0x006000000000) : e.grnLoc a = d.grnLoc a := by
  have hget (lo width reset : Nat) (hlo : lo < 32) : e.get ⟨0x00280000 + a / 2 ^ 30 * 4, lo, width, reset⟩ = d.get ⟨_, lo, width, reset⟩ :=
    h.tables _ (Nat.le_add_right _ _) (by dsimp only; omega) hlo
  simp only [Dev.grnLoc, Reg.GRN_IAT.SLOT, Reg.GRN_IAT.PART, Reg.GRN_IAT.MODE, Reg.GRN_IAT.HOME, hget _ _ _ (by decide : 0 < 32),
    hget _ _ _ (by decide : 2 < 32), hget _ _ _ (by decide : 5 < 32), hget _ _ _ (by decide : 11 < 32)]

theorem SameTables.gdmLoc (h : SameTables d e) (ha : a < 0x004000000000) : e.gdmLoc a = d.gdmLoc a := by
  have hget (lo width reset : Nat) (hlo : lo < 32) : e.get ⟨0x00280800 + a / 2 ^ 30 * 4, lo, width, reset⟩ = d.get ⟨_, lo, width, reset⟩ :=
    h.tables _ (by dsimp only; omega) (by dsimp only; omega) hlo
  simp only [Dev.gdmLoc, Reg.GDM_IAT.SLOT, Reg.GDM_IAT.PART, Reg.GDM_IAT.MODE, Reg.GDM_IAT.HOME, hget _ _ _ (by decide : 0 < 32),
    hget _ _ _ (by decide : 2 < 32), hget _ _ _ (by decide : 7 < 32), hget _ _ _ (by decide : 12 < 32)]

theorem SameTables.place (h : SameTables d e) (a : Nat) : e.place a = d.place a := by
  have hloc : e.loc a = d.loc a := by
    unfold Dev.loc
    refine ite_congr rfl (fun ha => by rw [h.grnLoc ha]) fun _ => ite_congr rfl (fun _ => rfl) fun _ =>
      ite_congr rfl (fun ha => ?_) fun _ => by rw [h.window]
    rw [h.gdmLoc (by rw [gdmBase]; omega)]
  rw [Dev.place, Dev.place, hloc]

theorem Logged.sameTables (h : Logged fs d e) (hfs : ∀ f ∈ fs, f.inMemUnit) : SameTables d e := by
  have hreports : ∀ f ∈ reportFields, f.key < 0x00200000 * 32 ∧ f.key ≠ Reg.HST_HWIN_SIZE.key := by decide
  refine ⟨fun g hlo hhi hbit => h.fields g fun f hf => ?_, h.fields _ fun f hf => ?_⟩
  · simp only [Fld.key]
    obtain hf | hf := List.mem_append.1 hf
    · obtain ⟨hoff, hlo'⟩ := hfs f hf
      omega
    · have := (hreports f hf).1
      simp only [Fld.key] at this
      omega
  · obtain hf | hf := List.mem_append.1 hf
    · obtain ⟨hoff, hlo'⟩ := hfs f hf
      simp only [Fld.key, Reg.HST_HWIN_SIZE]
      omega
    · exact (hreports f hf).2.symm

/-! ### Reads of the same memory -/

theorem firstUnmapped_congr (hplace : ∀ x, e.place x = d.place x) (a n : Nat) : e.firstUnmapped a n = d.firstUnmapped a n := by
  simp only [Dev.firstUnmapped, hplace]

theorem readErr_congr (hplace : ∀ x, e.place x = d.place x) (hgrn : e.grnBad = d.grnBad) (hsram : e.sramEcc = d.sramEcc)
    (hdead : e.gdmDead = d.gdmDead) (a n : Nat) : e.readErr a n = d.readErr a n := by
  simp only [Dev.readErr, Dev.firstBad, Dev.firstUe, Dev.firstDead, firstUnmapped_congr hplace, hplace, hgrn, hsram, hdead]

theorem rdBytes_congr (hplace : ∀ x, e.place x = d.place x) (hmem : e.mem = d.mem) (a n : Nat) : e.rdBytes a n = d.rdBytes a n := by
  simp only [Dev.rdBytes, Dev.rd, Dev.byte, hplace, hmem]

theorem Logged.readErr (h : Logged fs d e) (hfs : ∀ f ∈ fs, f.inMemUnit) (a n : Nat) : e.readErr a n = d.readErr a n :=
  readErr_congr (h.sameTables hfs).place h.grnBad h.sramEcc h.gdmDead a n

theorem Logged.rdBytes (h : Logged fs d e) (hfs : ∀ f ∈ fs, f.inMemUnit) (a n : Nat) : e.rdBytes a n = d.rdBytes a n :=
  rdBytes_congr (h.sameTables hfs).place h.mem a n

/-- A read that succeeds finds every byte on some memory. -/
theorem firstUnmapped_of_readErr (h : d.readErr a n = none) : d.firstUnmapped a n = none := by
  unfold Dev.readErr at h
  split at h
  · cases h
  · assumption

/-! ### Events that do not stop the job -/

theorem reported_raise (d : Dev) {ev : Ev} (h : faultClass ev.code ≠ 4) : Reported d (d.raise ev) := by
  have hlog := reported_logOpen d ev
  simp only [Dev.raise]
  split
  · split
    · exact hlog.trans (reported_addWeight _ _)
    · exact hlog
  · split
    · exact hlog.trans (reported_msix _ _)
    · exact hlog
  · exact absurd ‹_› h
  · exact hlog.trans (reported_withdraw _ _)
  · exact hlog

theorem reported_warnHourly (d : Dev) (mon : Nat) {ev : Ev} (h : faultClass ev.code ≠ 4) : Reported d (d.warnHourly mon ev) := by
  unfold Dev.warnHourly
  split
  · exact .refl
  · exact (reported_flt d _).trans (reported_raise _ h)

theorem logOpen_out (d : Dev) (ev : Ev) : (d.logOpen ev).2.out = d.out := by
  unfold Dev.logOpen
  split
  · rfl
  · split
    · rfl
    · unfold Dev.glnLost
      dsimp only
      split <;> rfl

/-- With the interrupt for correctable job faults off, such a fault drives nothing outwards. -/
theorem out_raise_of_quiet {ev : Ev} (h : faultClass ev.code = 3) (hquiet : d.bit Reg.FLT_CTL.INT3 = false) : (d.raise ev).out = d.out := by
  have hbit : (d.logOpen ev).2.bit Reg.FLT_CTL.INT3 = false :=
    (Dev.bit_congr ((reported_logOpen d ev).fields _ (by decide))).trans hquiet
  simp only [Dev.raise, h, hbit]
  exact logOpen_out d ev

/-! ### A corrected error of a stack (R173, R175) -/

/-- The register fields that a corrected error of stack `k` may change. -/
def grnCeFields (k : Nat) : List Fld :=
  [Reg.GRN_ERRADDR_LO.ADDR k, (Reg.GRN_ERRADDR_LO.ADDR k).hi, Reg.GRN_ERR.CE k, Reg.GRN_ERR.CE_CNT k]

theorem grnCeFields_inMemUnit (hk : k < 8) : ∀ f ∈ grnCeFields k, f.inMemUnit := by
  simp only [grnCeFields, List.forall_mem_cons, Fld.inMemUnit, Fld.hi, Reg.GRN_ERRADDR_LO.ADDR, Reg.GRN_ERR.CE, Reg.GRN_ERR.CE_CNT,
    List.not_mem_nil, false_imp_iff, implies_true, and_true]
  omega

/-- A corrected error of stack `k` is flagged, counted and recorded. -/
structure CorrectedBy (k : Nat) (d e : Dev) : Prop where
  logged : Logged (grnCeFields k) d e
  flag : e.bit (Reg.GRN_ERR.CE k) = true
  count : e.get (Reg.GRN_ERR.CE_CNT k) = min (d.get (Reg.GRN_ERR.CE_CNT k) + 1) (2 ^ (Reg.GRN_ERR.CE_CNT k).width - 1)
  erased : ∀ j, (mget {} e.grn j).erased = (mget {} d.grn j).erased

/-- Another record of a stack with the same erasures changes the erasures of none. -/
theorem erased_mset {m : SMap Granary} {g : Granary} (h : g.erased = (mget {} m k).erased) (j : Nat) :
    (mget {} (mset {} m k g) j).erased = (mget {} m j).erased := by
  rw [mget_mset]
  split
  · next hj => rw [h, hj]
  · rfl

theorem CorrectedBy.thenReported (hk : k < 8) (h : CorrectedBy k d e) (h' : Reported e f) : CorrectedBy k d f where
  logged := h.logged.trans (.of_reported h')
  flag := (Dev.bit_congr (h'.fields _ ((grnCeFields_inMemUnit hk _ (by simp [grnCeFields])).not_reportField))).trans h.flag
  count := (h'.fields _ ((grnCeFields_inMemUnit hk _ (by simp [grnCeFields])).not_reportField)).trans h.count
  erased j := by rw [h'.frame]; exact h.erased j

theorem correctedBy_grnCe (hk : k < 8) (d : Dev) (a : Nat) : CorrectedBy k d (d.grnCe k a) := by
  have happart : ∀ f ∈ [Reg.GRN_ERRADDR_LO.ADDR k, (Reg.GRN_ERRADDR_LO.ADDR k).hi], (Reg.GRN_ERR.CE_CNT k).key ≠ f.key := by
    simp [Fld.key, Fld.hi, Reg.GRN_ERRADDR_LO.ADDR, Reg.GRN_ERR.CE_CNT]
    omega
  have hcnt : (Reg.GRN_ERR.CE k).key ≠ (Reg.GRN_ERR.CE_CNT k).key := by
    simp only [Fld.key, Reg.GRN_ERR.CE, Reg.GRN_ERR.CE_CNT]
    omega
  refine CorrectedBy.thenReported (e := Dev.flag _ _ (Dev.noteAddr (Reg.GRN_ERR.UE k) (Reg.GRN_ERRADDR_LO.ADDR k) a { d with grn := _ })) hk
    ?_ (reported_raise_corrected _ (show faultClass Flt.GRN_CE = 1 by decide))
  generalize hx : ({ d with grn := _ } : Dev) = x
  have hnote := onlyRegs_noteAddr x (Reg.GRN_ERR.UE k) (Reg.GRN_ERRADDR_LO.ADDR k) a
  refine ⟨?logged, ?flag, ?count, fun j => ?erased⟩
  case logged =>
    have hregs := (hnote.mono (by simp [grnCeFields])).trans (onlyRegs_flag (fs := grnCeFields k) (x := Reg.GRN_ERR.CE k)
      (cnt := Reg.GRN_ERR.CE_CNT k) _ (by simp [grnCeFields]) (by simp [grnCeFields]))
    exact .trans (hx ▸ .of_grn _) (.of_onlyRegs hregs)
  case flag =>
    rw [Dev.flag, Dev.addSat, Dev.bit_set_other _ _ hcnt]
    exact Dev.bit_setBit_same _ true Nat.one_pos
  case count =>
    rw [Dev.flag, get_addSat_same, Dev.get_setBit_other _ _ hcnt.symm, hnote.2 _ happart, ← hx]
    rfl
  case erased =>
    have hgrn : (x.noteAddr (Reg.GRN_ERR.UE k) (Reg.GRN_ERRADDR_LO.ADDR k) a).grn = x.grn := by rw [hnote.1]
    rw [Dev.flag_grn, hgrn, ← hx]
    exact erased_mset (g := { mget {} d.grn k with ceAddr := a }) rfl j

theorem correctedBy_grnCorrected (hp : isGrnPlace p = true) (d : Dev) (a : Nat) (row : Option RowId) :
    CorrectedBy (stackOf p) d (d.grnCorrected p a row) := by
  have hk : stackOf p < 8 := by
    have : p < 2 ^ 39 := of_decide_eq_true hp
    rw [stackOf]
    omega
  have hce := correctedBy_grnCe hk d a
  unfold Dev.grnCorrected Dev.rowError
  dsimp only
  generalize d.grnCe (stackOf p) a = x at hce ⊢
  have hrows (rows : SMap (List (Nat × Nat))) : CorrectedBy (stackOf p) d
      { x with grn := mset {} x.grn (stackOf p) { mget {} x.grn (stackOf p) with rowCe := rows } } :=
    ⟨hce.logged.trans (.of_grn _), hce.flag, hce.count, fun j =>
      (erased_mset (g := { mget {} x.grn (stackOf p) with rowCe := rows }) rfl j).trans (hce.erased j)⟩
  split
  · exact (hrows _).thenReported hk (reported_warnHourly _ _ (show faultClass Flt.GRN_ROW ≠ 4 by decide))
  · exact hrows _

/-! ### A failing lane (R174) -/

/-- The register fields that show a lane marked in stack `k`. -/
def laneFields (k : Nat) : List Fld := [Reg.GRN_ERR.LANE k, Reg.GRN_STATUS.ERASED k]

theorem laneFields_inMemUnit (hk : k < 8) : ∀ f ∈ laneFields k, f.inMemUnit := by
  simp only [laneFields, List.forall_mem_cons, Fld.inMemUnit, Reg.GRN_ERR.LANE, Reg.GRN_STATUS.ERASED, List.not_mem_nil, false_imp_iff,
    implies_true, and_true]
  omega

/-- A lane that is not marked yet, in a channel with room, is marked. -/
theorem laneFail_of_room (hk : k < 8) {ch lane : Nat} (hnew : (mget {} d.grn k).erased.contains (ch, lane) = false)
    (hroom : (mget {} d.grn k).inChannel ch < 2) :
    Logged (laneFields k) d (d.laneFail k ch lane) ∧ (d.laneFail k ch lane).bit (Reg.GRN_ERR.LANE k) = true ∧
      (mget {} (d.laneFail k ch lane).grn k).erased = (mget {} d.grn k).erased ++ [(ch, lane)] := by
  have hkey : (Reg.GRN_ERR.LANE k).key ≠ (Reg.GRN_STATUS.ERASED k).key := by
    simp only [Fld.key, Reg.GRN_ERR.LANE, Reg.GRN_STATUS.ERASED]
    omega
  unfold Dev.laneFail
  dsimp only
  rw [hnew, if_neg (by decide), if_pos hroom]
  generalize hx : ({ d with grn := _ } : Dev) = x
  generalize hy : Dev.set (Reg.GRN_STATUS.ERASED k) _ (Dev.setBit (Reg.GRN_ERR.LANE k) true x) = y
  have hregs : onlyRegs (laneFields k) x y :=
    hy ▸ (onlyRegs_setBit x true (by simp [laneFields])).trans (onlyRegs_set _ _ (by simp [laneFields]))
  have hwarn := reported_warnHourly y (k * 4096 + ch * 128 + lane)
    (ev := { code := Flt.GRN_LANE, source := k, arg0 := ch, arg1 := lane }) (show faultClass Flt.GRN_LANE ≠ 4 by decide)
  refine ⟨.trans (hx ▸ .of_grn _) ((Logged.of_onlyRegs hregs).trans (.of_reported hwarn)), ?_, ?_⟩
  · rw [Dev.bit_congr (hwarn.fields _ (laneFields_inMemUnit hk _ (by simp [laneFields])).not_reportField), ← hy, Dev.bit_set_other _ _ hkey]
    exact Dev.bit_setBit_same _ true Nat.one_pos
  · rw [hwarn.frame]
    show (mget {} y.grn k).erased = _
    rw [hregs.1, ← hx]
    show (mget {} (mset {} d.grn k _) k).erased = _
    rw [mget_mset_same]

/-! ### An uncorrectable codeword (R176, R180) -/

/-- The register fields that an uncorrectable codeword of a stack or port may change. -/
def ueFields (ue lo : Fld) : List Fld := [ue, lo, lo.hi]

theorem noted_ue (d : Dev) (ue lo : Fld) (a : Nat) (hwidth : 0 < ue.width) :
    onlyRegs (ueFields ue lo) d ((d.noteAddr ue lo a).setBit ue true) ∧ ((d.noteAddr ue lo a).setBit ue true).bit ue = true :=
  ⟨((onlyRegs_noteAddr d ue lo a).mono (by simp [ueFields])).trans (onlyRegs_setBit _ true (by simp [ueFields])),
    Dev.bit_setBit_same _ true hwidth⟩

/-- The uncorrectable access of a host is recorded as HST_MEM_UE. -/
theorem reported_memFault_host (d : Dev) (a : Nat) : Reported d (d.memFault .host (.ue a)) :=
  reported_raise d (show faultClass Flt.HST_MEM_UE ≠ 4 by decide)

/-! ### Retries of a port (R179) -/

/-- The register fields that the retries of port `p` may change. -/
def retryFields (p : Nat) : List Fld :=
  [Reg.GDM_ERRADDR_LO.ADDR p, (Reg.GDM_ERRADDR_LO.ADDR p).hi, Reg.GDM_ERR.CRC p, Reg.GDM_ERR.CRC_CNT p]

theorem retryFields_inMemUnit (p : Nat) : ∀ f ∈ retryFields p, f.inMemUnit := by
  simp only [retryFields, List.forall_mem_cons, Fld.inMemUnit, Fld.hi, Reg.GDM_ERRADDR_LO.ADDR, Reg.GDM_ERR.CRC, Reg.GDM_ERR.CRC_CNT,
    List.not_mem_nil, false_imp_iff, implies_true, and_true]
  omega

theorem gdmRetries_zero (d : Dev) (a : Nat) (ok : Bool) : d.gdmRetries a 0 ok = d := by
  unfold Dev.gdmRetries
  split <;> rfl

/-- Retries are flagged and counted. -/
theorem gdmRetries_counted (hp : d.place a = some p) (hn : n ≠ 0) (ok : Bool) :
    Logged (retryFields (portOf p)) d (d.gdmRetries a n ok) ∧ (d.gdmRetries a n ok).bit (Reg.GDM_ERR.CRC (portOf p)) = true ∧
      (d.gdmRetries a n ok).get (Reg.GDM_ERR.CRC_CNT (portOf p)) =
        min (d.get (Reg.GDM_ERR.CRC_CNT (portOf p)) + n) (2 ^ (Reg.GDM_ERR.CRC_CNT (portOf p)).width - 1) := by
  have heq : d.gdmRetries a n ok =
      let y := (((Dev.noteAddr (Reg.GDM_ERR.UE (portOf p)) (Reg.GDM_ERRADDR_LO.ADDR (portOf p)) a
        { d with gdmCe := mset 0 d.gdmCe (portOf p) a }).setBit (Reg.GDM_ERR.CRC (portOf p)) true).addSat (Reg.GDM_ERR.CRC_CNT (portOf p)) n)
      if ok then y.raise { code := Flt.GDM_CRC, source := portOf p, arg0 := a } else y := by
    simp only [Dev.gdmRetries, hp, if_neg hn]
    rfl
  rw [heq]
  dsimp only
  have hunit := retryFields_inMemUnit (portOf p)
  generalize portOf p = j at hunit ⊢
  have hcnt : (Reg.GDM_ERR.CRC j).key ≠ (Reg.GDM_ERR.CRC_CNT j).key := by
    simp only [Fld.key, Reg.GDM_ERR.CRC, Reg.GDM_ERR.CRC_CNT]
    omega
  have happart : ∀ f ∈ [Reg.GDM_ERRADDR_LO.ADDR j, (Reg.GDM_ERRADDR_LO.ADDR j).hi], (Reg.GDM_ERR.CRC_CNT j).key ≠ f.key := by
    simp [Fld.key, Fld.hi, Reg.GDM_ERRADDR_LO.ADDR, Reg.GDM_ERR.CRC_CNT]
    omega
  have hnote := onlyRegs_noteAddr { d with gdmCe := mset 0 d.gdmCe j a } (Reg.GDM_ERR.UE j) (Reg.GDM_ERRADDR_LO.ADDR j) a
  generalize hx : Dev.noteAddr _ _ a _ = x at hnote ⊢
  have hregs : onlyRegs (retryFields j) { d with gdmCe := mset 0 d.gdmCe j a }
      ((x.setBit (Reg.GDM_ERR.CRC j) true).addSat (Reg.GDM_ERR.CRC_CNT j) n) :=
    (hnote.mono (by simp [retryFields])).trans ((onlyRegs_setBit x true (by simp [retryFields])).trans (onlyRegs_set _ _ (by simp [retryFields])))
  have hbit : ((x.setBit (Reg.GDM_ERR.CRC j) true).addSat (Reg.GDM_ERR.CRC_CNT j) n).bit (Reg.GDM_ERR.CRC j) = true := by
    rw [Dev.addSat, Dev.bit_set_other _ _ hcnt]
    exact Dev.bit_setBit_same _ true Nat.one_pos
  have hget : ((x.setBit (Reg.GDM_ERR.CRC j) true).addSat (Reg.GDM_ERR.CRC_CNT j) n).get (Reg.GDM_ERR.CRC_CNT j) =
      min (d.get (Reg.GDM_ERR.CRC_CNT j) + n) (2 ^ (Reg.GDM_ERR.CRC_CNT j).width - 1) := by
    rw [get_addSat_same, Dev.get_setBit_other _ _ hcnt.symm, hnote.2 _ happart]
    rfl
  generalize Dev.addSat (Reg.GDM_ERR.CRC_CNT j) n _ = y at hregs hbit hget ⊢
  have hlogged : Logged (retryFields j) d y := (Logged.of_gdmCe _).trans (.of_onlyRegs hregs)
  cases ok
  case false => exact ⟨hlogged, hbit, hget⟩
  case true =>
    have hraise := reported_raise_corrected y (ev := { code := Flt.GDM_CRC, source := j, arg0 := a }) (show faultClass Flt.GDM_CRC = 1 by decide)
    exact ⟨hlogged.trans (.of_reported hraise),
      (Dev.bit_congr (hraise.fields _ (hunit _ (by simp [retryFields])).not_reportField)).trans hbit,
      (hraise.fields _ (hunit _ (by simp [retryFields])).not_reportField).trans hget⟩

theorem logged_gdmRetries (hp : d.place a = some p) (n : Nat) (ok : Bool) : Logged (retryFields (portOf p)) d (d.gdmRetries a n ok) := by
  by_cases hn : n = 0
  · rw [hn, gdmRetries_zero]
    exact .of_reported .refl
  · exact (gdmRetries_counted hp hn ok).1

end Sys2Proof.Machine

/-! ## Single accesses of the memories (O29) -/

namespace Sys2Proof.Machine

variable {s : State} {d e x y : Dev} {q : MemRequester} {how : Access} {addr : DWord} {a n p i : Nat} {bs : List Byte} {fs : List Fld}

/-! ### The last byte written at a place -/

/-- The last index that has a property: a search from the top of a range. -/
theorem find?_reverse_range_eq_some {P : Nat → Bool} (h : (List.range n).reverse.find? P = some i) :
    i < n ∧ P i = true ∧ ∀ j, i < j → j < n → P j = false := by
  induction n with
  | zero => cases h
  | succ n ih =>
    rw [List.range_succ, List.reverse_append, List.reverse_singleton, List.singleton_append, List.find?_cons] at h
    split at h
    · next hP =>
      obtain rfl := Option.some.inj h
      exact ⟨Nat.lt_succ_self _, hP, fun j hlt hle => by omega⟩
    · next hP =>
      obtain ⟨hi, hPi, hlast⟩ := ih h
      refine ⟨by omega, hPi, fun j hlt hle => ?_⟩
      obtain rfl | hne := eq_or_ne j n
      · exact hP
      · exact hlast j hlt (by omega)

theorem wroteBytes_wrBytes (d : Dev) (a : Nat) (bs : List Byte) : wroteBytes a bs d (d.wrBytes a bs) := by
  intro p
  split
  · next i hi =>
    obtain ⟨hlt, hp, hlast⟩ := find?_reverse_range_eq_some hi
    rw [byte_wrBytes_last hlt (of_decide_eq_true hp) fun j hj hjlt => of_decide_eq_false (hlast j hj hjlt), List.getD_eq_getElem _ _ hlt]
  · next hnone =>
    refine byte_wrBytes_other fun i hi hp => ?_
    exact List.find?_eq_none.1 hnone i (List.mem_reverse.2 (List.mem_range.2 hi)) (decide_eq_true hp)

/-- What a write looks like depends on places and bytes before it alone. -/
theorem wroteBytes_congr (hplace : ∀ x, y.place x = d.place x) (hmem : y.mem = d.mem) (h : wroteBytes a bs y e) : wroteBytes a bs d e := by
  intro p
  have hp := h p
  simp only [hplace, Dev.byte, hmem] at hp ⊢
  exact hp

/-- Words that a write stores whole become good, and nothing else changes. -/
theorem Dev.heal_frame (d : Dev) (hit : List Nat) (a n : Nat) :
    d.heal hit a n = { d with grnBad := (d.heal hit a n).grnBad, sramEcc := (d.heal hit a n).sramEcc } := by
  unfold Dev.heal
  split <;> rfl

theorem place_heal (d : Dev) (hit : List Nat) (a n x : Nat) : (d.heal hit a n).place x = d.place x :=
  (SameTables.of_regs (by rw [Dev.heal_frame])).place x

/-- A write outside every open buffer stores its bytes. -/
theorem writeGood_of_noHit (q : MemRequester) (hhit : d.rbtHit a bs.length = []) :
    d.writeGood q a bs = { d with mem := (d.writeGood q a bs).mem, grnBad := (d.writeGood q a bs).grnBad,
                                  sramEcc := (d.writeGood q a bs).sramEcc } ∧ wroteBytes a bs d (d.writeGood q a bs) := by
  have heq : d.writeGood q a bs = (d.heal [] a bs.length).wrBytes a bs := by
    rw [Dev.writeGood, hhit]
  rw [heq]
  refine ⟨?_, wroteBytes_congr (place_heal d [] a bs.length) (by rw [Dev.heal_frame]) (wroteBytes_wrBytes _ a bs)⟩
  rw [Dev.wrBytes_frame, Dev.heal_frame]

/-! ### The outcome of an access -/

/-- Data go to the host alone. -/
structure Delivers (q : MemRequester) (bs : List Byte) (d e : Dev) : Prop where
  frame : e = { d with out := e.out }
  data : q = .host → e.out.getLast? = some (.hostData bs false)

theorem Delivers.get (h : Delivers q bs d e) (g : Fld) : e.get g = d.get g := by rw [h.frame]; rfl

theorem Delivers.bit (h : Delivers q bs d e) (g : Fld) : e.bit g = d.bit g := Dev.bit_congr (h.get g)

theorem access_read_good (q : MemRequester) (h : d.readErr a n = none) : d.access q a (.read n) = (some (d.rdBytes a n), none, d) := by
  simp only [Dev.access, h]

theorem access_write_good (q : MemRequester) (h : d.writeErr a bs = none) : d.access q a (.write bs) = (none, none, d.writeGood q a bs) := by
  simp only [Dev.access, Dev.writeMem, h]

/-- The descriptor that a DMA engine runs for ring `r` takes the status UNMAPPED and the address (R239). -/
def Core.dmaUnmapped (r v : Nat) (k : Core) : Core :=
  { k with dma := k.dma.map fun u => if u.ring = r ∧ u.code = 0 then { u with code := 3, errAddr := v } else u }

theorem dmaNote_unmapped (d : Dev) (c : CoreId) (r : RingId) (v : Nat) :
    Dev.dmaNote (.dma c r) (.unmapped v) d = d.modCore c (Core.dmaUnmapped r v) := by
  have hcode : (3 : Nat) ≠ 0 := by decide
  simp only [Dev.dmaNote, MemErr.addr, hcode, ne_eq, not_false_eq_true, and_true]
  rfl

theorem Core.dmaUnmapped_of_runs {k : Core} {u : DmaRun} {r : Nat} (hdma : k.dma = some u) (hring : u.ring = r) (hcode : u.code = 0) (v : Nat) :
    k.dmaUnmapped r v = { k with dma := some { u with code := 3, errAddr := v } } := by
  rw [Core.dmaUnmapped, hdma, Option.map_some, if_pos ⟨hring, hcode⟩]

/-- What a failed read leaves. -/
theorem access_read_unmapped (q : MemRequester) {v : Nat} (h : d.firstUnmapped a n = some v) : d.access q a (.read n) =
    (none, some (.unmapped v), (d.memFault q (.unmapped v)).dmaNote q (.unmapped v)) := by
  have herr : d.readErr a n = some (.unmapped v) := by rw [Dev.readErr, h]
  simp only [Dev.access, Dev.readMem, herr]

theorem access_read_ue (q : MemRequester) {v : Nat} (h : d.readErr a n = some (.ue v)) : d.access q a (.read n) =
    (none, some (.ue v), ((d.noteUe v).memFault q (.ue v)).dmaNote q (.ue v)) := by
  simp only [Dev.access, Dev.readMem, h]

/-- Only the host is answered. -/
theorem hostReply_of_other (hq : q ≠ .host) (r : Option (List Byte) × Option MemErr × Dev) : Dev.hostReply q how r = r.2.2 := by
  cases q
  case host => exact absurd rfl hq
  all_goals rfl

/-- A write is not answered with data. -/
theorem hostReply_write (q : MemRequester) (r : Option (List Byte) × Option MemErr × Dev) : Dev.hostReply q (.write bs) r = r.2.2 := by
  cases q <;> rfl

theorem hostReply_data (q : MemRequester) (bs : List Byte) (o : Option MemErr) (d : Dev) :
    Delivers q bs d (Dev.hostReply q (.read n) (some bs, o, d)) := by
  by_cases hq : q = .host
  · subst hq
    exact ⟨rfl, fun _ => List.getLast?_concat⟩
  · rw [hostReply_of_other hq]
    exact ⟨rfl, fun h => absurd h hq⟩

/-- A read whose memory is good is answered, whatever was logged before. -/
theorem delivers_read (q : MemRequester) (h : Logged fs d x) (hfs : ∀ f ∈ fs, f.inMemUnit) (hread : d.readErr a n = none) :
    Delivers q (d.rdBytes a n) x (Dev.hostReply q (.read n) (x.access q a (.read n))) := by
  rw [access_read_good q ((h.readErr hfs a n).trans hread), h.rdBytes hfs]
  exact hostReply_data q _ none x

/-! ### Codewords -/

theorem eccAccess_good (d : Dev) (q : MemRequester) (a : Nat) (how : Access) : d.eccAccess q a how .good = d.access q a how := by
  unfold Dev.eccAccess
  split <;> rfl

theorem eccAccess_unmapped (q : MemRequester) (o : EccOutcome) {v : Nat} (h : d.firstUnmapped a n = some v) :
    d.eccAccess q a (.read n) o = d.access q a (.read n) := by
  unfold Dev.eccAccess
  exact if_pos (by rw [accessLen, h]; rfl)

/-- A range that is memory makes its access. -/
theorem not_unmapped (h : d.firstUnmapped a n = none) : ¬(d.firstUnmapped a (accessLen (.read n))).isSome = true := by
  rw [accessLen, h]
  exact nofun

theorem eccAccess_corrected (q : MemRequester) (h : d.firstUnmapped a n = none) :
    d.eccAccess q a (.read n) .corrected = (d.corrected a none).access q a (.read n) := if_neg (not_unmapped h)

theorem eccAccess_lane (q : MemRequester) (id : LaneId) (h : d.firstUnmapped a n = none) (hlow : isGranary a = true) :
    d.eccAccess q a (.read n) (.lane id) =
      ((d.corrected a none).laneFail ((d.corrected a none).memSource a) id.channel id.lane).access q a (.read n) := by
  refine (if_neg (not_unmapped h)).trans ?_
  dsimp only
  rw [if_pos hlow]

theorem eccAccess_uncorrectable (q : MemRequester) (h : d.firstUnmapped a n = none) :
    d.eccAccess q a (.read n) .uncorrectable =
      if isGddr a then d.gdmFail q a (.read n) else (d.markUe a).access q a (.read n) := if_neg (not_unmapped h)

theorem corrected_of_grnPlace (hp : d.place a = some p) (hgrn : isGrnPlace p = true) (row : Option RowId) :
    d.corrected a row = d.grnCorrected p a row := by
  simp only [Dev.corrected, hp, hgrn, if_true]

theorem memSource_of_grnPlace (hp : d.place a = some p) (hgrn : isGrnPlace p = true) : d.memSource a = stackOf p := by
  simp only [Dev.memSource, hp, hgrn, if_true]

theorem stackOf_lt (hgrn : isGrnPlace p = true) : stackOf p < 8 := by
  have hlt : p < 2 ^ 39 := of_decide_eq_true hgrn
  rw [stackOf]
  omega

/-! ### The two commands -/

theorem exec_eq_of_value {ins : Instr} {g : Dev → Dev} (h : exec ins s = s.does g) (he : g s.dev = e) : exec ins s = s.does fun _ => e := by
  rw [h, State.does_eq, State.does_eq, State.on, State.on, he]

/-- The command makes an access from module `d` and answers its requester. -/
def Accesses (i : Instr) (s : State) (d : Dev) (q : MemRequester) (a : Nat) (how : Access) (o : EccOutcome) : Prop :=
  exec i s = s.does fun _ => Dev.hostReply q how (d.eccAccess q a how o)

theorem accesses_granary (q : MemRequester) (how : Access) (o : EccOutcome) (hon : s.dev.memOn = true) (hlow : isGddr addr.toNat = false) :
    Accesses (.granaryAccess q addr how o) s s.dev q addr.toNat how o :=
  exec_eq_of_value rfl (if_pos (by rw [hon, hlow]; rfl))

theorem accesses_gddr (q : MemRequester) (how : Access) (r : BitVec 2) (o : EccOutcome) (hon : s.dev.memOn = true)
    (hgddr : isGddr addr.toNat = true) : Accesses (.gddrAccess q addr how r o) s
      (s.dev.gdmRetries addr.toNat r.toNat (decide (o ≠ .uncorrectable))) q addr.toNat how o :=
  exec_eq_of_value rfl (if_pos (by rw [hon, hgddr]; rfl))

/-- Without retries nothing comes before the access. -/
theorem accesses_gddr_zero (q : MemRequester) (how : Access) (o : EccOutcome) (hon : s.dev.memOn = true) (hgddr : isGddr addr.toNat = true) :
    Accesses (.gddrAccess q addr how 0 o) s s.dev q addr.toNat how o := by
  have h := accesses_gddr (s := s) (addr := addr) q how 0 o hon hgddr
  rwa [show (0 : BitVec 2).toNat = 0 from rfl, gdmRetries_zero] at h

namespace Accesses

variable {ins : Instr} {o : EccOutcome} {post : Dev → Prop}

theorem does (h : Accesses ins s d q a how o) (hp : post (Dev.hostReply q how (d.eccAccess q a how o))) : Does ins s post := does_of h hp

theorem reads (h : Accesses ins s d q a (.read n) .good) (hread : d.readErr a n = none) :
    (q = .host → Does ins s fun e => e = d.emit (.hostData (d.rdBytes a n) false)) ∧ (q ≠ .host → Does ins s fun e => e = d) := by
  refine ⟨fun hq => h.does ?_, fun hq => h.does ?_⟩
  · rw [eccAccess_good, access_read_good q hread, hq]
    rfl
  · rw [eccAccess_good, access_read_good q hread, hostReply_of_other hq]

theorem writes (h : Accesses ins s d q a (.write bs) .good) (hwrite : d.writeErr a bs = none) (hhit : d.rbtHit a bs.length = []) :
    Does ins s fun e => e = { d with mem := e.mem, grnBad := e.grnBad, sramEcc := e.sramEcc } ∧ wroteBytes a bs d e := by
  refine h.does ?_
  rw [eccAccess_good, access_write_good q hwrite, hostReply_write]
  exact writeGood_of_noHit q hhit

/-- An access to what no memory backs raises the fault of R161, but a DMA's falls on the descriptor that the engine runs (R239). -/
theorem unmapped {v : Nat} (h : Accesses ins s d q a (.read n) o) (hv : d.firstUnmapped a n = some v) :
    (q = .host → Does ins s fun e => e = (d.raise { code := Flt.MEM_UNMAPPED, arg0 := v }).emit .hostAbort) ∧
    (∀ c r u, q = .dma c r → (d.core c).dma = some u → u.ring = r.val → u.code = 0 → Does ins s fun e =>
      onlyCore c d e ∧ e.core c = { d.core c with dma := some { u with code := 3, errAddr := v } }) ∧
    ((∀ c r, q ≠ .dma c r) → Does ins s fun e => e.get Reg.FLT_STATUS.HL = hlStopped) := by
  have hclass : faultClass Flt.MEM_UNMAPPED = 4 := by decide
  have hraise (d : Dev) (tag : Nat) : (d.raise { code := Flt.MEM_UNMAPPED, tag := tag, arg0 := v }).get Reg.FLT_STATUS.HL = hlStopped :=
    (raise_jobFatal_spares_and_stops d 0 hclass).2
  refine ⟨fun hq => h.does ?_, fun c r u hq hdma hring hcode => h.does ?_, fun hq => h.does ?_⟩
  · rw [eccAccess_unmapped q o hv, access_read_unmapped q hv, hq]
    rfl
  · rw [eccAccess_unmapped q o hv, access_read_unmapped q hv, hostReply_of_other (by rw [hq]; exact nofun), hq]
    show onlyCore c d (Dev.dmaNote (.dma c r) (.unmapped v) d) ∧ (Dev.dmaNote (.dma c r) (.unmapped v) d).core c = _
    rw [dmaNote_unmapped]
    exact ⟨onlyCore_modCore d c _, (Dev.core_modCore_same d c _).trans (Core.dmaUnmapped_of_runs hdma hring hcode v)⟩
  · rw [eccAccess_unmapped q o hv, access_read_unmapped q hv]
    cases q
    case dma c r => exact absurd rfl (hq c r)
    all_goals exact hraise _ _

end Accesses

/-! ### Errors of the codewords -/

/-- The data of a corrected codeword of Granary are delivered (R173). -/
theorem delivers_corrected (q : MemRequester) (hread : d.readErr a n = none) (hp : d.place a = some p) (hgrn : isGrnPlace p = true) :
    Delivers q (d.rdBytes a n) (d.grnCorrected p a none) (Dev.hostReply q (.read n) (d.eccAccess q a (.read n) .corrected)) := by
  rw [eccAccess_corrected q (firstUnmapped_of_readErr hread), corrected_of_grnPlace hp hgrn]
  exact delivers_read q (correctedBy_grnCorrected hgrn d a none).logged (grnCeFields_inMemUnit (stackOf_lt hgrn)) hread

/-- So are those of a codeword whose correction marks a failing lane (R174). -/
theorem delivers_lane (q : MemRequester) (id : LaneId) (hread : d.readErr a n = none) (hp : d.place a = some p) (hgrn : isGrnPlace p = true)
    (hlow : isGranary a = true) (hnew : (mget {} d.grn (stackOf p)).erased.contains (id.channel.val, id.lane.val) = false)
    (hroom : (mget {} d.grn (stackOf p)).inChannel id.channel < 2) :
    ∃ x, Delivers q (d.rdBytes a n) x (Dev.hostReply q (.read n) (d.eccAccess q a (.read n) (.lane id))) ∧
      Logged (grnCeFields (stackOf p) ++ laneFields (stackOf p)) d x ∧ x.bit (Reg.GRN_ERR.LANE (stackOf p)) = true ∧
      (mget {} x.grn (stackOf p)).erased = (mget {} d.grn (stackOf p)).erased ++ [(id.channel.val, id.lane.val)] := by
  have hk := stackOf_lt hgrn
  have hce := correctedBy_grnCorrected hgrn d a none
  have hplace := (hce.logged.sameTables (grnCeFields_inMemUnit hk)).place a
  rw [eccAccess_lane q id (firstUnmapped_of_readErr hread) hlow, corrected_of_grnPlace hp hgrn,
    memSource_of_grnPlace (hplace.trans hp) hgrn]
  obtain ⟨hlane, hbit, herased⟩ := laneFail_of_room (ch := id.channel) (lane := id.lane) hk (d := d.grnCorrected p a none)
    (by rw [hce.erased]; exact hnew) (by rw [Granary.inChannel, hce.erased]; exact hroom)
  have hlogged := (hce.logged.mono (List.subset_append_left _ _)).trans (hlane.mono (List.subset_append_right (grnCeFields (stackOf p)) _))
  refine ⟨_, delivers_read q hlogged ?_ hread, hlogged, hbit, by rw [herased, hce.erased]⟩
  exact List.forall_mem_append.2 ⟨grnCeFields_inMemUnit hk, laneFields_inMemUnit hk⟩

/-- A mark on the codeword of the first byte of a range makes a read of the range fail there. -/
theorem readErr_of_marked (hn : 0 < n) (hmap : d.firstUnmapped a n = none) (hp : d.place a = some p) (hbad : mget 0 d.grnBad (p / 64) ≠ 0) :
    d.readErr a n = some (.ue a) := by
  have hmarks : ¬(d.grnBad = [] ∧ d.sramEcc = []) := fun h => hbad (by rw [h.1]; rfl)
  obtain ⟨m, rfl⟩ : ∃ m, n = m + 1 := ⟨n - 1, by omega⟩
  have hue : d.firstUe a (m + 1) = some a := by
    rw [Dev.firstUe, if_neg hmarks, List.range_succ_eq_map, List.map_cons, List.find?_cons_of_pos]
    · rfl
    · simp [hp, hbad]
  rw [Dev.readErr, hmap]
  simp only [Dev.firstBad, hue]
  rfl

theorem grnUe_inMemUnit {k : Nat} (hk : k < 8) : (Reg.GRN_ERR.UE k).inMemUnit := by
  simp only [Fld.inMemUnit, Reg.GRN_ERR.UE]
  omega

theorem gdmUe_inMemUnit (p : Nat) : (Reg.GDM_ERR.UE p).inMemUnit := by
  simp only [Fld.inMemUnit, Reg.GDM_ERR.UE]
  omega

/-- The registers of an uncorrectable codeword of a stack lie apart from the switch of the interrupt. -/
theorem int3_apart_ueFields {k : Nat} (hk : k < 8) :
    ∀ f ∈ ueFields (Reg.GRN_ERR.UE k) (Reg.GRN_ERRADDR_LO.ADDR k), Reg.FLT_CTL.INT3.key ≠ f.key := by
  simp only [ueFields, List.forall_mem_cons, Fld.key, Fld.hi, Reg.FLT_CTL.INT3, Reg.GRN_ERR.UE, Reg.GRN_ERRADDR_LO.ADDR, List.not_mem_nil,
    false_imp_iff, implies_true, and_true]
  omega

/-- The host's read of an uncorrectable codeword ends in a poisoned completion (R176, R438). -/
def Dev.poisoned (a : Nat) (d : Dev) : Dev := (d.memFault .host (.ue a)).emit (.hostData [] true)

theorem reported_poisoned (d : Dev) (a : Nat) : Reported d (d.poisoned a) := (reported_memFault_host d a).trans ⟨rfl, fun _ _ => rfl⟩

theorem poisoned_last (d : Dev) (a : Nat) : (d.poisoned a).out.getLast? = some (.hostData [] true) := List.getLast?_concat

theorem poisoned_out (a : Nat) (hquiet : d.bit Reg.FLT_CTL.INT3 = false) : (d.poisoned a).out = d.out ++ [.hostData [] true] :=
  congrArg (· ++ _) (out_raise_of_quiet (show faultClass Flt.HST_MEM_UE = 3 by decide) hquiet)

theorem grnUncorrectable (hn : 0 < n) (hlow : isGddr a = false) (hmap : d.firstUnmapped a n = none) (hp : d.place a = some p)
    (hgrn : isGrnPlace p = true) : Dev.hostReply .host (.read n) (d.eccAccess .host a (.read n) .uncorrectable) =
      (Dev.grnUe (stackOf p) a { d with grnBad := mset 0 d.grnBad (p / 64) 1 }).poisoned a := by
  generalize hx : ({ d with grnBad := mset 0 d.grnBad (p / 64) 1 } : Dev) = x
  have hplace (v : Nat) : x.place v = d.place v := (SameTables.of_regs (by rw [← hx])).place v
  have hmark : d.markUe a = x := by simp only [Dev.markUe, hp, hgrn, if_true, hx]
  have hbad : mget 0 x.grnBad (p / 64) ≠ 0 := by
    rw [← hx, mget_mset_same]
    decide
  have herr := readErr_of_marked hn ((firstUnmapped_congr hplace a n).trans hmap) ((hplace a).trans hp) hbad
  have hnote : x.noteUe a = x.grnUe (stackOf p) a := by simp only [Dev.noteUe, hplace, hp, hgrn, if_true]
  rw [eccAccess_uncorrectable _ hmap]
  simp only [hlow, hmark, Bool.false_eq_true, if_false]
  rw [access_read_ue _ herr, hnote]
  rfl

theorem gdmUncorrectable (hhigh : isGddr a = true) (hmap : d.firstUnmapped a n = none) (hp : d.place a = some p)
    (hgdm : isGdmPlace p = true) (hgrn : isGrnPlace p = false) :
    Dev.hostReply .host (.read n) (d.eccAccess .host a (.read n) .uncorrectable) = (d.gdmUe (portOf p) a).poisoned a := by
  have hnote : d.noteUe a = d.gdmUe (portOf p) a := by simp only [Dev.noteUe, hp, hgrn, hgdm, Bool.false_eq_true, if_true, if_false]
  rw [eccAccess_uncorrectable _ hmap]
  simp only [hhigh, if_true, Dev.gdmFail, hnote]
  rfl

/-- The flag of an uncorrectable codeword stays while the access is reported. -/
theorem poisoned_spec (d : Dev) {ue lo : Fld} (a v : Nat) (hue : ue.inMemUnit) (hwidth : 0 < ue.width) :
    let e := ((d.noteAddr ue lo a).setBit ue true).poisoned v
    e.bit ue = true ∧ e.mem = d.mem ∧ e.grnBad = d.grnBad := by
  obtain ⟨hregs, hbit⟩ := noted_ue d ue lo a hwidth
  have hreport := reported_poisoned ((d.noteAddr ue lo a).setBit ue true) v
  refine ⟨(Dev.bit_congr (hreport.fields _ hue.not_reportField)).trans hbit, ?_, ?_⟩
  · rw [hreport.mem, hregs.1]
  · rw [hreport.frame, hregs.1]


/-- Settles O29: the good and the unmapped accesses by `Accesses.reads`, `.writes` and `.unmapped`, a corrected one by `delivers_corrected`, a failing
lane by `delivers_lane`, retries by `gdmRetries_counted`, an uncorrectable codeword by `grnUncorrectable` and `gdmUncorrectable`. -/
theorem memoryAccesses : Obligations.MemoryAccesses := by
  intro s q addr d a reads writes unmapped dataLast hon
  refine ⟨fun hlow => ?granary, fun hgddr => ?gddr⟩
  case granary =>
    have haccess (how : Access) (o : EccOutcome) : Accesses (.granaryAccess q addr how o) s d q a how o := accesses_granary q how o hon hlow
    refine ⟨fun n => (haccess _ _).reads, fun bs => (haccess _ _).writes, fun o n x => (haccess _ _).unmapped,
      fun n p hn hread hp hgrn => ⟨?corrected, fun id hgranary hnew hroom => ?lane⟩, fun n p hq hn hmap hp hgrn => ?uncorrectable⟩
    case corrected =>
      have hce := correctedBy_grnCorrected hgrn d a none
      have hdata := delivers_corrected q hread hp hgrn
      refine (haccess _ _).does ⟨(hdata.bit _).trans hce.flag, ?_, ?_, ?_, hdata.data, (hdata.get _).trans hce.count⟩
      · rw [hdata.frame]
        exact hce.logged.mem
      · rw [hdata.frame]
        exact hce.logged.cores
      · rw [hdata.frame]
        exact hce.logged.grnBad
    case lane =>
      obtain ⟨x, hdata, hlogged, hbit, herased⟩ := delivers_lane q id hread hp hgrn hgranary hnew hroom
      refine (haccess _ _).does ⟨(hdata.bit _).trans hbit, ?_, ?_, hdata.data, ?_⟩
      · rw [hdata.frame]
        exact hlogged.mem
      · rw [hdata.frame]
        exact hlogged.cores
      · rw [hdata.frame]
        exact herased
    case uncorrectable =>
      have hk := stackOf_lt hgrn
      refine (haccess _ _).does ?_
      rw [hq, grnUncorrectable hn hlow hmap hp hgrn, Dev.grnUe_eq]
      generalize hx : ({ d with grnBad := _ } : Dev) = x
      obtain ⟨hbit, hmem, hbad⟩ := poisoned_spec x (ue := Reg.GRN_ERR.UE (stackOf p)) (lo := Reg.GRN_ERRADDR_LO.ADDR (stackOf p)) a a
        (grnUe_inMemUnit hk) Nat.one_pos
      refine ⟨hbit, ?_, ?_, fun hquiet => ?_⟩
      · rw [hbad, ← hx]
        exact mget_mset_same 0 d.grnBad (p / 64) 1
      · rw [hmem, ← hx]
      · obtain ⟨hregs, -⟩ := noted_ue x (Reg.GRN_ERR.UE (stackOf p)) (Reg.GRN_ERRADDR_LO.ADDR (stackOf p)) a Nat.one_pos
        have hstill := (Dev.bit_congr (hregs.2 _ (int3_apart_ueFields hk))).trans (show x.bit Reg.FLT_CTL.INT3 = false by rw [← hx]; exact hquiet)
        rw [poisoned_out a hstill, hregs.1, ← hx]
  case gddr =>
    have hgood (how : Access) (o : EccOutcome) : Accesses (.gddrAccess q addr how 0 o) s d q a how o := accesses_gddr_zero q how o hon hgddr
    refine ⟨fun n => (hgood _ _).reads, fun bs => (hgood _ _).writes, fun o n x => (hgood _ _).unmapped,
      fun n p r hp hgdm hgrn hr hread => ?retried, fun n p r hq hp hgdm hgrn hmap => ?uncorrectable⟩
    case retried =>
      have hne : r.toNat ≠ 0 := fun h => hr (BitVec.eq_of_toNat_eq h)
      obtain ⟨hlogged, hbit, hcount⟩ := gdmRetries_counted hp hne (decide (EccOutcome.good ≠ .uncorrectable))
      have hdata := delivers_read q hlogged (retryFields_inMemUnit _) hread
      rw [← eccAccess_good] at hdata
      refine (accesses_gddr q _ r .good hon hgddr).does ⟨(hdata.bit _).trans hbit, ?_, hdata.data, (hdata.get _).trans hcount⟩
      rw [hdata.frame]
      exact hlogged.mem
    case uncorrectable =>
      have hlogged := logged_gdmRetries hp r.toNat (decide (EccOutcome.uncorrectable ≠ .uncorrectable))
      have hplace := (hlogged.sameTables (retryFields_inMemUnit _)).place
      refine (accesses_gddr q _ r .uncorrectable hon hgddr).does ?_
      rw [hq, gdmUncorrectable hgddr ((firstUnmapped_congr hplace _ _).trans hmap) ((hplace _).trans hp) hgdm hgrn, Dev.gdmUe_eq]
      obtain ⟨hbit, hmem, -⟩ := poisoned_spec (d.gdmRetries a r.toNat (decide (EccOutcome.uncorrectable ≠ .uncorrectable)))
        (ue := Reg.GDM_ERR.UE (portOf p)) (lo := Reg.GDM_ERRADDR_LO.ADDR (portOf p)) a a (gdmUe_inMemUnit _) Nat.one_pos
      exact ⟨hbit, hmem.trans hlogged.mem, poisoned_last _ _⟩

end Sys2Proof.Machine

/-! ## A refused write leaves the queues of addends (R196, R362)

The job-fatal fault of a refused accumulating write stops the job; it touches neither the addends that wait nor the registers of the stacks. -/

namespace Sys2Proof.Machine

variable {d e f : Dev} {g : Fld} {k a n v : Nat} {q : MemRequester} {bs : List Byte}

/-! ### The waiting addends -/

theorem accq_setClm (d : Dev) (c off : Nat) (bs : List Byte) : (d.setClm c off bs).accq = d.accq := by
  rw [(wroteAt_setClm d c off bs).frame]

theorem accq_foldl {α : Type} {step : Dev → α → Dev} (h : ∀ d x, (step d x).accq = d.accq) (xs : List α) (d : Dev) :
    (xs.foldl step d).accq = d.accq := by
  induction xs generalizing d with
  | nil => rfl
  | cons x xs ih => exact (ih _).trans (h d x)

theorem accq_quiesceCore (d : Dev) (c : Nat) : (d.quiesceCore c).accq = d.accq := by
  unfold Dev.quiesceCore
  dsimp only
  cases (d.core c).seq
  case idle => exact accq_setClm d c _ _
  case halted => exact accq_setClm d c _ _
  case fault => exact accq_setClm d c _ _
  all_goals rfl

theorem accq_flood (d : Dev) (m : Notice) (arrival : Option Nat) : (d.flood m arrival).accq = d.accq :=
  accq_foldl (fun d l => by split <;> rfl) _ d

theorem accq_roundDrop (d : Dev) : d.roundDrop.accq = d.accq := by
  unfold Dev.roundDrop
  dsimp only
  split <;> rfl

theorem Reported.accq (h : Reported d e) : e.accq = d.accq := by rw [h.frame]

theorem accq_enterStopped (d : Dev) (ev : Ev) : (d.enterStopped ev).accq = d.accq := by
  unfold Dev.enterStopped
  dsimp only
  have hwake : (if d.gliding then d.wake else d).accq = d.accq := by split <;> rfl
  have hdrop (d : Dev) : d.roundDrop.colStop.accq = d.accq := accq_roundDrop d
  have hquiesce (d : Dev) : ((List.range 64).foldl (fun d c => d.quiesceCore c) d).accq = d.accq :=
    accq_foldl (fun d c => accq_quiesceCore d c) _ d
  have hcores := (hquiesce _).trans ((hdrop _).trans hwake)
  generalize List.foldl _ _ (List.range 64) = x at hcores
  exact (reported_log_fltMsix ((x.set Reg.FLT_STATUS.HL hlStopped).setBit Reg.FLT_ERR.STOP true) ev).accq.trans hcores

theorem accq_stopJob (d : Dev) (ev : Ev) : (d.stopJob ev).accq = d.accq := by
  unfold Dev.stopJob
  split
  · rfl
  · exact (accq_enterStopped _ _).trans (accq_flood _ _ _)

theorem accq_raise (d : Dev) (ev : Ev) : (d.raise ev).accq = d.accq := by
  by_cases h : faultClass ev.code = 4
  · have hraise : d.raise ev = (d.logOpen ev).2.stopJob ev := by simp only [Dev.raise, h]
    rw [hraise, accq_stopJob]
    exact (reported_logOpen d ev).accq
  · exact (reported_raise d h).accq

theorem accq_showEnd (d : Dev) (c : Nat) (hadArrays : Bool) : (d.showEnd c hadArrays).accq = d.accq := by
  have harrays (d : Dev) : (if hadArrays then (d.mxaShow c).setBit (Reg.CORE_MXA_STATUS.KEPT c) false else d).accq = d.accq := by
    split <;> rfl
  unfold Dev.showEnd
  dsimp only
  have hshown := harrays (d.setBit (Reg.CORE_SEQ_ERR.FAULT c) true)
  generalize (if hadArrays then _ else _ : Dev) = x at hshown
  split
  · exact (accq_setClm _ c _ _).trans hshown
  · exact hshown

theorem accq_seqEnd (d : Dev) (c code tag : Nat) : (d.seqEnd c code tag).accq = d.accq := by
  obtain ⟨q, n, htrace⟩ := coreRegs_trace d c 11 tag code (d.core c).pc
  have hstatus (d : Dev) (cmd : Option LayerCmd) : (d.cmpFaulted c cmd code).accq = d.accq := by
    unfold Dev.cmpFaulted Dev.cmpStatus
    split
    · split
      · exact accq_setClm d c _ _
      · rfl
    · rfl
  rw [Dev.seqEnd_eq]
  dsimp only
  rw [accq_showEnd, Dev.modCore_accq, hstatus, htrace.frame]

/-! ### The registers of the stacks -/

/-- A field of a Granary stack. -/
def Fld.inStack (g : Fld) : Prop := 0x00200000 ≤ g.off ∧ g.off < 0x00280000 ∧ g.lo < 32

theorem Fld.inStack.not_stopField (h : g.inStack) : ∀ f ∈ stopFields, g.key ≠ f.key := by
  obtain ⟨hlo, hhi, hbit⟩ := h
  intro f hf
  obtain hf | hf := List.mem_append.1 hf
  · have hlow := (by decide : ∀ f ∈ reportFields ++ [Reg.FLT_STATUS.HL, Reg.FLT_ERR.STOP, Reg.STG_STATUS.STATE, Reg.COL_STATUS.BUSY,
      Reg.COL_STATUS.STOPPED, Reg.COL_STATUS.HELD, Reg.PWR_STATUS.STATE, Reg.PWR_STATUS.MOVING, Reg.PWR_LADDER.TARGET],
      f.key < 0x00200000 * 32) f hf
    simp only [Fld.key] at hlow ⊢
    omega
  · obtain ⟨j, -, rfl⟩ := List.mem_map.1 hf
    simp only [Fld.key, Reg.CORE_SEQ_CTRL.QREQ]
    omega

theorem Fld.inStack.not_endField (h : g.inStack) (c : Nat) : ∀ f ∈ endFields c, g.key ≠ f.key := by
  obtain ⟨hlo, hhi, hbit⟩ := h
  simp only [endFields, List.forall_mem_cons, Fld.key, Reg.CORE_SEQ_TRACE_DROP.COUNT, Reg.CORE_SEQ_ERR.FAULT, Reg.CORE_MXA_STATUS.BUSY,
    Reg.CORE_MXA_STATUS.ACTIVE, Reg.CORE_MXA_STATUS.KEPT, Reg.CORE_SEQ_CTRL.QREQ]
  refine ⟨?_, ?_, ?_, ?_, ?_, ?_, fun _ h => absurd h List.not_mem_nil⟩ <;> omega

/-- What a requester's job-fatal fault leaves: the registers of the stacks and the waiting addends, with the job stopped. -/
structure StopsBesideStacks (d e : Dev) : Prop where
  fields : ∀ g : Fld, g.inStack → e.get g = d.get g
  accq : e.accq = d.accq
  stopped : e.get Reg.FLT_STATUS.HL = hlStopped

theorem stopsBesideStacks_raise (d : Dev) {ev : Ev} (h : faultClass ev.code = 4) : StopsBesideStacks d (d.raise ev) := by
  obtain ⟨hspares, hstops⟩ := raise_jobFatal_spares_and_stops d 0 h
  exact ⟨fun g hg => hspares.fields g hg.not_stopField, accq_raise d ev, hstops⟩

theorem stopsBesideStacks_fatalOf (d : Dev) (q : MemRequester) {ev : Ev} (h : faultClass ev.code = 4) :
    StopsBesideStacks d (d.fatalOf q ev) := by
  have hends (c : CoreId) : StopsBesideStacks d ((if (d.core c).cmd.isSome then d.seqEnd c ev.code ev.tag else d).raise ev) := by
    split
    · obtain ⟨hfields, haccq, hstop⟩ := stopsBesideStacks_raise (d.seqEnd c ev.code ev.tag) h
      exact ⟨fun g hg => (hfields g hg).trans ((ended_seqEnd d c _ _).fields g (hg.not_endField c)), haccq.trans (accq_seqEnd d c _ _), hstop⟩
    · exact stopsBesideStacks_raise d h
  cases q
  case index c => exact hends c
  case trace c => exact hends c
  all_goals exact stopsBesideStacks_raise d h

/-! ### The address of a refused write -/

/-- A write is refused at the start of its part inside an entry that it touches. -/
theorem rbtCut_of_refused {er : MemErr} (h : d.writeErr a bs = some er) (her : er = .partialRb v ∨ er = .lateRb v) :
    ∃ i ∈ d.rbtHit a bs.length, v = (d.rbtCut i a bs.length).1 := by
  unfold Dev.writeErr at h
  dsimp only at h
  split at h
  · obtain rfl := Option.some.inj h
    simp at her
  split at h
  · obtain rfl := Option.some.inj h
    simp at her
  split at h
  · next i hi =>
    obtain rfl := Option.some.inj h
    exact ⟨i, List.mem_of_find?_eq_some hi, by simpa [eq_comm] using her⟩
  split at h
  · next i hi =>
    obtain rfl := Option.some.inj h
    exact ⟨i, List.mem_of_find?_eq_some hi, by simpa [eq_comm] using her⟩
  split at h
  · obtain rfl := Option.some.inj h
    simp at her
  · obtain ⟨x, -, rfl⟩ := Option.map_eq_some_iff.1 h
    simp at her

/-- Below the GDDR range lies Granary alone. -/
theorem isGrnPlace_of_low {p : Nat} (ha : a < gdmBase) (hp : d.place a = some p) : isGrnPlace p = true := by
  rw [Dev.place_eq_some, Dev.loc] at hp
  split at hp
  · split at hp
    · next k o hloc =>
      obtain ⟨hk, ho⟩ := Dev.grnLoc_bound hloc
      obtain rfl := Loc.mem.inj hp
      exact decide_eq_true (by rw [grnPlace]; omega)
    · cases hp
  · cases hp

theorem memSource_lt_of_low (ha : a < gdmBase) : d.memSource a < 8 := by
  cases hp : d.place a with
  | some p =>
    have hgrn := isGrnPlace_of_low ha hp
    rw [memSource_of_grnPlace hp hgrn]
    exact stackOf_lt hgrn
  | none => simp [Dev.memSource, hp]

/-- The fault of a refused write names a stack. -/
theorem memSource_lt_of_refused {er : MemErr} (h : d.writeErr a bs = some er) (her : er = .partialRb v ∨ er = .lateRb v) :
    d.memSource v < 8 := by
  obtain ⟨i, hi, rfl⟩ := rbtCut_of_refused h her
  have hbase : d.get (Reg.GRN_RBT_BASE i) < 2 ^ 27 := d.get_lt _
  have hlow : a < 0x006000000000 := by
    by_contra hnot
    rw [Dev.rbtHit, if_pos (by simp [isGranary, hnot])] at hi
    cases hi
  refine memSource_lt_of_low (max_lt ?_ ?_)
  · rw [gdmBase]
    omega
  · rw [Dev.rbtLo, gdmBase]
    omega

/-! ### The refusal -/

theorem dmaNote_frame (d : Dev) (q : MemRequester) (er : MemErr) : d.dmaNote q er = { d with cores := (d.dmaNote q er).cores } := by
  cases q <;> rfl

theorem access_write_partial (q : MemRequester) (h : d.writeErr a bs = some (.partialRb v)) :
    d.access q a (.write bs) = (none, some (.partialRb v), (d.rbRefuse false q v).dmaNote q (.partialRb v)) := by
  simp only [Dev.access, Dev.writeMem, h]

theorem access_write_late (q : MemRequester) (h : d.writeErr a bs = some (.lateRb v)) :
    d.access q a (.write bs) = (none, some (.lateRb v), (d.rbRefuse true q v).dmaNote q (.lateRb v)) := by
  simp only [Dev.access, Dev.writeMem, h]

/-- The flag of a refused write, R196. -/
def rbFlag (late : Bool) (k : Nat) : Fld := if late then Reg.GRN_THR_ERR.RB_LATE k else Reg.GRN_THR_ERR.RB_PARTIAL k

theorem rbFlag_inStack (late : Bool) (hk : k < 8) : (rbFlag late k).inStack := by
  cases late <;> simp only [rbFlag, Fld.inStack, Reg.GRN_THR_ERR.RB_LATE, Reg.GRN_THR_ERR.RB_PARTIAL, if_true, Bool.false_eq_true, if_false] <;>
    omega

/-- A refused write sets its flag and stops the job, and the addends that wait stay. -/
theorem rbRefuse_spec (d : Dev) (late : Bool) (q : MemRequester) (er : MemErr) (hk : d.memSource v < 8) :
    let e := (d.rbRefuse late q v).dmaNote q er
    e.bit (rbFlag late (d.memSource v)) = true ∧ e.accq = d.accq ∧ e.get Reg.FLT_STATUS.HL = hlStopped := by
  have hstack := rbFlag_inStack late hk
  have hflag : ∃ y : Dev, y.bit (rbFlag late (d.memSource v)) = true ∧ y.accq = d.accq ∧ ∃ tag, d.rbRefuse late q v =
      y.fatalOf q { code := if late then Flt.RB_LATE else Flt.RB_PARTIAL, source := d.memSource v, tag := tag, arg0 := v } := by
    refine ⟨_, ?_, ?_, _, rfl⟩
    · cases late
      case false => exact Dev.bit_setBit_same d true Nat.one_pos
      case true =>
        have hapart : (Reg.GRN_THR_ERR.RB_LATE (d.memSource v)).key ≠ (Reg.GRN_THR_ERR.LATE_CNT (d.memSource v)).key := by
          simp only [Fld.key, Reg.GRN_THR_ERR.RB_LATE, Reg.GRN_THR_ERR.LATE_CNT]
          omega
        exact (Dev.bit_set_other _ _ hapart).trans (Dev.bit_setBit_same d true Nat.one_pos)
    · cases late <;> rfl
  obtain ⟨y, hbit, haccq, tag, hrefuse⟩ := hflag
  have hclass : faultClass (if late then Flt.RB_LATE else Flt.RB_PARTIAL) = 4 := by cases late <;> decide
  have hstops := stopsBesideStacks_fatalOf y q
    (ev := { code := if late then Flt.RB_LATE else Flt.RB_PARTIAL, source := d.memSource v, tag := tag, arg0 := v }) hclass
  dsimp only
  rw [dmaNote_frame, hrefuse]
  exact ⟨(Dev.bit_congr (hstops.fields _ hstack)).trans hbit, hstops.accq.trans haccq, hstops.stopped⟩

end Sys2Proof.Machine

/-! ## Accumulating writes and the lanes that add (R196 to R199) -/

namespace Sys2Proof.Machine

variable {d e f y : Dev} {i k a n p r : Nat} {q : MemRequester} {bs : List Byte} {hit : List Nat}

/-! ### A write queues its addends -/

/-- While the queues hold fewer than 128 addends in all, none of them is full. -/
theorem foldl_accPush (xs : List Addend) (d : Dev) (h : d.accq.length + xs.length ≤ 128) :
    xs.foldl Dev.accPush d = { d with accq := d.accq ++ xs } := by
  induction xs generalizing d with
  | nil => rw [List.append_nil]; rfl
  | cons x xs ih =>
    have hroom : ¬128 ≤ d.accCount (stackOf x.place) := by
      have hcount : d.accCount (stackOf x.place) ≤ d.accq.length := List.length_filter_le _ _
      rw [List.length_cons] at h
      omega
    have hpush : d.accPush x = { d with accq := d.accq ++ [x] } := by
      rw [Dev.accPush, if_neg hroom]
    rw [List.foldl_cons, hpush, ih]
    · simp only [List.append_assoc, List.singleton_append]
    · simpa [Nat.add_assoc, Nat.add_comm 1] using h

/-- The bytes of a write inside its entries are not stored. -/
theorem wrOutside_frame (d : Dev) (hit : List Nat) (a : Nat) (bs : List Byte) :
    d.wrOutside hit a bs = { d with mem := (d.wrOutside hit a bs).mem } ∧
      ∀ p, (∀ i, i < bs.length → d.place (a + i) = some p → d.inRbt hit (a + i) = true) → (d.wrOutside hit a bs).byte p = d.byte p := by
  have hwalk (xs : List (Byte × Nat)) (e : Dev) (hmap : SameTables d e) :
      let z := xs.foldl (fun e b => if d.inRbt hit (a + b.2) then e else e.wr (a + b.2) b.1) e
      z = { e with mem := z.mem } ∧
        ∀ p, (∀ b ∈ xs, d.place (a + b.2) = some p → d.inRbt hit (a + b.2) = true) → z.byte p = e.byte p := by
    induction xs generalizing e with
    | nil => exact ⟨rfl, fun _ _ => rfl⟩
    | cons b xs ih =>
      dsimp only [List.foldl_cons]
      split
      · obtain ⟨hframe, hbytes⟩ := ih e hmap
        exact ⟨hframe, fun p hp => hbytes p fun x hx => hp x (List.mem_cons_of_mem _ hx)⟩
      · next hout =>
        have hwr : e.wr (a + b.2) b.1 = { e with mem := (e.wr (a + b.2) b.1).mem } := e.wrBytes_frame (a + b.2) [b.1]
        obtain ⟨hframe, hbytes⟩ := ih (e.wr (a + b.2) b.1) ⟨fun g hlo hhi hbit => by rw [hwr]; exact hmap.tables g hlo hhi hbit,
          by rw [hwr]; exact hmap.window⟩
        refine ⟨hframe.trans (by rw [hwr]), fun p hp => (hbytes p fun x hx => hp x (List.mem_cons_of_mem _ hx)).trans ?_⟩
        rw [byte_wr, if_neg fun hb => hout (hp b List.mem_cons_self ((hmap.place _).symm.trans hb))]
  obtain ⟨hframe, hbytes⟩ := hwalk bs.zipIdx d ⟨fun _ _ _ _ => rfl, rfl⟩
  refine ⟨hframe, fun p hp => hbytes p fun b hb => ?_⟩
  obtain ⟨hlt, -⟩ := List.mem_zipIdx' hb
  exact hp b.2 hlt

/-- A write that touches open entries queues its addends; the bytes of the entries stay. -/
theorem writeGood_of_hit (q : MemRequester) (hhit : d.rbtHit a bs.length ≠ [])
    (hroom : d.accq.length + ((d.rbtHit a bs.length).flatMap fun i => d.rbtAddends q i a bs).length ≤ 128) :
    d.writeGood q a bs = { d with
        mem := (d.writeGood q a bs).mem, grnBad := (d.writeGood q a bs).grnBad, sramEcc := (d.writeGood q a bs).sramEcc,
        accq := d.accq ++ (d.rbtHit a bs.length).flatMap fun i => d.rbtAddends q i a bs } ∧
      ∀ p, (∀ i, i < bs.length → d.place (a + i) = some p → d.inRbt (d.rbtHit a bs.length) (a + i) = true) →
        (d.writeGood q a bs).byte p = d.byte p := by
  have heq : d.writeGood q a bs = ((d.rbtHit a bs.length).flatMap fun i => d.rbtAddends q i a bs).foldl Dev.accPush
      ((d.heal (d.rbtHit a bs.length) a bs.length).wrOutside (d.rbtHit a bs.length) a bs) := by
    unfold Dev.writeGood
    split
    · next hnone => exact absurd hnone hhit
    · rfl
  generalize (d.rbtHit a bs.length).flatMap (fun i => d.rbtAddends q i a bs) = adds at hroom heq ⊢
  generalize d.rbtHit a bs.length = hit at heq ⊢
  have hheal := d.heal_frame hit a bs.length
  have hplace := place_heal d hit a bs.length
  have hin (x : Nat) : (d.heal hit a bs.length).inRbt hit x = d.inRbt hit x := by rw [hheal]; rfl
  obtain ⟨hframe, hbytes⟩ := wrOutside_frame (d.heal hit a bs.length) hit a bs
  have haccq : ((d.heal hit a bs.length).wrOutside hit a bs).accq = d.accq := by rw [hframe, hheal]
  rw [heq, foldl_accPush _ _ (by rw [haccq]; exact hroom), haccq]
  refine ⟨by rw [hframe, hheal], fun p hp => ?_⟩
  refine (hbytes p fun i hi hpl => (hin _).trans (hp i hi ((hplace _).symm.trans hpl))).trans ?_
  rw [hheal]
  rfl

theorem does_accumulateWrite {s : State} {addr : DWord} {post : Dev → Prop} (hon : s.dev.memOn = true)
    (hhit : s.dev.rbtHit addr.toNat bs.length ≠ []) (hp : post (s.dev.access q addr.toNat (.write bs)).2.2) :
    Does (.accumulateWrite q addr bs) s post := by
  refine does_of_eq rfl (if_pos ?_) (by rw [hostReply_write]; exact hp)
  rw [hon]
  simpa using hhit

/-! ### A lane adds an addend (R197, R199) -/

/-- The status fields of entry `i`. -/
def rbsFields (i : Nat) : List Fld :=
  [Reg.GRN_RBS_FLAGS.NONFIN i, Reg.GRN_RBS_NFCNT.COUNT i, Reg.GRN_RBS_FLAGS.GRID_RANGE i, Reg.GRN_RBS_FLAGS.MAXEXP i]

/-- What the status of an entry notes of an update. -/
def Dev.rbsNote (i : Nat) (nonfin range : Bool) (maxexp : Option Nat) (d : Dev) : Dev :=
  let d := if nonfin then (d.setBit (Reg.GRN_RBS_FLAGS.NONFIN i) true).addSat (Reg.GRN_RBS_NFCNT.COUNT i) 1 else d
  let d := if range then d.setBit (Reg.GRN_RBS_FLAGS.GRID_RANGE i) true else d
  match maxexp with
  | some e => d.set (Reg.GRN_RBS_FLAGS.MAXEXP i) (max e (d.get (Reg.GRN_RBS_FLAGS.MAXEXP i)))
  | none => d

theorem onlyRegs_rbsNote (d : Dev) (i : Nat) (nonfin range : Bool) (maxexp : Option Nat) :
    onlyRegs (rbsFields i) d (d.rbsNote i nonfin range maxexp) := by
  have hnonfin : onlyRegs (rbsFields i) d
      (if nonfin then (d.setBit (Reg.GRN_RBS_FLAGS.NONFIN i) true).addSat (Reg.GRN_RBS_NFCNT.COUNT i) 1 else d) :=
    onlyRegs_ite (onlyRegs_flag d (by simp [rbsFields]) (by simp [rbsFields])) .refl
  have hrange (d : Dev) : onlyRegs (rbsFields i) d (if range then d.setBit (Reg.GRN_RBS_FLAGS.GRID_RANGE i) true else d) :=
    onlyRegs_ite (onlyRegs_setBit d true (by simp [rbsFields])) .refl
  unfold Dev.rbsNote
  dsimp only
  split
  · exact (hnonfin.trans (hrange _)).trans (onlyRegs_set _ _ (by simp [rbsFields]))
  · exact hnonfin.trans (hrange _)

theorem get64_add64 (d : Dev) {x : Fld} (n : Nat) (hkey : x.key ≠ x.hi.key) (hwidth : x.width = 32) :
    (d.add64 x n).get64 x = (d.get64 x + n) % 2 ^ 64 := get64_set64 d hkey hwidth (Nat.mod_lt _ (Nat.two_pow_pos _))

/-- The work counters of a stack lie apart from each other and from the status of every entry. -/
theorem workFields_apart (hk : k < 8) (i : Nat) :
    (∀ f ∈ rbsFields i, (Reg.GRN_THR_ACC_LO k).key ≠ f.key ∧ (Reg.GRN_THR_ACC_LO k).hi.key ≠ f.key ∧
      (Reg.GRN_THR_BUSY_LO k).key ≠ f.key ∧ (Reg.GRN_THR_BUSY_LO k).hi.key ≠ f.key) ∧
    (∀ f ∈ [Reg.GRN_THR_ACC_LO k, (Reg.GRN_THR_ACC_LO k).hi], (Reg.GRN_THR_BUSY_LO k).key ≠ f.key ∧ (Reg.GRN_THR_BUSY_LO k).hi.key ≠ f.key) ∧
    (∀ f ∈ [Reg.GRN_THR_BUSY_LO k, (Reg.GRN_THR_BUSY_LO k).hi], (Reg.GRN_THR_ACC_LO k).key ≠ f.key ∧ (Reg.GRN_THR_ACC_LO k).hi.key ≠ f.key) ∧
    (Reg.GRN_THR_ACC_LO k).key ≠ (Reg.GRN_THR_ACC_LO k).hi.key ∧ (Reg.GRN_THR_BUSY_LO k).key ≠ (Reg.GRN_THR_BUSY_LO k).hi.key := by
  simp only [rbsFields, List.forall_mem_cons, Fld.key, Fld.hi, Reg.GRN_THR_ACC_LO, Reg.GRN_THR_BUSY_LO, Reg.GRN_RBS_FLAGS.NONFIN,
    Reg.GRN_RBS_NFCNT.COUNT, Reg.GRN_RBS_FLAGS.GRID_RANGE, Reg.GRN_RBS_FLAGS.MAXEXP, List.not_mem_nil, false_imp_iff, implies_true, and_true]
  omega

/-- A lane of stack `k` has stored the element `v` of `n` bytes at place `p`, in `cost` cycles. -/
structure Added (k p n v cost : Nat) (d e : Dev) : Prop where
  frame : e = { d with regs := e.regs, mem := e.mem }
  others : bytesBut p n d e
  element : ∀ i, i < n → e.byte (p + i) = BitVec.ofNat 8 (v / 2 ^ (8 * i))
  added : e.get64 (Reg.GRN_THR_ACC_LO k) = (d.get64 (Reg.GRN_THR_ACC_LO k) + 1) % 2 ^ 64
  busy : e.get64 (Reg.GRN_THR_BUSY_LO k) = (d.get64 (Reg.GRN_THR_BUSY_LO k) + cost) % 2 ^ 64

/-- The lane stores the element, notes the status of entry `i` and counts its work. -/
theorem added_of_stored (hk : k < 8) (d : Dev) (i p n v cost : Nat) (nonfin range : Bool) (maxexp : Option Nat) :
    Added k p n v cost d ((((d.setBytes p (leBytes n v)).rbsNote i nonfin range maxexp).add64 (Reg.GRN_THR_ACC_LO k) 1).add64
      (Reg.GRN_THR_BUSY_LO k) cost) := by
  obtain ⟨hstatus, hbusyApart, haccApart, haccKey, hbusyKey⟩ := workFields_apart hk i
  have hstored := d.setBytes_eq p (leBytes n v)
  have hbyte := d.byte_setBytes p (leBytes n v)
  generalize d.setBytes p (leBytes n v) = y at hstored hbyte ⊢
  have hnote := onlyRegs_rbsNote y i nonfin range maxexp
  generalize y.rbsNote i nonfin range maxexp = z at hnote ⊢
  have hz : z = { d with regs := z.regs, mem := z.mem } := by rw [hnote.1, hstored]
  have hget {g : Fld} (hg : ∀ f ∈ rbsFields i, g.key ≠ f.key) : z.get g = d.get g := (hnote.2 g hg).trans (by rw [hstored]; rfl)
  have hmem (a : Nat) : z.byte a = y.byte a := by rw [hnote.1]; rfl
  have hcount {x : Fld} (y : Dev) (m : Nat) := (onlyRegs_set64 y x m).2
  refine ⟨by rw [hz]; rfl, fun a ha => ?others, fun j hj => ?element, ?added, ?busy⟩
  case others =>
    refine (hmem a).trans ((hbyte a).trans ?_)
    split
    · rw [List.getD_eq_default _ _ (by rw [length_leBytes]; omega)]
    · rfl
  case element =>
    refine (hmem _).trans ((hbyte _).trans ?_)
    rw [if_pos (Nat.le_add_right _ _), Nat.add_sub_cancel_left, getD_leBytes _ _ hj]
  case added =>
    refine (get64_congr (hcount _ _ _ fun f hf => (haccApart f hf).1) (hcount _ _ _ fun f hf => (haccApart f hf).2)).trans ?_
    rw [get64_add64 z 1 haccKey rfl, get64_congr (hget fun f hf => (hstatus f hf).1) (hget fun f hf => (hstatus f hf).2.1)]
  case busy =>
    have hbefore : (z.add64 (Reg.GRN_THR_ACC_LO k) 1).get64 (Reg.GRN_THR_BUSY_LO k) = z.get64 (Reg.GRN_THR_BUSY_LO k) :=
      get64_congr (hcount _ _ _ fun f hf => (hbusyApart f hf).1) (hcount _ _ _ fun f hf => (hbusyApart f hf).2)
    rw [get64_add64 _ cost hbusyKey rfl, hbefore,
      get64_congr (hget fun f hf => (hstatus f hf).2.2.1) (hget fun f hf => (hstatus f hf).2.2.2)]

/-- The element that an addend makes of the stored one. -/
def Dev.rbsResult (d : Dev) (x : Addend) : Nat × Bool × Bool × Option Nat :=
  rbtUpdate (d.get (Reg.GRN_RBT_CTL.FMT x.rbt)) (d.get (Reg.GRN_RBT_CTL.AFMT x.rbt)) (d.get (Reg.GRN_RBS_FLAGS.GRIDE x.rbt))
    (leNat (d.bytes x.place (rbtElem (d.get (Reg.GRN_RBT_CTL.FMT x.rbt))))) x.bits

theorem added_addendApply {x : Addend} (hk : stackOf x.place < 8) (h : mget 0 d.grnBad (x.place / 64) = 0) :
    Added (stackOf x.place) x.place (rbtElem (d.get (Reg.GRN_RBT_CTL.FMT x.rbt))) (d.rbsResult x).1
      (if d.get (Reg.GRN_RBT_CTL.FMT x.rbt) = 13 then 4 else 1) d (d.addendApply x) := by
  unfold Dev.addendApply
  dsimp only
  rw [if_neg (not_not.2 h)]
  exact added_of_stored hk d x.rbt _ _ _ _ (d.rbsResult x).2.1 (d.rbsResult x).2.2.1 (d.rbsResult x).2.2.2

theorem stackOf_takeAddend {xs r : List Addend} {x : Addend} (h : takeAddend k xs = some (x, r)) : stackOf x.place = k := by
  induction xs generalizing r with
  | nil => cases h
  | cons b xs ih =>
    unfold takeAddend at h
    split at h
    · next hb =>
      cases h
      exact hb
    · obtain ⟨w, hw, hx⟩ := Option.map_eq_some_iff.1 h
      cases hx
      exact ih hw

theorem addendNext_of_take {x : Addend} {r : List Addend} (h : takeAddend k d.accq = some (x, r)) :
    d.addendNext k = Dev.addendApply x { d with accq := r } := by
  rw [Dev.addendNext, h]

end Sys2Proof.Machine

/-! ## Refresh, ports, margins, scrub and reduction buffers (O30) -/

namespace Sys2Proof.Machine

variable {s : State} {d e : Dev} {k p o n : Nat}

/-! ### A margin warning (R367) -/

/-- A record of the code and the source stands in the Gleaner's queue, with its last event now. -/
def Dev.notedFrom (d : Dev) (code source : Nat) : Prop := ∃ r ∈ d.flt.pend, r.code = code ∧ r.source = source ∧ r.last = d.mt

@[simp] theorem GlnRec.again_source (mt : Nat) (r : GlnRec) : (r.again mt).source = r.source := by
  unfold GlnRec.again
  split <;> rfl

/-- A coalesced event renews a record of its code and its source. -/
theorem coalesce_renews {mt : Nat} {ev : Ev} {l l' : List GlnRec} (h : coalesce mt ev l = some l') :
    ∃ r ∈ l', r.code = ev.code ∧ r.source = ev.source ∧ r.last = mt := by
  induction l generalizing l' with
  | nil => cases h
  | cons r rs ih =>
    unfold coalesce at h
    split at h
    · next hs =>
      cases h
      simp only [Ev.same, Bool.and_eq_true, decide_eq_true_eq] at hs
      obtain ⟨⟨⟨hcode, hsource⟩, -⟩, -⟩ := hs
      exact ⟨r.again mt, List.mem_cons_self, by simp [hcode], by simp [hsource], by simp⟩
    · obtain ⟨q, hq, rfl⟩ := Option.map_eq_some_iff.1 h
      obtain ⟨x, hx, hr⟩ := ih hq
      exact ⟨x, List.mem_cons_of_mem _ hx, hr⟩

/-- A coalesced event leaves every record, or renews it. -/
theorem coalesce_leaves {mt : Nat} {ev : Ev} {l l' : List GlnRec} (h : coalesce mt ev l = some l') {r : GlnRec} (hr : r ∈ l) :
    r ∈ l' ∨ r.again mt ∈ l' := by
  induction l generalizing l' with
  | nil => cases hr
  | cons x xs ih =>
    unfold coalesce at h
    split at h
    · cases h
      obtain rfl | hr := List.mem_cons.1 hr
      · exact .inr List.mem_cons_self
      · exact .inl (List.mem_cons_of_mem _ hr)
    · obtain ⟨q, hq, rfl⟩ := Option.map_eq_some_iff.1 h
      obtain rfl | hr := List.mem_cons.1 hr
      · exact .inl List.mem_cons_self
      · exact (ih hq hr).imp (List.mem_cons_of_mem _) (List.mem_cons_of_mem _)

theorem notedFrom_logOpen (d : Dev) (ev : Ev) (h : d.flt.pend.length < 32) : (d.logOpen ev).2.notedFrom ev.code ev.source := by
  unfold Dev.logOpen
  split
  · next hp => exact coalesce_renews hp
  · rw [if_pos h]
    exact ⟨ev.record d.mt, List.mem_append_right _ List.mem_cons_self, rfl, rfl, rfl⟩

theorem Dev.notedFrom.logOpen {code source : Nat} (h : d.notedFrom code source) (ev : Ev) : (d.logOpen ev).2.notedFrom code source := by
  obtain ⟨r, hr, hcode, hsource, hlast⟩ := h
  unfold Dev.logOpen
  split
  · next hp =>
    obtain hmem | hmem := coalesce_leaves hp hr
    · exact ⟨r, hmem, hcode, hsource, hlast⟩
    · exact ⟨r.again d.mt, hmem, by simpa using hcode, by simpa using hsource, by simp⟩
  · split
    · exact ⟨r, List.mem_append_left _ hr, hcode, hsource, hlast⟩
    · refine ⟨r, ?_, hcode, hsource, hlast.trans (reported_glnLost d _).mt.symm⟩
      rw [Dev.glnLost_flt]
      exact hr

theorem Dev.notedFrom.drainUpdate {code source : Nat} (h : d.notedFrom code source) : d.drainUpdate.notedFrom code source := by
  unfold Dev.drainUpdate
  dsimp only
  split
  · split
    · exact h
    · have hlog := Dev.notedFrom.logOpen (d := Dev.setBit Reg.FLT_STATUS.DRAIN true (d.set Reg.FLT_DRAIN.SCORE (min (bucketSum d.flt.buckets) 65535)))
        h { code := Flt.FLT_DRAIN }
      obtain ⟨r, hr, hcode, hsource, hlast⟩ := hlog
      refine ⟨r, ?_, hcode, hsource, hlast.trans (reported_msix _ _).mt.symm⟩
      exact (congrArg (r ∈ FaultUnit.pend ·) (Dev.msix_flt _ _)).mpr hr
  · exact h

/-- With room in the queue a warning is recorded with its source. -/
theorem notedFrom_raise_warning (d : Dev) {ev : Ev} (h : faultClass ev.code = 2) (hroom : d.flt.pend.length < 32) :
    (d.raise ev).notedFrom ev.code ev.source := by
  rw [raise_of_warning d h]
  have hlog := notedFrom_logOpen d ev hroom
  split
  · exact Dev.notedFrom.drainUpdate (d := { (d.logOpen ev).2 with flt := _ }) hlog
  · exact hlog

/-- The first warning of a monitor is due at any time. -/
theorem warnHourly_of_first {mon : Nat} {ev : Ev} (h : mget 0 d.flt.rate (mon * 65536 + ev.code) = 0) :
    d.warnHourly mon ev = Dev.raise ev { d with flt := { d.flt with rate := mset 0 d.flt.rate (mon * 65536 + ev.code) (d.mt + 1) } } := by
  unfold Dev.warnHourly
  rw [if_neg (by simp [Dev.warnDue, h])]

/-- Within the hour there is none. -/
theorem warnHourly_of_recent {mon l : Nat} {ev : Ev} (h : mget 0 d.flt.rate (mon * 65536 + ev.code) = l + 1)
    (hrecent : d.mt < l + 3600000000 * ticksPerUs) : d.warnHourly mon ev = d := by
  unfold Dev.warnHourly
  rw [if_pos (by simp [Dev.warnDue, h, hrecent])]

theorem does_gdmMargin {q : PortId} {post : Dev → Prop} (hon : s.dev.memOn = true)
    (hp : post (s.dev.warnHourly q { code := Flt.GDM_MARGIN, source := q })) : Does (.gdmMargin q) s post :=
  does_of_eq rfl (if_pos hon) hp

/-! ### Scrub (R177) -/

theorem scrubAddr_frame (d : Dev) (k o : Nat) : (d.scrubAddr k o).2 = { d with freeIdx := (d.scrubAddr k o).2.freeIdx } := by
  unfold Dev.scrubAddr
  split <;> rfl

theorem scrub_good (h : mget 0 d.grnBad (grnPlace k o / 64) = 0) : d.scrub k o .good = (d.scrubAddr k (o / 64 * 64)).2 := by
  unfold Dev.scrub
  dsimp only
  rw [if_neg (not_not.2 h)]

theorem scrub_corrected (h : mget 0 d.grnBad (grnPlace k o / 64) = 0) : d.scrub k o .corrected =
    (d.scrubAddr k (o / 64 * 64)).2.grnCorrected (grnPlace k o / 64 * 64) (d.scrubAddr k (o / 64 * 64)).1 none := by
  unfold Dev.scrub
  dsimp only
  rw [if_neg (not_not.2 h)]

theorem scrub_uncorrectable (d : Dev) (k o : Nat) : d.scrub k o .uncorrectable =
    let r := d.scrubAddr k (o / 64 * 64)
    (Dev.grnUe k r.1 { r.2 with grnBad := mset 0 r.2.grnBad (grnPlace k o / 64) 1 }).log { code := Flt.GRN_UE, source := k, arg0 := r.1 } := by
  unfold Dev.scrub
  dsimp only
  rw [ite_self]

/-- The codeword of an offset lies in its stack. -/
theorem codeword_inStack (hk : k < 8) (ho : o < 2 ^ 36) : isGrnPlace (grnPlace k o / 64 * 64) = true ∧ stackOf (grnPlace k o / 64 * 64) = k := by
  rw [isGrnPlace, stackOf, grnPlace, decide_eq_true_eq]
  omega

theorem does_scrub {j : StackId} {offset : BitVec 36} {out : EccOutcome} {post : Dev → Prop} (hon : s.dev.memOn = true)
    (hen : s.dev.bit (Reg.GRN_SCRUB.EN j) = true) (hp : post (s.dev.scrub j offset.toNat out)) : Does (.scrub j offset out) s post :=
  does_of_eq rfl (if_pos (by rw [hon, hen]; rfl)) hp

/-- A corrected codeword is counted. -/
theorem scrub_corrected_spec (hk : k < 8) (ho : o < 2 ^ 36) (h : mget 0 d.grnBad (grnPlace k o / 64) = 0) :
    let e := d.scrub k o .corrected
    e.bit (Reg.GRN_ERR.CE k) = true ∧ e.mem = d.mem ∧ e.grnBad = d.grnBad ∧ e.cores = d.cores ∧
      e.get (Reg.GRN_ERR.CE_CNT k) = min (d.get (Reg.GRN_ERR.CE_CNT k) + 1) (2 ^ (Reg.GRN_ERR.CE_CNT k).width - 1) := by
  obtain ⟨hgrn, hstack⟩ := codeword_inStack hk ho
  have hframe := scrubAddr_frame d k (o / 64 * 64)
  dsimp only
  rw [scrub_corrected h]
  generalize (d.scrubAddr k (o / 64 * 64)).1 = a
  generalize (d.scrubAddr k (o / 64 * 64)).2 = y at hframe ⊢
  have hce := correctedBy_grnCorrected hgrn y a none
  rw [hstack] at hce
  exact ⟨hce.flag, hce.logged.mem.trans (by rw [hframe]), hce.logged.grnBad.trans (by rw [hframe]), hce.logged.cores.trans (by rw [hframe]),
    hce.count.trans (by rw [hframe]; rfl)⟩

/-- An uncorrectable one is flagged and marked. -/
theorem scrub_uncorrectable_spec (hk : k < 8) (d : Dev) (o : Nat) :
    let e := d.scrub k o .uncorrectable
    e.bit (Reg.GRN_ERR.UE k) = true ∧ mget 0 e.grnBad (grnPlace k o / 64) = 1 ∧ e.mem = d.mem ∧ e.cores = d.cores := by
  have hframe := scrubAddr_frame d k (o / 64 * 64)
  dsimp only
  rw [scrub_uncorrectable]
  dsimp only
  generalize (d.scrubAddr k (o / 64 * 64)).1 = a
  generalize (d.scrubAddr k (o / 64 * 64)).2 = y at hframe ⊢
  generalize hx : ({ y with grnBad := _ } : Dev) = x
  obtain ⟨hregs, hbit⟩ := noted_ue x (Reg.GRN_ERR.UE k) (Reg.GRN_ERRADDR_LO.ADDR k) a Nat.one_pos
  rw [← Dev.grnUe_eq] at hregs hbit
  have hlog := reported_logOpen (x.grnUe k a) { code := Flt.GRN_UE, source := k, arg0 := a }
  rw [Dev.log]
  refine ⟨(Dev.bit_congr (hlog.fields _ (grnUe_inMemUnit hk).not_reportField)).trans hbit, ?_, ?_, ?_⟩
  · rw [hlog.frame, hregs.1, ← hx]
    exact mget_mset_same 0 y.grnBad _ 1
  · rw [hlog.mem, hregs.1, ← hx, hframe]
  · rw [hlog.cores, hregs.1, ← hx, hframe]

/-! ### The statement -/

/-- Settles O30: a margin warning by `notedFrom_raise_warning`, a scrub by its outcome, an accumulating write by `writeGood_of_hit` and
`rbRefuse_spec`, an addend by `added_addendApply`. -/
theorem memoryUnits : Obligations.MemoryUnits := by
  intro s d
  refine ⟨fun u b => does_of rfl rfl, fun p => does_of rfl ⟨rfl, fun j => ?port⟩, fun hon => ⟨fun p hfirst hroom => ?first,
    fun p l hlast hrecent => ?recent, fun k o hen => ⟨fun hgood => ⟨?scrubGood, ?scrubCorrected⟩, ?scrubBad⟩, fun q addr bs => ?write,
    fun k x r htake hgood => ?lane⟩⟩
  case port =>
    show mget false (mset false d.gdmDead p true) j = _
    rw [mget_mset]
    by_cases hj : j = p.val <;> simp [hj]
  case first =>
    have hclass : faultClass Flt.GDM_MARGIN = 2 := by decide
    refine does_gdmMargin hon ?_
    rw [warnHourly_of_first hfirst]
    generalize hx : ({ d with flt := { d.flt with rate := _ } } : Dev) = x
    have hreport := reported_raise_warning x (ev := { code := Flt.GDM_MARGIN, source := p }) hclass
    obtain ⟨r, hr, hcode, hsource, htime⟩ := notedFrom_raise_warning x (ev := { code := Flt.GDM_MARGIN, source := p }) hclass
      (by rw [← hx]; exact hroom)
    refine ⟨?_, ?_, r, hr, hcode, hsource, ?_⟩
    · rw [hreport.mem, ← hx]
    · rw [hreport.cores, ← hx]
    · rw [htime, hreport.mt, ← hx]
  case recent => exact does_gdmMargin hon (warnHourly_of_recent hlast hrecent)
  case scrubGood =>
    refine does_scrub hon hen ?_
    rw [scrub_good hgood]
    exact scrubAddr_frame d k _
  case scrubCorrected => exact does_scrub hon hen (scrub_corrected_spec k.isLt o.isLt hgood)
  case scrubBad => exact does_scrub hon hen (scrub_uncorrectable_spec k.isLt d o.toNat)
  case write =>
    intro a hit adds hhit
    refine ⟨fun hok hfit => ?queued, fun x href => ?partialRb, fun x href => ?lateRb⟩
    case queued =>
      refine does_accumulateWrite hon hhit ?_
      rw [access_write_good q hok]
      exact writeGood_of_hit q hhit hfit
    case partialRb =>
      refine does_accumulateWrite hon hhit ?_
      rw [access_write_partial q href]
      exact rbRefuse_spec d false q (.partialRb x) (memSource_lt_of_refused href (.inl rfl))
    case lateRb =>
      refine does_accumulateWrite hon hhit ?_
      rw [access_write_late q href]
      exact rbRefuse_spec d true q (.lateRb x) (memSource_lt_of_refused href (.inr rfl))
  case lane =>
    have hk : stackOf x.place < 8 := by
      rw [stackOf_takeAddend htake]
      exact k.isLt
    obtain ⟨hframe, hothers, helement, hadded, hbusy⟩ := added_addendApply (d := { d with accq := r }) (x := x) hk hgood
    refine does_of_eq rfl (if_pos hon) ?_
    rw [addendNext_of_take htake]
    exact ⟨hframe, hothers, helement, hadded, hbusy⟩

end Sys2Proof.Machine

/-! ## Thresher commands (O33)

An EXPORT writes its records as any requester writes. Where a record falls into a reduction buffer its addends join the queue of their stack, and a
queue of 128 first adds its oldest addend (R199). If that addend's codeword can no longer be corrected, the job-fatal fault of R176 stops the job, with
every running core (R362). The write itself has not failed, so that the command succeeds; O33 asks that an EXPORT which succeeds leave the cores. -/

namespace Sys2Proof.Machine

theorem Dev.core_congr {d e : Dev} (h : e.cores = d.cores) (c : Nat) : e.core c = d.core c := congrArg (mget Core.reset · c) h

/-- The cores at the end of a command are those that its effect leaves; the flags of GRN_THR_CMDSTAT follow. -/
theorem exec_thrCmdDone {s : State} {op g : Nat} {r : Bool × Dev} (hcmd : s.dev.thr.cmd = some (op, g)) (hon : s.dev.memOn = true)
    (hr : Dev.thrEffect op g { s.dev with thr := { s.dev.thr with cmd := none } } = r) :
    ∃ e, exec .thrCmdDone s = .next { s with dev := e } ∧ e.cores = r.2.cores := by
  subst hr
  refine ⟨_, rfl, ?_⟩
  dsimp only
  rw [hcmd]
  dsimp only
  rw [if_neg (by simp [hon])]
  split <;> rfl

/-- An addend of the threshers that waits, in a codeword of stack 0 that is found uncorrectable. -/
def strandedAddend : Addend := ⟨0, grnPlace 0 0x4000, 0x4000, 0, .thresher⟩

/-- The module after reset, but for these: core 0 runs; group 0 is OPEN and has one FP32 sum at 0x1000, where its EXPORT, which is in progress, writes
the record of the group's state, with the template at 0x2000; and the queue of stack 0 is full of stranded addends. -/
def exportOverBuffer : Dev :=
  let d := ((Dev.reset.set (Reg.GRN_RBT_BASE 0) 1).set (Reg.GRN_RBT_LEN 0) 1).setBit (Reg.GRN_RBT_CTL.EN 0) true
  let d := ((d.setGrp 0 grpOpen).set Reg.GRN_THR_XSRC_LO 0x2000).set Reg.GRN_THR_XDST_LO 0x1000
  { d.setCore 0 { seq := .run } with
    mem := [(grnPlace 0 0x2002, 5#8)], grnBad := [(strandedAddend.place / 64, 1)], accq := List.replicate 128 strandedAddend,
    thr := { Dev.reset.thr with cmd := some (2, 0) } }

/-- What that EXPORT does. -/
def exportOverBufferEffect : Bool × Dev := Dev.thrEffect 2 0 { exportOverBuffer with thr := { exportOverBuffer.thr with cmd := none } }

theorem exportOverBuffer_succeeds : exportOverBufferEffect.1 = true := by decide +kernel

theorem exportOverBuffer_quiesces_core : (exportOverBufferEffect.2.core 0).seq = .quiescing := by decide +kernel

theorem exportOverBuffer_runs_core : (exportOverBuffer.core 0).seq = .run := by decide

/-- Refutes O33: an EXPORT into an open reduction buffer succeeds, and the oldest addend of the full queue, whose codeword is uncorrectable, stops the
job, so that the running core 0 is quiesced. -/
theorem not_thresherCommands : ¬ Obligations.ThresherCommands := by
  intro h
  have hon : exportOverBuffer.memOn = true := by decide
  obtain ⟨-, -, -, hpasses, -⟩ := h ⟨exportOverBuffer, []⟩ 0 .host
  obtain ⟨-, hends, -⟩ := hpasses hon
  obtain ⟨e, hexec, -, -, -, -, hexport, -⟩ := hends 2 rfl
  obtain ⟨hcores, -⟩ := hexport rfl exportOverBuffer_succeeds
  obtain ⟨e', hexec', hcores'⟩ := exec_thrCmdDone (s := ⟨exportOverBuffer, []⟩) (r := exportOverBufferEffect) rfl hon rfl
  obtain rfl : e' = e := by
    rw [hexec] at hexec'
    injection hexec' with hstate
    exact (congrArg State.dev hstate).symm
  have hsame : exportOverBufferEffect.2.cores = exportOverBuffer.cores := hcores'.symm.trans hcores
  have hseq : (exportOverBufferEffect.2.core 0).seq = (exportOverBuffer.core 0).seq :=
    congrArg Core.seq (Dev.core_congr hsame 0)
  rw [exportOverBuffer_quiesces_core, exportOverBuffer_runs_core] at hseq
  cases hseq

end Sys2Proof.Machine

/-! ## Beside the threshers

What a fault, a read by the threshers and a request to another module leave: the threshers' own records, the fields of block TBL, and every byte below
the places of the CLMs. -/

namespace Sys2Proof.Machine

variable {d e f : Dev}

/-- A field of block TBL. -/
def Fld.inTbl (g : Fld) : Prop := 0x00280000 ≤ g.off ∧ g.off < 0x00290000 ∧ g.lo < 32

/-- A field outside block TBL. -/
abbrev Fld.outsideTbl (x : Fld) : Prop := x.key < 0x00280000 * 32 ∨ 0x00290000 * 32 ≤ x.key

theorem Fld.inTbl.key_ne {g x : Fld} (hg : g.inTbl) (hx : x.outsideTbl) : g.key ≠ x.key := by
  obtain ⟨hlo, hhi, hbit⟩ := hg
  simp only [Fld.outsideTbl, Fld.key] at hx ⊢
  omega

theorem stopFields_outsideTbl : ∀ x ∈ stopFields, x.outsideTbl := by
  intro x hx
  obtain hx | hx := List.mem_append.1 hx
  · exact .inl ((by decide : ∀ x ∈ reportFields ++ [Reg.FLT_STATUS.HL, Reg.FLT_ERR.STOP, Reg.STG_STATUS.STATE, Reg.COL_STATUS.BUSY,
      Reg.COL_STATUS.STOPPED, Reg.COL_STATUS.HELD, Reg.PWR_STATUS.STATE, Reg.PWR_STATUS.MOVING, Reg.PWR_LADDER.TARGET],
      x.key < 0x00280000 * 32) x hx)
  · obtain ⟨j, -, rfl⟩ := List.mem_map.1 hx
    refine .inr ?_
    simp only [Fld.key, Reg.CORE_SEQ_CTRL.QREQ]
    omega

/-- The threshers' records, the fields of block TBL and the bytes below the CLMs are as before. -/
structure Aside (d e : Dev) : Prop where
  thr : e.thr = d.thr
  fields : ∀ g : Fld, g.inTbl → e.get g = d.get g
  bytes : ∀ p, p < 2 ^ 42 → e.byte p = d.byte p

namespace Aside

theorem refl : Aside d d := ⟨rfl, fun _ _ => rfl, fun _ _ => rfl⟩

theorem trans (h : Aside d e) (h' : Aside e f) : Aside d f where
  thr := h'.thr.trans h.thr
  fields g hg := (h'.fields g hg).trans (h.fields g hg)
  bytes p hp := (h'.bytes p hp).trans (h.bytes p hp)

/-- A change of neither the threshers, nor registers, nor memory. -/
theorem of_same (hthr : e.thr = d.thr) (hregs : e.regs = d.regs) (hmem : e.mem = d.mem) : Aside d e where
  thr := hthr
  fields g _ := by rw [Dev.get, hregs]; rfl
  bytes p _ := by rw [Dev.byte, hmem]; rfl

theorem of_onlyRegs {fs : List Fld} (h : onlyRegs fs d e) (hfs : ∀ x ∈ fs, x.outsideTbl) : Aside d e where
  thr := by rw [h.1]
  fields g hg := h.2 g fun x hx => hg.key_ne (hfs x hx)
  bytes p _ := by rw [h.1]; rfl

theorem of_reported (h : Reported d e) : Aside d e where
  thr := by rw [h.frame]
  fields g hg := h.fields g fun x hx => hg.key_ne (stopFields_outsideTbl x (List.mem_append_left _ (List.mem_append_left _ hx)))
  bytes p _ := by rw [Dev.byte, h.mem]; rfl

theorem set (h : Aside d e) (x : Fld) (v : Nat) (hx : x.outsideTbl) : Aside d (e.set x v) :=
  h.trans (of_onlyRegs (onlyRegs_set (fs := [x]) e v (by simp)) (by simpa using hx))

theorem set64 (h : Aside d e) (x : Fld) (v : Nat) (hx : x.outsideTbl) (hhi : x.hi.outsideTbl) : Aside d (e.set64 x v) :=
  (h.set x _ hx).set x.hi _ hhi

theorem setClm (h : Aside d e) (c off : Nat) (bs : List Byte) : Aside d (e.setClm c off bs) := by
  obtain ⟨hframe, hbytes⟩ := wroteAt_setClm e c off bs
  refine h.trans ⟨by rw [hframe], fun g _ => by rw [hframe]; rfl, fun p hp => hbytes p fun hin => ?_⟩
  have : 2 ^ 42 ≤ clmPlace c off := by rw [clmPlace, Nat.add_assoc]; exact Nat.le_add_right _ _
  omega

end Aside

/-! ### Faults -/

theorem Aside.quiesceCore (h : Aside d e) {c : Nat} (hc : c < 64) : Aside d (e.quiesceCore c) := by
  have hrequest : Aside d (e.setBit (Reg.CORE_SEQ_CTRL.QREQ c) true) :=
    h.set _ _ (stopFields_outsideTbl _ (List.mem_append_right _ (List.mem_map_of_mem (List.mem_range.2 hc))))
  unfold Dev.quiesceCore
  dsimp only
  split
  · exact h.setClm c _ _
  · exact h.setClm c _ _
  · exact h.setClm c _ _
  · exact h
  · exact hrequest
  · exact hrequest
  · exact hrequest.trans (.of_same rfl rfl rfl)
  · exact hrequest.trans (.of_same rfl rfl rfl)

theorem Aside.flood (h : Aside d e) (n : Notice) (arrival : Option Nat) : Aside d (e.flood n arrival) :=
  List.foldlRecOn (motive := Aside d) _ _ h fun x hx l _ => by
    split
    · exact hx.trans (.of_same rfl rfl rfl)
    · exact hx

theorem Aside.roundDrop (h : Aside d e) : Aside d e.roundDrop := by
  unfold Dev.roundDrop
  dsimp only
  split
  · refine .set ?_ Reg.STG_STATUS.STATE _ (by decide)
    exact h.trans (.of_same rfl rfl rfl)
  · exact h.trans (.of_same rfl rfl rfl)

theorem Aside.colStop (h : Aside d e) : Aside d e.colStop := by
  refine .set (.set (.set ?_ Reg.COL_STATUS.BUSY _ (by decide)) Reg.COL_STATUS.STOPPED _ (by decide)) Reg.COL_STATUS.HELD _ (by decide)
  exact h.trans (.of_same rfl rfl rfl)

theorem Aside.enterStopped (h : Aside d e) (ev : Ev) : Aside d (e.enterStopped ev) := by
  unfold Dev.enterStopped
  dsimp only
  have hwake : Aside d (if e.gliding then e.wake else e) := by
    split
    · exact .set (.set (.set h Reg.PWR_STATUS.STATE _ (by decide)) Reg.PWR_STATUS.MOVING _ (by decide)) Reg.PWR_LADDER.TARGET _ (by decide)
    · exact h
  have hcores := List.foldlRecOn (motive := Aside d) (List.range 64) (fun d c => d.quiesceCore c) hwake.roundDrop.colStop
    fun x hx c hc => hx.quiesceCore (List.mem_range.1 hc)
  generalize List.foldl _ _ (List.range 64) = x at hcores ⊢
  exact .trans (.set (.set hcores Reg.FLT_STATUS.HL _ (by decide)) Reg.FLT_ERR.STOP _ (by decide))
    (.of_reported (reported_log_fltMsix _ ev))

/-- A fault of any class, with the STOP of a job-fatal one. -/
theorem Aside.raise (h : Aside d e) (ev : Ev) : Aside d (e.raise ev) := by
  by_cases hclass : faultClass ev.code = 4
  case neg => exact h.trans (.of_reported (reported_raise e hclass))
  have hraise : e.raise ev = (e.logOpen ev).2.stopJob ev := by simp only [Dev.raise, hclass]
  have hlog : Aside d (e.logOpen ev).2 := h.trans (.of_reported (reported_logOpen e ev))
  rw [hraise, Dev.stopJob]
  split
  · exact hlog
  · refine .enterStopped (.flood ?_ _ none) _
    exact hlog.trans (.of_same rfl rfl rfl)

/-! ### Reads of the threshers -/

theorem Aside.noteUe (h : Aside d e) (a : Nat) : Aside d (e.noteUe a) := by
  unfold Dev.noteUe
  split
  next p hp =>
    split
    · next hgrn =>
      have hk := stackOf_lt hgrn
      rw [Dev.grnUe_eq]
      refine h.trans (.of_onlyRegs (noted_ue e (Reg.GRN_ERR.UE (stackOf p)) (Reg.GRN_ERRADDR_LO.ADDR (stackOf p)) a Nat.one_pos).1 ?_)
      simp only [ueFields, List.forall_mem_cons, Fld.outsideTbl, Fld.key, Fld.hi, Reg.GRN_ERR.UE, Reg.GRN_ERRADDR_LO.ADDR]
      refine ⟨?_, ?_, ?_, fun _ h => absurd h List.not_mem_nil⟩ <;> omega
    · split
      · rw [Dev.gdmUe_eq]
        refine h.trans (.of_onlyRegs (noted_ue e (Reg.GDM_ERR.UE (portOf p)) (Reg.GDM_ERRADDR_LO.ADDR (portOf p)) a Nat.one_pos).1 ?_)
        simp only [ueFields, List.forall_mem_cons, Fld.outsideTbl, Fld.key, Fld.hi, Reg.GDM_ERR.UE, Reg.GDM_ERRADDR_LO.ADDR]
        refine ⟨?_, ?_, ?_, fun _ h => absurd h List.not_mem_nil⟩ <;> omega
      · exact h
  next => exact h

theorem Aside.thrFault (h : Aside d e) (er : MemErr) : Aside d (e.memFault .thresher er) := by
  cases er with
  | unmapped a => exact h.raise _
  | ue a => exact h.raise _
  | partialRb a => exact h
  | lateRb a => exact h

theorem Aside.thrRead (h : Aside d e) (a n : Nat) : Aside d (e.readMem .thresher a n).2 := by
  unfold Dev.readMem
  split
  · exact h
  · next x _ => exact (h.noteUe x).thrFault (.ue x)
  · next er _ _ => exact h.thrFault er

/-- A read that gives bytes changes nothing. -/
theorem readMem_of_some {q : MemRequester} {a n : Nat} {bs : List Byte} {x : Dev} (h : d.readMem q a n = (some bs, x)) : x = d := by
  unfold Dev.readMem at h
  split at h
  · exact (Prod.mk.inj h).2.symm
  · exact nomatch (Prod.mk.inj h).1
  · exact nomatch (Prod.mk.inj h).1

/-- The next of some spans is read, if all before it were. -/
def thrReadStep (p : Option (List (List Byte)) × Dev) (x : Nat × Nat) : Option (List (List Byte)) × Dev :=
  match p.1 with
  | none => p
  | some l =>
    match p.2.readMem .thresher x.1 x.2 with
    | (some bs, d) => (some (l ++ [bs]), d)
    | (none, d) => (none, d)

theorem Dev.thrReads_eq (d : Dev) (spans : List (Nat × Nat)) : d.thrReads spans = spans.foldl thrReadStep (some [], d) := rfl

theorem Aside.thrReadStep {p : Option (List (List Byte)) × Dev} (h : Aside d p.2) (x : Nat × Nat) :
    Aside d (Machine.thrReadStep p x).2 := by
  unfold Machine.thrReadStep
  split
  · exact h
  · have hread := h.thrRead x.1 x.2
    split
    · next hx => rwa [hx] at hread
    · next hx => rwa [hx] at hread

theorem Aside.thrReads (h : Aside d e) (spans : List (Nat × Nat)) : Aside d (e.thrReads spans).2 :=
  List.foldlRecOn (motive := fun p => Aside d p.2) spans Machine.thrReadStep h fun _ hp x _ => hp.thrReadStep x

theorem thrReadStep_of_isSome {p : Option (List (List Byte)) × Dev} {x : Nat × Nat} (h : (thrReadStep p x).1.isSome = true) :
    p.1.isSome = true ∧ (thrReadStep p x).2 = p.2 := by
  unfold thrReadStep at h ⊢
  split
  · next hnone => simp [hnone] at h
  · next l hl =>
    split
    · next hread => exact ⟨by rw [hl]; rfl, readMem_of_some hread⟩
    · next hread => simp [hl, hread] at h

/-- Spans that all give their bytes are read without a change. -/
theorem foldl_thrReadStep_of_isSome {spans : List (Nat × Nat)} {p : Option (List (List Byte)) × Dev}
    (h : (spans.foldl thrReadStep p).1.isSome = true) : p.1.isSome = true ∧ (spans.foldl thrReadStep p).2 = p.2 := by
  induction spans generalizing p with
  | nil => exact ⟨h, rfl⟩
  | cons x spans ih =>
    obtain ⟨hstep, hrest⟩ := ih h
    obtain ⟨hp, hx⟩ := thrReadStep_of_isSome hstep
    exact ⟨hp, hrest.trans hx⟩

theorem thrReads_of_some {spans : List (Nat × Nat)} {l : List (List Byte)} (h : (d.thrReads spans).1 = some l) :
    d.thrReads spans = (some l, d) :=
  Prod.ext h (foldl_thrReadStep_of_isSome (p := (some [], d)) (by rw [← Dev.thrReads_eq, h]; rfl)).2

/-! ### Requests to another module -/

theorem Aside.takeTxid {owner t : Nat} (h : Aside d e) (ht : e.takeTxid owner = some (t, f)) : Aside d f := by
  unfold Dev.takeTxid at ht
  dsimp only at ht
  split at ht
  · obtain ⟨-, rfl⟩ := Prod.mk.inj (Option.some.inj ht)
    exact h.trans (.of_same rfl rfl rfl)
  · cases ht

theorem Aside.freeTxid (h : Aside d e) (t : Nat) : Aside d (e.freeTxid t) := h.trans (.of_same rfl rfl rfl)

theorem Aside.abandonTxid (h : Aside d e) (t : Nat) : Aside d (e.abandonTxid t) := by
  unfold Dev.abandonTxid
  split
  · exact h.trans (.of_same rfl rfl rfl)
  · exact h

theorem Aside.dropFrame (h : Aside d e) {cnt flag : Fld} (code : Nat) (inl : Option Nat) (arg : Nat) (hcnt : cnt.outsideTbl)
    (hflag : flag.outsideTbl) : Aside d (e.dropFrame cnt flag code inl arg) :=
  .raise (.set (.set (.set h cnt _ hcnt) flag _ hflag) Reg.FAB_ERR.DROP_CNT _ (by decide)) _

theorem Aside.dropBlk (h : Aside d e) (inl : Option Nat) (m : Frame) : Aside d (e.dropBlk inl m) :=
  h.dropFrame _ _ _ (by decide) (by decide)

theorem Aside.dropHdr (h : Aside d e) (inl : Option Nat) (m : Frame) : Aside d (e.dropHdr inl m) :=
  h.dropFrame _ _ _ (by decide) (by decide)

theorem Aside.dropNest (h : Aside d e) (inl : Option Nat) (m : Frame) : Aside d (e.dropNest inl m) :=
  h.dropFrame _ _ _ (by decide) (by decide)

theorem Aside.dropRoute (h : Aside d e) (inl : Option Nat) (m : Frame) : Aside d (e.dropRoute inl m) :=
  h.dropFrame _ _ _ (by decide) (by decide)

theorem Aside.deliverOwn (h : Aside d e) (inl : Option Nat) (m : Frame) : Aside d (e.deliverOwn inl m).2 := by
  unfold Dev.deliverOwn
  split
  · refine .set64 ?_ Reg.FAB_DELIV_LO _ (by decide) (by decide)
    exact h.trans (.of_same rfl rfl rfl)
  · exact h.dropBlk inl m

theorem Aside.enqueue (h : Aside d e) (l : Nat) (t : TxItem) : Aside d (e.enqueue l t) := h.trans (.of_same rfl rfl rfl)

section
variable {r : RouteFrom} (hlocal : r.inl = none)
include hlocal

/-- A frame of this module holds no buffer of a link. -/
theorem release_of_local (m : Frame) (d : Dev) : r.release m d = d := by
  simp only [RouteFrom.release, RouteFrom.item, hlocal, Option.map_none, Dev.freeBuffer]

theorem Aside.sendDir (h : Aside d e) (was m : Frame) (dir : Nat) (fresh : Bool) : Aside d (e.sendDir r was m dir fresh).2 := by
  unfold Dev.sendDir
  rw [hlocal]
  dsimp only
  split
  · exact h.enqueue _ _
  · exact h

theorem Aside.routeOn (h : Aside d e) (was : Frame) (fresh : Bool) (n : Nat) (m : Frame) : Aside d (e.routeOn r was fresh n m).2 := by
  induction n generalizing e m with
  | zero =>
    rw [Dev.routeOn, release_of_local hlocal]
    exact h.dropNest _ m
  | succ n ih =>
    unfold Dev.routeOn
    dsimp only
    split
    · rw [release_of_local hlocal]
      exact h.dropRoute _ m
    · split
      · exact h.sendDir hlocal was m _ fresh
      · split
        · rw [release_of_local hlocal]
          exact h.dropRoute _ m
        · split
          · rw [release_of_local hlocal]
            exact h.dropNest _ m
          · exact ih (.set64 h Reg.FAB_DETOUR_LO _ (by decide) (by decide)) _

theorem Aside.routePiste (h : Aside d e) (m : Frame) : Aside d (e.routePiste r m).2 := by
  unfold Dev.routePiste
  simp only [release_of_local hlocal, hlocal]
  split
  · exact h.dropHdr _ m
  split
  · split
    · exact h.dropHdr _ m
    · exact h.deliverOwn _ m
  split
  · exact h.enqueue _ _
  · exact h

theorem Aside.routeMc (h : Aside d e) (m : Frame) : Aside d (e.routeMc r m).2 := by
  unfold Dev.routeMc
  simp only [release_of_local hlocal, hlocal]
  split
  · exact h.dropHdr _ m
  · exact h.sendDir hlocal m m _ true

theorem Aside.route (h : Aside d e) (m : Frame) : Aside d (e.route r m).2 := by
  unfold Dev.route
  simp only [release_of_local hlocal]
  split
  · exact h.set Reg.FAB_DROP_ROUTE _ (by decide)
  split
  · exact h.dropBlk _ m
  split
  · exact h.dropNest _ m
  split
  · exact h.dropHdr _ m
  split
  · exact h.routePiste hlocal m
  split
  · exact h.routeMc hlocal m
  split
  · exact h.deliverOwn _ _
  · exact h.routeOn hlocal m _ 3 _

end

theorem Aside.originate (h : Aside d e) (node op txid addr : Nat) (payload : List Byte) (via : Option Nat) :
    Aside d (e.originate node op txid addr payload via).2 := by
  unfold Dev.originate
  split
  · exact h
  · exact h.route rfl _

end Sys2Proof.Machine

/-! ## The settings of the threshers

The address map of Granary, the table of reduction buffers and the controls of the groups. A pass and what follows it leave them, and with them the places
of the group's buffers. -/

namespace Sys2Proof.Machine

variable {d e f : Dev}

/-- A field of the interleave tables, of the table of reduction buffers, or of a group's GRN_GRP_CTL. -/
def Fld.isSetting (g : Fld) : Prop :=
  0x00280000 ≤ g.off ∧ g.lo < 32 ∧ (g.off < 0x00282000 ∨ 0x00283000 ≤ g.off ∧ g.off < 0x00283400 ∧ g.off % 64 = 0 ∧ g.lo < 3)

theorem Fld.isSetting.inTbl {g : Fld} (h : g.isSetting) : g.inTbl := by
  obtain ⟨hlo, hbit, hoff⟩ := h
  exact ⟨hlo, by omega, hbit⟩

/-- The settings are as before. -/
def Settings (d e : Dev) : Prop := ∀ g : Fld, g.isSetting → e.get g = d.get g

theorem Settings.of_regs (h : e.regs = d.regs) : Settings d e := fun g _ => by rw [Dev.get, h]; rfl

theorem Settings.refl : Settings d d := .of_regs rfl

theorem Settings.trans (h : Settings d e) (h' : Settings e f) : Settings d f := fun g hg => (h' g hg).trans (h g hg)

theorem Settings.set (h : Settings d e) (x : Fld) (v : Nat) (hx : ∀ g : Fld, g.isSetting → g.key ≠ x.key) : Settings d (e.set x v) :=
  h.trans fun g hg => Dev.get_set_other e v (hx g hg)

theorem Aside.settings (h : Aside d e) : Settings d e := fun g hg => h.fields g hg.inTbl

/-- The STATE of a group, whatever number the group has, is no setting. -/
theorem isSetting_key_ne_state {g : Fld} (hg : g.isSetting) (n : Nat) : g.key ≠ (Reg.GRN_GRP_STATE.STATE n).key := by
  obtain ⟨-, hbit, hoff⟩ := hg
  simp only [Fld.key, Reg.GRN_GRP_STATE.STATE]
  omega

theorem isSetting_grnIat {g : Fld} {i : Nat} (hi : i < 512) (hoff : g.off = 0x00280000 + i * 4) (hlo : g.lo < 32) : g.isSetting :=
  ⟨by omega, hlo, .inl (by omega)⟩

theorem isSetting_rbt {g : Fld} {i k : Nat} (hi : i < 256) (hk : k < 16) (hoff : g.off = 0x00281000 + k + i * 16) (hlo : g.lo < 32) : g.isSetting :=
  ⟨by omega, hlo, .inl (by omega)⟩

theorem isSetting_grpCtl {g : Fld} {i : Nat} (hi : i < 16) (hoff : g.off = 0x00283000 + i * 64) (hlo : g.lo < 3) : g.isSetting :=
  ⟨by omega, by omega, .inr ⟨by omega, by omega, by omega, hlo⟩⟩

/-! ### Buffers -/

theorem mem_grpEntries {g i : Nat} : i ∈ d.grpEntries g ↔ i < 256 ∧ d.bit (Reg.GRN_RBT_CTL.EN i) = true ∧ d.rbtGroup i = g := by
  simp [Dev.grpEntries]

theorem Settings.rbtLo (h : Settings d e) {i : Nat} (hi : i < 256) : e.rbtLo i = d.rbtLo i := by
  rw [Dev.rbtLo, Dev.rbtLo, h _ (isSetting_rbt (k := 4) hi (by decide) rfl (by decide : 0 < 32))]

theorem Settings.rbtHi (h : Settings d e) {i : Nat} (hi : i < 256) : e.rbtHi i = d.rbtHi i := by
  rw [Dev.rbtHi, Dev.rbtHi, h.rbtLo hi, Dev.rbtEs, Dev.rbtEs, h _ (isSetting_rbt (k := 8) hi (by decide) rfl (by decide : 0 < 32)),
    h (Reg.GRN_RBT_CTL.FMT i) (isSetting_rbt (k := 0) hi (by decide) rfl (by decide : 0 < 32))]

theorem Settings.grpEntries (h : Settings d e) (g : Nat) : e.grpEntries g = d.grpEntries g := by
  refine List.filter_congr fun i hi => ?_
  have hi : i < 256 := List.mem_range.1 hi
  have hen := h (Reg.GRN_RBT_CTL.EN i) (isSetting_rbt (k := 0) hi (by decide) rfl (by decide : 5 < 32))
  have hgroup := h (Reg.GRN_RBT_CTL.GROUP i) (isSetting_rbt (k := 0) hi (by decide) rfl (by decide : 6 < 32))
  rw [Dev.bit_congr hen, Dev.rbtGroup, Dev.rbtGroup, hgroup]

theorem Settings.mirEn (h : Settings d e) (g : Fin 16) : e.bit (Reg.GRN_GRP_CTL.MIR_EN g) = d.bit (Reg.GRN_GRP_CTL.MIR_EN g) :=
  Dev.bit_congr (h _ (isSetting_grpCtl g.isLt rfl (by decide : 1 < 3)))

theorem Settings.digEn (h : Settings d e) (g : Fin 16) : e.bit (Reg.GRN_GRP_CTL.DIG_EN g) = d.bit (Reg.GRN_GRP_CTL.DIG_EN g) :=
  Dev.bit_congr (h _ (isSetting_grpCtl g.isLt rfl (by decide : 2 < 3)))

/-! ### Places in Granary (R160, R164) -/

variable {a x : Nat}

theorem Settings.grnLoc (h : Settings d e) (hx : x < 0x006000000000) : e.grnLoc x = d.grnLoc x := by
  have hget (lo width reset : Nat) (hlo : lo < 32) : e.get ⟨0x00280000 + x / 2 ^ 30 * 4, lo, width, reset⟩ = d.get ⟨_, lo, width, reset⟩ :=
    h _ (isSetting_grnIat (i := x / 2 ^ 30) (by omega) rfl hlo)
  simp only [Dev.grnLoc, Reg.GRN_IAT.SLOT, Reg.GRN_IAT.PART, Reg.GRN_IAT.MODE, Reg.GRN_IAT.HOME, hget _ _ _ (by decide : 0 < 32),
    hget _ _ _ (by decide : 2 < 32), hget _ _ _ (by decide : 5 < 32), hget _ _ _ (by decide : 11 < 32)]

theorem place_of_granary (hx : isGranary x = true) : d.place x = (d.grnLoc x).map fun k => grnPlace k.1 k.2 := by
  have hlt : x < 0x006000000000 := of_decide_eq_true hx
  rw [Dev.place, Dev.loc, if_pos hlt]
  cases d.grnLoc x <;> rfl

theorem Settings.place (h : Settings d e) (hx : isGranary x = true) : e.place x = d.place x := by
  rw [place_of_granary hx, place_of_granary hx, h.grnLoc (of_decide_eq_true hx)]

theorem granaryPlace_lt (hx : isGranary x = true) {p : Nat} (hp : d.place x = some p) : p < 2 ^ 42 := by
  have hlt : x < 0x006000000000 := of_decide_eq_true hx
  exact place_lt_of_table (by rw [csmBase]; omega) hp

/-- A page of 4 KiB lies at consecutive places. -/
theorem grnLoc_page (d : Dev) (x : Nat) :
    d.grnLoc x = (d.grnLoc (x / 4096 * 4096)).map fun k => (k.1, k.2 + x % 4096) := by
  have hregion : x / 4096 * 4096 / 2 ^ 30 = x / 2 ^ 30 := by omega
  have hpage : x / 4096 * 4096 % 2 ^ 30 / 4096 = x % 2 ^ 30 / 4096 := by omega
  have hstart : x / 4096 * 4096 % 2 ^ 30 % 4096 = 0 := by omega
  have hwithin : x % 2 ^ 30 % 4096 = x % 4096 := by omega
  have hoff : x / 4096 * 4096 % 2 ^ 30 + x % 4096 = x % 2 ^ 30 := by omega
  unfold Dev.grnLoc
  dsimp only
  rw [hregion, hpage, hstart, hwithin]
  split
  · simp only [Option.map_some, Nat.add_assoc, hoff]
  · simp only [Option.map_some, Nat.add_zero]
  · rfl

theorem place_page (hx : isGranary x = true) : d.place x = (d.place (x / 4096 * 4096)).map (· + x % 4096) := by
  have hpage : isGranary (x / 4096 * 4096) = true := by
    have : x < 0x006000000000 := of_decide_eq_true hx
    exact decide_eq_true (by omega)
  rw [place_of_granary hx, place_of_granary hpage, grnLoc_page d x, Option.map_map, Option.map_map]
  exact congrArg (Option.map · _) (funext fun k => (Nat.add_assoc (2 ^ 36 * k.1) k.2 _).symm)

/-! ### Zeroed buffers -/

/-- Memory is zeroed in part: of the module only memory and its marks differ, and what read 0 does so still. -/
structure Zeroed (d e : Dev) : Prop where
  frame : e = { d with mem := e.mem, sramEcc := e.sramEcc, grnBad := e.grnBad }
  zero : ∀ p, d.byte p = 0#8 → e.byte p = 0#8

namespace Zeroed

theorem refl : Zeroed d d := ⟨rfl, fun _ h => h⟩

theorem trans (h : Zeroed d e) (h' : Zeroed e f) : Zeroed d f where
  frame := by
    calc f = { e with mem := f.mem, sramEcc := f.sramEcc, grnBad := f.grnBad } := h'.frame
      _ = { d with mem := f.mem, sramEcc := f.sramEcc, grnBad := f.grnBad } := by rw [h.frame]
  zero p hp := h'.zero p (h.zero p hp)

theorem regs (h : Zeroed d e) : e.regs = d.regs := by rw [h.frame]

theorem settings (h : Zeroed d e) : Settings d e := .of_regs h.regs

theorem place (h : Zeroed d e) (x : Nat) : e.place x = d.place x := (SameMap.of_regs h.regs).place x

theorem rd (h : Zeroed d e) (hx : d.rd x = 0#8) : e.rd x = 0#8 := by
  unfold Dev.rd at hx ⊢
  rw [h.place x]
  split at hx
  · exact h.zero _ hx
  · rfl

/-- Of several parts that are zeroed one after another, one covers the byte. -/
theorem foldl_covers {α : Type} {step : Dev → α → Dev} (hstep : ∀ d y, Zeroed d (step d y)) {y : α} {ys : List α} (hy : y ∈ ys)
    (hcover : ∀ e, Zeroed d e → (step e y).rd x = 0#8) : (ys.foldl step d).rd x = 0#8 := by
  obtain ⟨before, after, rfl⟩ := List.append_of_mem hy
  have hwalk (zs : List α) (d : Dev) : Zeroed d (zs.foldl step d) :=
    List.foldlRecOn (motive := Zeroed d) zs step .refl fun e he z _ => he.trans (hstep e z)
  rw [List.foldl_append, List.foldl_cons]
  exact (hwalk after _).rd (hcover _ (hwalk before d))

end Zeroed

/-- One page of a range that is zeroed, by its address and its length. -/
def Dev.zeroPage (d : Dev) (p : Nat × Nat) : Dev :=
  match d.place p.1 with
  | some x => (d.goodWrite x p.2).clearPlaces x (x + p.2)
  | none => d

theorem Dev.zeroRange_eq (d : Dev) (a n : Nat) : d.zeroRange a n = (pagesOf a n).foldl Dev.zeroPage d := rfl

theorem Dev.byte_clearPlaces (d : Dev) (lo hi p : Nat) : (d.clearPlaces lo hi).byte p = if lo ≤ p ∧ p < hi then 0#8 else d.byte p :=
  mget_mclear memDefault d.mem lo hi p

theorem zeroed_zeroPage (d : Dev) (p : Nat × Nat) : Zeroed d (d.zeroPage p) := by
  unfold Dev.zeroPage
  split
  · refine ⟨rfl, fun q hq => ?_⟩
    rw [Dev.byte_clearPlaces]
    split
    · rfl
    · exact hq
  · exact .refl

theorem zeroed_zeroRange (d : Dev) (a n : Nat) : Zeroed d (d.zeroRange a n) :=
  Dev.zeroRange_eq d a n ▸ List.foldlRecOn (motive := Zeroed d) _ Dev.zeroPage .refl fun e he p _ => he.trans (zeroed_zeroPage e p)

theorem rd_zeroPage (hx : isGranary x = true) {n : Nat} (hn : x % 4096 < n) : (d.zeroPage (x / 4096 * 4096, n)).rd x = 0#8 := by
  rw [Dev.rd, (zeroed_zeroPage d _).place, place_page hx]
  unfold Dev.zeroPage
  cases hp : d.place (x / 4096 * 4096) with
  | none => rfl
  | some p =>
    dsimp only [Option.map_some]
    rw [Dev.byte_clearPlaces, if_pos (by omega)]

/-- The page of an address in a range that begins with a page. -/
theorem mem_pagesOf {n : Nat} (ha : a % 4096 = 0) (hlo : a ≤ x) (hhi : x < a + n) :
    ∃ m, x % 4096 < m ∧ (x / 4096 * 4096, m) ∈ pagesOf a n := by
  have hn : n ≠ 0 := by omega
  have hpage : (a / 4096 + (x / 4096 - a / 4096)) * 4096 = x / 4096 * 4096 := by omega
  refine ⟨_, ?_, List.mem_map.2 ⟨x / 4096 - a / 4096, ?_, Prod.ext ?_ rfl⟩⟩
  · rw [hpage]
    omega
  · rw [if_neg hn, List.mem_range]
    omega
  · dsimp only
    rw [hpage]
    omega

theorem rd_zeroRange {n : Nat} (ha : a % 4096 = 0) (hlo : a ≤ x) (hhi : x < a + n) (hx : isGranary x = true) : (d.zeroRange a n).rd x = 0#8 := by
  obtain ⟨m, hm, hmem⟩ := mem_pagesOf ha hlo hhi
  rw [Dev.zeroRange_eq]
  exact Zeroed.foldl_covers zeroed_zeroPage hmem fun e _ => rd_zeroPage hx hm

/-- One entry of a group is zeroed. -/
def Dev.zeroEntry (d : Dev) (i : Nat) : Dev := d.zeroRange (d.rbtLo i) (d.rbtHi i - d.rbtLo i)

theorem Dev.clearGroup_eq (d : Dev) (g : Nat) : d.clearGroup g = (d.grpEntries g).foldl Dev.zeroEntry d := rfl

theorem zeroed_zeroEntry (d : Dev) (i : Nat) : Zeroed d (d.zeroEntry i) := zeroed_zeroRange d _ _

theorem zeroed_clearGroup (d : Dev) (g : Nat) : Zeroed d (d.clearGroup g) :=
  Dev.clearGroup_eq d g ▸ List.foldlRecOn (motive := Zeroed d) _ Dev.zeroEntry .refl fun e he i _ => he.trans (zeroed_zeroEntry e i)

/-- The bytes of a group's buffers that lie in Granary read 0 once the group is cleared. -/
theorem rd_clearGroup {g i : Nat} (hi : i ∈ d.grpEntries g) (hlo : d.rbtLo i ≤ x) (hhi : x < d.rbtHi i) (hx : isGranary x = true) :
    (d.clearGroup g).rd x = 0#8 := by
  rw [Dev.clearGroup_eq]
  refine Zeroed.foldl_covers zeroed_zeroEntry hi fun e he => ?_
  have hlt := (mem_grpEntries.1 hi).1
  rw [Dev.zeroEntry, he.settings.rbtLo hlt, he.settings.rbtHi hlt]
  exact rd_zeroRange (Nat.mul_mod_left _ _) hlo (by omega) hx

end Sys2Proof.Machine

/-! ## The elements of a recipe pass (R204 to R211) -/

namespace Sys2Proof.Machine

variable {d e f : Dev} {g : Fin 16}

/-- The threshers' records and settings are as before; memory and the status of the buffers may differ. -/
structure Worked (d e : Dev) : Prop where
  thr : e.thr = d.thr
  settings : Settings d e

namespace Worked

theorem refl : Worked d d := ⟨rfl, .refl⟩

theorem trans (h : Worked d e) (h' : Worked e f) : Worked d f := ⟨h'.thr.trans h.thr, h.settings.trans h'.settings⟩

theorem wrBytes (h : Worked d e) (a : Nat) (bs : List Byte) : Worked d (e.wrBytes a bs) := by
  have hframe := Dev.wrBytes_frame e a bs
  exact h.trans ⟨by rw [hframe], .of_regs (by rw [hframe])⟩

theorem ite {p : Prop} [Decidable p] {x y : Dev} (h : Worked d x) (h' : Worked d y) : Worked d (if p then x else y) := by
  split <;> assumption

theorem wrIf {p : Prop} [Decidable p] (h : Worked d e) (a : Nat) (bs : List Byte) : Worked d (if p then e.wrBytes a bs else e) :=
  .ite (h.wrBytes a bs) h

end Worked

theorem Aside.worked (h : Aside d e) : Worked d e := ⟨h.thr, h.settings⟩

theorem Worked.putElem {s : Bool × Dev} (h : Worked d s.2) (k : PassCtx) (o : OptDesc) (p : Nat) (x : OptElem) :
    Worked d (Dev.putElem k o p x s).2 := by
  unfold Dev.putElem
  dsimp only
  exact .ite (.wrIf (.wrIf (h.wrBytes _ _) _ _) _ _) (.wrBytes (.wrIf (.wrIf (h.wrBytes _ _) _ _) _ _) _ _)

theorem Worked.eachElem {s : Bool × Dev} (h : Worked d s.2) (k : PassCtx) (o : OptDesc) {step : Nat → Bool × Dev → Bool × Dev}
    (hstep : ∀ p s, Worked d s.2 → Worked d (step p s).2) : Worked d (Dev.eachElem k o step s).2 := by
  refine List.foldlRecOn (motive := fun s : Bool × Dev => Worked d s.2) _ _ h fun s hs p _ => ?_
  split
  · next a _ => exact hs.trans ((Aside.refl.noteUe a).thrFault (.ue a)).worked
  · exact hstep p s hs

theorem Worked.trustBlock {s : Bool × Dev} (h : Worked d s.2) (k : PassCtx) (gride : Nat) (o : OptDesc) (b : Nat) :
    Worked d (Dev.trustBlock k gride o b s).2 :=
  List.foldlRecOn (motive := fun s : Bool × Dev => Worked d s.2) _ _ h fun _ hs _ _ => hs.putElem _ _ _ _

theorem Worked.passDesc {s : Bool × Dev} (h : Worked d s.2) (q : Pass) (k : PassCtx) (o : OptDesc) : Worked d (Dev.passDesc q k s o).2 := by
  unfold Dev.passDesc
  dsimp only
  split
  · refine List.foldlRecOn (motive := fun s : Bool × Dev => Worked d s.2) _ _ ?_ fun s hs b _ => hs.trustBlock _ _ _ b
    exact h.eachElem _ _ fun _ _ hs => hs
  · exact h.eachElem _ _ fun _ _ hs => hs.putElem _ _ _ _

/-- The conversion of grid sums may flag its entry as non-finite (R76). -/
theorem Worked.gridInf (h : Worked d e) (q : Pass) (o : OptDesc) : Worked d (e.gridInf q o) := by
  have hnonfin (g : Fld) (hg : g.isSetting) : g.key ≠ (Reg.GRN_RBS_FLAGS.NONFIN o.rbt).key := by
    obtain ⟨-, hbit, hoff⟩ := hg
    simp only [Fld.key, Reg.GRN_RBS_FLAGS.NONFIN]
    omega
  have hcount (g : Fld) (hg : g.isSetting) : g.key ≠ (Reg.GRN_RBS_NFCNT.COUNT o.rbt).key := by
    obtain ⟨-, hbit, hoff⟩ := hg
    simp only [Fld.key, Reg.GRN_RBS_NFCNT.COUNT]
    omega
  unfold Dev.gridInf
  dsimp only
  refine .ite h (.ite h ⟨h.thr, ?_⟩)
  exact .set (.set h.settings _ _ hnonfin) _ _ hcount

/-! ### The end of a pass -/

/-- The settings and the bytes below the CLMs are as before. -/
structure Later (d e : Dev) : Prop where
  settings : Settings d e
  bytes : ∀ p, p < 2 ^ 42 → e.byte p = d.byte p

namespace Later

theorem refl : Later d d := ⟨.refl, fun _ _ => rfl⟩

theorem trans (h : Later d e) (h' : Later e f) : Later d f :=
  ⟨h.settings.trans h'.settings, fun p hp => (h'.bytes p hp).trans (h.bytes p hp)⟩

theorem of_same (hregs : e.regs = d.regs) (hmem : e.mem = d.mem) : Later d e := ⟨.of_regs hregs, fun p _ => by rw [Dev.byte, hmem]; rfl⟩

theorem set (h : Later d e) (x : Fld) (v : Nat) (hx : ∀ g : Fld, g.isSetting → g.key ≠ x.key) : Later d (e.set x v) :=
  ⟨h.settings.set x v hx, h.bytes⟩

theorem setGrp (h : Later d e) (n st : Nat) : Later d (e.setGrp n st) := h.set _ st fun _ hg => isSetting_key_ne_state hg n

theorem rd (h : Later d e) {x : Nat} (hx : isGranary x = true) : e.rd x = d.rd x := by
  unfold Dev.rd
  rw [h.settings.place hx]
  split
  · next p hp => exact h.bytes p (granaryPlace_lt hx hp)
  · rfl

end Later

theorem Aside.later (h : Aside d e) : Later d e := ⟨h.settings, h.bytes⟩

/-- The Granary bytes of a group's buffers read 0. -/
def BuffersZero (d : Dev) (g : Nat) (e : Dev) : Prop :=
  ∀ i ∈ d.grpEntries g, ∀ x, d.rbtLo i ≤ x → x < d.rbtHi i → isGranary x = true → e.rd x = 0#8

theorem BuffersZero.later {n : Nat} (h : BuffersZero d n e) (h' : Later e f) : BuffersZero d n f := fun i hi x hlo hhi hx =>
  (h'.rd hx).trans (h i hi x hlo hhi hx)

theorem buffersZero_clearGroup (h : Settings d e) (n : Nat) : BuffersZero d n (e.clearGroup n) := by
  intro i hi x hlo hhi hx
  have hlt := (mem_grpEntries.1 hi).1
  exact rd_clearGroup (h.grpEntries n ▸ hi) (by rwa [h.rbtLo hlt]) (by rwa [h.rbtHi hlt]) hx

/-- UPD_NONFIN is raised where a new weight is not finite (R211). -/
def Dev.updNonfin (n : Nat) (bad : Bool) (d : Dev) : Dev :=
  if bad then (d.setBit (Reg.GRN_GRP_STATE.UPD_NONFIN n) true).raise { code := Flt.THR_UPD_NONFIN, arg0 := n } else d

theorem updNonfin_spec (d : Dev) (n : Nat) (bad : Bool) : Later d (d.updNonfin n bad) ∧ (d.updNonfin n bad).thr = d.thr := by
  unfold Dev.updNonfin
  split
  · have hraise := (Aside.refl (d := d.setBit (Reg.GRN_GRP_STATE.UPD_NONFIN n) true)).raise { code := Flt.THR_UPD_NONFIN, arg0 := n }
    refine ⟨.trans (.set .refl _ _ fun g hg => ?_) hraise.later, hraise.thr⟩
    obtain ⟨-, hbit, hoff⟩ := hg
    simp only [Fld.key, Reg.GRN_GRP_STATE.UPD_NONFIN]
    omega
  · exact ⟨.refl, rfl⟩

/-- What a recipe pass does to the elements, before its buffers are zeroed. -/
def Dev.passElems (q : Pass) (d : Dev) : Bool × Dev :=
  let d := (q.list.map optDesc).foldl (fun d o => d.gridInf q o) d
  (q.list.map optDesc).foldl (Dev.passDesc q (d.passCtx q)) (false, d)

theorem Dev.recipePass_eq (d : Dev) (q : Pass) :
    d.recipePass q = ((d.passElems q).2.clearGroup q.group).updNonfin q.group (d.passElems q).1 := rfl

theorem worked_passElems (d : Dev) (q : Pass) : Worked d (d.passElems q).2 := by
  have hgrid := List.foldlRecOn (motive := Worked d) (q.list.map optDesc) (fun d o => d.gridInf q o) .refl fun e he o _ => he.gridInf q o
  exact List.foldlRecOn (motive := fun s : Bool × Dev => Worked d s.2) _ _ hgrid fun _ hs o _ => hs.passDesc q _ o

/-- A recipe pass leaves the threshers' records and settings, and its buffers zero (R206, R211). -/
theorem recipePass_spec (d : Dev) (q : Pass) :
    Worked d (d.recipePass q) ∧ BuffersZero d q.group (d.recipePass q) := by
  obtain ⟨hthr, hset⟩ := worked_passElems d q
  have hzeroed := zeroed_clearGroup (d.passElems q).2 q.group
  obtain ⟨hlater, hflag⟩ := updNonfin_spec ((d.passElems q).2.clearGroup q.group) q.group (d.passElems q).1
  rw [Dev.recipePass_eq]
  refine ⟨⟨?_, (hset.trans hzeroed.settings).trans hlater.settings⟩, (buffersZero_clearGroup hset _).later hlater⟩
  rw [hflag, hzeroed.frame]
  exact hthr

end Sys2Proof.Machine

/-! ## The mirror, the digest and the queue of passes (R202, R214, R219) -/

namespace Sys2Proof.Machine

variable {d e f : Dev} {g : Fin 16}

theorem inTbl_state (g : Fin 16) : (Reg.GRN_GRP_STATE.STATE g).inTbl := by
  have := g.isLt
  simp only [Fld.inTbl, Reg.GRN_GRP_STATE.STATE]
  omega

theorem Aside.state (h : Aside d e) (g : Fin 16) : e.get (Reg.GRN_GRP_STATE.STATE g) = d.get (Reg.GRN_GRP_STATE.STATE g) :=
  h.fields _ (inTbl_state g)

theorem get_setGrp_same (d : Dev) (g : Nat) {st : Nat} (h : st < 8) : (d.setGrp g st).get (Reg.GRN_GRP_STATE.STATE g) = st :=
  (Dev.get_set_same d _ st).trans (Nat.mod_eq_of_lt h)

theorem get_setGrp_other (d : Dev) {g n : Nat} (st : Nat) (h : n ≠ g) :
    (d.setGrp n st).get (Reg.GRN_GRP_STATE.STATE g) = d.get (Reg.GRN_GRP_STATE.STATE g) := by
  refine Dev.get_set_other d st ?_
  simp only [Fld.key, Reg.GRN_GRP_STATE.STATE]
  omega

theorem Aside.thrFlag (h : Aside d e) {x : Nat → Fld} (hx : ∀ k, k < 8 → (x k).outsideTbl) : Aside d (e.thrFlag x) :=
  List.foldlRecOn (motive := Aside d) _ _ h fun _ hy k hk => hy.set _ _ (hx k (List.mem_range.1 hk))

/-! ### The refresh of a mirror -/

theorem Dev.mirror_setMirror_same (d : Dev) (g : Nat) (o : Option Mirror) : (d.setMirror g o).mirror g = o :=
  mget_mset_same none d.thr.mirs g o

/-- A step of a refresh of group `g`: of the threshers' records only the refreshes differ; the group's state stays or becomes OPEN; and the group's
refresh stays with fewer writes to send, or ends. -/
structure Refreshed (g : Fin 16) (d e : Dev) : Prop where
  later : Later d e
  thr : e.thr = { d.thr with mirs := e.thr.mirs }
  state : e.get (Reg.GRN_GRP_STATE.STATE g) = d.get (Reg.GRN_GRP_STATE.STATE g) ∨ e.get (Reg.GRN_GRP_STATE.STATE g) = grpOpen
  mirror : ∀ v, e.mirror g = some v → ∃ m, d.mirror g = some m ∧ v.closing = m.closing ∧ v.step = m.step ∧ v.todo.length ≤ m.todo.length

namespace Refreshed

theorem trans (h : Refreshed g d e) (h' : Refreshed g e f) : Refreshed g d f where
  later := h.later.trans h'.later
  thr := by rw [h'.thr, h.thr]
  state := by
    obtain hs | hs := h'.state
    · rw [hs]
      exact h.state
    · exact .inr hs
  mirror v hv := by
    obtain ⟨m, hm, hclosing, hstep, hlen⟩ := h'.mirror v hv
    obtain ⟨n, hn, hclosing', hstep', hlen'⟩ := h.mirror m hm
    exact ⟨n, hn, hclosing.trans hclosing', hstep.trans hstep', hlen.trans hlen'⟩

theorem of_aside (h : Aside d e) : Refreshed g d e where
  later := h.later
  thr := by rw [h.thr]
  state := .inl (h.state g)
  mirror v hv := ⟨v, by rwa [Dev.mirror, h.thr] at hv, rfl, rfl, le_rfl⟩

theorem refl : Refreshed g d d := of_aside .refl

theorem setGrp_open (d : Dev) (g : Fin 16) : Refreshed g d (d.setGrp g grpOpen) where
  later := .setGrp .refl _ _
  thr := rfl
  state := .inr (get_setGrp_same d g (by decide))
  mirror v hv := ⟨v, hv, rfl, rfl, le_rfl⟩

/-- The refresh ends, or goes on. -/
theorem setMirror (d : Dev) (g : Fin 16) {o : Option Mirror}
    (h : ∀ v, o = some v → ∃ m, d.mirror g = some m ∧ v.closing = m.closing ∧ v.step = m.step ∧ v.todo.length ≤ m.todo.length) :
    Refreshed g d (d.setMirror g o) where
  later := .of_same rfl rfl
  thr := rfl
  state := .inl rfl
  mirror v hv := h v ((Dev.mirror_setMirror_same d g o).symm.trans hv)

end Refreshed

/-- The requests of a group's refresh are abandoned. -/
def Dev.mirForget (g : Nat) (d : Dev) : Dev :=
  match d.mirror g with
  | some m => m.wait.foldl (fun (d : Dev) x => d.abandonTxid x) d
  | none => d

theorem aside_mirForget (d : Dev) (g : Nat) : Aside d (d.mirForget g) := by
  unfold Dev.mirForget
  split
  · exact List.foldlRecOn (motive := Aside d) _ _ .refl fun _ hx t _ => hx.abandonTxid t
  · exact .refl

theorem Dev.mirAbandon_eq (d : Dev) (g : Nat) : d.mirAbandon g =
    let e := (d.mirForget g).setMirror g none
    if e.grpState g = grpMirroring then e.setGrp g grpOpen else e := rfl

theorem refreshed_mirAbandon (d : Dev) (g : Fin 16) : Refreshed g d (d.mirAbandon g) := by
  have hends := (Refreshed.of_aside (g := g) (aside_mirForget d g)).trans (.setMirror _ g (o := none) nofun)
  rw [Dev.mirAbandon_eq]
  dsimp only
  split
  · exact hends.trans (.setGrp_open _ g)
  · exact hends

theorem refreshed_mirFail (d : Dev) (g : Fin 16) : Refreshed g d (d.mirFail g) := by
  unfold Dev.mirFail
  split
  · exact refreshed_mirAbandon d g
  · refine (refreshed_mirAbandon d g).trans (.of_aside (.raise (.thrFlag .refl fun k hk => ?_) _))
    simp only [Fld.outsideTbl, Fld.key, Reg.GRN_THR_ERR.MIR_FAIL]
    omega

theorem refreshed_mirSend (d : Dev) (g : Fin 16) (n : Nat) : Refreshed g d (d.mirSend g n) := by
  induction n generalizing d with
  | zero => exact .refl
  | succ n ih =>
    unfold Dev.mirSend
    split
    · exact .refl
    next m hm =>
    split
    · exact .refl
    next a bs r hr =>
    split
    · exact .refl
    split
    · exact .refl
    next x d' htxid =>
    have hway := Aside.refl.takeTxid htxid |>.originate d'.buddy 0 x a bs (if d'.spans 0 then some 1 else none)
    split
    · next y hy =>
      rw [hy] at hway
      refine .trans (.trans (.of_aside hway) (.setMirror y g fun v hv => ?_)) (ih _)
      obtain rfl := Option.some.inj hv
      refine ⟨m, by rwa [Dev.mirror, hway.thr], rfl, rfl, ?_⟩
      rw [hr]
      exact Nat.le_succ _
    · next y hy =>
      rw [hy] at hway
      exact .trans (.of_aside (hway.freeTxid x)) (refreshed_mirFail _ g)

theorem refreshed_mirGo (d : Dev) (g : Fin 16) : Refreshed g d (d.mirGo g) := refreshed_mirSend d g _

/-- A refresh begins or the group opens: of the threshers' records only the refreshes differ, and the group is OPEN, or MIRRORING with its mirror on. -/
structure MirStarted (g : Fin 16) (d e : Dev) : Prop where
  later : Later d e
  thr : e.thr = { d.thr with mirs := e.thr.mirs }
  state : e.get (Reg.GRN_GRP_STATE.STATE g) = grpOpen ∨
    d.bit (Reg.GRN_GRP_CTL.MIR_EN g) = true ∧ e.get (Reg.GRN_GRP_STATE.STATE g) = grpMirroring

theorem MirStarted.refreshed (h : MirStarted g d e) (h' : Refreshed g e f) : MirStarted g d f where
  later := h.later.trans h'.later
  thr := by rw [h'.thr, h.thr]
  state := by
    obtain hs | hs := h'.state
    · rw [hs]
      exact h.state
    · exact .inl hs

theorem mirStarted_mirStart {q : Pass} (d : Dev) (hq : q.group = g.val) : MirStarted g d (d.mirStart q) := by
  unfold Dev.mirStart
  dsimp only
  rw [hq]
  split
  · exact ⟨.setGrp .refl _ _, rfl, .inl (get_setGrp_same d g (by decide))⟩
  next hen =>
  have hen : d.bit (Reg.GRN_GRP_CTL.MIR_EN g) = true := by simpa using hen
  have hread := (Aside.refl (d := d)).thrReads (if q.skip then [] else mirrorSpans q)
  generalize d.thrReads (if q.skip then [] else mirrorSpans q) = p at hread ⊢
  obtain ⟨got, x⟩ := p
  have hbegins (m : Mirror) : MirStarted g d ((x.setGrp g grpMirroring).setMirror g (some m)) :=
    ⟨(hread.later.setGrp _ _).trans (.of_same rfl rfl), congrArg (fun t : Thresher => { t with mirs := mset none x.thr.mirs g (some m) }) hread.thr,
      .inr ⟨hen, get_setGrp_same x g (by decide)⟩⟩
  have hgoes (m : Mirror) := (hbegins m).refreshed (refreshed_mirGo _ g)
  dsimp only
  split
  · exact (hgoes _).refreshed (refreshed_mirAbandon _ g)
  · exact hgoes _

/-! ### The weight digest -/

/-- Registers of an array written in turn keep what each was given. -/
theorem get_foldl_set {x : Nat → Fld} (hx : ∀ i j, (x i).key = (x j).key → i = j) (v : Nat → Nat) (d : Dev) {n j : Nat} (hj : j < n) :
    ((List.range n).foldl (fun d i => d.set (x i) (v i)) d).get (x j) = v j % 2 ^ (x j).width := by
  induction n with
  | zero => exact absurd hj (Nat.not_lt_zero _)
  | succ n ih =>
    rw [List.range_succ, List.foldl_append, List.foldl_cons, List.foldl_nil]
    by_cases hn : j = n
    · rw [hn, Dev.get_set_same]
    · rw [Dev.get_set_other _ _ fun hkey => hn (hx _ _ hkey)]
      exact ih (by omega)

/-- The digits of a number to the base 2^32, put together again. -/
theorem foldl_digits (v n : Nat) : (List.range n).foldl (fun a i => a + v / 2 ^ (32 * i) % 2 ^ 32 * 2 ^ (32 * i)) 0 = v % 2 ^ (32 * n) := by
  induction n with
  | zero => rw [Nat.mul_zero, Nat.pow_zero, Nat.mod_one]; rfl
  | succ n ih =>
    rw [List.range_succ, List.foldl_append, ih, List.foldl_cons, List.foldl_nil, Nat.mul_succ, Nat.pow_add, Nat.mod_mul,
      Nat.mul_comm (v / _ % _)]

theorem key_digW {i j : Nat} (h : (Reg.GRN_DIG_W i).key = (Reg.GRN_DIG_W j).key) : i = j := by
  simp only [Fld.key, Reg.GRN_DIG_W] at h
  omega

theorem get256_set256_digW (d : Dev) (v : Nat) : (d.set256 Reg.GRN_DIG_W v).get256 Reg.GRN_DIG_W = v % 2 ^ 256 := by
  have hdigit {i : Nat} (hi : i < 8) : (d.set256 Reg.GRN_DIG_W v).get (Reg.GRN_DIG_W i) = v / 2 ^ (32 * i) % 2 ^ 32 :=
    (get_foldl_set (fun _ _ => key_digW) _ d hi).trans (Nat.mod_mod _ _)
  rw [Dev.get256, ← foldl_digits v 8]
  exact List.foldl_ext _ _ _ fun _ _ hi => by rw [hdigit (List.mem_range.1 hi)]

theorem onlyRegs_set256 (d : Dev) (x : Nat → Fld) (v : Nat) : onlyRegs ((List.range 8).map x) d (d.set256 x v) :=
  List.foldlRecOn (motive := onlyRegs ((List.range 8).map x) d) _ _ .refl fun _ hy _ hi =>
    hy.trans (onlyRegs_set _ _ (List.mem_map_of_mem hi))

/-- The shares of the groups whose digest is on, added. -/
def Dev.digTotal (d : Dev) : Nat :=
  (((List.range 16).filter fun j => d.bit (Reg.GRN_GRP_CTL.DIG_EN j)).map fun j => mget 0 d.thr.digSum j).sum

/-- A group's share goes into the module's sum. -/
structure Shared (g v : Nat) (d e : Dev) : Prop where
  frame : e = { d with regs := e.regs, thr := e.thr }
  regs : regsBut ((List.range 8).map Reg.GRN_DIG_W) d e
  thr : e.thr = { d.thr with digSum := mset 0 d.thr.digSum g v }
  sum : e.get256 Reg.GRN_DIG_W =
    (((List.range 16).filter fun j => d.bit (Reg.GRN_GRP_CTL.DIG_EN j)).map fun j => mget 0 e.thr.digSum j).sum % 2 ^ 256

theorem Dev.digShare_eq (d : Dev) (g v : Nat) : d.digShare g v =
    let x : Dev := { d with thr := { d.thr with digSum := mset 0 d.thr.digSum g v } }
    x.set256 Reg.GRN_DIG_W (x.digTotal % 2 ^ 256) := by
  simp only [Dev.digTotal, List.sum_eq_foldl]
  rfl

theorem shared_digShare (d : Dev) (g v : Nat) : Shared g v d (d.digShare g v) := by
  rw [Dev.digShare_eq]
  dsimp only
  generalize hx : ({ d with thr := { d.thr with digSum := mset 0 d.thr.digSum g v } } : Dev) = x
  have hset := onlyRegs_set256 x Reg.GRN_DIG_W (x.digTotal % 2 ^ 256)
  have hthr : (x.set256 Reg.GRN_DIG_W (x.digTotal % 2 ^ 256)).thr = x.thr := by rw [hset.1]
  refine ⟨?frame, ?regs, ?thr, ?sum⟩
  case frame =>
    rw [hset.1, ← hx]
  case regs => exact hx ▸ hset.2
  case thr => rw [hthr, ← hx]
  case sum =>
    rw [get256_set256_digW, Nat.mod_mod, hthr, Dev.digTotal, ← hx]
    rfl

theorem Shared.later {n v : Nat} (h : Shared n v d e) : Later d e where
  settings g hg := h.regs g fun x hx => by
    obtain ⟨i, -, rfl⟩ := List.mem_map.1 hx
    obtain ⟨-, hbit, hoff⟩ := hg
    simp only [Fld.key, Reg.GRN_DIG_W]
    omega
  bytes p _ := by rw [h.frame]; rfl

/-- After a step its digest becomes due, or is refused, or the group's share goes (R219): of the threshers' records only the digests differ. -/
structure DigStarted (g : Fin 16) (d e : Dev) : Prop where
  later : Later d e
  thr : e.thr = { d.thr with digDue := e.thr.digDue, digSum := e.thr.digSum }
  off : d.bit (Reg.GRN_GRP_CTL.DIG_EN g) = false → mget 0 e.thr.digDue g = mget 0 d.thr.digDue g ∧ mget 0 e.thr.digSum g = 0

theorem digStarted_digStart {q : Pass} (d : Dev) (hq : q.group = g.val) : DigStarted g d (d.digStart q) := by
  unfold Dev.digStart
  dsimp only
  rw [hq]
  split
  · split
    · next hzero => exact ⟨.refl, rfl, fun _ => ⟨rfl, hzero⟩⟩
    · have hshare := shared_digShare d g 0
      refine ⟨hshare.later, by rw [hshare.thr], fun _ => ?_⟩
      rw [hshare.thr]
      exact ⟨rfl, mget_mset_same 0 d.thr.digSum g 0⟩
  next hen =>
  have hon : d.bit (Reg.GRN_GRP_CTL.DIG_EN g) ≠ false := by simpa using hen
  split
  · exact ⟨.of_same rfl rfl, rfl, fun hoff => absurd hoff hon⟩
  · have hraise := (Aside.refl (d := d)).raise { code := Flt.THR_DIG_SPLIT, arg0 := g }
    exact ⟨hraise.later, by rw [hraise.thr], fun hoff => absurd hoff hon⟩

/-! ### The queue -/

/-- The queue moves on: of the threshers' records only the queue differs, which gets no pass of another group, and the state of a group without a
pass stays. -/
structure Advanced (g : Fin 16) (d e : Dev) : Prop where
  later : Later d e
  thr : e.thr = { d.thr with passQ := e.thr.passQ, running := e.thr.running }
  groups : ∀ y ∈ e.thr.passQ, ∃ z ∈ d.thr.passQ, y.group = z.group
  state : (∀ y ∈ d.thr.passQ, y.group ≠ g.val) → e.get (Reg.GRN_GRP_STATE.STATE g) = d.get (Reg.GRN_GRP_STATE.STATE g)

namespace Advanced

theorem trans (h : Advanced g d e) (h' : Advanced g e f) : Advanced g d f where
  later := h.later.trans h'.later
  thr := by rw [h'.thr, h.thr]
  groups y hy := by
    obtain ⟨z, hz, hyz⟩ := h'.groups y hy
    obtain ⟨w, hw, hzw⟩ := h.groups z hz
    exact ⟨w, hw, hyz.trans hzw⟩
  state hg := by
    refine (h'.state fun y hy => ?_).trans (h.state hg)
    obtain ⟨z, hz, hyz⟩ := h.groups y hy
    rw [hyz]
    exact hg z hz

theorem of_aside (h : Aside d e) : Advanced g d e :=
  ⟨h.later, by rw [h.thr], fun y hy => ⟨y, by rwa [h.thr] at hy, rfl⟩, fun _ => h.state g⟩

theorem refl : Advanced g d d := of_aside .refl

theorem setQueue {ps : List Pass} {b : Bool} (hps : ∀ y ∈ ps, ∃ z ∈ d.thr.passQ, y.group = z.group) :
    Advanced g d { d with thr := { d.thr with passQ := ps, running := b } } :=
  ⟨.of_same rfl rfl, rfl, hps, fun _ => rfl⟩

theorem setGrp {q : Pass} (hq : q ∈ d.thr.passQ) (st : Nat) : Advanced g d (d.setGrp q.group st) :=
  ⟨.setGrp .refl _ _, rfl, fun y hy => ⟨y, hy, rfl⟩, fun hg => get_setGrp_other d st (hg q hq)⟩

end Advanced

/-- The first pass leaves the queue unmade. -/
def Dev.passDrop (d : Dev) : Dev := { d with thr := { d.thr with passQ := d.thr.passQ.tail } }

theorem advanced_passDrop (d : Dev) : Advanced g d d.passDrop := .setQueue fun y hy => ⟨y, List.mem_of_mem_tail hy, rfl⟩

theorem advanced_passStart {q : Pass} (d : Dev) (hq : q ∈ d.thr.passQ) : Advanced g d (d.passStart q) := by
  unfold Dev.passStart
  dsimp only
  split
  · exact (Advanced.setGrp hq grpClearing).trans (.setQueue (b := true) fun y hy => ⟨y, hy, rfl⟩)
  have hread : Aside d (d.listRead q.group).2 := Aside.refl.thrReads (d.listSpans q.group)
  split
  · next x hx =>
    rw [hx] at hread
    exact (Advanced.of_aside hread).trans (advanced_passDrop x)
  next l x hx =>
  rw [hx] at hread
  have hstop : Advanced g d x.passDrop := (Advanced.of_aside hread).trans (advanced_passDrop x)
  have hqx : q ∈ x.thr.passQ := by rwa [hread.thr]
  split
  · exact hstop.trans (.of_aside (.raise .refl _))
  split
  · refine hstop.trans (.of_aside (.raise (.thrFlag .refl fun k hk => ?_) _))
    simp only [Fld.outsideTbl, Fld.key, Reg.GRN_THR_ERR.DESC_BAD]
    omega
  · refine ((Advanced.of_aside hread).trans (.setGrp hqx grpApplying)).trans
      (.setQueue (ps := { q with list := l } :: x.thr.passQ.tail) (b := true) fun y hy => ?_)
    obtain rfl | hy := List.mem_cons.1 hy
    · exact ⟨q, hqx, rfl⟩
    · exact ⟨y, List.mem_of_mem_tail hy, rfl⟩

theorem advanced_thrAdvance (d : Dev) : Advanced g d d.thrAdvance := by
  have hwalk (n : Nat) (d : Dev) : Advanced g d (d.thrAdvanceN n) := by
    induction n generalizing d with
    | zero => exact .refl
    | succ n ih =>
      unfold Dev.thrAdvanceN
      split
      · exact .refl
      next q r hq =>
      split
      · exact .refl
      · exact (advanced_passStart d (by rw [hq]; exact List.mem_cons_self)).trans (ih _)
  exact hwalk _ d

theorem thrAdvance_of_empty (h : d.thr.passQ = []) : d.thrAdvance = d := by rw [Dev.thrAdvance, h]; rfl

end Sys2Proof.Machine

/-! ## Thresher passes and responses (O34) -/

namespace Sys2Proof.Machine

variable {s : State} {d e : Dev} {g : Fin 16}

/-! ### The commands of the threshers -/

/-- The pass that runs has left the queue. -/
def Dev.passTaken (r : List Pass) (d : Dev) : Dev := { d with thr := { d.thr with passQ := r, running := false } }

theorem passEnds_of_running {step : Pass → Dev → Dev} {q : Pass} {r : List Pass} (hq : d.thr.passQ = q :: r) (hrun : d.thr.running = true)
    (hgroup : q.group = g.val) {skip : Bool} (hskip : q.skip = skip) :
    d.passEnds step skip g = (step q (d.passTaken r)).thrAdvance := by
  unfold Dev.passEnds
  rw [hq]
  exact if_pos ⟨hrun, hgroup, hskip⟩

theorem recipePassDone_spec {q : Pass} {r : List Pass} (hq : d.thr.passQ = q :: r) (hrun : d.thr.running = true) (hgroup : q.group = g.val)
    (hskip : q.skip = false) :
    let e := d.passEnds (fun q d => ((d.recipePass q).digStart q).mirStart q) false g
    BuffersZero d g e ∧
      ((∀ y ∈ r, y.group ≠ g.val) → e.get (Reg.GRN_GRP_STATE.STATE g) = grpOpen ∨
        (d.bit (Reg.GRN_GRP_CTL.MIR_EN g) = true ∧ e.get (Reg.GRN_GRP_STATE.STATE g) = grpMirroring)) ∧
      (d.bit (Reg.GRN_GRP_CTL.DIG_EN g) = false → mget 0 e.thr.digDue g = mget 0 d.thr.digDue g ∧ mget 0 e.thr.digSum g = 0) ∧
      (r = [] → e.thr.passQ = [] ∧ e.thr.running = false) := by
  dsimp only
  rw [passEnds_of_running hq hrun hgroup hskip]
  obtain ⟨hwork, hzero⟩ := recipePass_spec (d.passTaken r) q
  have hdig := digStarted_digStart ((d.passTaken r).recipePass q) hgroup
  have hmir := mirStarted_mirStart (((d.passTaken r).recipePass q).digStart q) hgroup
  generalize (((d.passTaken r).recipePass q).digStart q).mirStart q = y at hmir ⊢
  generalize ((d.passTaken r).recipePass q).digStart q = x at hdig hmir
  generalize (d.passTaken r).recipePass q = w at hwork hzero hdig
  have hqueue : y.thr.passQ = r ∧ y.thr.running = false := by
    rw [hmir.thr, hdig.thr, hwork.thr]
    exact ⟨rfl, rfl⟩
  have hnext := advanced_thrAdvance (g := g) y
  refine ⟨?buffers, fun hothers => ?state, fun hoff => ?digest, fun hlast => ?queue⟩
  case buffers => exact (hgroup ▸ hzero).later (hdig.later.trans (hmir.later.trans hnext.later))
  case state =>
    rw [hnext.state (by rwa [hqueue.1])]
    exact hmir.state.imp_right fun ⟨hen, hstate⟩ => ⟨((hwork.settings.trans hdig.later.settings).mirEn g).symm.trans hen, hstate⟩
  case digest =>
    obtain ⟨hdue, hsum⟩ := hdig.off ((hwork.settings.digEn g).trans hoff)
    rw [hnext.thr, hmir.thr]
    refine ⟨hdue.trans ?_, hsum⟩
    rw [hwork.thr]
    rfl
  case queue =>
    rw [thrAdvance_of_empty (hqueue.1.trans hlast)]
    exact ⟨hqueue.1.trans hlast, hqueue.2⟩

/-- The refresh of a group whose last data write has arrived. -/
theorem refreshDone_spec {m : Mirror} {todo : List (Nat × List Byte)} (htodo : todo.length ≤ 2) (hidle : d.thr.passQ = [])
    (hstate : d.get (Reg.GRN_GRP_STATE.STATE g) = grpMirroring) :
    let d' := d.setMirror g (some { m with closing := true, todo := todo })
    let e := ((if d'.grpState g = grpMirroring then d'.setGrp g grpOpen else d').mirGo g).thrAdvance
    e.get (Reg.GRN_GRP_STATE.STATE g) = grpOpen ∧
      (e.mirror g = none ∨ ∃ v, e.mirror g = some v ∧ v.closing = true ∧ v.todo.length ≤ 2 ∧ v.step = m.step) := by
  dsimp only
  generalize hx : d.setMirror g (some { m with closing := true, todo := todo }) = x
  have hmirror : x.mirror g = some { m with closing := true, todo := todo } := by
    rw [← hx, Dev.mirror_setMirror_same]
  rw [if_pos (show x.grpState g = grpMirroring by rw [← hx]; exact hstate)]
  have hgoes := refreshed_mirGo (x.setGrp g grpOpen) g
  rw [thrAdvance_of_empty (by rw [hgoes.thr, ← hx]; exact hidle)]
  have hopen := get_setGrp_same x g (st := grpOpen) (by decide)
  refine ⟨hgoes.state.elim (·.trans hopen) id, ?_⟩
  cases hv : ((x.setGrp g grpOpen).mirGo g).mirror g with
  | none => exact .inl rfl
  | some v =>
    obtain ⟨n, hn, hclosing, hstep, hlen⟩ := hgoes.mirror v hv
    obtain rfl := Option.some.inj (hn.symm.trans hmirror)
    exact .inr ⟨v, rfl, hclosing, hlen.trans htodo, hstep⟩

theorem does_mirrorRefreshDone {m : Mirror} (hon : s.dev.memOn = true) (hm : s.dev.mirror g = some m) (hclosing : m.closing = false)
    (htodo : m.todo = []) (hwait : m.wait = []) (hidle : s.dev.thr.passQ = []) (hstate : s.dev.get (Reg.GRN_GRP_STATE.STATE g) = grpMirroring) :
    Does (.mirrorRefreshDone g) s fun e => e.get (Reg.GRN_GRP_STATE.STATE g) = grpOpen ∧
      (e.mirror g = none ∨ ∃ v, e.mirror g = some v ∧ v.closing = true ∧ v.todo.length ≤ 2 ∧ v.step = m.step) := by
  refine ⟨_, rfl, ?_⟩
  dsimp only
  rw [hm]
  dsimp only
  rw [if_neg (by simp [hon, hclosing, htodo, hwait])]
  exact refreshDone_spec le_rfl hidle hstate

theorem digSumOf_of_some {os : List OptDesc} {v : Nat} (h : (d.digSumOf os).1 = some v) : d.digSumOf os = (some v, d) := by
  unfold Dev.digSumOf at h ⊢
  dsimp only at h ⊢
  obtain ⟨l, hl, hv⟩ := Option.map_eq_some_iff.1 h
  rw [thrReads_of_some hl, Option.map_some, hv]

theorem does_weightDigestDone {l : List (List Byte)} {v : Nat} (hon : s.dev.memOn = true) (hdue : mget 0 s.dev.thr.digDue g ≠ 0)
    (hidle : s.dev.thr.passQ = []) (hlist : (s.dev.listRead g).1 = some l) (hsum : (s.dev.digSumOf (l.map optDesc)).1 = some v) :
    Does (.weightDigestDone g) s fun e =>
      e = { s.dev with regs := e.regs, thr := e.thr } ∧ regsBut ((List.range 8).map Reg.GRN_DIG_W) s.dev e ∧
        mget 0 e.thr.digDue g = 0 ∧ mget 0 e.thr.digSum g = v ∧ (∀ j, j ≠ g.val → mget 0 e.thr.digSum j = mget 0 s.dev.thr.digSum j) ∧
        e.get256 Reg.GRN_DIG_W =
          (((List.range 16).filter fun j => s.dev.bit (Reg.GRN_GRP_CTL.DIG_EN j)).map fun j => mget 0 e.thr.digSum j).sum % 2 ^ 256 := by
  refine ⟨_, rfl, ?_⟩
  dsimp only
  rw [if_neg (by simp [hon, hdue]), Dev.listRead, thrReads_of_some hlist]
  dsimp only
  rw [digSumOf_of_some hsum]
  dsimp only
  generalize hx : ({ s.dev with thr := { s.dev.thr with digDue := mset 0 s.dev.thr.digDue g 0 } } : Dev) = x
  have hshare := shared_digShare x g v
  have hdig : (x.digShare g v).thr = { s.dev.thr with digDue := mset 0 s.dev.thr.digDue g 0, digSum := mset 0 s.dev.thr.digSum g v } := by
    rw [hshare.thr, ← hx]
  rw [thrAdvance_of_empty (by rw [hdig]; exact hidle)]
  refine ⟨?frame, hx ▸ hshare.regs, ?due, ?share, fun j hj => ?others, hx ▸ hshare.sum⟩
  case frame =>
    rw [hshare.frame, ← hx]
  case due =>
    rw [hdig]
    exact mget_mset_same 0 s.dev.thr.digDue g 0
  case share =>
    rw [hdig]
    exact mget_mset_same 0 s.dev.thr.digSum g v
  case others =>
    rw [hdig]
    exact mget_mset_other 0 s.dev.thr.digSum v hj

end Sys2Proof.Machine

/-! ### Responses (R278) -/

namespace Sys2Proof.Machine

variable {s : State} {d e : Dev} {m : Frame} {r : TxRec} {u : DmaRun} {t : Nat}

/-- The response has left the router's queue. -/
def Dev.rspTaken (m : Frame) (d : Dev) : Dev := { d with fab := { d.fab with rspQ := d.fab.rspQ.erase m } }

theorem does_remoteResponse {post : Dev → Prop} (hm : m ∈ s.dev.fab.rspQ) (hpost : post ((s.dev.rspTaken m).response m)) :
    Does (.remoteResponse m) s post :=
  does_of_eq rfl (if_pos (List.contains_iff_mem.2 hm)) hpost

theorem response_of_unheld (h : mget none d.fab.txids m.txid = none) : d.response m = d := by
  rw [Dev.response, h]

/-- A response that was abandoned is counted as late at its engine (R238). -/
theorem response_of_abandoned (h : mget none d.fab.txids m.txid = some r) (hlate : r.abandoned = true) (howner : r.owner < 64) :
    d.response m = d.addSat (Reg.CORE_DMA_LATE r.owner) 1 := by
  rw [Dev.response, h]
  dsimp only
  rw [if_pos hlate, Dev.lateResponse, h]
  exact if_pos ⟨hlate, howner⟩

theorem response_of_engine (h : mget none d.fab.txids m.txid = some r) (hlive : r.abandoned = false) (howner : r.owner < 64) :
    d.response m = d.dmaResponse ⟨r.owner, howner⟩ m := by
  rw [Dev.response, h]
  dsimp only
  rw [if_neg (by simp [hlive]), if_pos howner]
  exact congrArg (d.dmaResponse · m) (Fin.ext (Nat.mod_eq_of_lt howner))

theorem dma_modRun {c : Nat} (hu : (d.core c).dma = some u) (f : DmaRun → DmaRun) : ((d.modRun c f).core c).dma = some (f u) := by
  rw [Dev.modRun, Dev.core_modCore_same]
  exact congrArg (Option.map f) hu

/-- Read data that is not yet all of the piece waits for the rest (log entry 50). -/
theorem dmaResponse_of_partial {c : CoreId} (hu : (d.core c).dma = some u)
    (ht : u.txids.find? (fun x => decide (x.1 = m.txid)) = some (m.txid, t)) (hop : m.op = 2)
    (hlen : (mget [] u.come t ++ m.payload).length < (d.runPiece u t).n) :
    d.dmaResponse c m = d.modRun c fun v => { v with come := mset [] v.come t (mget [] u.come t ++ m.payload) } := by
  rw [Dev.dmaResponse, hu]
  dsimp only
  rw [ht]
  exact if_pos ⟨hop, hlen⟩

/-- An error response ends its request, and its code is that of the descriptor, where there was none (R239, R278). -/
theorem dmaResponse_of_error {c : CoreId} (hu : (d.core c).dma = some u)
    (ht : u.txids.find? (fun x => decide (x.1 = m.txid)) = some (m.txid, t)) (hop : m.op = 4) :
    ∃ addr, d.dmaResponse c m = ((d.freeTxid m.txid).modRun c fun v =>
      { v with txids := v.txids.filter fun x => decide (x.1 ≠ m.txid) }).dmaErr c (recField m.payload 0 1) addr := by
  rw [Dev.dmaResponse, hu]
  dsimp only
  rw [ht]
  dsimp only
  rw [if_neg (by simp [hop]), if_pos hop]
  exact ⟨_, rfl⟩

theorem dmaErr_spec {c code addr : Nat} (hu : (d.core c).dma = some u) (hcode : u.code = 0) :
    ((d.dmaErr c code addr).core c).dma = some { u with code := code, errAddr := addr } ∧ (d.dmaErr c code addr).fab = d.fab :=
  ⟨(dma_modRun hu _).trans (congrArg some (if_pos hcode)), rfl⟩

section
variable (hm : m ∈ s.dev.fab.rspQ) (hr : mget none s.dev.fab.txids m.txid = some r) (hlive : r.abandoned = false) (howner : r.owner < 64)
  (hu : (s.dev.core r.owner).dma = some u) (ht : u.txids.find? (fun x => decide (x.1 = m.txid)) = some (m.txid, t))
include hm hr hlive howner hu ht

theorem does_remoteResponse_partial (hop : m.op = 2) (hlen : (mget [] u.come t ++ m.payload).length < (s.dev.runPiece u t).n) :
    Does (.remoteResponse m) s fun e =>
      e = { s.dev with cores := e.cores, fab := { s.dev.fab with rspQ := s.dev.fab.rspQ.erase m } } ∧ coresBut r.owner s.dev e ∧
        ∃ v, (e.core r.owner).dma = some v ∧ v = { u with come := v.come } ∧ mget [] v.come t = mget [] u.come t ++ m.payload := by
  refine does_remoteResponse hm ?_
  rw [response_of_engine (d := s.dev.rspTaken m) hr hlive howner,
    dmaResponse_of_partial (d := s.dev.rspTaken m) (c := ⟨r.owner, howner⟩) hu ht hop hlen]
  exact ⟨rfl, fun j hj => Dev.core_modCore_other _ _ hj, _, dma_modRun (d := s.dev.rspTaken m) hu _, rfl, mget_mset_same [] u.come t _⟩

theorem does_remoteResponse_error (hop : m.op = 4) (hcode : u.code = 0) :
    Does (.remoteResponse m) s fun e =>
      ∃ v, (e.core r.owner).dma = some v ∧ v.code = recField m.payload 0 1 ∧
        v.txids = u.txids.filter (fun x => decide (x.1 ≠ m.txid)) ∧ mget none e.fab.txids m.txid = none := by
  obtain ⟨addr, herror⟩ := dmaResponse_of_error (d := s.dev.rspTaken m) (c := ⟨r.owner, howner⟩) hu ht hop
  obtain ⟨hdma, hfab⟩ := dmaErr_spec (code := recField m.payload 0 1) (addr := addr)
    (dma_modRun (d := (s.dev.rspTaken m).freeTxid m.txid) hu fun v => { v with txids := v.txids.filter fun x => decide (x.1 ≠ m.txid) }) hcode
  refine does_remoteResponse hm ?_
  rw [response_of_engine (d := s.dev.rspTaken m) hr hlive howner, herror]
  exact ⟨_, hdma, rfl, rfl, by rw [hfab]; exact mget_mset_same none s.dev.fab.txids m.txid none⟩

end

theorem does_remoteResponse_abandoned (hm : m ∈ s.dev.fab.rspQ) (hr : mget none s.dev.fab.txids m.txid = some r) (hlate : r.abandoned = true)
    (howner : r.owner < 64) : Does (.remoteResponse m) s fun e =>
      e = { s.dev with regs := e.regs, fab := { s.dev.fab with rspQ := s.dev.fab.rspQ.erase m } } ∧
        regsBut [Reg.CORE_DMA_LATE r.owner] s.dev e ∧
        e.get (Reg.CORE_DMA_LATE r.owner) = min (s.dev.get (Reg.CORE_DMA_LATE r.owner) + 1) (2 ^ 32 - 1) := by
  refine does_remoteResponse hm ?_
  rw [response_of_abandoned (d := s.dev.rspTaken m) hr hlate howner]
  exact ⟨rfl, (onlyRegs_set (s.dev.rspTaken m) _ (List.mem_singleton_self _)).2, get_addSat_same (s.dev.rspTaken m) _ 1⟩

/-! ### The statement -/

/-- Settles O34: the end of a recipe pass by `recipePassDone_spec`, that of a refresh by `refreshed_mirGo`, a digest by `shared_digShare`, and a
response by the request that holds its number. -/
theorem thresherPasses : Obligations.ThresherPasses := by
  intro s g d state
  refine ⟨fun hon => ⟨fun q r hq hrun hgroup hskip => ?pass, fun m hm hclosing htodo hwait hidle hstate => ?mirror,
    fun l v hdue hidle hlist hsum => ?digest⟩, fun m hm => ⟨fun hr => ?unheld, fun r hr hlate howner => ?abandoned,
    fun r u t hr hlive howner hu ht => ⟨fun hop hcode _ => ?error, fun hop hlen => ?partialData⟩⟩⟩
  case pass => exact does_of_eq rfl (if_pos hon) (recipePassDone_spec hq hrun hgroup hskip)
  case mirror => exact does_mirrorRefreshDone hon hm hclosing htodo hwait hidle hstate
  case digest => exact does_weightDigestDone hon hdue hidle hlist hsum
  case unheld => exact does_remoteResponse hm (response_of_unheld (d := s.dev.rspTaken m) hr)
  case abandoned => exact does_remoteResponse_abandoned hm hr hlate howner
  case error => exact does_remoteResponse_error hm hr hlive howner hu ht hop hcode
  case partialData => exact does_remoteResponse_partial hm hr hlive howner hu ht hop hlen

end Sys2Proof.Machine

/-! ## Register fields written one after another

A list of writes to fields that lie apart changes those fields alone, and each reads as written. -/

namespace Sys2Proof.Machine

variable {l : List (Fld × Nat)}

/-- Writes of fields, in order. -/
def Dev.setAll (l : List (Fld × Nat)) (d : Dev) : Dev := l.foldl (fun d p => d.set p.1 p.2) d

theorem onlyRegs_setAll (d : Dev) (l : List (Fld × Nat)) : onlyRegs (l.map Prod.fst) d (d.setAll l) := by
  induction l generalizing d with
  | nil => exact .refl
  | cons p l ih => exact (onlyRegs_set d p.2 List.mem_cons_self).trans ((ih _).mono (List.subset_cons_self _ _))

/-- No two of the fields are the same. -/
def fieldsApart (l : List (Fld × Nat)) : Prop := l.Pairwise fun p q => p.1.key ≠ q.1.key

theorem get_setAll (h : fieldsApart l) (d : Dev) {p : Fld × Nat} (hp : p ∈ l) : (d.setAll l).get p.1 = p.2 % 2 ^ p.1.width := by
  induction l generalizing d with
  | nil => cases hp
  | cons q l ih =>
    obtain ⟨hq, hl⟩ := List.pairwise_cons.1 h
    obtain rfl | hp := List.mem_cons.1 hp
    · have hlater : ∀ f ∈ l.map Prod.fst, p.1.key ≠ f.key := by
        intro f hf
        obtain ⟨r, hr, rfl⟩ := List.mem_map.1 hf
        exact hq r hr
      exact ((onlyRegs_setAll _ l).2 p.1 hlater).trans (Dev.get_set_same d _ _)
    · exact ih hl _ hp

end Sys2Proof.Machine

/-! ## A ring halts (R226, R236)

A halt takes the ring out of RUN with its fallback code, and leaves the pending count, memory and the other cores. A doorbell that overflows the ring
does no more than that. -/

namespace Sys2Proof.Machine

variable {d e : Dev} {c g code n : Nat}

/-- What the halt of a ring writes into its registers. -/
def haltWrites (c g code addr : Nat) : List (Fld × Nat) :=
  [(Reg.CORE_DMA_RING_STATUS.INCHAIN c g, 0), (Reg.CORE_DMA_RING_STATUS.STATE c g, ringHalted), (Reg.CORE_DMA_RING_FBSTAT.CODE c g, code),
    (Reg.CORE_DMA_RING_FBADDR_LO c g, addr % 2 ^ 32), ((Reg.CORE_DMA_RING_FBADDR_LO c g).hi, addr / 2 ^ 32)]

theorem haltWrites_apart (c g code addr : Nat) : fieldsApart (haltWrites c g code addr) := by
  simp [fieldsApart, haltWrites, Fld.key, Fld.hi, Reg.CORE_DMA_RING_STATUS.INCHAIN, Reg.CORE_DMA_RING_STATUS.STATE, Reg.CORE_DMA_RING_FBSTAT.CODE,
    Reg.CORE_DMA_RING_FBADDR_LO]
  omega

/-- The pending count is none of them. -/
theorem pend_apart_haltWrites (c g code addr : Nat) :
    ∀ f ∈ (haltWrites c g code addr).map Prod.fst, (Reg.CORE_DMA_RING_STATUS.PEND c g).key ≠ f.key := by
  simp [haltWrites, Fld.key, Fld.hi, Reg.CORE_DMA_RING_STATUS.PEND, Reg.CORE_DMA_RING_STATUS.INCHAIN, Reg.CORE_DMA_RING_STATUS.STATE,
    Reg.CORE_DMA_RING_FBSTAT.CODE, Reg.CORE_DMA_RING_FBADDR_LO]
  omega

/-- The fields that recording an event changes lie below the core blocks. -/
theorem reportFields_apart {x : Fld} (h : 0x01000000 ≤ x.off) : ∀ f ∈ reportFields, x.key ≠ f.key := by
  have hlow : ∀ f ∈ reportFields, f.key < 0x01000000 * 32 := by decide
  intro f hf
  have hfkey := hlow f hf
  simp only [Fld.key] at hfkey ⊢
  omega

/-- The core partway through no chain run of a ring. -/
def Core.unchain (g : Nat) (k : Core) : Core := { k with chains := mset ⟨0, 0⟩ k.chains g ⟨0, 0⟩ }

theorem mget_unchain (k : Core) (g : Nat) : mget ⟨0, 0⟩ (k.unchain g).chains g = ⟨0, 0⟩ :=
  mget_mset_same (⟨0, 0⟩ : RingChain) k.chains g ⟨0, 0⟩

/-- A halt writes the ring's fields and is logged. -/
theorem ringHalt_eq (d : Dev) (c g code addr tag : Nat) : ∃ x k ev, CoreRegs c [] k d x ∧ k.pc = (d.core c).pc ∧ faultClass ev.code ≠ 4 ∧
    d.ringHalt c g code addr tag = (x.setAll (haltWrites c g code (addr % 2 ^ 64))).raise ev := by
  have hmark : CoreRegs c [] _ d (d.modRun c fun u => if u.ring = g then { u with halted := true } else u) :=
    (CoreRegs.of_onlyRegs .refl).modCore _
  exact ⟨_, _, { code := Flt.DMA_RING_HALT, source := g * 256 + c, tag := tag, arg0 := addr, arg1 := code }, hmark.modCore (Core.unchain g), rfl,
    (show faultClass Flt.DMA_RING_HALT ≠ 4 by decide), rfl⟩

/-- The ring is HALTED with a fallback code; its pending count, memory and the other cores are as before. -/
def HaltsWith (c g code : Nat) (d e : Dev) : Prop :=
  e.get (Reg.CORE_DMA_RING_STATUS.STATE c g) = ringHalted ∧ e.get (Reg.CORE_DMA_RING_FBSTAT.CODE c g) = code ∧
    e.get (Reg.CORE_DMA_RING_STATUS.PEND c g) = d.get (Reg.CORE_DMA_RING_STATUS.PEND c g) ∧ e.mem = d.mem ∧ coresBut c d e

theorem haltsWith_ringHalt (d : Dev) (c g addr tag : Nat) (hcode : code < 256) :
    HaltsWith c g code d (d.ringHalt c g code addr tag) ∧ ((d.ringHalt c g code addr tag).core c).pc = (d.core c).pc := by
  obtain ⟨x, k, ev, hx, hpc, hclass, heq⟩ := ringHalt_eq d c g code addr tag
  have hwrites := onlyRegs_setAll x (haltWrites c g code (addr % 2 ^ 64))
  have hwritten := fun p => get_setAll (haltWrites_apart c g code (addr % 2 ^ 64)) x (p := p)
  have hlog := reported_raise (x.setAll (haltWrites c g code (addr % 2 ^ 64))) hclass
  rw [← heq] at hlog
  have hend := (hx.mono (List.nil_subset _)).thenRegs hwrites
  have hcore (j : Nat) : (d.ringHalt c g code addr tag).core j = (x.setAll (haltWrites c g code (addr % 2 ^ 64))).core j :=
    Dev.core_congr hlog.cores j
  have hget (f : Fld) (hf : 0x01000000 ≤ f.off) := hlog.fields f (reportFields_apart hf)
  have hstate := hget (Reg.CORE_DMA_RING_STATUS.STATE c g) (by simp only [Reg.CORE_DMA_RING_STATUS.STATE]; omega)
  have hfallback := hget (Reg.CORE_DMA_RING_FBSTAT.CODE c g) (by simp only [Reg.CORE_DMA_RING_FBSTAT.CODE]; omega)
  have hpend := hget (Reg.CORE_DMA_RING_STATUS.PEND c g) (by simp only [Reg.CORE_DMA_RING_STATUS.PEND]; omega)
  refine ⟨⟨hstate.trans (hwritten (Reg.CORE_DMA_RING_STATUS.STATE c g, ringHalted) (by simp [haltWrites])), hfallback.trans ?_,
    hpend.trans (hend.regs _ (pend_apart_haltWrites c g code _)), hlog.mem.trans hend.mem, fun j hj => (hcore j).trans (hend.cores j hj)⟩, ?_⟩
  · exact (hwritten (Reg.CORE_DMA_RING_FBSTAT.CODE c g, code) (by simp [haltWrites])).trans (Nat.mod_eq_of_lt hcode)
  · rw [hcore, hend.core, hpc]

/-- The core whose word has halted a ring goes on to its next word. -/
theorem HaltsWith.nextPc (h : HaltsWith c g code d e) : HaltsWith c g code d (e.nextPc c) := by
  obtain ⟨hstate, hcode, hpend, hmem, hcores⟩ := h
  exact ⟨hstate, hcode, hpend, hmem, fun j hj => (Dev.core_modCore_other e _ hj).trans (hcores j hj)⟩

/-! ### Doorbells (R226) -/

theorem Dev.ringDoorbell_of_fits (h : d.get (Reg.CORE_DMA_RING_STATUS.PEND c g) + n ≤ d.ringSlots c g) :
    d.ringDoorbell c g n = d.set (Reg.CORE_DMA_RING_STATUS.PEND c g) (d.get (Reg.CORE_DMA_RING_STATUS.PEND c g) + n) :=
  if_neg (Nat.not_lt.2 h)

/-- A pending count of at most 65,536 fits its field. -/
theorem Dev.get_set_pend (d : Dev) (h : n ≤ 65536) :
    (d.set (Reg.CORE_DMA_RING_STATUS.PEND c g) n).get (Reg.CORE_DMA_RING_STATUS.PEND c g) = n :=
  (Dev.get_set_same d _ _).trans (Nat.mod_eq_of_lt (Nat.lt_of_le_of_lt h (by decide : 65536 < 2 ^ 17)))

/-- Past the ring's size it halts; the address that this concerns is open. -/
theorem haltsWith_ringDoorbell (h : d.ringSlots c g < d.get (Reg.CORE_DMA_RING_STATUS.PEND c g) + n) :
    HaltsWith c g 0x15 d (d.ringDoorbell c g n) ∧ ((d.ringDoorbell c g n).core c).pc = (d.core c).pc := by
  have hhalt : d.ringDoorbell c g n = Dev.ringHalt c g 0x15 (Config.freeNat d.freeIdx) 0 { d with freeIdx := d.freeIdx + 1 } := if_pos h
  rw [hhalt]
  exact haltsWith_ringHalt { d with freeIdx := d.freeIdx + 1 } c g _ 0 (by decide)

/-- What a command does that is a doorbell of `n` descriptors. -/
theorem does_ringDoorbell {i : Instr} {s : State} {f : Dev → Dev} (hexec : exec i s = s.does f) (hf : f s.dev = s.dev.ringDoorbell c g n)
    (hsize : s.dev.ringSlots c g ≤ 65536) :
    (s.dev.get (Reg.CORE_DMA_RING_STATUS.PEND c g) + n ≤ s.dev.ringSlots c g → Does i s fun e =>
      onlyRegs [Reg.CORE_DMA_RING_STATUS.PEND c g] s.dev e ∧
        e.get (Reg.CORE_DMA_RING_STATUS.PEND c g) = s.dev.get (Reg.CORE_DMA_RING_STATUS.PEND c g) + n) ∧
    (s.dev.ringSlots c g < s.dev.get (Reg.CORE_DMA_RING_STATUS.PEND c g) + n → Does i s (HaltsWith c g 0x15 s.dev)) :=
  ⟨fun hfits => does_of_eq hexec (hf.trans (Dev.ringDoorbell_of_fits hfits))
      ⟨onlyRegs_set _ _ (List.mem_singleton_self _), Dev.get_set_pend _ (Nat.le_trans hfits hsize)⟩,
    fun hpast => does_of_eq hexec hf (haltsWith_ringDoorbell hpast).1⟩

/-- The same of DMAKICK, whose core goes on to its next word. -/
theorem nextPc_ringDoorbell (hsize : d.ringSlots c g ≤ 65536) :
    (d.get (Reg.CORE_DMA_RING_STATUS.PEND c g) + n ≤ d.ringSlots c g →
      CoreRegs c [Reg.CORE_DMA_RING_STATUS.PEND c g] (d.core c).next d ((d.ringDoorbell c g n).nextPc c) ∧
        ((d.ringDoorbell c g n).nextPc c).get (Reg.CORE_DMA_RING_STATUS.PEND c g) = d.get (Reg.CORE_DMA_RING_STATUS.PEND c g) + n) ∧
    (d.ringSlots c g < d.get (Reg.CORE_DMA_RING_STATUS.PEND c g) + n →
      HaltsWith c g 0x15 d ((d.ringDoorbell c g n).nextPc c) ∧ (((d.ringDoorbell c g n).nextPc c).core c).pc = ((d.core c).pc + 1) % 4096) := by
  refine ⟨fun hfits => ?_, fun hpast => ?_⟩
  · rw [Dev.ringDoorbell_of_fits hfits]
    exact ⟨coreRegs_nextPc (onlyRegs_set d _ (List.mem_singleton_self _)), Dev.get_set_pend d (Nat.le_trans hfits hsize)⟩
  · obtain ⟨hhalts, hpc⟩ := haltsWith_ringDoorbell hpast
    refine ⟨hhalts.nextPc, ?_⟩
    rw [Dev.nextPc, Dev.core_modCore_same, Core.next, hpc]

end Sys2Proof.Machine

/-! ## DMA ring commands (O31) -/

namespace Sys2Proof.Machine

variable {d : Dev} {c g n v : Nat}

/-! ### A doorbell of the host (R439, R445) -/

/-- A doorbell at the ring's place in BAR4 whose count fits acts by the state of the power ladder. -/
theorem Dev.doorbell_bar4 {off : BitVec 18} (hlink : d.bit Reg.HST_STATUS.LINK_UP = true) (hoff : off.toNat = c * 0x1000 + 4 * g) (hv : v ≠ 0)
    (hlt : v < 2 ^ 17) : d.doorbell (.bar4 off) c g v =
      if 2 ≤ d.get Reg.PWR_STATUS.STATE then
        if d.get Reg.PWR_STATUS.STATE ≤ 3 then (d.setBit Reg.HST_ERR.DB_ASLEEP true).hstMsix else d
      else d.coreWrite (Dev.ringDoorbell c g v) :=
  if_neg (by simpa [hlink, hoff, hv] using hlt)

theorem Dev.state_of_awake (h : awake d) : d.get Reg.PWR_STATUS.STATE = 0 := by
  obtain ⟨hon, -⟩ := h
  simp only [Dev.coreOn, Bool.and_eq_true, decide_eq_true_eq] at hon
  exact hon.1.1

/-- An interrupt changes no register. -/
theorem Dev.get_msix (d : Dev) (v : Nat) (f : Fld) : (d.msix v).get f = d.get f := by
  unfold Dev.msix
  split
  · rfl
  · split <;> rfl

/-- One that reaches a sleeping module is noted (R445). -/
theorem notes_asleep (d : Dev) :
    let e := (d.setBit Reg.HST_ERR.DB_ASLEEP true).hstMsix
    e.bit Reg.HST_ERR.DB_ASLEEP = true ∧ e.cores = d.cores ∧ e.mem = d.mem ∧ regsBut [Reg.HST_ERR.DB_ASLEEP] d e := by
  have hmsix (f : Fld) := Dev.get_msix (d.setBit Reg.HST_ERR.DB_ASLEEP true) ((d.setBit Reg.HST_ERR.DB_ASLEEP true).get Reg.HST_CTL.VEC) f
  have hreport := reported_msix (d.setBit Reg.HST_ERR.DB_ASLEEP true) ((d.setBit Reg.HST_ERR.DB_ASLEEP true).get Reg.HST_CTL.VEC)
  exact ⟨(Dev.bit_congr (hmsix _)).trans (Dev.bit_setBit_same d true (by decide)), hreport.cores, hreport.mem,
    fun f hf => (hmsix f).trans ((onlyRegs_setBit d true (List.mem_singleton_self _)).2 f hf)⟩

/-! ### STOP and ABORT (R240) -/

theorem Dev.ringStop_of_other (h : d.get (Reg.CORE_DMA_RING_STATUS.STATE c g) ≠ ringRun) : d.ringStop c g = d := if_pos h

theorem Dev.ringStop_of_unserved (h : d.get (Reg.CORE_DMA_RING_STATUS.STATE c g) = ringRun) (hserves : (d.core c).serves g = false) :
    d.ringStop c g = d.set (Reg.CORE_DMA_RING_STATUS.STATE c g) ringStopped :=
  (if_neg (not_not.2 h)).trans (if_neg (by simp [hserves]))

theorem Dev.ringStop_of_served (h : d.get (Reg.CORE_DMA_RING_STATUS.STATE c g) = ringRun) (hserves : (d.core c).serves g = true) :
    d.ringStop c g = d.modCore c fun k => { k with stopReq := mset 0 k.stopReq g (max 1 (mget 0 k.stopReq g)) } :=
  (if_neg (not_not.2 h)).trans (if_pos hserves)

theorem Dev.ringAbort_of_unserved {c : CoreId} (n : Nat) (hserves : (d.core c).serves g = false) : d.ringAbort c g n =
    if d.get (Reg.CORE_DMA_RING_STATUS.STATE c g) = ringRun then d.set (Reg.CORE_DMA_RING_STATUS.STATE c g) ringStopped else d :=
  if_pos (by simp [hserves])

theorem Dev.ringAbort_of_fetching {c : CoreId} (n : Nat) (hserves : (d.core c).serves g = true) (hdma : (d.core c).dma = none) :
    d.ringAbort c g n = d.modCore c fun k => { k with stopReq := mset 0 k.stopReq g 2 } := by
  unfold Dev.ringAbort
  dsimp only
  rw [if_neg (by simp [hserves]), hdma]

/-- The ring is STOPPED and nothing else differs. -/
theorem stopped_set (d : Dev) (c g : Nat) :
    let e := d.set (Reg.CORE_DMA_RING_STATUS.STATE c g) ringStopped
    onlyRegs [Reg.CORE_DMA_RING_STATUS.STATE c g] d e ∧ e.get (Reg.CORE_DMA_RING_STATUS.STATE c g) = 2 :=
  ⟨onlyRegs_set d _ (List.mem_singleton_self _), Dev.get_set_same d _ _⟩

/-- A request to stop at the running or awaited descriptor is kept, and nothing else differs. -/
theorem asked_modCore (d : Dev) (c g n : Nat) :
    let e := d.modCore c fun k => { k with stopReq := mset 0 k.stopReq g n }
    onlyCore c d e ∧ e.core c = { d.core c with stopReq := (e.core c).stopReq } ∧ mget 0 (e.core c).stopReq g = n := by
  intro e
  have hcore : e.core c = { d.core c with stopReq := mset 0 (d.core c).stopReq g n } := Dev.core_modCore_same d c _
  refine ⟨onlyCore_modCore d c _, ?_⟩
  rw [hcore]
  exact ⟨rfl, mget_mset_same 0 _ g n⟩

/-! ### RESTART, EN and the counters (R236, R243, R244) -/

/-- What RESTART writes. -/
def restartWrites (c g : Nat) : List (Fld × Nat) :=
  [(Reg.CORE_DMA_RING_STATUS.STATE c g, ringRun), (Reg.CORE_DMA_RING_FBSTAT.CODE c g, 0), (Reg.CORE_DMA_RING_FBADDR_LO c g, 0),
    ((Reg.CORE_DMA_RING_FBADDR_LO c g).hi, 0)]

/-- What a change of EN from 0 to 1 writes. -/
def enableWrites (c g : Nat) : List (Fld × Nat) :=
  [(Reg.CORE_DMA_RING_CTL.EN c g, 1), (Reg.CORE_DMA_RING_HEAD.INDEX c g, 0), (Reg.CORE_DMA_RING_STATUS.PEND c g, 0),
    (Reg.CORE_DMA_RING_STATUS.INCHAIN c g, 0), (Reg.CORE_DMA_RING_CPL.COUNT c g, 0), (Reg.CORE_DMA_RING_STATUS.STATE c g, ringRun)]

/-- What CTRCLR writes. -/
def ctrWrites (c : Nat) : List (Fld × Nat) :=
  [(Reg.CORE_DMA_BYTES_LO c, 0), ((Reg.CORE_DMA_BYTES_LO c).hi, 0), (Reg.CORE_DMA_STALL_LO c, 0), ((Reg.CORE_DMA_STALL_LO c).hi, 0),
    (Reg.CORE_DMA_LATE c, 0)]

theorem restartWrites_apart (c g : Nat) : fieldsApart (restartWrites c g) := by
  simp [fieldsApart, restartWrites, Fld.key, Fld.hi, Reg.CORE_DMA_RING_STATUS.STATE, Reg.CORE_DMA_RING_FBSTAT.CODE, Reg.CORE_DMA_RING_FBADDR_LO]
  omega

theorem enableWrites_apart (c g : Nat) : fieldsApart (enableWrites c g) := by
  simp [fieldsApart, enableWrites, Fld.key, Reg.CORE_DMA_RING_CTL.EN, Reg.CORE_DMA_RING_HEAD.INDEX, Reg.CORE_DMA_RING_STATUS.PEND,
    Reg.CORE_DMA_RING_STATUS.INCHAIN, Reg.CORE_DMA_RING_CPL.COUNT, Reg.CORE_DMA_RING_STATUS.STATE]
  omega

theorem ctrWrites_apart (c : Nat) : fieldsApart (ctrWrites c) := by
  simp [fieldsApart, ctrWrites, Fld.key, Fld.hi, Reg.CORE_DMA_BYTES_LO, Reg.CORE_DMA_STALL_LO, Reg.CORE_DMA_LATE]
  omega

/-- A pair both of whose halves are written 0 reads 0. -/
theorem get64_setAll_zero {l : List (Fld × Nat)} (h : fieldsApart l) (d : Dev) {x : Fld} (hlo : (x, 0) ∈ l) (hhi : (x.hi, 0) ∈ l) :
    (d.setAll l).get64 x = 0 := by
  rw [Dev.get64, get_setAll h d hlo, get_setAll h d hhi, Nat.zero_mod, Nat.zero_mod, Nat.mul_zero]

theorem Dev.ringRestart_of_halted
    (h : d.get (Reg.CORE_DMA_RING_STATUS.STATE c g) = ringStopped ∨ d.get (Reg.CORE_DMA_RING_STATUS.STATE c g) = ringHalted) :
    d.ringRestart c g = d.setAll (restartWrites c g) := if_pos h

theorem Dev.ringRestart_of_other
    (h : d.get (Reg.CORE_DMA_RING_STATUS.STATE c g) = ringDisabled ∨ d.get (Reg.CORE_DMA_RING_STATUS.STATE c g) = ringRun) :
    d.ringRestart c g = d := by
  refine if_neg ?_
  simp only [Dev.ringState, ringStopped, ringHalted, ringDisabled, ringRun] at h ⊢
  omega

theorem Dev.ringEnable_of_enabled (h : d.bit (Reg.CORE_DMA_RING_CTL.EN c g) = true) : d.ringEnable c g = d := if_pos h

/-- EN starts the ring afresh, without the chain run that it was in. -/
theorem Dev.ringEnable_of_disabled (h : d.bit (Reg.CORE_DMA_RING_CTL.EN c g) = false) : d.ringEnable c g =
    (d.modCore c (Core.unchain g)).setAll (enableWrites c g) := if_neg (by simp [h])

theorem restarted_setAll (d : Dev) (c g : Nat) :
    let e := d.setAll (restartWrites c g)
    onlyRegs ((restartWrites c g).map Prod.fst) d e ∧ e.get (Reg.CORE_DMA_RING_STATUS.STATE c g) = 1 ∧
      e.get (Reg.CORE_DMA_RING_FBSTAT.CODE c g) = 0 ∧ e.get64 (Reg.CORE_DMA_RING_FBADDR_LO c g) = 0 := by
  have hget := fun p => get_setAll (restartWrites_apart c g) d (p := p)
  exact ⟨onlyRegs_setAll d _, hget (Reg.CORE_DMA_RING_STATUS.STATE c g, ringRun) (by simp [restartWrites]),
    hget (Reg.CORE_DMA_RING_FBSTAT.CODE c g, 0) (by simp [restartWrites]),
    get64_setAll_zero (restartWrites_apart c g) d (by simp [restartWrites]) (by simp [restartWrites])⟩

theorem enabled_setAll (d : Dev) (c g : Nat) :
    let e := (d.modCore c (Core.unchain g)).setAll (enableWrites c g)
    e = { d with regs := e.regs, cores := e.cores } ∧ coresBut c d e ∧ e.bit (Reg.CORE_DMA_RING_CTL.EN c g) = true ∧
      e.get (Reg.CORE_DMA_RING_STATUS.STATE c g) = 1 ∧ e.get (Reg.CORE_DMA_RING_STATUS.PEND c g) = 0 ∧
      e.get (Reg.CORE_DMA_RING_HEAD.INDEX c g) = 0 ∧ e.get (Reg.CORE_DMA_RING_CPL.COUNT c g) = 0 ∧
      mget ⟨0, 0⟩ (e.core c).chains g = ⟨0, 0⟩ := by
  have hget := fun p => get_setAll (enableWrites_apart c g) (d.modCore c (Core.unchain g)) (p := p)
  obtain ⟨hframe, hcores, hcore, -⟩ :=
    ((CoreRegs.of_onlyRegs (c := c) (d := d) .refl).modCore (Core.unchain g)).thenRegs (onlyRegs_setAll _ (enableWrites c g))
  have hen := hget (Reg.CORE_DMA_RING_CTL.EN c g, 1) (by simp [enableWrites])
  refine ⟨hframe, hcores, by rw [Dev.bit, hen]; rfl, hget (Reg.CORE_DMA_RING_STATUS.STATE c g, ringRun) (by simp [enableWrites]),
    hget (Reg.CORE_DMA_RING_STATUS.PEND c g, 0) (by simp [enableWrites]), hget (Reg.CORE_DMA_RING_HEAD.INDEX c g, 0) (by simp [enableWrites]),
    hget (Reg.CORE_DMA_RING_CPL.COUNT c g, 0) (by simp [enableWrites]), ?_⟩
  rw [hcore]
  exact mget_unchain _ g

theorem cleared_setAll (d : Dev) (c : Nat) :
    let e := d.setAll (ctrWrites c)
    onlyRegs ((ctrWrites c).map Prod.fst) d e ∧ e.get64 (Reg.CORE_DMA_BYTES_LO c) = 0 ∧ e.get64 (Reg.CORE_DMA_STALL_LO c) = 0 ∧
      e.get (Reg.CORE_DMA_LATE c) = 0 :=
  ⟨onlyRegs_setAll d _, get64_setAll_zero (ctrWrites_apart c) d (by simp [ctrWrites]) (by simp [ctrWrites]),
    get64_setAll_zero (ctrWrites_apart c) d (by simp [ctrWrites]) (by simp [ctrWrites]),
    get_setAll (ctrWrites_apart c) d (p := (Reg.CORE_DMA_LATE c, 0)) (by simp [ctrWrites])⟩

/-! ### The statement -/

/-- Settles O31: the doorbells by `does_ringDoorbell` and `nextPc_ringDoorbell`, STOP and ABORT by what their ring serves, RESTART, EN and CTRCLR by
the fields that they write. -/
theorem dmaRings : Obligations.DmaRings := by
  intro s c g q d k st pend slots halts rings
  refine ⟨fun hon v => does_ringDoorbell rfl (if_pos hon), fun hawake v => does_ringDoorbell rfl (Dev.coreWrite_of_awake hawake _),
    fun off v hlink hoff hv hlt => ⟨fun hawake => ?bar4, fun hsleep => ?asleep⟩, fun ecc w h hop himm => ?kick, fun hawake => ?ring⟩
  case bar4 =>
    refine does_ringDoorbell rfl ((Dev.doorbell_bar4 hlink hoff ?_ hlt).trans ?_)
    · exact fun h0 => hv (BitVec.eq_of_toNat_eq h0)
    · rw [if_neg (by simp [Dev.state_of_awake hawake]), Dev.coreWrite_of_awake hawake]
  case asleep =>
    refine does_of_eq rfl ((Dev.doorbell_bar4 hlink hoff ?_ hlt).trans ?_) (notes_asleep d)
    · exact fun h0 => hv (BitVec.eq_of_toNat_eq h0)
    · rw [if_pos (by omega), if_pos (by omega)]
  case kick =>
    intro d k hsize
    obtain ⟨hfits, hpast⟩ := nextPc_ringDoorbell (d := d) (c := c) (g := g) (n := k.s (wRa w)) hsize
    have hdoes {post : Dev → Prop} (hp : post ((d.ringDoorbell c g (k.s (wRa w))).nextPc c)) : Does (.dmakick c ecc) s post :=
      does_issue (uses := usesRa) rfl h hop rfl (by rw [himm]; exact hp)
    refine ⟨fun hle => hdoes ?_, fun hlt => hdoes (hpast hlt)⟩
    obtain ⟨⟨hframe, hcores, hcore, hregs⟩, hpend⟩ := hfits hle
    exact ⟨hframe, hcores, hregs, hcore, hpend⟩
  case ring =>
    refine ⟨fun hserves => ⟨fun hrun => ⟨?stop, fun n => ?abort⟩, fun hother n => ?abortOther⟩,
      fun hserves => ⟨fun hrun => ?stopServed, fun hdma n => ?abortFetching⟩, fun hother => ?stopOther, fun hhalted => ?restart,
      fun hother => ?restartOther, fun hoff => ?enable, fun hen => ?enabled, ?clear⟩
    case stop => exact does_coreWrite rfl hawake (Dev.ringStop_of_unserved hrun hserves ▸ stopped_set d c g)
    case abort => exact does_coreWrite rfl hawake ((Dev.ringAbort_of_unserved n hserves).trans (if_pos hrun) ▸ stopped_set d c g)
    case abortOther => exact does_coreWrite rfl hawake ((Dev.ringAbort_of_unserved n hserves).trans (if_neg hother))
    case stopServed => exact does_coreWrite rfl hawake (Dev.ringStop_of_served hrun hserves ▸ asked_modCore d c g _)
    case abortFetching => exact does_coreWrite rfl hawake (Dev.ringAbort_of_fetching n hserves hdma ▸ asked_modCore d c g 2)
    case stopOther => exact does_coreWrite rfl hawake (Dev.ringStop_of_other hother)
    case restart => exact does_coreWrite rfl hawake (Dev.ringRestart_of_halted hhalted ▸ restarted_setAll d c g)
    case restartOther => exact does_coreWrite rfl hawake (Dev.ringRestart_of_other hother)
    case enable => exact does_coreWrite rfl hawake (Dev.ringEnable_of_disabled hoff ▸ enabled_setAll d c g)
    case enabled => exact does_coreWrite rfl hawake (Dev.ringEnable_of_enabled hen)
    case clear => exact does_coreWrite rfl hawake (cleared_setAll d c)

end Sys2Proof.Machine

/-! ## DMA descriptors (O32)

ABORT lets a move within the module run up to a destination boundary and then writes its descriptor back, which it cannot do while a read of host
memory is outstanding (R233, R240). Whether a move stays within the module is read off the address of its first row (`Dev.dmaInside`), and O32 asks
that the ABORT of such a move end it. A later row can lie in the host window all the same. The rows before it then reach over addresses that no
memory backs (R160), so that an engine which begins at the first row ends there with UNMAPPED and never comes to it; but the statement speaks of every
state, and leaves free which piece is the next to start. -/

namespace Sys2Proof.Machine

/-- What a command is said to do holds of the module that its meaning gives. -/
theorem post_of_does {i : Instr} {s : State} {post : Dev → Prop} {f : Dev → Dev} (hexec : exec i s = s.does f) (h : Does i s post) :
    post (f s.dev) := by
  obtain ⟨e, he, hpost⟩ := h
  have hstate : s.on f = { s with dev := e } := Host.Outcome.next.inj (hexec.symm.trans he)
  have hdev : f s.dev = e := congrArg State.dev hstate
  rwa [hdev]

/-- A descriptor of 1,025 rows of 256 bytes, 2 GiB apart from 0x2000 on: the last one lies in the host window, 8 KiB above its start. All rows go to
0x3000. -/
def stridedDesc : List Byte :=
  leBytes 4 (2 ^ 31 + 127 * 2 ^ 16) ++ leBytes 4 256 ++ leBytes 4 1025 ++ leBytes 4 0 ++ leBytes 8 0x2000 ++ leBytes 8 0x3000 ++ leBytes 4 (2 ^ 31) ++
    leBytes 28 0

/-- The run of that descriptor with its last row still to come. -/
def stridedRun : DmaRun := { ring := 0, at_ := 0x1000, desc := stridedDesc, next := 1024 }

/-- The module after reset, but for these: core 0 has that run, of its ring 0, which is in RUN; and the host's link is up, with a window of 1 GiB. -/
def stridedMove : Dev :=
  let d := (Dev.reset.setCore 0 { dma := some stridedRun }).set (Reg.CORE_DMA_RING_STATUS.STATE 0 0) ringRun
  (d.setBit Reg.HST_STATUS.LINK_UP true).set Reg.HST_HWIN_SIZE 1

theorem awake_stridedMove : awake stridedMove := ⟨by decide, by decide⟩

/-- The descriptor still runs after an ABORT: it waits for the host to return the last row. -/
theorem stridedMove_aborted_waits :
    ((stridedMove.ringAbort 0 0 (dTotal stridedDesc)).core 0).dma.map DmaRun.host = some [1024] := by decide +kernel

/-- Refutes O32: of a move whose first row lies in memory the last row is still to come, which lies in the host window, so that ABORT leaves the
descriptor running with that row's read outstanding. -/
theorem not_dmaDescriptors : ¬ Obligations.DmaDescriptors := by
  intro h
  obtain ⟨-, -, -, hruns⟩ := h ⟨stridedMove, []⟩ 0
  obtain ⟨-, -, haborts, -⟩ := hruns stridedRun rfl awake_stridedMove.1 rfl rfl
  obtain ⟨hinside, -⟩ := haborts .host 0 (dTotal stridedDesc) awake_stridedMove rfl rfl rfl
  have hdoes := hinside (by decide +kernel) (by decide +kernel) (by decide +kernel) rfl rfl rfl (by decide +kernel)
  have hends := post_of_does (f := Dev.coreWrite (Dev.ringAbort 0 0 (dTotal stridedDesc))) rfl hdoes
  rw [Dev.coreWrite_of_awake awake_stridedMove] at hends
  have hnone : ((stridedMove.ringAbort 0 0 (dTotal stridedDesc)).core 0).dma.map DmaRun.host = none := congrArg (Option.map DmaRun.host) hends.1
  cases stridedMove_aborted_waits.symm.trans hnone

end Sys2Proof.Machine

/-! ## One link and register fields

What a change of one link's record and of register fields leaves as it was, and that the fields of a link lie apart from each other and from what
reports an event. -/

namespace Sys2Proof.Machine

variable {d e f : Dev} {l : Nat} {fs gs : List Fld} {ws : List (Fld × Nat)} {k k' : Link}

/-- Nothing but link `l`, now at `k`, and register fields among `fs` differs. -/
structure LinkRegs (l : Nat) (fs : List Fld) (k : Link) (d e : Dev) : Prop where
  frame : e = { d with regs := e.regs, links := e.links }
  links : linksBut l d e
  link : e.link l = k
  regs : regsBut fs d e

namespace LinkRegs

theorem mem (h : LinkRegs l fs k d e) : e.mem = d.mem := by rw [h.frame]
theorem cores (h : LinkRegs l fs k d e) : e.cores = d.cores := by rw [h.frame]

theorem trans (h : LinkRegs l fs k d e) (h' : LinkRegs l fs k' e f) : LinkRegs l fs k' d f where
  frame := by
    calc f = { e with regs := f.regs, links := f.links } := h'.frame
      _ = { d with regs := f.regs, links := f.links } := by rw [h.frame]
  links j hj := (h'.links j hj).trans (h.links j hj)
  link := h'.link
  regs := h.regs.trans h'.regs

theorem mono (h : LinkRegs l fs k d e) (hsub : fs ⊆ gs) : LinkRegs l gs k d e := ⟨h.frame, h.links, h.link, h.regs.mono hsub⟩

theorem of_onlyRegs (h : onlyRegs fs d e) : LinkRegs l fs (d.link l) d e where
  frame := by
    rw [h.1]
  links j _ := by
    rw [h.1]
    rfl
  link := by
    rw [h.1]
    rfl
  regs := h.2

theorem of_setLink (d : Dev) (l : Nat) (k : Link) : LinkRegs l fs k d (d.setLink l k) :=
  ⟨rfl, fun _ hj => Dev.link_setLink_other d k hj, Dev.link_setLink_same d l k, .refl⟩

/-- Then the link takes another value. -/
theorem modLink (h : LinkRegs l fs k d e) (g : Link → Link) : LinkRegs l fs (g k) d (e.modLink l g) :=
  h.trans (h.link ▸ of_setLink e l _)

/-- Then register fields change. -/
theorem thenRegs (h : LinkRegs l fs k d e) (h' : onlyRegs fs e f) : LinkRegs l fs k d f := h.trans (h.link ▸ of_onlyRegs h')

/-- The link takes a value and fields are written. -/
theorem of_setAll (d : Dev) (l : Nat) (k : Link) (ws : List (Fld × Nat)) : LinkRegs l (ws.map Prod.fst) k d ((d.setAll ws).setLink l k) :=
  (of_onlyRegs (onlyRegs_setAll d ws)).trans (of_setLink _ l k)

end LinkRegs

/-! ### Fields that lie apart -/

/-- Fields from the blocks of the links on (R14), no two of them the same. -/
abbrev linkApart (fs : List Fld) : Prop := fs.Pairwise (fun f g => f.key ≠ g.key) ∧ ∀ f ∈ fs, 0x00100000 * 32 ≤ f.key

theorem fieldsApart_of_linkApart (h : linkApart (ws.map Prod.fst)) : fieldsApart ws :=
  List.pairwise_map (R := fun f g : Fld => f.key ≠ g.key).1 h.1

theorem get_written (hregs : e.regs = (d.setAll ws).regs) (h : linkApart (ws.map Prod.fst)) {x : Fld} {v : Nat} (hp : (x, v) ∈ ws) :
    e.get x = v % 2 ^ x.width := by
  have hget : e.get x = (d.setAll ws).get x := by rw [Dev.get, hregs]; rfl
  rw [hget, get_setAll (fieldsApart_of_linkApart h) d hp]

theorem bit_written (hregs : e.regs = (d.setAll ws).regs) (h : linkApart (ws.map Prod.fst)) {x : Fld} {b : Bool}
    (hp : (x, if b then 1 else 0) ∈ ws) (hwidth : x.width = 1) : e.bit x = b := by
  rw [Dev.bit, get_written hregs h hp, hwidth]
  cases b <;> rfl

/-- What reports an event leaves the fields of the links and of the fabric. -/
theorem Reported.get_above (h : Reported d e) {x : Fld} (hx : 0x00100000 * 32 ≤ x.key) : e.get x = d.get x := by
  have hbelow : ∀ f ∈ reportFields, f.key < 0x00100000 * 32 := by decide
  refine h.fields x fun f hf => ?_
  have := hbelow f hf
  omega

theorem Reported.links (h : Reported d e) : e.links = d.links := by rw [h.frame]

theorem Reported.link (h : Reported d e) (j : Nat) : e.link j = d.link j := by
  rw [Dev.link, h.links]; rfl

/-! ### The state of a link (R298) -/

/-- What FAB_STATUS.LINKS takes when link `l` enters state `st`. -/
def Dev.linksMask (d : Dev) (l st : Nat) : Nat :=
  let m := (d.set (Reg.LNK_STATUS.STATE l) st).get Reg.FAB_STATUS.LINKS
  if st = lUp then m ||| 2 ^ l else m - (if m.testBit l then 2 ^ l else 0)

theorem Dev.setLnkState_eq (d : Dev) (l st : Nat) :
    d.setLnkState l st = d.setAll [(Reg.LNK_STATUS.STATE l, st), (Reg.FAB_STATUS.LINKS, d.linksMask l st)] := rfl

/-- The fields of the link's state. -/
def stateFields (l : Nat) : List Fld := [Reg.LNK_STATUS.STATE l, Reg.FAB_STATUS.LINKS]

theorem linkApart_state : ∀ l < 24, linkApart (stateFields l) := by decide +kernel

theorem onlyRegs_setLnkState (d : Dev) (l st : Nat) : onlyRegs (stateFields l) d (d.setLnkState l st) :=
  d.setLnkState_eq l st ▸ onlyRegs_setAll d [(Reg.LNK_STATUS.STATE l, st), (Reg.FAB_STATUS.LINKS, d.linksMask l st)]

theorem lnkState_setLnkState (hl : l < 24) (d : Dev) (st : Nat) : (d.setLnkState l st).lnkState l = st % 16 :=
  get_written (congrArg Dev.regs (d.setLnkState_eq l st)) (linkApart_state l hl) List.mem_cons_self

theorem setAll_append (d : Dev) (us ws : List (Fld × Nat)) : d.setAll (us ++ ws) = (d.setAll us).setAll ws := List.foldl_append

theorem setAll_setLink (d : Dev) (l : Nat) (k : Link) (ws : List (Fld × Nat)) : (d.setLink l k).setAll ws = (d.setAll ws).setLink l k := by
  induction ws generalizing d with
  | nil => rfl
  | cons p ws ih => exact ih (d.set p.1 p.2)

/-! ### The lock bits -/

/-- The writes of the lock bits of the lanes. -/
def lockWrites (l mask : Nat) : List (Fld × Nat) := (List.range 9).map fun i => (Reg.LNK_LANE.LOCK l i, if mask.testBit i then 1 else 0)

/-- The lock bits of the lanes. -/
def lockFields (l : Nat) : List Fld := (List.range 9).map (Reg.LNK_LANE.LOCK l)

theorem setLocks_eq (d : Dev) (l mask : Nat) : d.setLocks l mask = d.setAll (lockWrites l mask) := by
  rw [Dev.setAll, lockWrites, List.foldl_map]
  rfl

theorem lockWrites_fst (l mask : Nat) : (lockWrites l mask).map Prod.fst = lockFields l := List.map_map

theorem mem_lockWrites (l mask : Nat) {i : Nat} (hi : i < 9) :
    (Reg.LNK_LANE.LOCK l i, if mask.testBit i then 1 else 0) ∈ lockWrites l mask := List.mem_map_of_mem (List.mem_range.2 hi)

end Sys2Proof.Machine

/-! ## Link training (O36) -/

namespace Sys2Proof.Machine

variable {s : State} {d e x : Dev} {l : Nat} {k : Link}

/-! ### Training starts (R249) -/

/-- The status of a link whose training starts; `v`: FAB_STATUS.LINKS. -/
def lightWrites (l v : Nat) : List (Fld × Nat) :=
  [(Reg.LNK_STATUS.NARROW l, 0), (Reg.LNK_STATUS.SPARE l, 0), (Reg.LNK_STATUS.LOST l, 0), (Reg.LNK_STATUS.PNARROW l, 0),
    (Reg.LNK_STATUS.VER l, 0), (Reg.LNK_STATUS.STATE l, lLight), (Reg.FAB_STATUS.LINKS, v)]

/-- The writes of a training's start. -/
def trainWrites (l v : Nat) : List (Fld × Nat) := lockWrites l 0 ++ lightWrites l v

/-- The fields of a training's start. -/
def trainFields (l : Nat) : List Fld :=
  lockFields l ++ [Reg.LNK_STATUS.NARROW l, Reg.LNK_STATUS.SPARE l, Reg.LNK_STATUS.LOST l, Reg.LNK_STATUS.PNARROW l, Reg.LNK_STATUS.VER l,
    Reg.LNK_STATUS.STATE l, Reg.FAB_STATUS.LINKS]

theorem trainWrites_fst (l v : Nat) : (trainWrites l v).map Prod.fst = trainFields l := by
  rw [trainWrites, List.map_append, lockWrites_fst]
  rfl

theorem linkApart_train : ∀ l < 24, linkApart (trainFields l) := by decide +kernel

theorem linkApart_trainWrites (hl : l < 24) (v : Nat) : linkApart ((trainWrites l v).map Prod.fst) :=
  trainWrites_fst l v ▸ linkApart_train l hl

/-- Training of link `l` has started from step 1, with `k` for the link. -/
structure Started (l : Nat) (k : Link) (d e : Dev) : Prop where
  regs : LinkRegs l (trainFields l) k d e
  state : e.lnkState l = lLight
  ver : e.get (Reg.LNK_STATUS.VER l) = 0
  lost : e.get (Reg.LNK_STATUS.LOST l) = 0
  spare : e.bit (Reg.LNK_STATUS.SPARE l) = false
  narrow : e.bit (Reg.LNK_STATUS.NARROW l) = false
  locks : ∀ i, i < 9 → e.bit (Reg.LNK_LANE.LOCK l i) = false

theorem Started.modLink (h : Started l k d e) (g : Link → Link) : Started l (g k) d (e.modLink l g) :=
  ⟨h.regs.modLink g, h.state, h.ver, h.lost, h.spare, h.narrow, h.locks⟩

theorem startTraining_of_used (hused : d.linkUsed l = true) :
    ∃ v, d.startTraining l = (d.setAll (trainWrites l v)).setLink l (d.link l).afresh := by
  have hwrites (v : Nat) : (d.setAll (trainWrites l v)).setLink l (d.link l).afresh =
      ((d.modLink l Link.afresh).setLocks l 0).setAll (lightWrites l v) := by
    rw [setLocks_eq, ← setAll_append, Dev.modLink, setAll_setLink, trainWrites]
  simp only [hwrites, Dev.startTraining, hused]
  exact ⟨_, rfl⟩

theorem started_startTraining (hl : l < 24) (hused : d.linkUsed l = true) : Started l (d.link l).afresh d (d.startTraining l) := by
  obtain ⟨v, h⟩ := startTraining_of_used hused
  have hapart := linkApart_trainWrites hl v
  have hregs : (d.startTraining l).regs = (d.setAll (trainWrites l v)).regs := by rw [h]; rfl
  have hget (x : Fld) (w : Nat) (hp : (x, w) ∈ lightWrites l v) := get_written hregs hapart (List.mem_append_right _ hp)
  have hbit (x : Fld) (hwidth : x.width = 1) (hp : (x, 0) ∈ lightWrites l v) : (d.startTraining l).bit x = false :=
    bit_written hregs hapart (List.mem_append_right _ hp) hwidth
  refine ⟨h ▸ trainWrites_fst l v ▸ .of_setAll d l _ _, hget _ lLight (by simp [lightWrites]), hget _ 0 (by simp [lightWrites]),
    hget _ 0 (by simp [lightWrites]), hbit _ rfl (by simp [lightWrites]), hbit _ rfl (by simp [lightWrites]), fun i hi => ?_⟩
  exact (bit_written hregs hapart (List.mem_append_left _ (mem_lockWrites l 0 hi)) rfl).trans (Nat.zero_testBit i)

theorem startTraining_of_unused (hunused : d.linkUsed l = false) : d.startTraining l = d := by
  rw [Dev.startTraining, hunused]
  rfl

/-! ### An attempt fails (R249), or the wiring does not match (R251) -/

theorem stateAbove (hl : l < 24) : 0x00100000 * 32 ≤ (Reg.LNK_STATUS.STATE l).key := (linkApart_state l hl).2 _ List.mem_cons_self

/-- A link changes state and an event is reported. -/
theorem lnkState_of_reported (hl : l < 24) {st : Nat} (h : Reported (x.setLnkState l st) e) : e.lnkState l = st % 16 :=
  (h.get_above (stateAbove hl)).trans (lnkState_setLnkState hl x st)

/-- An attempt of training has failed: DARK for a while, or DOWN after the third. -/
structure AttemptFailed (l : Nat) (d e : Dev) : Prop where
  links : linksBut l d e
  mem : e.mem = d.mem
  cores : e.cores = d.cores
  again : (d.link l).attempts < 2 →
    e.lnkState l = lDark ∧ (e.link l).attempts = (d.link l).attempts + 1 ∧ (e.link l).backoff = true
  last : 2 ≤ (d.link l).attempts → e.lnkState l = lDown ∧ (e.link l).attempts = 0

theorem attemptFailed_attemptFail (hl : l < 24) (d : Dev) : AttemptFailed l d (d.attemptFail l) := by
  have hregs (k : Link) (st : Nat) : LinkRegs l (stateFields l) k d ((d.setLink l k).setLnkState l st) :=
    (LinkRegs.of_setLink d l k).thenRegs (onlyRegs_setLnkState _ l st)
  unfold Dev.attemptFail
  dsimp only
  split
  case isTrue hlast =>
    have hset := hregs { d.link l with attempts := 0 } lDown
    have hrep := reported_raise ((d.setLink l { d.link l with attempts := 0 }).setLnkState l lDown)
      (ev := { code := Flt.LNK_TRAIN_FAIL, source := l, arg0 := l }) (show faultClass Flt.LNK_TRAIN_FAIL ≠ 4 by decide)
    exact ⟨fun j hj => (hrep.link j).trans (hset.links j hj), hrep.mem.trans hset.mem, hrep.cores.trans hset.cores, fun hagain => by omega,
      fun _ => ⟨lnkState_of_reported hl hrep, congrArg Link.attempts ((hrep.link l).trans hset.link)⟩⟩
  case isFalse hagain =>
    have hset := hregs { d.link l with attempts := (d.link l).attempts + 1, backoff := true } lDark
    exact ⟨hset.links, hset.mem, hset.cores,
      fun _ => ⟨lnkState_setLnkState hl _ _, congrArg Link.attempts hset.link, congrArg Link.backoff hset.link⟩, fun hlast => by omega⟩

/-- The fields of a link with the wrong wiring. -/
def wiringFields (l : Nat) : List Fld := [Reg.LNK_ERR.WIRING l, Reg.LNK_STATUS.STATE l, Reg.FAB_STATUS.LINKS]

theorem linkApart_wiring : ∀ l < 24, linkApart (wiringFields l) := by decide +kernel

/-- Training has stopped for the wiring. -/
structure Miswired (l : Nat) (d e : Dev) : Prop where
  state : e.lnkState l = lDown
  flag : e.bit (Reg.LNK_ERR.WIRING l) = true
  links : e.links = d.links
  mem : e.mem = d.mem

theorem miswired_wiringBad (hl : l < 24) (d : Dev) : Miswired l d (d.wiringBad l) := by
  have hapart := linkApart_wiring l hl
  have hrep := reported_raise ((d.setBit (Reg.LNK_ERR.WIRING l) true).setLnkState l lDown)
    (ev := { code := Flt.LNK_WIRING, source := l, arg0 := d.get (Reg.LNK_PEER.NODE l), arg1 := d.get (Reg.LNK_PEER.LINK l) })
    (show faultClass Flt.LNK_WIRING ≠ 4 by decide)
  have hflag : ((d.setBit (Reg.LNK_ERR.WIRING l) true).setLnkState l lDown).bit (Reg.LNK_ERR.WIRING l) = true :=
    bit_written (ws := [(Reg.LNK_ERR.WIRING l, 1), (Reg.LNK_STATUS.STATE l, lDown), (Reg.FAB_STATUS.LINKS, _)]) (b := true) rfl hapart
      List.mem_cons_self rfl
  exact ⟨lnkState_of_reported hl hrep, (Dev.bit_congr (hrep.get_above (hapart.2 _ List.mem_cons_self))).trans hflag, hrep.links, hrep.mem⟩

/-! ### SPEAK (R252) and LOCK -/

theorem Dev.trainStep_of_state {st : Nat} (h : d.lnkState l = st) (g : Dev → Dev) : d.trainStep l st g = g d := if_pos h

theorem does_trainStep {i : Instr} {st : Nat} {g : Dev → Dev} {post : Dev → Prop} (hexec : exec i s = s.does (Dev.trainStep l st g))
    (h : s.dev.lnkState l = st) (hp : post (g s.dev)) : Does i s post := does_of_eq hexec (Dev.trainStep_of_state h g) hp

/-- What the peer tells at SPEAK is noted. -/
def peerWrites (l node link vers : Nat) : List (Fld × Nat) :=
  [(Reg.LNK_PEER.NODE l, node), (Reg.LNK_PEER.LINK l, link), (Reg.LNK_PEER.VERS l, vers)]

theorem linkApart_speak : ∀ l < 24, linkApart [Reg.LNK_PEER.NODE l, Reg.LNK_PEER.LINK l, Reg.LNK_PEER.VERS l, Reg.LNK_STATUS.VER l,
    Reg.LNK_STATUS.STATE l, Reg.FAB_STATUS.LINKS] := by decide +kernel

theorem vermax_apart_peer : ∀ l < 24, ∀ f ∈ [Reg.LNK_PEER.NODE l, Reg.LNK_PEER.LINK l, Reg.LNK_PEER.VERS l],
    (Reg.LNK_CTL.VERMAX l).key ≠ f.key := by decide +kernel

/-- The lanes that have locked, as LOCK's end takes them. -/
theorem testBit_lockedLanes (d : Dev) (l : Nat) (p : Nat → Bool) (i : Nat) :
    ((d.lanes l).foldl (fun m i => if p i then m + 2 ^ i else m) 0).testBit i = (decide (i ∈ d.lanes l) && p i) := by
  rw [Dev.lanes, decide_eq_decide.2 List.mem_range]
  exact testBit_bitSum p _ i

theorem linkApart_lockState : ∀ l < 24, linkApart (lockFields l ++ stateFields l) := by decide +kernel

/-- The lock bits are written and the link changes state. -/
theorem bit_lock_setLocks (hl : l < 24) (d : Dev) (mask st : Nat) {i : Nat} (hi : i < 9) :
    ((d.setLocks l mask).setLnkState l st).bit (Reg.LNK_LANE.LOCK l i) = mask.testBit i := by
  rw [Dev.setLnkState_eq, setLocks_eq, ← setAll_append]
  refine bit_written (e := Dev.setAll _ d) rfl ?_ (List.mem_append_left _ (mem_lockWrites l mask hi)) rfl
  rw [List.map_append, lockWrites_fst]
  exact linkApart_lockState l hl

theorem onlyRegs_setLocks (d : Dev) (l mask : Nat) : onlyRegs (lockFields l) d (d.setLocks l mask) := by
  rw [setLocks_eq, ← lockWrites_fst l mask]
  exact onlyRegs_setAll d _

/-! ### ALIGN (R250) -/

/-- The working lanes among the failed ones of a version's lanes. -/
def failedWork (lanes : List Nat) (f : Nat) : List Nat := (lanes.filter f.testBit).filter (· < 8)

/-- The spare lane is there and has not failed. -/
def spareGood (lanes : List Nat) (f : Nat) : Prop := 8 ∈ lanes ∧ 8 ∉ lanes.filter f.testBit

/-- The map of a direction: no lane has failed, or the spare or a narrower link serves for one, or both for two. -/
def Assigned (lanes : List Nat) (f : Nat) (r : List Nat) : Prop :=
  (failedWork lanes f = [] ∧ r = [0, 1, 2, 3, 4, 5, 6, 7]) ∨
  (∃ x, failedWork lanes f = [x] ∧ ((spareGood lanes f ∧ r = [0, 1, 2, 3, 4, 5, 6, 7].map fun p => if p = x then 8 else p) ∨
    (¬spareGood lanes f ∧ r = [0, 1, 2, 3, 4, 5, 6, 7].map fun p => if p = x then 9 else p))) ∨
  (∃ x y, failedWork lanes f = [x, y] ∧ spareGood lanes f ∧
    r = [0, 1, 2, 3, 4, 5, 6, 7].map fun p => if p = x then 8 else if p = y then 9 else p)

/-- More lanes have failed than the link can do without. -/
def TooMany (lanes : List Nat) (f : Nat) : Prop :=
  3 ≤ (failedWork lanes f).length ∨ ((failedWork lanes f).length = 2 ∧ ¬spareGood lanes f)

theorem spareGood_iff {lanes : List Nat} {f : Nat} :
    (lanes.contains 8 && !(lanes.filter f.testBit).contains 8) = true ↔ spareGood lanes f := by
  simp only [spareGood, Bool.and_eq_true, Bool.not_eq_true', List.contains_eq_mem, decide_eq_true_eq, decide_eq_false_iff_not]

/-- `assignLanes` by the failed working lanes and the spare. -/
theorem assignLanes_eq (lanes : List Nat) (f : Nat) : assignLanes lanes f =
    match failedWork lanes f with
    | [] => some [0, 1, 2, 3, 4, 5, 6, 7]
    | [x] => some (moveLane x (if (lanes.contains 8 && !(lanes.filter f.testBit).contains 8) = true then 8 else 9) [0, 1, 2, 3, 4, 5, 6, 7])
    | [x, y] => if (lanes.contains 8 && !(lanes.filter f.testBit).contains 8) = true then
        some (moveLane y 9 (moveLane x 8 [0, 1, 2, 3, 4, 5, 6, 7])) else none
    | _ => none := rfl

theorem assignLanes_of_assigned {lanes : List Nat} {f : Nat} {r : List Nat} (h : Assigned lanes f r) : assignLanes lanes f = some r := by
  rw [assignLanes_eq]
  obtain ⟨hwork, rfl⟩ | ⟨x, hwork, ⟨hspare, rfl⟩ | ⟨hspare, rfl⟩⟩ | ⟨x, y, hwork, hspare, rfl⟩ := h
  · rw [hwork]
  · simp only [hwork, if_pos (spareGood_iff.2 hspare)]
    rfl
  · simp only [hwork, if_neg fun hs => hspare (spareGood_iff.1 hs)]
    rfl
  · have hy : y < 8 := by
      have hmem : y ∈ failedWork lanes f := by simp [hwork]
      simpa using (List.mem_filter.1 hmem).2
    simp only [hwork, if_pos (spareGood_iff.2 hspare)]
    refine congrArg some ((List.map_map ..).trans (List.map_congr_left fun p _ => ?_))
    by_cases hp : p = x
    · simp [hp]
      omega
    · simp [hp]

theorem assignLanes_of_tooMany {lanes : List Nat} {f : Nat} (h : TooMany lanes f) : assignLanes lanes f = none := by
  rw [assignLanes_eq]
  obtain hmany | ⟨htwo, hspare⟩ := h
  · match hwork : failedWork lanes f, hmany with
    | _ :: _ :: _ :: _, _ => rfl
  · match hwork : failedWork lanes f, htwo with
    | [x, y], _ => exact if_neg fun hs => hspare (spareGood_iff.1 hs)

/-- The writes of ALIGN's end. -/
def alignWrites (l bad : Nat) (rx tx : List Nat) (v : Nat) : List (Fld × Nat) :=
  [(Reg.LNK_STATUS.LOST l, bad), (Reg.LNK_STATUS.SPARE l, if rx.contains 8 then 1 else 0), (Reg.LNK_STATUS.NARROW l, if mapNarrow rx then 1 else 0),
    (Reg.LNK_STATUS.PNARROW l, if mapNarrow tx then 1 else 0), (Reg.LNK_STATUS.STATE l, lIdent), (Reg.FAB_STATUS.LINKS, v)]

theorem linkApart_align : ∀ l < 24, linkApart [Reg.LNK_STATUS.LOST l, Reg.LNK_STATUS.SPARE l, Reg.LNK_STATUS.NARROW l,
    Reg.LNK_STATUS.PNARROW l, Reg.LNK_STATUS.STATE l, Reg.FAB_STATUS.LINKS] := by decide +kernel

/-- The end of ALIGN with a map for each direction. -/
def Dev.aligned (l bad : Nat) (rx tx : List Nat) (d : Dev) : Dev :=
  let d := d.modLink l fun k => { k with rxMap := rx, maps := [], txMap := tx }
  let d := ((d.set (Reg.LNK_STATUS.LOST l) bad).setBit (Reg.LNK_STATUS.SPARE l) (rx.contains 8)).setBit (Reg.LNK_STATUS.NARROW l) (mapNarrow rx)
  (d.setBit (Reg.LNK_STATUS.PNARROW l) (mapNarrow tx)).setLnkState l lIdent

theorem aligned_eq (d : Dev) (l bad : Nat) (rx tx : List Nat) : ∃ v, d.aligned l bad rx tx =
    (d.setAll (alignWrites l bad rx tx v)).setLink l { d.link l with rxMap := rx, maps := [], txMap := tx } := ⟨_, rfl⟩

/-! ### IDENT and LATENCY (R251, R265) -/

theorem peerLink_eq : ∀ l : LinkId, ((3 * ((l / 3) ^^^ 1) + l % 3 : LinkId) : Nat) = 3 * ((l.val / 3) ^^^ 1) + l.val % 3 := by decide

theorem linkApart_latency : ∀ l < 24, linkApart [Reg.LNK_LAT l, Reg.LNK_RTT l, Reg.LNK_STATUS.STATE l, Reg.FAB_STATUS.LINKS] := by
  decide +kernel

/-- The link has left SPEAK for LOCK with version `ver` (R252). -/
theorem speak_written (hl : l < 24) (d : Dev) (node link vers ver : Nat) :
    let e := ((d.setAll (peerWrites l node link vers)).set (Reg.LNK_STATUS.VER l) ver).setLnkState l lLock
    e = { d with regs := e.regs } ∧ e.lnkState l = lLock ∧ e.get (Reg.LNK_STATUS.VER l) = ver % 4 ∧
      e.get (Reg.LNK_PEER.NODE l) = node % 2 ^ 14 ∧ e.get (Reg.LNK_PEER.LINK l) = link % 2 ^ 5 ∧ e.get (Reg.LNK_PEER.VERS l) = vers % 4 := by
  intro e
  obtain ⟨v, he⟩ : ∃ v, e = d.setAll (peerWrites l node link vers ++
    [(Reg.LNK_STATUS.VER l, ver), (Reg.LNK_STATUS.STATE l, lLock), (Reg.FAB_STATUS.LINKS, v)]) := ⟨_, rfl⟩
  have hget (x : Fld) (w : Nat) := get_written (x := x) (v := w) (congrArg Dev.regs he) (linkApart_speak l hl)
  exact ⟨he ▸ (onlyRegs_setAll d _).1, hget _ lLock (by simp [peerWrites]), hget _ ver (by simp [peerWrites]),
    hget _ node (by simp [peerWrites]), hget _ link (by simp [peerWrites]), hget _ vers (by simp [peerWrites])⟩

/-- SPEAK's end (R252). -/
def Dev.spoken (l node link vers : Nat) (d : Dev) : Dev :=
  let d := d.setAll (peerWrites l node link vers)
  let v := min (d.get (Reg.LNK_CTL.VERMAX l)) vers
  if v = 0 then d.wiringBad l else (d.set (Reg.LNK_STATUS.VER l) (min v 2)).setLnkState l lLock

theorem spoken_eq (hl : l < 24) (d : Dev) (node link vers : Nat) : d.spoken l node link vers =
    if min (d.get (Reg.LNK_CTL.VERMAX l)) vers = 0 then (d.setAll (peerWrites l node link vers)).wiringBad l
    else ((d.setAll (peerWrites l node link vers)).set (Reg.LNK_STATUS.VER l) (min (min (d.get (Reg.LNK_CTL.VERMAX l)) vers) 2)).setLnkState
      l lLock := by
  have hvermax : (d.setAll (peerWrites l node link vers)).get (Reg.LNK_CTL.VERMAX l) = d.get (Reg.LNK_CTL.VERMAX l) :=
    (onlyRegs_setAll d _).2 _ (vermax_apart_peer l hl)
  rw [Dev.spoken, hvermax]

/-- ALIGN has ended with a map for each direction. -/
structure AlignedTo (l bad : Nat) (rx tx : List Nat) (d e : Dev) : Prop where
  frame : e = { d with regs := e.regs, links := e.links }
  links : linksBut l d e
  link : e.link l = { d.link l with rxMap := rx, maps := [], txMap := tx }
  state : e.lnkState l = lIdent
  lost : e.get (Reg.LNK_STATUS.LOST l) = bad
  spare : e.bit (Reg.LNK_STATUS.SPARE l) = decide (8 ∈ rx)
  narrow : e.bit (Reg.LNK_STATUS.NARROW l) = decide (9 ∈ rx)
  pnarrow : e.bit (Reg.LNK_STATUS.PNARROW l) = decide (9 ∈ tx)

theorem mapNarrow_eq (m : List Nat) : mapNarrow m = decide (9 ∈ m) := List.contains_eq_mem _ _

theorem alignedTo_aligned (hl : l < 24) (d : Dev) {bad : Nat} (hbad : bad < 2 ^ 9) (rx tx : List Nat) :
    AlignedTo l bad rx tx d (d.aligned l bad rx tx) := by
  obtain ⟨v, h⟩ := aligned_eq d l bad rx tx
  have hset := LinkRegs.of_setAll d l { d.link l with rxMap := rx, maps := [], txMap := tx } (alignWrites l bad rx tx v)
  have hregs : (d.aligned l bad rx tx).regs = (d.setAll (alignWrites l bad rx tx v)).regs := by rw [h]; rfl
  have hbit (x : Fld) (b : Bool) (hwidth : x.width = 1) (hp : (x, if b then 1 else 0) ∈ alignWrites l bad rx tx v) :=
    bit_written hregs (linkApart_align l hl) hp hwidth
  rw [← h] at hset
  refine ⟨hset.frame, hset.links, hset.link, get_written (v := lIdent) hregs (linkApart_align l hl) (by simp [alignWrites]),
    (get_written (v := bad) hregs (linkApart_align l hl) (by simp [alignWrites])).trans (Nat.mod_eq_of_lt hbad), ?_, ?_, ?_⟩
  · exact (hbit _ (rx.contains 8) rfl (by simp [alignWrites])).trans (List.contains_eq_mem _ _)
  · exact (hbit _ (mapNarrow rx) rfl (by simp [alignWrites])).trans (mapNarrow_eq rx)
  · exact (hbit _ (mapNarrow tx) rfl (by simp [alignWrites])).trans (mapNarrow_eq tx)

theorem failedLanes_lt (d : Dev) (l : Nat) (m : BitVec 9) : d.failedLanes l m < 2 ^ 9 := Nat.mod_lt _ (by decide)

/-- ALIGN's end with the failed lanes of each direction. -/
def Dev.alignEnd (l bad peer : Nat) (d : Dev) : Dev :=
  match assignLanes (d.lanes l) bad, assignLanes (d.lanes l) peer with
  | some rx, some tx => d.aligned l bad rx tx
  | _, _ => d.attemptFail l

theorem alignEnd_of_assigned {bad peer : Nat} {rx tx : List Nat} (hrx : Assigned (d.lanes l) bad rx) (htx : Assigned (d.lanes l) peer tx) :
    d.alignEnd l bad peer = d.aligned l bad rx tx := by
  rw [Dev.alignEnd, assignLanes_of_assigned hrx, assignLanes_of_assigned htx]

theorem alignEnd_of_tooMany {bad peer : Nat} (h : TooMany (d.lanes l) bad ∨ TooMany (d.lanes l) peer) :
    d.alignEnd l bad peer = d.attemptFail l := by
  rw [Dev.alignEnd]
  obtain h | h := h
  · rw [assignLanes_of_tooMany h]
  · rw [assignLanes_of_tooMany h]
    cases assignLanes (d.lanes l) bad <;> rfl

/-- The link after LATENCY. -/
def Link.trained (hold : Bool) (mt : Nat) (k : Link) : Link :=
  { k with attempts := 0, downed := hold, expected := 0, una := 0, next := 0, replay := [], resend := none, pos := 0, hbAt := mt + 1 }

/-- The link sends in UP and in UP_HELD. -/
theorem linkSends_of_up (h : d.lnkState l = lUp ∨ d.lnkState l = lUpHeld) : d.linkSends l = true := by
  have hhold : d.sendState l = d.lnkState l := by
    unfold Dev.sendState
    rw [if_neg]
    obtain h | h := h <;> rw [h] <;> decide
  obtain h | h := h <;> simp [Dev.linkSends, hhold, h]

/-- The writes of LATENCY's end. -/
def latencyWrites (l lat rtt st v : Nat) : List (Fld × Nat) :=
  [(Reg.LNK_LAT l, lat), (Reg.LNK_RTT l, rtt), (Reg.LNK_STATUS.STATE l, st), (Reg.FAB_STATUS.LINKS, v)]

/-- LATENCY has ended, with `k` for the link. -/
structure Trained (l lat rtt st : Nat) (k : Link) (d e : Dev) : Prop where
  frame : e = { d with regs := e.regs, links := e.links }
  links : linksBut l d e
  link : e.link l = k
  lat : e.get (Reg.LNK_LAT l) = lat % 2 ^ 24
  rtt : e.get (Reg.LNK_RTT l) = rtt % 2 ^ 24
  state : e.lnkState l = st % 16
  pstate : e.get (Reg.LNK_CTL.PSTATE l) = d.get (Reg.LNK_CTL.PSTATE l)

theorem pstate_apart_latency : ∀ l < 24, ∀ f ∈ [Reg.LNK_LAT l, Reg.LNK_RTT l, Reg.LNK_STATUS.STATE l, Reg.FAB_STATUS.LINKS],
    (Reg.LNK_CTL.PSTATE l).key ≠ f.key := by decide +kernel

theorem trained_setLnkState (hl : l < 24) (d : Dev) (lat rtt st : Nat) (k : Link) :
    Trained l lat rtt st k d ((((d.set (Reg.LNK_LAT l) lat).set (Reg.LNK_RTT l) rtt).setLink l k).setLnkState l st) := by
  obtain ⟨v, hx⟩ : ∃ v, (((d.set (Reg.LNK_LAT l) lat).set (Reg.LNK_RTT l) rtt).setLink l k).setLnkState l st =
    (d.setAll (latencyWrites l lat rtt st v)).setLink l k := ⟨_, rfl⟩
  have hset := hx ▸ LinkRegs.of_setAll d l k (latencyWrites l lat rtt st v)
  have hget (y : Fld) (w : Nat) := get_written (x := y) (v := w) ((congrArg Dev.regs hx).trans (Dev.setLink_regs ..)) (linkApart_latency l hl)
  exact ⟨hset.frame, hset.links, hset.link, hget _ lat (by simp [latencyWrites]), hget _ rtt (by simp [latencyWrites]),
    hget _ st (by simp [latencyWrites]), hset.regs _ (pstate_apart_latency l hl)⟩

theorem Trained.modLink {lat rtt st : Nat} (h : Trained l lat rtt st k d e) (g : Link → Link) : Trained l lat rtt st (g k) d (e.modLink l g) := by
  have hset : LinkRegs l [] (g k) e (e.modLink l g) := h.link ▸ .of_setLink e l _
  refine ⟨?_, fun j hj => (hset.links j hj).trans (h.links j hj), hset.link, h.lat, h.rtt, h.state, h.pstate⟩
  rw [hset.frame, h.frame]

/-- With PSTATE at 2 the link then asks for L2 (R267). -/
theorem askL2_of_up (h : d.lnkState l = lUp ∨ d.lnkState l = lUpHeld) : d.askL2 l =
    if d.get (Reg.LNK_CTL.PSTATE l) = 2 then d.modLink l fun k => { k with ctl := k.ctl ++ [powerBody false] } else d := by
  simp only [Dev.askL2, linkSends_of_up h, Bool.and_true, decide_eq_true_eq, Dev.sendCtrl]

theorem Trained.askL2 {lat rtt st : Nat} (h : Trained l lat rtt st k d e) (hst : st % 16 = lUp ∨ st % 16 = lUpHeld) :
    Trained l lat rtt st { k with ctl := if d.get (Reg.LNK_CTL.PSTATE l) = 2 then k.ctl ++ [powerBody false] else k.ctl } d (e.askL2 l) := by
  rw [askL2_of_up (h.state ▸ hst), h.pstate]
  split
  · exact h.modLink fun k => { k with ctl := k.ctl ++ [powerBody false] }
  · exact h

/-- Every virtual channel begins with 512 credits (R255). -/
theorem fullCredits : ∀ v < 4, mget 0 [(0, 512), (1, 512), (2, 512), (3, 512)] v = 512 := by decide

/-- Settles O36: the starts by `started_startTraining`, the failures by `attemptFailed_attemptFail` and `miswired_wiringBad`, the steps by the
fields that they write. -/
theorem linkTraining : Obligations.LinkTraining := by
  intro s l q d k st only moves starts trains fails wiring
  have hl : l.val < 24 := l.isLt
  have hstarts {j : Link} {e : Dev} (h : Started l j d e) (hreplay : j.replay = []) (hcredits : j.credits = []) (htxq : j.txq = k.txq)
      (hdowned : j.downed = k.downed) (hbackoff : j.backoff = false) : starts e := by
    have hj := h.regs.link
    exact ⟨⟨h.regs.frame, h.regs.links⟩, h.state, h.ver, h.lost, h.spare, h.narrow, h.locks, (congrArg Link.replay hj).trans hreplay,
      (congrArg Link.credits hj).trans hcredits, (congrArg Link.txq hj).trans htxq, (congrArg Link.downed hj).trans hdowned,
      (congrArg Link.backoff hj).trans hbackoff⟩
  have htrains {i : Instr} {g : Dev → Dev} (hexec : exec i s = s.does g) (hg : g d = d.startTraining l) : trains i := fun hused =>
    does_of_eq hexec hg (hstarts (started_startTraining hl hused) rfl rfl rfl rfl rfl)
  have hmoves {i : Instr} {old new : Nat} (hnew : new % 16 = new) (hexec : exec i s = s.does (Dev.trainStep l old fun d => d.setLnkState l new))
      (h : st = old) : moves i new :=
    does_trainStep hexec h ⟨onlyRegs_setLnkState d l new, (lnkState_setLnkState hl d new).trans hnew⟩
  have hfails {i : Instr} {g : Dev → Dev} (hexec : exec i s = s.does g) (hg : g d = d.attemptFail l) : fails i := by
    obtain ⟨hlinks, hmem, hcores, hagain, hlast⟩ := attemptFailed_attemptFail hl d
    exact does_of_eq hexec hg ⟨hlinks, hmem, hcores, hagain, hlast⟩
  have hwiring {i : Instr} {g : Dev → Dev} {x : Dev} (hexec : exec i s = s.does g) (hg : g d = x.wiringBad l) (hlinks : x.links = d.links)
      (hmem : x.mem = d.mem) : wiring i := by
    obtain ⟨hstate, hflag, hlinks', hmem'⟩ := miswired_wiringBad hl x
    exact does_of_eq hexec hg ⟨hstate, hflag, hlinks'.trans hlinks, hmem'.trans hmem⟩
  refine ⟨fun hdark hback => ⟨htrains rfl (if_pos ?_), htrains rfl (if_pos ?_)⟩, htrains rfl rfl, htrains rfl rfl,
    fun hunused => does_of_eq rfl (startTraining_of_unused hunused) rfl, fun hl2 => htrains rfl (if_pos hl2), hmoves rfl rfl, hmoves rfl rfl,
    fun n p v hspeak => ?speak, fun m hlock => does_trainStep rfl hlock ?lock, fun m peer halign => ?align, fun hident => ?ident,
    fun x y hlat => does_trainStep rfl hlat ?latency, fun hlo hhi => hfails rfl (if_pos ⟨hlo, hhi⟩), fun hdark hback hused => ?backoff⟩
  · simpa [k] using And.intro hdark hback
  · simpa [k] using And.intro hdark hback
  case speak =>
    have hspoken := spoken_eq hl d n.toNat p.toNat v.toNat
    intro ver
    refine ⟨fun hne => does_trainStep rfl hspeak ?_, fun hzero => hwiring (x := d.setAll _) rfl
      ((Dev.trainStep_of_state hspeak _).trans (hspoken.trans (if_pos hzero))) rfl rfl⟩
    obtain ⟨hframe, hstate, hver, hnode, hlink, hvers⟩ := speak_written hl d n.toNat p.toNat v.toNat (min ver 2)
    rw [← hspoken.trans (if_neg hne)] at hframe hstate hver hnode hlink hvers
    exact ⟨hframe, hstate, hver.trans (Nat.mod_eq_of_lt (by omega)), hnode.trans (Nat.mod_eq_of_lt n.isLt),
      hlink.trans (Nat.mod_eq_of_lt p.isLt), hvers.trans (Nat.mod_eq_of_lt v.isLt)⟩
  case lock =>
    refine ⟨((onlyRegs_setLocks d l _).mono (List.subset_append_left _ (stateFields l)) |>.trans
      ((onlyRegs_setLnkState _ l lEqualise).mono (List.subset_append_right _ _))).1, lnkState_setLnkState hl _ _, fun i hi => ?_⟩
    exact (bit_lock_setLocks hl d _ _ hi).trans (testBit_lockedLanes d l m.getLsbD i)
  case align =>
    intro failed bad work spare assigned tooMany
    refine ⟨fun rx tx hrx htx => ?_, fun hmany => hfails rfl ((Dev.trainStep_of_state halign _).trans ?_)⟩
    · obtain ⟨hframe, hlinks, hlink, hstate, hlost, hspare, hnarrow, hpnarrow⟩ := alignedTo_aligned hl d (failedLanes_lt d l m) rx tx
      refine does_of_eq rfl ((Dev.trainStep_of_state halign _).trans (alignEnd_of_assigned hrx htx)) ⟨⟨hframe, hlinks⟩, hstate,
        congrArg Link.rxMap hlink, congrArg Link.txMap hlink, congrArg Link.maps hlink, hlost, hspare, hnarrow, hpnarrow⟩
    · exact alignEnd_of_tooMany hmany
  case ident =>
    intro ok
    have hok : ok ↔ d.get (Reg.LNK_PEER.NODE l) = d.linkPeer l ∧ d.get (Reg.LNK_PEER.LINK l) = ((3 * ((l / 3) ^^^ 1) + l % 3 : LinkId) : Nat) := by
      rw [peerLink_eq l]
    have hset := (LinkRegs.of_setLink (fs := stateFields l) d l { k with credits := [(0, 512), (1, 512), (2, 512), (3, 512)] }).thenRegs
      (onlyRegs_setLnkState _ l lLatency)
    refine ⟨fun h => does_of_eq rfl ((Dev.trainStep_of_state hident _).trans (if_pos (hok.1 h))) ⟨⟨hset.frame, hset.links⟩,
      lnkState_setLnkState hl _ _, fun v hv => (congrArg (mget 0 · v) (congrArg Link.credits hset.link)).trans (fullCredits v hv)⟩, fun h =>
      hwiring rfl ((Dev.trainStep_of_state hident _).trans (if_neg (mt hok.2 h))) rfl rfl⟩
  case latency =>
    have hstate (hold : Bool) : (if hold then lUpHeld else lUp) % 16 = lUp ∨ (if hold then lUpHeld else lUp) % 16 = lUpHeld := by
      cases hold <;> decide
    have hhold : (k.downed && !d.bit (Reg.LNK_CTL.ADMIT l)) = true ↔ k.downed = true ∧ d.bit (Reg.LNK_CTL.ADMIT l) = false := by simp
    obtain ⟨hframe, hlinks, hlink, hlat, hrtt, hst, -⟩ := (trained_setLnkState hl d x.toNat y.toNat _
      (k.trained (k.downed && !d.bit (Reg.LNK_CTL.ADMIT l)) d.mt)).askL2 (hstate (k.downed && !d.bit (Reg.LNK_CTL.ADMIT l)))
    have hcredits := congrArg Link.credits hlink
    refine ⟨⟨hframe, hlinks⟩, hlat.trans (Nat.mod_eq_of_lt x.isLt), hrtt.trans (Nat.mod_eq_of_lt y.isLt), ?_, congrArg Link.expected hlink,
      congrArg Link.next hlink, congrArg Link.una hlink, congrArg Link.replay hlink, hcredits, congrArg Link.pos hlink,
      congrArg Link.ctl hlink⟩
    rw [← if_congr hhold rfl rfl]
    refine hst.trans ?_
    cases k.downed && !d.bit (Reg.LNK_CTL.ADMIT l) <;> rfl
  case backoff =>
    have hstart := (started_startTraining hl hused).modLink fun j => { j with attempts := k.attempts }
    have hattempts := congrArg Link.attempts hstart.regs.link
    exact does_of_eq rfl (if_pos ⟨hdark, hback⟩) ⟨hstarts hstart rfl rfl rfl rfl rfl, hattempts⟩

end Sys2Proof.Machine

/-! ## What arrives on a link (O37) -/

namespace Sys2Proof.Machine

variable {s : State} {d e x : Dev} {l : Nat} {k : Link} {m : Frame}

/-! ### Counters -/

theorem Fld.key_ne_hi (c : Fld) : c.key ≠ c.hi.key := by
  simp only [Fld.key, Fld.hi]
  omega

theorem link_modLink_same (d : Dev) (l : Nat) (g : Link → Link) : (d.modLink l g).link l = g (d.link l) := Dev.link_setLink_same ..

theorem onlyRegs_add64 (d : Dev) (c : Fld) (n : Nat) : onlyRegs [c, c.hi] d (d.add64 c n) := onlyRegs_set64 d c _

/-- A command that counts one. -/
theorem does_count {i : Instr} {g : Dev → Dev} {c : Fld} (hexec : exec i s = s.does g) (hg : g s.dev = s.dev.add64 c 1)
    (hwidth : c.width = 32) : Does i s fun e => onlyRegs [c, c.hi] s.dev e ∧ e.get64 c = (s.dev.get64 c + 1) % 2 ^ 64 :=
  does_of_eq hexec hg ⟨onlyRegs_add64 _ c 1, get64_add64 _ 1 c.key_ne_hi hwidth⟩

/-- A counter takes one where `p` holds. -/
def Dev.countIf (p : Bool) (c : Fld) (d : Dev) : Dev := if p then d.add64 c 1 else d

theorem onlyRegs_countIf (d : Dev) (p : Bool) (c : Fld) : onlyRegs [c, c.hi] d (d.countIf p c) := onlyRegs_ite (onlyRegs_add64 d c 1) .refl

theorem Dev.get64_lt (d : Dev) {c : Fld} (hwidth : c.width = 32) : d.get64 c < 2 ^ 64 := by
  have hlo : d.get c < 2 ^ 32 := hwidth ▸ d.get_lt c
  have hhi : d.get c.hi < 2 ^ 32 := hwidth ▸ d.get_lt c.hi
  rw [Dev.get64]
  omega

theorem get64_countIf (d : Dev) (p : Bool) {c : Fld} (hwidth : c.width = 32) :
    (d.countIf p c).get64 c = (d.get64 c + if p then 1 else 0) % 2 ^ 64 := by
  cases p with
  | false => exact (Nat.mod_eq_of_lt (d.get64_lt hwidth)).symm
  | true => exact get64_add64 d 1 c.key_ne_hi hwidth

/-! ### Codewords (R248, R268) -/

/-- Each symbol in error adds one for the lane that carried it. -/
theorem mget_symErrs {α : Type} (lane : α → Nat) (errs : List α) (t : SMap Nat) (j : Nat) :
    mget 0 (errs.foldl (fun t i => mset 0 t (lane i) (mget 0 t (lane i) + 1)) t) j = mget 0 t j + (errs.filter fun i => decide (lane i = j)).length := by
  induction errs generalizing t with
  | nil => rfl
  | cons i errs ih =>
    rw [List.foldl_cons, ih, mget_mset]
    by_cases h : lane i = j
    · rw [if_pos h.symm, h, List.filter_cons_of_pos (by simpa using h), List.length_cons]
      omega
    · rw [if_neg (Ne.symm h), List.filter_cons_of_neg (by simpa using h)]

/-- A codeword whose errors are corrected. -/
def Dev.codeword (l : Nat) (errs : List (Fin 544)) (x : Option Frame) (tail : List Byte) (d : Dev) : Dev :=
  ((d.modLink l fun k => { k.countSymbols errs with part := tail }).countIf (decide (errs ≠ [])) (Reg.LNK_FECC_LO l)).countIf
    (x.any fun g => !g.ok) (Reg.LNK_CRCF_LO l)

theorem does_codewordReceive_lost {l : LinkId} {errs : List (Fin 544)} {g : Option Frame} {tail : List Byte} {post : Dev → Prop}
    (hlock : s.dev.codewordLock l = true) (herrs : 15 < errs.length)
    (hp : post ((s.dev.modLink l fun k => { k with part := [] }).add64 (Reg.LNK_FECU_LO l) 1)) : Does (.codewordReceive l errs g tail) s post :=
  does_of_eq rfl ((if_neg (by simp [hlock])).trans (if_pos herrs)) hp

theorem does_codewordReceive {l : LinkId} {errs : List (Fin 544)} {g : Option Frame} {tail : List Byte} {post : Dev → Prop}
    (hlock : s.dev.codewordLock l = true) (herrs : errs.length ≤ 15) (hp : post (s.dev.codeword l errs g tail)) :
    Does (.codewordReceive l errs g tail) s post := by
  have hfecc (d : Dev) : (if errs = [] then d else d.add64 (Reg.LNK_FECC_LO l) 1) = d.countIf (decide (errs ≠ [])) (Reg.LNK_FECC_LO l) := by
    by_cases h : errs = [] <;> simp [Dev.countIf, h]
  refine does_of_eq rfl ((if_neg (by simp [hlock])).trans ((if_neg (by omega)).trans ?_)) hp
  dsimp only
  rw [hfecc, Dev.codeword]
  cases g with
  | none => rfl
  | some g => cases hok : g.ok <;> simp [Dev.countIf, hok]

theorem fecc_apart_crcf : ∀ l < 24, (∀ f ∈ [Reg.LNK_CRCF_LO l, (Reg.LNK_CRCF_LO l).hi],
    (Reg.LNK_FECC_LO l).key ≠ f.key ∧ (Reg.LNK_FECC_LO l).hi.key ≠ f.key) ∧
    ∀ f ∈ [Reg.LNK_FECC_LO l, (Reg.LNK_FECC_LO l).hi], (Reg.LNK_CRCF_LO l).key ≠ f.key ∧ (Reg.LNK_CRCF_LO l).hi.key ≠ f.key := by
  decide +kernel

/-- A pair keeps its value where neither half is among the fields that change. -/
theorem get64_of_regsBut {fs : List Fld} {c : Fld} (h : regsBut fs d e) (hc : ∀ f ∈ fs, c.key ≠ f.key ∧ c.hi.key ≠ f.key) :
    e.get64 c = d.get64 c := get64_congr (h c fun f hf => (hc f hf).1) (h c.hi fun f hf => (hc f hf).2)

/-! ### Checks and acknowledgements (R254 to R257) -/

theorem Dev.receive_of_bad {typ : Nat} (hrec : d.receives l typ = true) (htyp : m.typ.toNat = typ) (hok : m.ok = false) (body : Dev → Dev) :
    d.receive l m typ body = d.add64 (Reg.LNK_CRCF_LO l) 1 := by
  simp [Dev.receive, hrec, htyp, hok]

theorem Dev.receive_of_good {typ : Nat} (h : d.receives l typ = true ∧ m.typ.toNat = typ ∧ m.ok = true) (body : Dev → Dev) :
    d.receive l m typ body = body (d.modLink l (Link.passAck m)) := by
  obtain ⟨hrec, htyp, hok⟩ := h
  simp [Dev.receive, hrec, htyp, hok]

theorem passAck_of_no_ack (h : m.ackv = false) (k : Link) : k.passAck m = k := by simp [Link.passAck, h]

theorem Dev.receive_of_no_ack {typ : Nat} (h : d.receives l typ = true ∧ m.typ.toNat = typ ∧ m.ok = true) (hack : m.ackv = false)
    (body : Dev → Dev) : d.receive l m typ body = body (d.setLink l (d.link l)) := by
  rw [Dev.receive_of_good h, Dev.modLink, passAck_of_no_ack hack]

/-- The link once an acknowledgement of `n` frames is taken with its credits. -/
def Link.acked (m : Frame) (n : Nat) (k : Link) : Link :=
  { k with
    credits := mset 0 k.credits m.crdVc.toNat (mget 0 k.credits m.crdVc.toNat + m.crdCnt.toNat), una := m.ack.toNat, replay := k.replay.drop n,
    resend := k.resend.bind fun r => if m.ack.toNat = k.next then none else if (r + 65536 - k.una) % 65536 < n then some m.ack.toNat else some r }

theorem passAck_of_window (hack : m.ackv = true) (hn : (m.ack.toNat + 65536 - k.una) % 65536 ≤ (k.next + 65536 - k.una) % 65536) :
    k.passAck m = k.acked m ((m.ack.toNat + 65536 - k.una) % 65536) := by
  simp [Link.passAck, hack, hn, Link.acked]

/-- The acknowledgement that an RREQ carries is taken, whether or not its header's own was. -/
theorem passAck_passAck (hn : (m.ack.toNat + 65536 - k.una) % 65536 ≤ (k.next + 65536 - k.una) % 65536) :
    let j := Link.passAck { m with ackv := true, crdCnt := 0 } (k.passAck m)
    j.una = m.ack.toNat ∧ j.next = k.next ∧ j.replay = k.replay.drop ((m.ack.toNat + 65536 - k.una) % 65536) := by
  intro j
  cases hack : m.ackv with
  | false =>
    have hj : j = k.acked { m with ackv := true, crdCnt := 0 } ((m.ack.toNat + 65536 - k.una) % 65536) :=
      (congrArg (Link.passAck _) (passAck_of_no_ack hack k)).trans (passAck_of_window rfl hn)
    rw [hj]
    exact ⟨rfl, rfl, rfl⟩
  | true =>
    have hself : (m.ack.toNat + 65536 - m.ack.toNat) % 65536 = 0 := by omega
    have hfirst := passAck_of_window hack hn
    have huna : (k.passAck m).una = m.ack.toNat := by rw [hfirst]; rfl
    have hj : j = (k.passAck m).acked { m with ackv := true, crdCnt := 0 } 0 := by
      refine (passAck_of_window rfl ?_).trans ?_ <;> dsimp only <;> rw [huna, hself]
      exact Nat.zero_le _
    rw [hj, hfirst]
    exact ⟨rfl, rfl, rfl⟩

/-- An RREQ in the window starts a replay from the frame that it names. -/
theorem goBack_passAck (hn : (m.ack.toNat + 65536 - k.una) % 65536 ≤ (k.next + 65536 - k.una) % 65536)
    (hwait : 0 < (k.next + 65536 - m.ack.toNat) % 65536) :
    let j := Link.goBack m.ack.toNat (Link.passAck { m with ackv := true, crdCnt := 0 } (k.passAck m))
    j.una = m.ack.toNat ∧ j.resend = some m.ack.toNat ∧ j.replay = k.replay.drop ((m.ack.toNat + 65536 - k.una) % 65536) := by
  obtain ⟨huna, hnext, hreplay⟩ := passAck_passAck hn
  intro j
  have hj : j = { Link.passAck { m with ackv := true, crdCnt := 0 } (k.passAck m) with resend := some m.ack.toNat } := by
    refine if_pos ?_
    rw [huna, hnext]
    omega
  rw [hj]
  exact ⟨huna, rfl, hreplay⟩

/-! ### Sequenced frames (R256) -/

/-- A frame in order is delivered, with its link at the next number. -/
theorem Dev.sequenced_of_next (hlink : d.link l = k) (hseq : m.seq.toNat = k.expected) (deliver : Dev → Dev) :
    d.sequenced l m deliver = deliver (d.setLink l { k with expected := (k.expected + 1) % 65536, ackOwed := true }) := by
  unfold Dev.sequenced
  rw [hlink, if_pos]
  have := m.seq.isLt
  omega

theorem Dev.sequenced_of_duplicate (hlink : d.link l = k) (hseq : 32768 ≤ (m.seq.toNat + 65536 - k.expected) % 65536) (deliver : Dev → Dev) :
    d.sequenced l m deliver = (d.setLink l { k with ackOwed := true }).add64 (Reg.LNK_DUP_LO l) 1 := by
  unfold Dev.sequenced
  rw [hlink, if_neg (by omega), if_pos hseq]

/-- A CTRL frame in order waits for the unit that it is for. -/
def Dev.queueCtrl (l : Nat) (m : Frame) (d : Dev) : Dev :=
  if recField m.body 0 1 = 2 then
    if d.get (Reg.LNK_STATUS.VER l) = 1 then d else { d with fab := { d.fab with timeQ := d.fab.timeQ ++ [(l, d.mt, m)] } }
  else { d with fab := { d.fab with ctlQ := d.fab.ctlQ ++ [(l, m)] } }

theorem queueCtrl_frame (d : Dev) (l : Nat) (m : Frame) : d.queueCtrl l m = { d with fab := (d.queueCtrl l m).fab } := by
  unfold Dev.queueCtrl
  split
  · split <;> rfl
  · rfl

theorem queueCtrl_fab (d : Dev) (l : Nat) (m : Frame) : (d.queueCtrl l m).fab =
    if recField m.body 0 1 = 2 then
      if d.get (Reg.LNK_STATUS.VER l) = 1 then d.fab else { d.fab with timeQ := d.fab.timeQ ++ [(l, d.mt, m)] }
    else { d.fab with ctlQ := d.fab.ctlQ ++ [(l, m)] } := by
  unfold Dev.queueCtrl
  split
  · split <;> rfl
  · rfl

/-! ### Delivery to this module (R274, R281) -/

/-- A frame of the block, with no tunnel header, piste or multicast, that arrived for this module is delivered, and its buffer is free again. -/
theorem route_of_own (hfatal : d.flt.fatal = none) (hblk : m.blk = d.get Reg.FAB_BLOCK_ID) (hblk0 : m.blk ≠ 0) (hnest : m.nest = 0)
    (hhdr : d.headerOk m = true) (hpiste : m.piste = false) (hmc : m.mc = false) (hdst : m.dst = d.node) :
    (d.route { inl := some l } m).2 = (d.deliver m).freeBuffer (some (l, m.vc.toNat)) := by
  have hown : d.blkOwn m.blk = true := by rw [Dev.blkOwn, ← hblk]; simpa using hblk0
  have hknown : d.blkKnown m.blk = true := by
    rw [Dev.blkOwn] at hown
    rw [Dev.blkKnown, hown]
    rfl
  have hpop : d.popHere 3 m = (false, m) := if_neg (by omega)
  simp only [Dev.route, hfatal, hknown, hnest, hhdr, hpiste, hmc, hpop, hdst, Dev.deliverOwn, hown]
  rfl

/-- What a corrected codeword leaves. -/
structure Corrected (l : Nat) (errs : List (Fin 544)) (g : Option Frame) (tail : List Byte) (d e : Dev) : Prop where
  regs : LinkRegs l [Reg.LNK_FECC_LO l, (Reg.LNK_FECC_LO l).hi, Reg.LNK_CRCF_LO l, (Reg.LNK_CRCF_LO l).hi]
    { (d.link l).countSymbols errs with part := tail } d e
  fecc : e.get64 (Reg.LNK_FECC_LO l) = (d.get64 (Reg.LNK_FECC_LO l) + if decide (errs ≠ []) then 1 else 0) % 2 ^ 64
  crcf : e.get64 (Reg.LNK_CRCF_LO l) = (d.get64 (Reg.LNK_CRCF_LO l) + if g.any fun g => !g.ok then 1 else 0) % 2 ^ 64

theorem corrected_codeword (hl : l < 24) (d : Dev) (errs : List (Fin 544)) (g : Option Frame) (tail : List Byte) :
    Corrected l errs g tail d (d.codeword l errs g tail) := by
  obtain ⟨hfecc, hcrcf⟩ := fecc_apart_crcf l hl
  let x := d.modLink l fun k => { k.countSymbols errs with part := tail }
  let y := x.countIf (decide (errs ≠ [])) (Reg.LNK_FECC_LO l)
  have hy := onlyRegs_countIf x (decide (errs ≠ [])) (Reg.LNK_FECC_LO l)
  have he := onlyRegs_countIf y (g.any fun g => !g.ok) (Reg.LNK_CRCF_LO l)
  refine ⟨((LinkRegs.of_setLink d l _).thenRegs (hy.mono (List.subset_append_left _ [_, _]))).thenRegs (he.mono (List.subset_append_right [_, _] _)),
    (get64_of_regsBut he.2 hfecc).trans (get64_countIf x _ rfl), (get64_countIf y _ rfl).trans ?_⟩
  rw [get64_of_regsBut hy.2 hcrcf]
  rfl

/-- A link that has been written twice, and nothing else. -/
theorem twiceSet (d : Dev) (l : Nat) (k k' : Link) : LinkRegs l [] k' d ((d.setLink l k).setLink l k') :=
  (LinkRegs.of_setLink d l k).trans (.of_setLink _ l k')

/-- A CTRL frame queues once its link has been written. -/
theorem queueCtrl_twiceSet (d : Dev) (l : Nat) (m : Frame) (k k' : Link) :
    let e := ((d.setLink l k).setLink l k').queueCtrl l m
    e = { d with links := e.links, fab := e.fab } ∧ linksBut l d e ∧ e.link l = k' ∧ e.fab = (d.queueCtrl l m).fab := by
  obtain ⟨hfab, hframe⟩ : ∃ q, ((d.setLink l k).setLink l k').queueCtrl l m = { (d.setLink l k).setLink l k' with fab := q } :=
    ⟨_, queueCtrl_frame _ l m⟩
  have hset := twiceSet d l k k'
  refine ⟨?_, ?_, ?_, ?_⟩
  · rw [hframe]
    rfl
  · rw [hframe]
    exact hset.links
  · rw [hframe]
    exact hset.link
  · rw [queueCtrl_fab, queueCtrl_fab]
    rfl

/-- A map that is new is sent with, and its switch marked (R263). -/
theorem lmapTaken_of_new {t : List Nat} (hlink : x.link l = k) (h : k.txMap ≠ t) :
    (if (x.link l).txMap = t then x else ((x.modLink l fun k => { k with txMap := t }).setBit (Reg.LNK_STATUS.PNARROW l) (mapNarrow t)).emit
      (.marker l)) = ((x.setLink l { k with txMap := t }).setBit (Reg.LNK_STATUS.PNARROW l) (mapNarrow t)).emit (.marker l) := by
  rw [hlink, if_neg h, Dev.modLink, hlink]

/-- A delivered frame of this module's is with the unit that it is for, and its buffer is owed to the sender. -/
structure Delivered (l : Nat) (m : Frame) (k : Link) (d e : Dev) : Prop where
  frame : e = { d with regs := e.regs, links := e.links, fab := e.fab }
  links : linksBut l d e
  expected : (e.link l).expected = k.expected
  owed : mget 0 (e.link l).owed m.vc.toNat = mget 0 k.owed m.vc.toNat + 1
  count : e.get64 Reg.FAB_DELIV_LO = (d.get64 Reg.FAB_DELIV_LO + 1) % 2 ^ 64
  fab : e.fab = (d.deliver m).fab

theorem delivered_freeBuffer (d : Dev) (l : Nat) (m : Frame) (k k' : Link) :
    Delivered l m k' d ((((d.setLink l k).setLink l k').deliver m).freeBuffer (some (l, m.vc.toNat))) := by
  have hset := (twiceSet d l k k').modLink fun k => { k with owed := mset 0 k.owed m.vc.toNat (mget 0 k.owed m.vc.toNat + 1) }
  have howed := congrArg (fun j => mget 0 j.owed m.vc.toNat) hset.link
  exact ⟨rfl, hset.links, (congrArg Link.expected hset.link :), howed.trans (mget_mset_same 0 k'.owed m.vc.toNat (mget 0 k'.owed m.vc.toNat + 1)),
    get64_add64 ((d.setLink l k).setLink l k') 1 (Fld.key_ne_hi _) rfl, rfl⟩

theorem deliver_fab (d : Dev) (m : Frame) : (d.deliver m).fab =
    if m.op = 0 then { d.fab with tgtQ := d.fab.tgtQ ++ [m] } else if m.op = 1 then { d.fab with readQ := d.fab.readQ ++ [m] }
    else if m.op < 8 then { d.fab with rspQ := d.fab.rspQ ++ [m] } else { d.fab with colQ := d.fab.colQ ++ [m] } := rfl

/-- Settles O37: corrected codewords by `corrected_codeword`, acknowledgements by `passAck_of_window`, frames by `Dev.receive_of_good` and
`Dev.sequenced_of_next`, delivery by `route_of_own`. -/
theorem linkReceive : Obligations.LinkReceive := by
  intro s l m d k counts bad good n links
  have hl : l.val < 24 := l.isLt
  have hbad {i : Instr} {g : Dev → Dev} {typ : Nat} {body : Dev → Dev} (hexec : exec i s = s.does g) (hg : g d = d.receive l m typ body) :
      bad i typ := fun hrec htyp hok => does_count hexec (hg.trans (Dev.receive_of_bad hrec htyp hok body)) rfl
  refine ⟨fun errs g tail hlock => ⟨fun hmany => ?discarded, fun hfew => ?corrected⟩, hbad rfl rfl, hbad rfl rfl, hbad rfl rfl, hbad rfl rfl,
    hbad rfl rfl, fun hgood hack => ⟨fun hseq => ?next, fun hdup => ?duplicate⟩, fun hgood => ⟨fun hack => ?idle, fun hack hn => ?acked⟩,
    fun hgood hn hwait => ?rreq, fun hlo hhi => ⟨fun hok => ?trainBad, fun hok => ?trainGood⟩, fun hgood hack hmap => ?lmap,
    fun hgood hack hseq hfatal hblk hblk0 hnest hhdr hpiste hmc hdst => ?data⟩
  case discarded =>
    have hset := (LinkRegs.of_setLink d l { k with part := [] }).thenRegs (onlyRegs_add64 _ (Reg.LNK_FECU_LO l) 1)
    exact does_codewordReceive_lost hlock hmany ⟨hset.frame, hset.links, hset.regs, get64_add64 _ 1 (Fld.key_ne_hi _) rfl, hset.link⟩
  case corrected =>
    obtain ⟨hset, hfecc, hcrcf⟩ := corrected_codeword hl d errs g tail
    have hsame {c : Fld} {e : Dev} (hwidth : c.width = 32) (h : e.get64 c = (d.get64 c + 0) % 2 ^ 64) : e.get64 c = d.get64 c :=
      h.trans (Nat.mod_eq_of_lt (d.get64_lt hwidth))
    have hlink := hset.link
    refine does_codewordReceive hlock hfew ⟨hset.frame, hset.links, hset.regs, fun h => ?_, fun h => hsame rfl ?_, fun h => ?_,
      fun h => hsame rfl ?_, ?_, fun j => ?_⟩
    · simpa [h] using hfecc
    · simpa [h] using hfecc
    · obtain ⟨g, rfl, hok⟩ := h
      simpa [hok] using hcrcf
    · cases g with
      | none => exact hcrcf
      | some g => simpa [h g rfl] using hcrcf
    · rw [hlink]
      rfl
    · rw [hlink]
      exact mget_symErrs _ errs _ j
  case next =>
    obtain ⟨hframe, hlinks, hlink, hfab⟩ := queueCtrl_twiceSet d l m k { k with expected := (k.expected + 1) % 65536, ackOwed := true }
    have hqueue := hfab.trans (queueCtrl_fab d l m)
    exact does_of_eq rfl ((Dev.receive_of_no_ack hgood hack _).trans (Dev.sequenced_of_next (Dev.link_setLink_same ..) hseq (Dev.queueCtrl l m)))
      ⟨hframe, hlinks, hlink, fun h => hqueue.trans (if_neg h), fun h hver => hqueue.trans ((if_pos h).trans (if_neg hver)),
        fun h hver => hqueue.trans ((if_pos h).trans (if_pos hver))⟩
  case duplicate =>
    have hset := (twiceSet d l k { k with ackOwed := true }).mono (List.nil_subset _) |>.thenRegs (onlyRegs_add64 _ (Reg.LNK_DUP_LO l) 1)
    exact does_of_eq rfl ((Dev.receive_of_no_ack hgood hack _).trans (Dev.sequenced_of_duplicate (Dev.link_setLink_same ..) hdup _))
      ⟨hset.frame, hset.links, hset.link, get64_add64 _ 1 (Fld.key_ne_hi _) rfl⟩
  case idle =>
    exact does_of_eq rfl (Dev.receive_of_no_ack hgood hack id) ⟨⟨rfl, fun j hj => Dev.link_setLink_other d k hj⟩, Dev.link_setLink_same ..⟩
  case acked =>
    have hlink := (link_modLink_same d l _).trans (passAck_of_window hack hn)
    refine does_of_eq rfl (Dev.receive_of_good hgood id) ⟨⟨rfl, fun j hj => Dev.link_setLink_other d _ hj⟩, congrArg Link.una hlink,
      congrArg Link.replay hlink, ?_, ?_⟩
    · exact (congrArg Link.next hlink :)
    · exact (congrArg (fun j => mget 0 j.credits m.crdVc.toNat) hlink).trans (mget_mset_same ..)
  case rreq =>
    obtain ⟨huna, hresend, hreplay⟩ := goBack_passAck hn hwait
    have hset := (LinkRegs.of_setLink (fs := []) d l (k.passAck m)).modLink fun k =>
      Link.goBack m.ack.toNat (Link.passAck { m with ackv := true, crdCnt := 0 } k)
    have hlink := hset.link
    exact does_of_eq rfl (Dev.receive_of_good hgood _) ⟨⟨rfl, hset.links⟩, (congrArg Link.una hlink).trans huna,
      (congrArg Link.resend hlink).trans hresend, (congrArg Link.replay hlink).trans hreplay⟩
  case trainBad => exact does_count rfl (if_pos ⟨hlo, hhi, by simp [hok]⟩) rfl
  case trainGood => exact does_of_eq rfl (if_neg fun h => by simp [hok] at h) rfl
  case lmap =>
    have hset := twiceSet d l k { k with txMap := (m.body.take 8).map BitVec.toNat }
    refine does_of_eq rfl ((Dev.receive_of_no_ack hgood hack _).trans (lmapTaken_of_new (Dev.link_setLink_same ..) hmap)) ⟨rfl, hset.links,
      congrArg Link.txMap hset.link, Dev.bit_setBit_same _ _ Nat.zero_lt_one⟩
  case data =>
    obtain ⟨hframe, hlinks, hexpected, howed, hcount, hfab⟩ :=
      delivered_freeBuffer d l m k { k with expected := (k.expected + 1) % 65536, ackOwed := true }
    have hplain : (if d.get (Reg.LNK_STATUS.VER l) = 1 then { m with piste := false } else m) = m := by
      rw [← hpiste, ite_self]
    have hqueue := hfab.trans (deliver_fab d m)
    refine does_of_eq rfl ((Dev.receive_of_no_ack hgood hack _).trans ((Dev.sequenced_of_next (Dev.link_setLink_same ..) hseq _).trans
      ((congrArg (fun m' => (Dev.route { inl := some l.val } m' _).2) hplain).trans
        (route_of_own hfatal hblk hblk0 hnest hhdr hpiste hmc hdst)))) ⟨hframe, hlinks, hexpected, howed, hcount, fun hop => ?_, fun hop => ?_,
      fun hlo hhi => ?_, fun hop => ?_⟩
    · rw [hqueue, if_pos hop]
    · rw [hqueue, if_neg (by omega), if_pos hop]
    · rw [hqueue, if_neg (by omega), if_neg (by omega), if_pos hhi]
    · rw [hqueue, if_neg (by omega), if_neg (by omega), if_neg (by omega)]

end Sys2Proof.Machine

/-! ## A link goes down (R265)

A link that goes down is the last of its sheaf at times: then a notice is raised and flooded (R354). That touches the round, the CTRL frames that
wait and registers below the links' blocks, and nothing that the record of the link's fall consists of. -/

namespace Sys2Proof.Machine

variable {d e f x : Dev} {l : Nat}

theorem Reported.usedLinks (h : Reported d e) : e.usedLinks = d.usedLinks := by rw [h.frame]

/-! ### A SHEAF notice -/

/-- What a notice leaves: memory, the cores, the links that are used, the registers from the links' blocks on, and which links have gone down. -/
structure NoticeKeeps (d e : Dev) : Prop where
  mem : e.mem = d.mem
  cores : e.cores = d.cores
  used : e.usedLinks = d.usedLinks
  fields : ∀ g : Fld, 0x00100000 * 32 ≤ g.key → e.get g = d.get g
  downed : ∀ j, (e.link j).downed = (d.link j).downed

namespace NoticeKeeps

theorem refl : NoticeKeeps d d := ⟨rfl, rfl, rfl, fun _ _ => rfl, fun _ => rfl⟩

theorem trans (h : NoticeKeeps d e) (h' : NoticeKeeps e f) : NoticeKeeps d f where
  mem := h'.mem.trans h.mem
  cores := h'.cores.trans h.cores
  used := h'.used.trans h.used
  fields g hg := (h'.fields g hg).trans (h.fields g hg)
  downed j := (h'.downed j).trans (h.downed j)

/-- Then a field below the links' blocks is written. -/
theorem set (h : NoticeKeeps d e) (c : Fld) (v : Nat) (hc : c.key < 0x00100000 * 32) : NoticeKeeps d (e.set c v) :=
  h.trans ⟨rfl, rfl, rfl, fun _ hg => Dev.get_set_other e v (by omega), fun _ => rfl⟩

/-- Then the round changes. -/
theorem setHl (h : NoticeKeeps d e) (y : Headland) : NoticeKeeps d { e with hl := y } :=
  h.trans ⟨rfl, rfl, rfl, fun _ _ => rfl, fun _ => rfl⟩

theorem sendCtrl (h : NoticeKeeps d e) (j : Nat) (b : List Byte) : NoticeKeeps d (e.sendCtrl j b) := by
  refine h.trans ⟨rfl, rfl, rfl, fun _ _ => rfl, fun i => ?_⟩
  by_cases hi : i = j
  · rw [hi, Dev.sendCtrl, link_modLink_same]
  · exact congrArg Link.downed (Dev.link_setLink_other e _ hi)

theorem flood (h : NoticeKeeps d e) (n : Notice) (arrival : Option Nat) : NoticeKeeps d (e.flood n arrival) :=
  List.foldlRecOn (motive := NoticeKeeps d) _ _ h fun y hy j _ => by
    split
    · exact hy.sendCtrl j _
    · exact hy

theorem setTmin (h : NoticeKeeps d e) (t : Nat) : NoticeKeeps d (e.setTmin t) :=
  ((h.setHl _).set Reg.FLT_HL_TMIN_LO _ (by decide)).set Reg.FLT_HL_TMIN_LO.hi _ (by decide)

/-- A notice that is no STOP takes part. -/
theorem noticeTake (h : NoticeKeeps d e) {n : Notice} (hkind : n.kind ≠ 3) : NoticeKeeps d (e.noticeTake n) := by
  have hround (t : Nat) : NoticeKeeps d
      (if (e.setTmin t).get Reg.FLT_STATUS.HL = hlIdle then (e.setTmin t).set Reg.FLT_STATUS.HL hlCollect else e.setTmin t) := by
    split
    · exact (h.setTmin t).set Reg.FLT_STATUS.HL _ (by decide)
    · exact h.setTmin t
  unfold Dev.noticeTake
  rw [if_neg hkind]
  split
  · exact hround _
  · exact h

theorem noticeIn (h : NoticeKeeps d e) {n : Notice} (hkind : n.kind ≠ 3) (arrival : Option Nat) : NoticeKeeps d (e.noticeIn arrival n) := by
  unfold Dev.noticeIn
  split
  · exact h
  · split
    · exact h
    · split
      · split
        · exact (h.setHl _).flood n arrival
        · exact h
      · split
        · split
          · exact ((h.setHl _).flood n arrival).noticeTake hkind
          · exact h
        · exact h

theorem raiseSheaf (h : NoticeKeeps d e) (dir : Nat) : NoticeKeeps d (e.raiseSheaf dir) := by
  unfold Dev.raiseSheaf
  dsimp only
  split
  · exact h.noticeIn (show (2 : Nat) ≠ 3 by decide) none
  · exact h

end NoticeKeeps

/-! ### A new training, where the link is used -/

theorem linkRegs_startTraining (hl : l < 24) (d : Dev) :
    LinkRegs l (trainFields l) (if d.linkUsed l then (d.link l).afresh else d.link l) d (d.startTraining l) := by
  cases hused : d.linkUsed l with
  | false => rw [startTraining_of_unused hused]; exact .of_onlyRegs .refl
  | true => exact (started_startTraining hl hused).regs

theorem lnkState_startTraining (hl : l < 24) (d : Dev) :
    (d.startTraining l).lnkState l = if d.linkUsed l then lLight else d.lnkState l := by
  cases hused : d.linkUsed l with
  | false => rw [startTraining_of_unused hused]; rfl
  | true => exact (started_startTraining hl hused).state

/-! ### The fall -/

/-- Link `l` has gone down (R265): noted, no longer admitted, and in training again where it is used. -/
structure WentDown (l : Nat) (d e : Dev) : Prop where
  down : e.bit (Reg.LNK_ERR.DOWN l) = true
  count : e.get (Reg.LNK_ERR.DOWN_CNT l) = min (d.get (Reg.LNK_ERR.DOWN_CNT l) + 1) 255
  barred : e.bit (Reg.LNK_CTL.ADMIT l) = false
  downed : (e.link l).downed = true
  mem : e.mem = d.mem
  cores : e.cores = d.cores
  state : e.lnkState l = if d.linkUsed l then lLight else lDown

/-- The writes of a link's fall. -/
def downWrites (l n v : Nat) : List (Fld × Nat) :=
  [(Reg.LNK_ERR.DOWN l, 1), (Reg.LNK_ERR.DOWN_CNT l, n), (Reg.LNK_CTL.ADMIT l, 0), (Reg.LNK_STATUS.STATE l, lDown), (Reg.FAB_STATUS.LINKS, v)]

theorem linkApart_down : ∀ l < 24, linkApart [Reg.LNK_ERR.DOWN l, Reg.LNK_ERR.DOWN_CNT l, Reg.LNK_CTL.ADMIT l, Reg.LNK_STATUS.STATE l,
    Reg.FAB_STATUS.LINKS] := by decide +kernel

theorem down_apart_train : ∀ l < 24, ∀ f ∈ [Reg.LNK_ERR.DOWN l, Reg.LNK_ERR.DOWN_CNT l, Reg.LNK_CTL.ADMIT l], ∀ g ∈ trainFields l,
    f.key ≠ g.key := by decide +kernel

/-- The registers of a link's fall. -/
def Dev.noteDown (l : Nat) (d : Dev) : Dev :=
  ((d.flag (Reg.LNK_ERR.DOWN l) (Reg.LNK_ERR.DOWN_CNT l)).setBit (Reg.LNK_CTL.ADMIT l) false).setLnkState l lDown

theorem noteDown_written (hl : l < 24) (d : Dev) : (d.noteDown l).bit (Reg.LNK_ERR.DOWN l) = true ∧
    (d.noteDown l).get (Reg.LNK_ERR.DOWN_CNT l) = min (d.get (Reg.LNK_ERR.DOWN_CNT l) + 1) 255 ∧
    (d.noteDown l).bit (Reg.LNK_CTL.ADMIT l) = false ∧ (d.noteDown l).lnkState l = lDown := by
  have hapart := linkApart_down l hl
  have hcount : (d.setBit (Reg.LNK_ERR.DOWN l) true).get (Reg.LNK_ERR.DOWN_CNT l) = d.get (Reg.LNK_ERR.DOWN_CNT l) :=
    Dev.get_setBit_other d true ((List.pairwise_cons.1 hapart.1).1 _ List.mem_cons_self).symm
  obtain ⟨v, hregs⟩ : ∃ v, (d.noteDown l).regs = (d.setAll (downWrites l (min (d.get (Reg.LNK_ERR.DOWN_CNT l) + 1) 255) v)).regs := by
    rw [← hcount]
    exact ⟨_, rfl⟩
  exact ⟨bit_written (b := true) hregs hapart (by simp [downWrites]) rfl,
    (get_written (v := min _ 255) hregs hapart (by simp [downWrites])).trans (Nat.mod_eq_of_lt (show min _ 255 < 256 by omega)),
    bit_written (b := false) hregs hapart (by simp [downWrites]) rfl, get_written (v := lDown) hregs hapart (by simp [downWrites])⟩

theorem wentDown_linkDown (hl : l < 24) (d : Dev) : WentDown l d (d.linkDown l) := by
  obtain ⟨hdown, hcount, hbarred, hstate⟩ := noteDown_written hl d
  have hrep := reported_raise (d.noteDown l) (ev := { code := Flt.LNK_DOWN, source := l, arg0 := l }) (show faultClass Flt.LNK_DOWN ≠ 4 by decide)
  let x := ((d.noteDown l).raise { code := Flt.LNK_DOWN, source := l, arg0 := l }).modLink l fun k => { k.afresh with downed := true }
  let y := if x.sheafGone (l / 3) then x.raiseSheaf (l / 3) else x
  have hy : NoticeKeeps x y := by
    unfold y
    split
    · exact NoticeKeeps.refl.raiseSheaf _
    · exact .refl
  have hget {c : Fld} (hc : 0x00100000 * 32 ≤ c.key) : y.get c = (d.noteDown l).get c := (hy.fields c hc).trans (hrep.get_above hc)
  have hydowned : (y.link l).downed = true := (hy.downed l).trans (congrArg Link.downed (link_modLink_same ..))
  have hused : y.linkUsed l = d.linkUsed l := congrArg (fun u : Nat => u.testBit l) (hy.used.trans hrep.usedLinks)
  have htrain := linkRegs_startTraining hl y
  have hkeeps {c : Fld} (hc : c ∈ [Reg.LNK_ERR.DOWN l, Reg.LNK_ERR.DOWN_CNT l, Reg.LNK_CTL.ADMIT l]) :
      (y.startTraining l).get c = (d.noteDown l).get c :=
    (htrain.regs c (down_apart_train l hl c hc)).trans (hget ((linkApart_down l hl).2 c (List.mem_append_left [_, _] hc)))
  refine ⟨(Dev.bit_congr (hkeeps (by simp))).trans hdown, (hkeeps (by simp)).trans hcount, (Dev.bit_congr (hkeeps (by simp))).trans hbarred,
    ?_, htrain.mem.trans (hy.mem.trans hrep.mem), htrain.cores.trans (hy.cores.trans hrep.cores), ?_⟩
  · refine (congrArg Link.downed htrain.link).trans ?_
    split <;> exact hydowned
  · refine (lnkState_startTraining hl y).trans ?_
    rw [hused]
    exact if_congr Iff.rfl rfl ((hget (stateAbove hl)).trans hstate)

end Sys2Proof.Machine

/-! ## What leaves a link (O38) -/

namespace Sys2Proof.Machine

variable {s : State} {d e x : Dev} {l typ seq : Nat} {k : Link} {m : Frame}

/-! ### A frame goes out (R253, R256) -/

/-- A link once a frame has left it: its header returned buffers and the acknowledgement. -/
def Link.stamped (k : Link) : Link :=
  { k with owed := mset 0 k.owed k.owedVc (mget 0 k.owed k.owedVc - min (mget 0 k.owed k.owedVc) 255), ackOwed := false, pos := (k.pos + 1) % 64 }

/-- A frame with the link fields of its sender, which expects number `expected`. -/
structure Stamped (typ seq expected : Nat) (g : Frame) : Prop where
  typ : g.typ.toNat = typ
  seq : g.seq = BitVec.ofNat 16 seq
  ack : g.ack = BitVec.ofNat 16 expected
  ackv : g.ackv = true
  crc : g.crc = crc32 g.covered

theorem restamp_typ (m : Frame) (mt : Nat) : (restamp m mt).typ = m.typ := by
  unfold restamp
  split <;> rfl

theorem putFrame_eq (d : Dev) (l : Nat) (m : Frame) (seq : Nat) : ∃ g, Stamped m.typ.toNat seq (d.link l).expected g ∧
    d.putFrame l m seq = (g, (d.setLink l (d.link l).stamped).emit (.frame l g)) :=
  ⟨(d.putFrame l m seq).1, ⟨congrArg BitVec.toNat (restamp_typ m d.mt), rfl, rfl, rfl, rfl⟩, rfl⟩

/-- One frame has left on link `l`, now at `k`, and no register has changed. -/
structure FrameSent (l typ seq expected : Nat) (k : Link) (d e : Dev) : Prop where
  frame : e = { d with links := e.links, out := e.out }
  links : linksBut l d e
  link : e.link l = k
  out : ∃ g, e.out = d.out ++ [.frame l g] ∧ Stamped typ seq expected g

namespace FrameSent

variable {expected : Nat}

theorem regs (h : FrameSent l typ seq expected k d e) : e.regs = d.regs := by rw [h.frame]
theorem get64 (h : FrameSent l typ seq expected k d e) (c : Fld) : e.get64 c = d.get64 c := by
  rw [Dev.get64, Dev.get, Dev.get, h.regs]
  rfl

theorem modLink (h : FrameSent l typ seq expected k d e) (g : Link → Link) : FrameSent l typ seq expected (g k) d (e.modLink l g) := by
  have hset : LinkRegs l [] (g k) e (e.modLink l g) := h.link ▸ .of_setLink e l _
  refine ⟨?_, fun j hj => (hset.links j hj).trans (h.links j hj), hset.link, h.out⟩
  show { e with links := _ } = _
  rw [h.frame]
  rfl

/-- The link was written before. -/
theorem after_setLink {k' : Link} (h : FrameSent l typ seq expected k (d.setLink l k') e) : FrameSent l typ seq expected k d e :=
  ⟨h.frame, fun j hj => (h.links j hj).trans (Dev.link_setLink_other d k' hj), h.link, h.out⟩

end FrameSent

theorem frameSent_putFrame (d : Dev) (l : Nat) (m : Frame) (seq : Nat) :
    FrameSent l m.typ.toNat seq (d.link l).expected (d.link l).stamped d (d.putFrame l m seq).2 := by
  obtain ⟨g, hg, hput⟩ := putFrame_eq d l m seq
  have hset := LinkRegs.of_setLink (fs := []) d l (d.link l).stamped
  rw [hput]
  exact ⟨rfl, hset.links, hset.link, g, rfl, hg⟩

theorem frameSent_putPlain (d : Dev) (l typ : Nat) (body : List Byte) (htyp : typ < 16) :
    FrameSent l typ 0 (d.link l).expected (d.link l).stamped d (d.putPlain l typ body) := by
  have h := frameSent_putFrame d l (plainFrame typ body) 0
  rwa [show (plainFrame typ body).typ.toNat = typ from Nat.mod_eq_of_lt htyp] at h

/-- A link that has sent a sequenced frame. -/
def Link.tracked (g : Frame) (k : Link) : Link := { k.stamped with replay := k.replay ++ [g], next := (k.next + 1) % 65536 }

theorem frameSent_putSequenced (d : Dev) (l : Nat) (m : Frame) :
    ∃ g, FrameSent l m.typ.toNat (d.link l).next (d.link l).expected ((d.link l).tracked g) d (d.putSequenced l m) :=
  ⟨_, (frameSent_putFrame d l m (d.link l).next).modLink fun k => { k with replay := k.replay ++ [_], next := (k.next + 1) % 65536 }⟩

/-- A link from whose queue a DATA frame leaves with a credit. -/
def Link.dequeued (vc : Nat) (rest : List TxItem) (k : Link) : Link :=
  { k with txq := rest, credits := mset 0 k.credits vc (mget 0 k.credits vc - 1) }

/-- A DATA frame that holds no buffer of another link leaves. -/
theorem frameSent_putData (d : Dev) (l : Nat) {t : TxItem} (rest : List TxItem) (hhold : t.hold = none) : ∃ g,
    FrameSent l t.f.typ.toNat (d.link l).next (d.link l).expected (((d.link l).dequeued t.f.vc.toNat rest).tracked g) d (d.putData l t rest) := by
  obtain ⟨g, h⟩ := frameSent_putSequenced (d.setLink l ((d.link l).dequeued t.f.vc.toNat rest)) l t.f
  rw [Dev.link_setLink_same] at h
  refine ⟨g, ?_⟩
  rw [Dev.putData, hhold]
  exact h.after_setLink

/-! ### The next frame (R257, R288, R291) -/

/-- The window has room for a sequenced frame. -/
def Link.room (k : Link) : Bool := decide ((k.next + 65536 - k.una) % 65536 < 8192)

/-- What leaves when no replay goes on and the position is no piste's. -/
def Dev.sendOther (l : Nat) (d : Dev) : Dev :=
  let k := d.link l
  let up := decide (d.sendState l = lUp)
  let fresh := k.room && k.resendFrame.isNone
  if up && k.rreqOwed then (d.putPlain l frameRreq []).modLink l fun k => { k with rreqOwed := false }
  else if up && decide (0 < k.lmapOwed) then
    (d.putPlain l frameLmap (k.lastMap.map (BitVec.ofNat 8))).modLink l fun k => { k with lmapOwed := k.lmapOwed - 1 }
  else match k.ctl, fresh with
    | b :: r, true => d.putCtrl l b r
    | _, _ =>
      match if up && fresh then d.otherTx l else none with
      | some (t, r) => (d.putData l t r).modLink l fun k => { k with pisteTurn := !t.f.piste }
      | none => d.putPlain l frameIdle []

/-- A replayed frame leaves. -/
def Dev.sendAgain (l r : Nat) (m : Frame) (d : Dev) : Dev :=
  ((d.putFrame l m r).2.modLink l fun k => { k with resend := if (r + 1) % 65536 = k.next then none else some ((r + 1) % 65536) }).add64
    (Reg.LNK_REPLAY_LO l) 1

/-- A module sends the next frame. -/
def Dev.sendNext (l : Nat) (d : Dev) : Dev :=
  let k := d.link l
  let up := decide (d.sendState l = lUp)
  match k.resendFrame.filter fun r => up || decide (r.2.typ.toNat = frameCtrl) with
  | some (r, f) => d.sendAgain l r f
  | none =>
    match if up && (k.room && k.resendFrame.isNone) then d.reservedTx l else none with
    | some (t, r) => (d.putData l t r).add64 Reg.FAB_PISTE_LO 1
    | none => d.sendOther l

theorem transmit_eq (d : Dev) (l : Nat) : d.transmit l = (if d.flt.fatal.isSome then d.dropWaiting l else d).sendNext l := rfl

theorem transmit_of_active (h : d.flt.fatal = none) : d.transmit l = d.sendNext l := by
  rw [transmit_eq, h]
  rfl

theorem sendNext_of_replay {r : Nat} (hr : (d.link l).resendFrame = some (r, m)) (h : d.sendState l = lUp ∨ m.typ.toNat = frameCtrl) :
    d.sendNext l = d.sendAgain l r m := by
  simp [Dev.sendNext, hr, h, Option.filter]

theorem sendNext_of_reserved {t : TxItem} {r : List TxItem} (hr : (d.link l).resendFrame = none) (hroom : (d.link l).room = true)
    (hup : d.sendState l = lUp) (hres : d.reservedTx l = some (t, r)) : d.sendNext l = (d.putData l t r).add64 Reg.FAB_PISTE_LO 1 := by
  simp [Dev.sendNext, hr, hroom, hup, hres]

theorem sendNext_of_unreserved (hr : (d.link l).resendFrame = none) (hres : d.sendState l = lUp → d.reservedTx l = none) :
    d.sendNext l = d.sendOther l := by
  have hnone (p : Bool) : (if decide (d.sendState l = lUp) && p then d.reservedTx l else none) = none := by
    split
    · next h => exact hres (by simpa using And.left (Bool.and_eq_true_iff.1 h))
    · rfl
  simp only [Dev.sendNext, hr, Option.filter_none, hnone]

theorem sendOther_of_rreq (hup : d.sendState l = lUp) (h : (d.link l).rreqOwed = true) :
    d.sendOther l = (d.putPlain l frameRreq []).modLink l fun k => { k with rreqOwed := false } := by
  simp [Dev.sendOther, hup, h]

theorem sendOther_of_lmap (hup : d.sendState l = lUp) (hrreq : (d.link l).rreqOwed = false) (h : 0 < (d.link l).lmapOwed) :
    d.sendOther l = (d.putPlain l frameLmap ((d.link l).lastMap.map (BitVec.ofNat 8))).modLink l fun k => { k with lmapOwed := k.lmapOwed - 1 } := by
  simp [Dev.sendOther, hup, hrreq, h]

/-- No RREQ and no LMAP is due, or the link does not send them. -/
def Dev.quietTx (d : Dev) (l : Nat) : Prop := d.sendState l = lUp → (d.link l).rreqOwed = false ∧ (d.link l).lmapOwed = 0

theorem sendOther_of_quiet (h : d.quietTx l) : d.sendOther l =
    match (d.link l).ctl, (d.link l).room && (d.link l).resendFrame.isNone with
    | b :: r, true => d.putCtrl l b r
    | _, _ =>
      match if decide (d.sendState l = lUp) && ((d.link l).room && (d.link l).resendFrame.isNone) then d.otherTx l else none with
      | some (t, r) => (d.putData l t r).modLink l fun k => { k with pisteTurn := !t.f.piste }
      | none => d.putPlain l frameIdle [] := by
  unfold Dev.sendOther
  by_cases hup : d.sendState l = lUp
  · obtain ⟨hrreq, hlmap⟩ := h hup
    simp only [hrreq, hlmap, Bool.and_false, Nat.lt_irrefl, decide_false, Bool.false_eq_true, if_false]
  · simp only [hup, decide_false, Bool.false_and, Bool.false_eq_true, if_false]

theorem sendOther_of_ctl {b : List Byte} {r : List (List Byte)} (h : d.quietTx l) (hr : (d.link l).resendFrame = none)
    (hroom : (d.link l).room = true) (hctl : (d.link l).ctl = b :: r) : d.sendOther l = d.putCtrl l b r := by
  rw [sendOther_of_quiet h, hctl, hroom, hr]
  rfl

theorem sendOther_of_data {t : TxItem} {r : List TxItem} (h : d.quietTx l) (hup : d.sendState l = lUp) (hr : (d.link l).resendFrame = none)
    (hroom : (d.link l).room = true) (hctl : (d.link l).ctl = []) (hother : d.otherTx l = some (t, r)) :
    d.sendOther l = (d.putData l t r).modLink l fun k => { k with pisteTurn := !t.f.piste } := by
  rw [sendOther_of_quiet h, hctl, hroom, hr, hup, hother]
  rfl

theorem otherTx_nil (h : (d.link l).txq = []) : d.otherTx l = none := by
  simp [Dev.otherTx, h, takePiste, takeTx]

theorem sendOther_of_idle (h : d.quietTx l) (hctl : (d.link l).ctl = []) (htxq : (d.link l).txq = []) :
    d.sendOther l = d.putPlain l frameIdle [] := by
  rw [sendOther_of_quiet h, hctl, otherTx_nil htxq, ite_self]

/-- A frame that waits alone, with a credit and no buffer of another link, is the next one. -/
theorem otherTx_single {t : TxItem} (htxq : (d.link l).txq = [t]) (hhold : t.hold = none) (hcredit : 0 < mget 0 (d.link l).credits t.f.vc.toNat) :
    d.otherTx l = some (t, []) := by
  have hhas : (d.link l).hasCredit t.f = true := by simpa [Link.hasCredit] using hcredit
  have hfirst : d.firstOfInput t = true := by simp [Dev.firstOfInput, hhold]
  cases hp : t.f.piste <;> cases hturn : (d.link l).pisteTurn <;> simp [Dev.otherTx, htxq, takePiste, takeTx, hp, hhas, hfirst, hturn]

/-! ### What a frame's sender leaves -/

/-- One frame has left on link `l`; besides the links, registers alone may have changed. -/
def SentOut (l typ seq expected : Nat) (d e : Dev) : Prop :=
  linksBut l d e ∧ e.mem = d.mem ∧ e.cores = d.cores ∧ ∃ g, e.out = d.out ++ [.frame l g] ∧ g.typ.toNat = typ ∧ g.seq = BitVec.ofNat 16 seq ∧
    g.ack = BitVec.ofNat 16 expected ∧ g.ackv = true ∧ g.crc = crc32 g.covered

theorem FrameSent.sentOut {expected : Nat} (h : FrameSent l typ seq expected k d e) : SentOut l typ seq expected d e := by
  obtain ⟨g, hout, htyp, hseq, hack, hackv, hcrc⟩ := h.out
  refine ⟨h.links, ?_, ?_, g, hout, htyp, hseq, hack, hackv, hcrc⟩ <;> rw [h.frame]

/-- Then register fields change. -/
theorem SentOut.thenRegs {expected : Nat} {fs : List Fld} (h : SentOut l typ seq expected d x) (hregs : onlyRegs fs x e) :
    SentOut l typ seq expected d e := by
  rw [hregs.1]
  exact h

/-- A CTRL frame leaves, and with a grant the link enters L2. -/
theorem putCtrl_sent (hl : l < 24) (d : Dev) (b : List Byte) (r : List (List Byte)) :
    SentOut l frameCtrl (d.link l).next (d.link l).expected d (d.putCtrl l b r) ∧
    (∃ g, (d.putCtrl l b r).link l = Link.tracked g { d.link l with ctl := r }) ∧
    (b = powerBody true → (d.putCtrl l b r).lnkState l = lL2) ∧ (b ≠ powerBody true → (d.putCtrl l b r).lnkState l = d.lnkState l) := by
  obtain ⟨g, h⟩ := frameSent_putSequenced (d.setLink l { d.link l with ctl := r }) l (plainFrame frameCtrl b)
  rw [Dev.link_setLink_same] at h
  have hsent := h.after_setLink
  have hput : d.putCtrl l b r =
      if b = powerBody true then ((d.setLink l { d.link l with ctl := r }).putSequenced l (plainFrame frameCtrl b)).setLnkState l lL2
      else (d.setLink l { d.link l with ctl := r }).putSequenced l (plainFrame frameCtrl b) := rfl
  rw [hput]
  by_cases hb : b = powerBody true
  · rw [if_pos hb]
    exact ⟨hsent.sentOut.thenRegs (onlyRegs_setLnkState _ l lL2), ⟨g, hsent.link⟩, fun _ => lnkState_setLnkState hl _ _, fun hne => absurd hb hne⟩
  · rw [if_neg hb]
    exact ⟨hsent.sentOut, ⟨g, hsent.link⟩, fun h => absurd h hb, fun _ => by rw [Dev.lnkState, Dev.get, hsent.regs]; rfl⟩

/-! ### A withdrawn module (R352) -/

/-- The queue of link `l`, memory and the count of dropped frames stay. -/
structure KeepsDropped (l : Nat) (d e : Dev) : Prop where
  txq : (e.link l).txq = (d.link l).txq
  mem : e.mem = d.mem
  dropped : e.get Reg.FAB_DROP_ROUTE = d.get Reg.FAB_DROP_ROUTE

theorem KeepsDropped.trans (h : KeepsDropped l d x) (h' : KeepsDropped l x e) : KeepsDropped l d e :=
  ⟨h'.txq.trans h.txq, h'.mem.trans h.mem, h'.dropped.trans h.dropped⟩

theorem KeepsDropped.thenRegs {fs : List Fld} (h : KeepsDropped l d x) (hregs : onlyRegs fs x e) (hfs : ∀ f ∈ fs, Reg.FAB_DROP_ROUTE.key ≠ f.key) :
    KeepsDropped l d e := by
  refine h.trans ⟨?_, ?_, hregs.2 _ hfs⟩
  · rw [hregs.1]
    rfl
  · rw [hregs.1]

theorem FrameSent.keepsDropped {expected : Nat} (h : FrameSent l typ seq expected k d e) (htxq : k.txq = (d.link l).txq) : KeepsDropped l d e := by
  refine ⟨(congrArg Link.txq h.link).trans htxq, by rw [h.frame], ?_⟩
  rw [Dev.get, h.regs]
  rfl

/-- After the link has been written with the same queue. -/
theorem KeepsDropped.after_setLink (h : KeepsDropped l (d.setLink l k) e) (htxq : k.txq = (d.link l).txq) : KeepsDropped l d e :=
  ⟨h.txq.trans ((congrArg Link.txq (Dev.link_setLink_same d l k)).trans htxq), h.mem, h.dropped⟩

theorem dropRoute_apart : ∀ l < 24, ∀ f ∈ [Reg.LNK_REPLAY_LO l, (Reg.LNK_REPLAY_LO l).hi, Reg.LNK_STATUS.STATE l, Reg.FAB_STATUS.LINKS],
    Reg.FAB_DROP_ROUTE.key ≠ f.key := by decide +kernel

theorem keepsDropped_putCtrl (hl : l < 24) (d : Dev) (b : List Byte) (r : List (List Byte)) : KeepsDropped l d (d.putCtrl l b r) := by
  obtain ⟨g, h⟩ := frameSent_putSequenced (d.setLink l { d.link l with ctl := r }) l (plainFrame frameCtrl b)
  have hsent := (h.keepsDropped rfl).after_setLink (by rfl)
  unfold Dev.putCtrl
  dsimp only
  split
  · exact hsent.thenRegs (onlyRegs_setLnkState _ l lL2) fun f hf => dropRoute_apart l hl f (List.mem_append_right [_, _] hf)
  · exact hsent

theorem reservedTx_nil (h : (d.link l).txq = []) : d.reservedTx l = none := by
  simp [Dev.reservedTx, h, takePiste]

/-- With no DATA frame waiting, what is sent drops none. -/
theorem keepsDropped_sendNext (hl : l < 24) (htxq : (d.link l).txq = []) : KeepsDropped l d (d.sendNext l) := by
  have happart := dropRoute_apart l hl
  unfold Dev.sendNext
  dsimp only
  split
  · exact ((frameSent_putFrame d l _ _).modLink _ |>.keepsDropped rfl).thenRegs (onlyRegs_add64 _ _ 1) fun f hf =>
      happart f (List.mem_append_left [_, _] hf)
  · rw [reservedTx_nil htxq, ite_self]
    dsimp only
    unfold Dev.sendOther
    dsimp only
    split
    · exact ((frameSent_putPlain d l frameRreq [] (by decide)).modLink _).keepsDropped rfl
    · split
      · exact ((frameSent_putPlain d l frameLmap _ (by decide)).modLink _).keepsDropped rfl
      · split
        · exact keepsDropped_putCtrl hl d _ _
        · rw [otherTx_nil htxq, ite_self]
          exact (frameSent_putPlain d l frameIdle [] (by decide)).keepsDropped rfl

theorem keepsDropped_freeBuffer (d : Dev) (h : Option (Nat × Nat)) : KeepsDropped l d (d.freeBuffer h) := by
  unfold Dev.freeBuffer
  split
  case h_1 j vc =>
    refine ⟨?_, rfl, rfl⟩
    by_cases hj : l = j
    · rw [hj, link_modLink_same]
    · exact congrArg Link.txq (Dev.link_setLink_other d _ hj)
  case h_2 => exact ⟨rfl, rfl, rfl⟩

/-- The DATA frames that waited are dropped and counted. -/
theorem dropWaiting_spec (d : Dev) (l : Nat) : ((d.dropWaiting l).link l).txq = [] ∧ (d.dropWaiting l).mem = d.mem ∧
    (d.dropWaiting l).get Reg.FAB_DROP_ROUTE = min (d.get Reg.FAB_DROP_ROUTE + (d.link l).txq.length) (2 ^ Reg.FAB_DROP_ROUTE.width - 1) := by
  let x := (d.modLink l fun k => { k with txq := [] }).addSat Reg.FAB_DROP_ROUTE (d.link l).txq.length
  have hx : (x.link l).txq = [] := congrArg Link.txq (link_modLink_same d l fun k => { k with txq := [] })
  have hfree : KeepsDropped l x (d.dropWaiting l) :=
    List.foldlRecOn (motive := KeepsDropped l x) _ _ ⟨rfl, rfl, rfl⟩ fun y hy t _ => hy.trans (keepsDropped_freeBuffer y t.hold)
  exact ⟨hfree.txq.trans hx, hfree.mem, hfree.dropped.trans (get_addSat_same _ _ _)⟩

/-- A withdrawn module drops the DATA frames that wait, and sends what else it has. -/
theorem transmit_of_fatal (hl : l < 24) (hfatal : d.flt.fatal.isSome = true) :
    ((d.transmit l).link l).txq = [] ∧ (d.transmit l).mem = d.mem ∧
      (d.transmit l).get Reg.FAB_DROP_ROUTE = min (d.get Reg.FAB_DROP_ROUTE + (d.link l).txq.length) (2 ^ Reg.FAB_DROP_ROUTE.width - 1) := by
  obtain ⟨htxq, hmem, hdropped⟩ := dropWaiting_spec d l
  have hsend := keepsDropped_sendNext hl htxq
  rw [transmit_eq, if_pos hfatal]
  exact ⟨hsend.txq.trans htxq, hsend.mem.trans hmem, hsend.dropped.trans hdropped⟩

/-! ### The commands -/

/-- A CTRL frame is taken from those that wait. -/
def Dev.ctlTaken (l : Nat) (m : Frame) (d : Dev) : Dev := { d with fab := { d.fab with ctlQ := d.fab.ctlQ.erase (l, m) } }

theorem takeCtl_of_mem {n : Nat} (hmem : (l, m) ∈ d.fab.ctlQ) (hsub : recField m.body 0 1 = n) :
    d.takeCtl l m n = some (d.ctlTaken l m) := by
  simp [Dev.takeCtl, hmem, hsub, Dev.ctlTaken]

/-- What a power-state frame does once it is taken. -/
def Dev.grantL2 (l : Nat) (m : Frame) (d : Dev) : Dev :=
  if d.get (Reg.LNK_CTL.PSTATE l) ≠ 2 ∨ !d.linkSends l then d
  else if recField m.body 1 1 = 0 then d.sendCtrl l (powerBody true)
  else d.setLnkState l lL2

theorem grantL2_of_asked (hpstate : d.get (Reg.LNK_CTL.PSTATE l) = 2) (hsends : d.linkSends l = true) :
    d.grantL2 l m = if recField m.body 1 1 = 0 then d.sendCtrl l (powerBody true) else d.setLnkState l lL2 := by
  simp [Dev.grantL2, hpstate, hsends]

theorem grantL2_of_unasked (h : d.get (Reg.LNK_CTL.PSTATE l) ≠ 2 ∨ d.linkSends l = false) : d.grantL2 l m = d :=
  if_pos (h.imp_right fun hsends => by rw [hsends]; rfl)

theorem does_powerState {i : LinkId} {post : Dev → Prop} (hmem : (i.val, m) ∈ s.dev.fab.ctlQ) (hsub : recField m.body 0 1 = 4)
    (he : (s.dev.ctlTaken i m).grantL2 i m = e) (h : post e) : Does (.powerState i m) s post := by
  refine does_of_eq (e := e) rfl ?_ h
  rw [takeCtl_of_mem hmem hsub]
  exact he

/-- A link that sends transmits the next frame. -/
theorem does_frameTransmit {i : LinkId} {post : Dev → Prop} (hsends : s.dev.linkSends i = true) (hfatal : s.dev.flt.fatal = none)
    (h : post (s.dev.sendNext i)) : Does (.frameTransmit i) s post :=
  does_of_eq rfl ((if_pos hsends).trans (transmit_of_active hfatal)) h

/-- With nothing due before it and no replay, the next frame is a CTRL frame, a DATA frame or IDLE. -/
theorem sendNext_of_calm (hresend : (d.link l).resendFrame = none)
    (hcalm : d.sendState l = lUp → d.reservedTx l = none ∧ (d.link l).rreqOwed = false ∧ (d.link l).lmapOwed = 0) :
    d.sendNext l = d.sendOther l ∧ d.quietTx l :=
  ⟨sendNext_of_unreserved hresend fun hup => (hcalm hup).1, fun hup => (hcalm hup).2⟩

/-- Settles O38: what leaves by the `sendOther_of_` lemmas, a withdrawn module's by `transmit_of_fatal`, a link's fall by `wentDown_linkDown`. -/
theorem linkSend : Obligations.LinkSend := by
  intro s l m d k fresh up calm room sent sentData down turns
  have hl : l.val < 24 := l.isLt
  have hdown {i : Instr} {g : Dev → Dev} (hexec : exec i s = s.does g) (hg : g d = d.linkDown l) : down i := by
    obtain ⟨hdown, hcount, hbarred, hdowned, hmem, hcores, hstate⟩ := wentDown_linkDown hl d
    exact does_of_eq hexec hg ⟨hdown, hcount, hbarred, hdowned, hmem, hcores, hstate⟩
  have hturns {i : Instr} {g : Dev → Dev} {st : Nat} (hexec : exec i s = s.does g) (hg : g d = d.setLnkState l st) (hst : st % 16 = st) :
      turns i st := does_of_eq hexec hg ⟨onlyRegs_setLnkState d l st, (lnkState_setLnkState hl d st).trans hst⟩
  refine ⟨fun ⟨⟨hsends, hfatal, hresend⟩, hcalm⟩ hroom b r hctl => ?ctrl, fun ⟨⟨hsends, hfatal, hresend⟩, hcalm⟩ hctl htxq => ?idle,
    fun ⟨⟨hsends, hfatal, hresend⟩, hcalm⟩ hroom hctl hup t htxq htyp hhold hcredit => ?data,
    fun ⟨hsends, hfatal, hresend⟩ hroom hup t r hres htyp hhold => ?piste, fun ⟨hsends, hfatal, hresend⟩ hup hres => ⟨fun hrreq => ?rreq,
      fun hrreq hlmap => ?lmap⟩, fun r g hsends hfatal hresend hup => ?replay, fun hsends hfatal => ?dropped, fun hsends => ⟨fun hwait =>
      ⟨?again, ?late⟩, fun hnone => ⟨?quiet, ?done⟩⟩, ?l1Entry, ?l1Exit, ?power, ?marker⟩
  case ctrl =>
    obtain ⟨hnext, hquiet⟩ := sendNext_of_calm hresend hcalm
    obtain ⟨hsent, ⟨g, hlink⟩, hgrant, hother⟩ := putCtrl_sent hl d b r
    refine does_frameTransmit hsends hfatal ?_
    rw [hnext, sendOther_of_ctl hquiet hresend (decide_eq_true hroom) hctl]
    refine ⟨hsent, (congrArg Link.ctl hlink :), (congrArg Link.next hlink :), ?_, hgrant, hother⟩
    exact (congrArg (fun k => k.replay.length) hlink).trans List.length_append
  case idle =>
    obtain ⟨hnext, hquiet⟩ := sendNext_of_calm hresend hcalm
    have hsent := frameSent_putPlain d l frameIdle [] (by decide)
    have heq := hnext.trans (sendOther_of_idle hquiet hctl htxq)
    refine ⟨does_frameTransmit hsends hfatal (heq ▸ ⟨hsent.sentOut, (congrArg Link.next hsent.link :), (congrArg Link.replay hsent.link :)⟩),
      fun hack => ?_⟩
    exact does_of_eq rfl ((if_pos ⟨hsends, hack⟩).trans ((transmit_of_active hfatal).trans heq)) ⟨hsent.sentOut, congrArg Link.ackOwed hsent.link⟩
  case data =>
    obtain ⟨hnext, hquiet⟩ := sendNext_of_calm hresend hcalm
    obtain ⟨g, hput⟩ := frameSent_putData d l [] hhold
    have hsent := hput.modLink fun k => { k with pisteTurn := !t.f.piste }
    rw [htyp] at hsent
    have hlink := hsent.link
    refine does_frameTransmit hsends hfatal ?_
    rw [hnext, sendOther_of_data hquiet hup hresend (decide_eq_true hroom) hctl (otherTx_single htxq hhold hcredit)]
    refine ⟨⟨hsent.sentOut, (congrArg Link.txq hlink :), (congrArg Link.next hlink :), ?_⟩, congrArg Link.pisteTurn hlink⟩
    exact (congrArg (fun k => mget 0 k.credits t.f.vc.toNat) hlink).trans (mget_mset_same ..)
  case piste =>
    obtain ⟨g, hsent⟩ := frameSent_putData d l r hhold
    rw [htyp] at hsent
    have hlink := hsent.link
    refine does_frameTransmit hsends hfatal ?_
    rw [sendNext_of_reserved hresend (decide_eq_true hroom) hup hres]
    refine ⟨⟨hsent.sentOut.thenRegs (onlyRegs_add64 _ _ 1), (congrArg Link.txq hlink :), (congrArg Link.next hlink :), ?_⟩, ?_⟩
    · exact (congrArg (fun k => mget 0 k.credits t.f.vc.toNat) hlink).trans (mget_mset_same ..)
    · rw [get64_add64 _ 1 (Fld.key_ne_hi _) rfl, hsent.get64]
  case rreq =>
    have hsent := (frameSent_putPlain d l frameRreq [] (by decide)).modLink fun k => { k with rreqOwed := false }
    refine does_frameTransmit hsends hfatal ?_
    rw [sendNext_of_unreserved hresend fun _ => hres, sendOther_of_rreq hup hrreq]
    exact ⟨hsent.sentOut, congrArg Link.rreqOwed hsent.link⟩
  case lmap =>
    have hsent := (frameSent_putPlain d l frameLmap (k.lastMap.map (BitVec.ofNat 8)) (by decide)).modLink fun k =>
      { k with lmapOwed := k.lmapOwed - 1 }
    refine does_frameTransmit hsends hfatal ?_
    rw [sendNext_of_unreserved hresend fun _ => hres, sendOther_of_lmap hup hrreq hlmap]
    exact ⟨hsent.sentOut, congrArg Link.lmapOwed hsent.link⟩
  case replay =>
    have hsent := (frameSent_putFrame d l g r).modLink fun k =>
      { k with resend := if (r + 1) % 65536 = k.next then none else some ((r + 1) % 65536) }
    refine does_frameTransmit hsends hfatal ?_
    rw [sendNext_of_replay hresend hup]
    refine ⟨hsent.sentOut.thenRegs (onlyRegs_add64 _ _ 1), ?_, (congrArg Link.resend hsent.link :)⟩
    exact (get64_add64 _ 1 (Fld.key_ne_hi _) rfl).trans (by rw [hsent.get64])
  case dropped => exact does_of_eq rfl (if_pos hsends) (transmit_of_fatal hl hfatal)
  case again =>
    exact does_of_eq rfl (if_pos hsends) ⟨rfl, fun j hj => Dev.link_setLink_other d _ hj, (link_modLink_same d l _).trans (if_neg hwait)⟩
  case late => exact hdown rfl (if_pos ⟨hsends, hwait⟩)
  case quiet =>
    exact does_of_eq rfl (if_pos hsends) ⟨rfl, fun j hj => Dev.link_setLink_other d _ hj, (link_modLink_same d l _).trans (if_pos hnone)⟩
  case done => exact does_of_eq rfl (if_neg fun h => h.2 hnone) rfl
  case l1Entry => exact fun hstate hpstate htxq hresend => hturns rfl (if_pos ⟨hstate, hpstate, htxq, hresend⟩) rfl
  case l1Exit => exact fun hstate => hturns rfl (if_pos hstate) rfl
  case power =>
    intro hmem hsub took
    refine ⟨fun hpstate hsends => ⟨fun hask => ?_, fun hgrant => ?_⟩, fun hother => ?_⟩
    · exact does_powerState hmem hsub ((grantL2_of_asked (d := d.ctlTaken l m) hpstate hsends).trans (if_pos hask))
        ⟨rfl, fun j hj => Dev.link_setLink_other d _ hj, link_modLink_same (d.ctlTaken l m) l _⟩
    · have hset := onlyRegs_setLnkState (d.ctlTaken l m) l lL2
      exact does_powerState hmem hsub ((grantL2_of_asked (d := d.ctlTaken l m) hpstate hsends).trans (if_neg hgrant))
        ⟨hset.1, hset.2, lnkState_setLnkState hl _ _⟩
    · exact does_powerState hmem hsub (grantL2_of_unasked hother) rfl
  case marker => exact fun hmaps hhold => hdown rfl (if_pos ⟨hmaps, hhold⟩)

end Sys2Proof.Machine

/-! ## Lanes (O39) -/

namespace Sys2Proof.Machine

variable {s : State} {d e x : Dev} {l lane : Nat} {k : Link} {m : Frame}

/-! ### A lane is lost (R262, R263) -/

/-- A lane is noted as lost, with or without lock. -/
def Dev.noteLost (l lane : Nat) (locked : Bool) (d : Dev) : Dev :=
  (d.set (Reg.LNK_STATUS.LOST l) (d.get (Reg.LNK_STATUS.LOST l) ||| 2 ^ lane)).setBit (Reg.LNK_LANE.LOCK l lane) locked

/-- The link changes to map `r`, and says so in a flag. -/
def Dev.remapped (l : Nat) (r : List Nat) (flag : Fld) (d : Dev) : Dev := (d.changeMap l r).setBit flag true

/-- The link's state and the fields of a lane that is lost. -/
def lostFields (l lane : Nat) (flag : Fld) : List Fld :=
  [Reg.LNK_STATUS.STATE l, Reg.LNK_STATUS.LOST l, Reg.LNK_LANE.LOCK l lane, Reg.LNK_STATUS.SPARE l, Reg.LNK_STATUS.NARROW l, flag]

theorem linkApart_lost : ∀ l < 24, ∀ lane < 9, linkApart (lostFields l lane (Reg.LNK_ERR.SPARED l)) ∧
    linkApart (lostFields l lane (Reg.LNK_ERR.NARROW l)) := by decide +kernel

/-- The writes for a lane that is lost and makes the link change to map `r`. -/
def lostWrites (l lane lost : Nat) (locked : Bool) (r : List Nat) (flag : Fld) : List (Fld × Nat) :=
  [(Reg.LNK_STATUS.LOST l, lost), (Reg.LNK_LANE.LOCK l lane, if locked then 1 else 0), (Reg.LNK_STATUS.SPARE l, if r.contains 8 then 1 else 0),
    (Reg.LNK_STATUS.NARROW l, if mapNarrow r then 1 else 0), (flag, 1)]

theorem lost_lt (d : Dev) (hlane : lane < 9) : d.get (Reg.LNK_STATUS.LOST l) ||| 2 ^ lane < 2 ^ 9 :=
  Nat.or_lt_two_pow (Dev.get_lt d _) (Nat.pow_lt_pow_right (by decide) hlane)

/-- A lane has been lost and the link changes to map `r`. -/
structure Remapped (l lane : Nat) (locked : Bool) (r : List Nat) (flag : Fld) (d e : Dev) : Prop where
  lost : e.get (Reg.LNK_STATUS.LOST l) = d.get (Reg.LNK_STATUS.LOST l) ||| 2 ^ lane
  lock : e.bit (Reg.LNK_LANE.LOCK l lane) = locked
  state : e.lnkState l = d.lnkState l
  link : e.link l = { d.link l with maps := (d.link l).maps ++ [r], lmapOwed := 4 }
  spare : e.bit (Reg.LNK_STATUS.SPARE l) = decide (8 ∈ r)
  narrow : e.bit (Reg.LNK_STATUS.NARROW l) = decide (9 ∈ r)
  flagged : e.bit flag = true
  links : linksBut l d e
  mem : e.mem = d.mem
  cores : e.cores = d.cores

theorem remapped_noteLost {flag : Fld} (hlane : lane < 9) (hapart : linkApart (lostFields l lane flag)) (hwidth : flag.width = 1) (d : Dev)
    (locked : Bool) (r : List Nat) : Remapped l lane locked r flag d ((d.noteLost l lane locked).remapped l r flag) := by
  let ws := lostWrites l lane (d.get (Reg.LNK_STATUS.LOST l) ||| 2 ^ lane) locked r flag
  obtain ⟨hstate, htail⟩ := List.pairwise_cons.1 hapart.1
  have hws : linkApart (ws.map Prod.fst) := ⟨htail, fun f hf => hapart.2 f (List.mem_cons_of_mem _ hf)⟩
  have heq : (d.noteLost l lane locked).remapped l r flag =
    (d.setAll ws).setLink l { d.link l with maps := (d.link l).maps ++ [r], lmapOwed := 4 } := rfl
  rw [heq]
  have hset := LinkRegs.of_setAll d l { d.link l with maps := (d.link l).maps ++ [r], lmapOwed := 4 } ws
  have hbit (f : Fld) (b : Bool) (hf : f.width = 1) (hp : (f, if b then 1 else 0) ∈ ws) := bit_written (e := d.setAll ws) rfl hws hp hf
  refine ⟨?_, hbit _ locked rfl (by simp [ws, lostWrites]), hset.regs _ hstate, hset.link, ?_, ?_,
    hbit flag true hwidth (by simp [ws, lostWrites]), hset.links, rfl, rfl⟩
  · exact (get_written (e := d.setAll ws) rfl hws List.mem_cons_self).trans (Nat.mod_eq_of_lt (lost_lt d hlane))
  · exact (hbit _ (r.contains 8) rfl (by simp [ws, lostWrites])).trans (List.contains_eq_mem _ _)
  · exact (hbit _ (mapNarrow r) rfl (by simp [ws, lostWrites])).trans (mapNarrow_eq r)

theorem Remapped.reported {locked : Bool} {r : List Nat} {flag : Fld} (h : Remapped l lane locked r flag d x) (hrep : Reported x e)
    (hapart : linkApart (lostFields l lane flag)) : Remapped l lane locked r flag d e := by
  have hget {f : Fld} (hf : f ∈ lostFields l lane flag) : e.get f = x.get f := hrep.get_above (hapart.2 f hf)
  have hbit {f : Fld} (hf : f ∈ lostFields l lane flag) : e.bit f = x.bit f := Dev.bit_congr (hget hf)
  refine ⟨(hget ?_).trans h.lost, (hbit ?_).trans h.lock, (hget ?_).trans h.state, (hrep.link l).trans h.link, (hbit ?_).trans h.spare,
    (hbit ?_).trans h.narrow, (hbit ?_).trans h.flagged, fun j hj => (hrep.link j).trans (h.links j hj), hrep.mem.trans h.mem,
    hrep.cores.trans h.cores⟩ <;> simp [lostFields]

theorem onlyRegs_noteLost (d : Dev) (l lane : Nat) (locked : Bool) :
    onlyRegs [Reg.LNK_STATUS.LOST l, Reg.LNK_LANE.LOCK l lane] d (d.noteLost l lane locked) :=
  onlyRegs_setAll d [(_, _), (_, if locked then 1 else 0)]

theorem lost_apart_lock : ∀ l < 24, ∀ lane < 9, (Reg.LNK_STATUS.LOST l).key ≠ (Reg.LNK_LANE.LOCK l lane).key ∧
    (Reg.LNK_STATUS.VER l).key ≠ (Reg.LNK_STATUS.LOST l).key ∧ (Reg.LNK_STATUS.VER l).key ≠ (Reg.LNK_LANE.LOCK l lane).key := by decide +kernel

theorem noteLost_written (hl : l < 24) (hlane : lane < 9) (d : Dev) (locked : Bool) :
    (d.noteLost l lane locked).get (Reg.LNK_STATUS.LOST l) = d.get (Reg.LNK_STATUS.LOST l) ||| 2 ^ lane ∧
      (d.noteLost l lane locked).bit (Reg.LNK_LANE.LOCK l lane) = locked := by
  have hapart := lost_apart_lock l hl lane hlane
  refine ⟨?_, Dev.bit_setBit_same _ _ Nat.zero_lt_one⟩
  rw [Dev.noteLost, Dev.get_setBit_other _ _ hapart.1, Dev.get_set_same]
  exact Nat.mod_eq_of_lt (lost_lt d hlane)

section Lost

variable {locked : Bool} (hl : l < 24) (hlane : lane < 9) (hstate : d.lnkState l = lUp ∨ d.lnkState l = lUpHeld)
  (hnew : (d.get (Reg.LNK_STATUS.LOST l)).testBit lane = false)

/-- The spare lane is there to serve for a lost one. -/
def Dev.spareFree (l : Nat) (d : Dev) : Prop :=
  d.get (Reg.LNK_STATUS.VER l) = 2 ∧ 8 ∉ (d.link l).lastMap ∧ (d.get (Reg.LNK_STATUS.LOST l)).testBit 8 = false

include hstate hnew in
/-- What follows from a lane's loss, by whether it was in service, the spare and the width. -/
theorem laneLost_eq : d.laneLost l lane locked =
    let r := (d.link l).lastMap
    let y := d.noteLost l lane locked
    if !r.contains lane then y
    else if y.get (Reg.LNK_STATUS.VER l) = 2 ∧ !r.contains 8 ∧ !((d.get (Reg.LNK_STATUS.LOST l)).testBit 8) then
      (y.remapped l (moveLane lane 8 r) (Reg.LNK_ERR.SPARED l)).raise { code := Flt.LNK_SPARED, source := l, arg0 := lane }
    else if !mapNarrow r then
      (y.remapped l (moveLane lane 9 r) (Reg.LNK_ERR.NARROW l)).warnHourly l { code := Flt.LNK_NARROW, source := l, arg0 := lane }
    else y.linkDown l :=
  if_neg (by simp [hstate, hnew])

include hstate hnew in
theorem laneLost_of_idle (hidle : lane ∉ (d.link l).lastMap) : d.laneLost l lane locked = d.noteLost l lane locked :=
  (laneLost_eq hstate hnew).trans (if_pos (by simpa using hidle))

include hl hlane in
theorem ver_noteLost : (d.noteLost l lane locked).get (Reg.LNK_STATUS.VER l) = d.get (Reg.LNK_STATUS.VER l) := by
  obtain ⟨-, hlost, hlock⟩ := lost_apart_lock l hl lane hlane
  exact (onlyRegs_noteLost d l lane locked).2 _ (by simp [hlost, hlock])

include hl hlane hstate hnew

theorem laneLost_of_spare (hused : lane ∈ (d.link l).lastMap) (hspare : d.spareFree l) : d.laneLost l lane locked =
    ((d.noteLost l lane locked).remapped l (moveLane lane 8 (d.link l).lastMap) (Reg.LNK_ERR.SPARED l)).raise
      { code := Flt.LNK_SPARED, source := l, arg0 := lane } := by
  obtain ⟨hver, hunused, hgood⟩ := hspare
  refine (laneLost_eq hstate hnew).trans ((if_neg (by simpa using hused)).trans (if_pos ⟨?_, ?_, ?_⟩))
  · rw [ver_noteLost hl hlane, hver]
  · simpa using hunused
  · rw [hgood]
    rfl

theorem laneLost_eq_of_unspared (hused : lane ∈ (d.link l).lastMap) (hspare : ¬d.spareFree l) : d.laneLost l lane locked =
    if !mapNarrow (d.link l).lastMap then
      ((d.noteLost l lane locked).remapped l (moveLane lane 9 (d.link l).lastMap) (Reg.LNK_ERR.NARROW l)).warnHourly l
        { code := Flt.LNK_NARROW, source := l, arg0 := lane }
    else (d.noteLost l lane locked).linkDown l := by
  refine (laneLost_eq hstate hnew).trans ((if_neg (by simpa using hused)).trans (if_neg fun ⟨hver, hunused, hgood⟩ => hspare ⟨?_, ?_, ?_⟩))
  · rwa [ver_noteLost hl hlane] at hver
  · simpa using hunused
  · simpa using hgood

theorem laneLost_of_narrow (hused : lane ∈ (d.link l).lastMap) (hspare : ¬d.spareFree l) (hfull : 9 ∉ (d.link l).lastMap) :
    d.laneLost l lane locked =
      ((d.noteLost l lane locked).remapped l (moveLane lane 9 (d.link l).lastMap) (Reg.LNK_ERR.NARROW l)).warnHourly l
        { code := Flt.LNK_NARROW, source := l, arg0 := lane } :=
  (laneLost_eq_of_unspared hl hlane hstate hnew hused hspare).trans (if_pos (by simpa [mapNarrow_eq] using hfull))

theorem laneLost_of_full (hused : lane ∈ (d.link l).lastMap) (hspare : ¬d.spareFree l) (hnarrow : 9 ∈ (d.link l).lastMap) :
    d.laneLost l lane locked = (d.noteLost l lane locked).linkDown l :=
  (laneLost_eq_of_unspared hl hlane hstate hnew hused hspare).trans (if_neg (by simpa [mapNarrow_eq] using hnarrow))

end Lost

/-! ### Lanes lose lock (R260) -/

/-- Some lanes of a list lose lock. -/
def Dev.unlock (l : Nat) (p : Nat → Bool) (is : List Nat) (d : Dev) : Dev :=
  is.foldl (fun d i => if p i then d.setBit (Reg.LNK_LANE.LOCK l i) false else d) d

theorem lock_apart_lock : ∀ l < 24, ∀ i < 9, ∀ j < 9, i ≠ j → (Reg.LNK_LANE.LOCK l i).key ≠ (Reg.LNK_LANE.LOCK l j).key := by decide +kernel

theorem lock_apart_state : ∀ l < 24, ∀ i < 9, ∀ f ∈ stateFields l, (Reg.LNK_LANE.LOCK l i).key ≠ f.key := by decide +kernel

theorem onlyRegs_unlock (d : Dev) (l : Nat) (p : Nat → Bool) (is : List Nat) : onlyRegs (is.map (Reg.LNK_LANE.LOCK l)) d (d.unlock l p is) :=
  List.foldlRecOn (motive := onlyRegs _ d) _ _ .refl fun y hy i hi => by
    split
    · exact hy.trans (onlyRegs_setBit y false (List.mem_map_of_mem hi))
    · exact hy

theorem bit_lock_unlock (hl : l < 24) (d : Dev) (p : Nat → Bool) {is : List Nat} (his : ∀ i ∈ is, i < 9) {i : Nat} (hi : i < 9) :
    (d.unlock l p is).bit (Reg.LNK_LANE.LOCK l i) = (d.bit (Reg.LNK_LANE.LOCK l i) && !(decide (i ∈ is) && p i)) := by
  induction is generalizing d with
  | nil => simp [Dev.unlock]
  | cons j is ih =>
    have hrest := ih (if p j then d.setBit (Reg.LNK_LANE.LOCK l j) false else d) fun i hi => his i (List.mem_cons_of_mem _ hi)
    refine hrest.trans ?_
    by_cases hij : i = j
    · subst hij
      have hsame : (d.setBit (Reg.LNK_LANE.LOCK l i) false).bit (Reg.LNK_LANE.LOCK l i) = false := Dev.bit_setBit_same d _ Nat.zero_lt_one
      cases hp : p i <;> simp [hsame]
    · have hother : (d.setBit (Reg.LNK_LANE.LOCK l j) false).bit (Reg.LNK_LANE.LOCK l i) = d.bit (Reg.LNK_LANE.LOCK l i) :=
        Dev.bit_setBit_other d _ (lock_apart_lock l hl i hi j (his j List.mem_cons_self) hij)
      cases hp : p j <;> simp [hij, hother]

/-- The lock of some lanes is gone, and the receiver in HOLD. -/
def Dev.heldBack (l : Nat) (x : BitVec 9) (d : Dev) : Dev :=
  ((d.unlock l x.getLsbD (List.range 9)).modLink l fun k => { k with heldFrom := d.lnkState l }).setLnkState l lHold

theorem bit_lock_unlock_range (hl : l < 24) (d : Dev) (x : BitVec 9) {i : Nat} (hi : i < 9) :
    (d.unlock l x.getLsbD (List.range 9)).bit (Reg.LNK_LANE.LOCK l i) = (d.bit (Reg.LNK_LANE.LOCK l i) && !x.getLsbD i) := by
  rw [bit_lock_unlock hl d _ (fun i => List.mem_range.1) hi, decide_eq_true (List.mem_range.2 hi), Bool.true_and]

theorem bit_lock_heldBack (hl : l < 24) (d : Dev) (x : BitVec 9) {i : Nat} (hi : i < 9) :
    (d.heldBack l x).bit (Reg.LNK_LANE.LOCK l i) = (d.bit (Reg.LNK_LANE.LOCK l i) && !x.getLsbD i) :=
  (Dev.bit_congr ((onlyRegs_setLnkState _ l lHold).2 _ (lock_apart_state l hl i hi))).trans (bit_lock_unlock_range hl d x hi)

theorem linkRegs_heldBack (d : Dev) (l : Nat) (x : BitVec 9) :
    LinkRegs l (lockFields l ++ stateFields l) { d.link l with heldFrom := d.lnkState l } d (d.heldBack l x) :=
  ((LinkRegs.of_onlyRegs ((onlyRegs_unlock d l x.getLsbD (List.range 9)).mono (List.subset_append_left _ _))).modLink fun k =>
    { k with heldFrom := d.lnkState l }).thenRegs ((onlyRegs_setLnkState _ l lHold).mono (List.subset_append_right _ _))

/-- Lanes of a link in UP or UP_HELD lose lock; three or more of those in service hold it. -/
theorem does_laneLockLoss {i : LinkId} {x : BitVec 9} {post : Dev → Prop} (hst : s.dev.lnkState i = lUp ∨ s.dev.lnkState i = lUpHeld)
    (he : (if 3 ≤ ((s.dev.link i).inService x.toNat).length then s.dev.heldBack i x else s.dev.unlock i x.getLsbD (List.range 9)) = e)
    (h : post e) : Does (.laneLockLoss i x) s post := by
  have hlink : (s.dev.unlock i x.getLsbD (List.range 9)).link i = s.dev.link i := (LinkRegs.of_onlyRegs (onlyRegs_unlock ..)).link
  rw [← hlink] at he
  exact does_of_eq rfl ((if_pos hst).trans he) h

/-! ### HOLD is left (R260) -/

/-- The lock bits and the link's state. -/
def holdFields (l : Nat) : List Fld := lockFields l ++ stateFields l

/-- Link `l`, now at `k`, has left HOLD for the state that it came from. -/
structure LeftHold (l : Nat) (locked : Nat → Bool) (k : Link) (d e : Dev) : Prop where
  frame : e = { d with regs := e.regs, links := e.links }
  links : linksBut l d e
  link : e.link l = k
  state : e.lnkState l = (d.link l).heldFrom % 16
  locks : ∀ i, i < 9 → e.bit (Reg.LNK_LANE.LOCK l i) = locked i

namespace LeftHold

variable {locked : Nat → Bool}

theorem mem (h : LeftHold l locked k d e) : e.mem = d.mem := by rw [h.frame]

theorem modLink (h : LeftHold l locked k d e) (g : Link → Link) : LeftHold l locked (g k) d (e.modLink l g) := by
  have hset : LinkRegs l [] (g k) e (e.modLink l g) := h.link ▸ .of_setLink e l _
  refine ⟨?_, fun j hj => (hset.links j hj).trans (h.links j hj), hset.link, h.state, h.locks⟩
  show { e with links := _ } = _
  rw [h.frame]
  rfl

/-- Then other register fields change. -/
theorem thenRegs {fs : List Fld} (h : LeftHold l locked k d x) (hregs : onlyRegs fs x e) (hfs : ∀ g ∈ holdFields l, ∀ f ∈ fs, g.key ≠ f.key) :
    LeftHold l locked k d e := by
  have hset := LinkRegs.of_onlyRegs (l := l) hregs
  refine ⟨?_, fun j hj => (hset.links j hj).trans (h.links j hj), hset.link.trans h.link, (hregs.2 _ (hfs _ ?_)).trans h.state, fun i hi =>
    (Dev.bit_congr (hregs.2 _ (hfs _ ?_))).trans (h.locks i hi)⟩
  · calc e = { x with regs := e.regs } := hregs.1
      _ = { d with regs := e.regs, links := x.links } := by rw [h.frame]
      _ = { d with regs := e.regs, links := e.links } := by rw [hregs.1]
  · exact List.mem_append_right _ List.mem_cons_self
  · exact List.mem_append_left _ (List.mem_map_of_mem (List.mem_range.2 hi))

end LeftHold

theorem onlyRegs_leaveHold (d : Dev) (l : Nat) (x : BitVec 9) : onlyRegs (holdFields l) d (d.leaveHold l x) :=
  ((onlyRegs_setLocks d l _).mono (List.subset_append_left _ _)).trans ((onlyRegs_setLnkState _ l _).mono (List.subset_append_right _ _))

theorem leftHold_leaveHold (hl : l < 24) (d : Dev) (x : BitVec 9) :
    LeftHold l (fun i => decide (i ∈ d.lanes l) && !x.getLsbD i) (d.link l) d (d.leaveHold l x) := by
  have hmask : (fun m i => if x.getLsbD i then m else m + 2 ^ i) = fun m i => if !x.getLsbD i then m + 2 ^ i else m := by
    funext m i
    cases x.getLsbD i <;> rfl
  have hset := LinkRegs.of_onlyRegs (l := l) (onlyRegs_leaveHold d l x)
  refine ⟨hset.frame, hset.links, hset.link, lnkState_setLnkState hl _ _, fun i hi => ?_⟩
  rw [Dev.leaveHold, hmask]
  exact (bit_lock_setLocks hl d _ _ hi).trans (testBit_lockedLanes d l (fun i => !x.getLsbD i) i)

theorem lanesLost_zero (d : Dev) (l : Nat) : d.lanesLost l 0 = d := by
  simp [Dev.lanesLost]

theorem inService_zero (k : Link) : k.inService (0 : BitVec 9).toNat = [] := by simp [Link.inService]

/-- The link is back with all its lanes and with `part` of a frame. -/
def Dev.resumed (l : Nat) (part : List Byte) (d : Dev) : Dev := (d.leaveHold l 0).modLink l fun k => { k with part := part }

theorem leftHold_resumed (hl : l < 24) (d : Dev) (part : List Byte) :
    LeftHold l (fun i => decide (i ∈ d.lanes l)) { d.link l with part := part } d (d.resumed l part) := by
  obtain ⟨hframe, hlinks, hlink, hstate, hlocks⟩ := (leftHold_leaveHold hl d 0).modLink fun k => { k with part := part }
  refine ⟨hframe, hlinks, hlink, hstate, fun i hi => (hlocks i hi).trans ?_⟩
  rw [show (0 : BitVec 9).getLsbD i = false from BitVec.getLsbD_zero, Bool.not_false, Bool.and_true]

/-- Codewords resume on every lane, with `whole` for the frame that had begun. -/
theorem does_holdResume {i : LinkId} {bs whole : List Byte} {post : Dev → Prop} (hstate : s.dev.lnkState i = lHold)
    (hwhole : (if (s.dev.link i).part = [] then [] else (s.dev.link i).part ++ bs) = whole)
    (he : (if whole.length = 256 then (s.dev.resumed i []).arrive i (Frame.ofBytes whole)
      else s.dev.resumed i (if whole.length < 256 then whole else [])) = e) (h : post e) : Does (.holdResume i 0 bs) s post := by
  have hlanes : ((s.dev.link i).inService (0 : BitVec 9).toNat).length < 3 := by
    rw [inService_zero]
    decide
  refine does_of_eq rfl ((if_pos ⟨hstate, hlanes⟩).trans ?_) h
  dsimp only
  rw [lanesLost_zero, hwhole, ← he]
  split
  case isTrue hlength =>
    rw [if_neg (by omega)]
    rfl
  case isFalse => rfl

/-- A frame that fails its check is only counted, in UP of whatever type it is. -/
theorem arrive_of_bad (hstate : d.lnkState l = lUp) (hok : m.ok = false) : d.arrive l m = d.add64 (Reg.LNK_CRCF_LO l) 1 := by
  have hcarries : d.linkCarries l = true := by simp [Dev.linkCarries, hstate]
  have hrec (typ : Nat) : d.receives l typ = true := by
    unfold Dev.receives
    split
    · exact hcarries
    · exact decide_eq_true hstate
  unfold Dev.arrive
  iterate 5
    split
    · next htyp => exact Dev.receive_of_bad (hrec _) htyp hok _
  exact if_neg (by simp [hok])

theorem hold_apart_crcf : ∀ l < 24, ∀ g ∈ holdFields l, ∀ f ∈ [Reg.LNK_CRCF_LO l, (Reg.LNK_CRCF_LO l).hi], g.key ≠ f.key := by decide +kernel

theorem crcf_resumed (hl : l < 24) (d : Dev) (part : List Byte) : (d.resumed l part).get64 (Reg.LNK_CRCF_LO l) = d.get64 (Reg.LNK_CRCF_LO l) :=
  get64_of_regsBut (onlyRegs_leaveHold d l 0).2 fun f hf =>
    ⟨(hold_apart_crcf l hl f hf _ List.mem_cons_self).symm, (hold_apart_crcf l hl f hf _ (List.mem_cons_of_mem _ List.mem_cons_self)).symm⟩

/-! ### STALL_US passes (R260) -/

theorem hold_apart_stall : ∀ l < 24, ∀ g ∈ holdFields l, ∀ f ∈ [Reg.LNK_ERR.STALL l], g.key ≠ f.key := by decide +kernel

theorem stallAbove : ∀ l < 24, 0x00100000 * 32 ≤ (Reg.LNK_ERR.STALL l).key := by decide +kernel

/-- The link is back after a stall, without what it had of a frame. -/
def Dev.stalled (l : Nat) (x : BitVec 9) (d : Dev) : Dev :=
  (((d.leaveHold l x).modLink l fun k => { k with part := [], rreqOwed := true, rreqAt := d.mt + 1 }).setBit (Reg.LNK_ERR.STALL l) true).raise
    { code := Flt.LNK_STALL, source := l, arg0 := l }

theorem stalled_spec (hl : l < 24) (d : Dev) (x : BitVec 9) :
    (d.stalled l x).lnkState l = (d.link l).heldFrom % 16 ∧
      (d.stalled l x).link l = { d.link l with part := [], rreqOwed := true, rreqAt := d.mt + 1 } ∧
      (d.stalled l x).bit (Reg.LNK_ERR.STALL l) = true ∧ linksBut l d (d.stalled l x) ∧ (d.stalled l x).mem = d.mem := by
  let y := ((d.leaveHold l x).modLink l fun k => { k with part := [], rreqOwed := true, rreqAt := d.mt + 1 }).setBit (Reg.LNK_ERR.STALL l) true
  have hy := ((leftHold_leaveHold hl d x).modLink fun k => { k with part := [], rreqOwed := true, rreqAt := d.mt + 1 }).thenRegs
    (onlyRegs_setBit _ true (List.mem_singleton_self _)) (hold_apart_stall l hl)
  have hrep := reported_raise y (ev := { code := Flt.LNK_STALL, source := l, arg0 := l }) (show faultClass Flt.LNK_STALL ≠ 4 by decide)
  have hflag : y.bit (Reg.LNK_ERR.STALL l) = true := Dev.bit_setBit_same _ _ Nat.zero_lt_one
  exact ⟨(hrep.get_above (stateAbove hl)).trans hy.state, (hrep.link l).trans hy.link,
    (Dev.bit_congr (hrep.get_above (stallAbove l hl))).trans hflag, fun j hj => (hrep.link j).trans (hy.links j hj),
    hrep.mem.trans hy.mem⟩

/-! ### Margins (R268) -/

/-- The values of a lane's measurement. -/
def measureFields (l lane : Nat) : List Fld :=
  [Reg.LNK_LANE.EYE_H l lane, Reg.LNK_LANE.EYE_W l lane, Reg.LNK_LANE.RXPWR l lane, Reg.LNK_LANE.BIAS l lane, Reg.LNK_LANE.SYMERR l lane]

theorem linkApart_margin : ∀ l < 24, ∀ lane < 9, linkApart (Reg.LNK_ERR.MARGIN l :: measureFields l lane) := by decide +kernel

theorem linkApart_measure : ∀ l < 24, ∀ lane < 9, linkApart (measureFields l lane) := fun l hl lane hlane =>
  have h := linkApart_margin l hl lane hlane
  ⟨(List.pairwise_cons.1 h.1).2, fun f hf => h.2 f (List.mem_cons_of_mem _ hf)⟩

/-- Beyond the margin flag, what warns of the thresholds of a lane leaves links, memory and the registers from the links' blocks on. -/
structure MarginKeeps (l : Nat) (d e : Dev) : Prop where
  links : e.links = d.links
  mem : e.mem = d.mem
  fields : ∀ f : Fld, 0x00100000 * 32 ≤ f.key → f.key ≠ (Reg.LNK_ERR.MARGIN l).key → e.get f = d.get f
  flag : d.bit (Reg.LNK_ERR.MARGIN l) = true → e.bit (Reg.LNK_ERR.MARGIN l) = true

theorem MarginKeeps.refl : MarginKeeps l d d := ⟨rfl, rfl, fun _ _ _ => rfl, id⟩

theorem MarginKeeps.trans {f : Dev} (h : MarginKeeps l d e) (h' : MarginKeeps l e f) : MarginKeeps l d f :=
  ⟨h'.links.trans h.links, h'.mem.trans h.mem, fun c hc hne => (h'.fields c hc hne).trans (h.fields c hc hne), fun hflag => h'.flag (h.flag hflag)⟩

theorem MarginKeeps.get_measured (h : MarginKeeps l d e) (hl : l < 24) (hlane : lane < 9) {f : Fld} (hf : f ∈ measureFields l lane) :
    e.get f = d.get f := by
  have hapart := linkApart_margin l hl lane hlane
  exact h.fields f (hapart.2 f (List.mem_cons_of_mem _ hf)) ((List.pairwise_cons.1 hapart.1).1 f hf).symm

/-- One threshold of a lane is crossed. -/
def Dev.crossed (l lane n : Nat) (d : Dev) : Dev :=
  (d.setBit (Reg.LNK_ERR.MARGIN l) true).warnHourly ((l * 16 + lane) * 8 + n) { code := Flt.LNK_MARGIN, source := l, arg0 := lane, arg1 := n }

theorem crossed_spec (hl : l < 24) (d : Dev) (n : Nat) : MarginKeeps l d (d.crossed l lane n) ∧ (d.crossed l lane n).bit (Reg.LNK_ERR.MARGIN l) = true := by
  have hrep := reported_warnHourly (d.setBit (Reg.LNK_ERR.MARGIN l) true) ((l * 16 + lane) * 8 + n)
    (ev := { code := Flt.LNK_MARGIN, source := l, arg0 := lane, arg1 := n }) (show faultClass Flt.LNK_MARGIN ≠ 4 by decide)
  have habove := (linkApart_margin l hl 0 (by decide)).2 _ List.mem_cons_self
  have hset : (d.setBit (Reg.LNK_ERR.MARGIN l) true).bit (Reg.LNK_ERR.MARGIN l) = true := Dev.bit_setBit_same d _ Nat.zero_lt_one
  have hflag := (Dev.bit_congr (hrep.get_above habove)).trans hset
  exact ⟨⟨hrep.links, hrep.mem, fun f hf hne => (hrep.get_above hf).trans (Dev.get_setBit_other d true hne), fun _ => hflag⟩, hflag⟩

/-- The thresholds of a lane that are crossed are flagged and warned of. -/
def Dev.warnCrossed (l lane : Nat) (qs : List (Bool × Nat)) (d : Dev) : Dev := qs.foldl (fun d q => if q.1 then d.crossed l lane q.2 else d) d

theorem marginKeeps_warnCrossed (hl : l < 24) (d : Dev) (qs : List (Bool × Nat)) : MarginKeeps l d (d.warnCrossed l lane qs) :=
  List.foldlRecOn (motive := MarginKeeps l d) _ _ .refl fun y hy q _ => by
    split
    · exact hy.trans (crossed_spec hl y q.2).1
    · exact hy

theorem flag_warnCrossed (hl : l < 24) (d : Dev) {qs : List (Bool × Nat)} (h : ∃ q ∈ qs, q.1 = true) :
    (d.warnCrossed l lane qs).bit (Reg.LNK_ERR.MARGIN l) = true := by
  induction qs generalizing d with
  | nil => simp at h
  | cons q qs ih =>
    cases hq : q.1 with
    | true =>
      have hstep : d.warnCrossed l lane (q :: qs) = (d.crossed l lane q.2).warnCrossed l lane qs := by
        rw [Dev.warnCrossed, List.foldl_cons, if_pos hq]
        rfl
      rw [hstep]
      exact (marginKeeps_warnCrossed hl _ qs).flag (crossed_spec hl d q.2).2
    | false =>
      have hstep : d.warnCrossed l lane (q :: qs) = d.warnCrossed l lane qs := by
        rw [Dev.warnCrossed, List.foldl_cons, if_neg (by simp [hq])]
        rfl
      rw [hstep]
      exact ih d (by simpa [hq] using h)

/-- The writes of a lane's measurement. -/
def measureWrites (l lane : Nat) (x : LaneMeasure) (d : Dev) : List (Fld × Nat) :=
  [(Reg.LNK_LANE.EYE_H l lane, x.eyeH.toNat), (Reg.LNK_LANE.EYE_W l lane, x.eyeW.toNat), (Reg.LNK_LANE.RXPWR l lane, x.rxPwr.toNat),
    (Reg.LNK_LANE.BIAS l lane, x.bias.toNat), (Reg.LNK_LANE.SYMERR l lane, min (mget 0 (d.link l).symErrs lane) (2 ^ 32 - 1))]

/-- The registers and the link after a lane's measurement. -/
def Dev.measured (l lane : Nat) (x : LaneMeasure) (d : Dev) : Dev :=
  (d.setAll (measureWrites l lane x d)).setLink l { d.link l with symErrs := mset 0 (d.link l).symErrs lane 0 }

theorem measured_spec (hl : l < 24) (hlane : lane < 9) (d : Dev) (x : LaneMeasure) :
    linksBut l d (d.measured l lane x) ∧ (d.measured l lane x).link l = { d.link l with symErrs := mset 0 (d.link l).symErrs lane 0 } ∧
      (d.measured l lane x).get (Reg.LNK_LANE.EYE_H l lane) = x.eyeH.toNat ∧
      (d.measured l lane x).get (Reg.LNK_LANE.EYE_W l lane) = x.eyeW.toNat ∧
      (d.measured l lane x).get (Reg.LNK_LANE.SYMERR l lane) = min (mget 0 (d.link l).symErrs lane) (2 ^ 32 - 1) := by
  have hset := LinkRegs.of_setAll d l { d.link l with symErrs := mset 0 (d.link l).symErrs lane 0 } (measureWrites l lane x d)
  have hget (f : Fld) (v : Nat) (hv : v < 2 ^ f.width) (hp : (f, v) ∈ measureWrites l lane x d) : (d.measured l lane x).get f = v :=
    (get_written (e := d.measured l lane x) rfl (linkApart_measure l hl lane hlane) hp).trans (Nat.mod_eq_of_lt hv)
  exact ⟨hset.links, hset.link, hget _ _ x.eyeH.isLt (by simp [measureWrites]), hget _ _ x.eyeW.isLt (by simp [measureWrites]),
    hget (Reg.LNK_LANE.SYMERR l lane) _ (show min _ (2 ^ 32 - 1) < 2 ^ 32 by omega) (by simp [measureWrites])⟩

/-- The thresholds of a lane, by number. -/
def thresholds (sens : Int) (x : LaneMeasure) : List (Bool × Nat) :=
  [(decide (x.eyeH.toNat < 15), 0), (decide (x.eyeW.toNat < 150), 1), (decide (x.rxPwr.toInt ≤ sens + 100), 2), (x.biasHigh, 3), (x.berHigh, 4)]

theorem exists_threshold {x : LaneMeasure} (sens : Int)
    (h : x.eyeH.toNat < 15 ∨ x.eyeW.toNat < 150 ∨ x.biasHigh = true ∨ x.berHigh = true) : ∃ q ∈ thresholds sens x, q.1 = true := by
  obtain h | h | h | h := h
  · exact ⟨_, List.mem_cons_self, decide_eq_true h⟩
  · exact ⟨_, List.mem_cons_of_mem _ List.mem_cons_self, decide_eq_true h⟩
  · exact ⟨(x.biasHigh, 3), by simp [thresholds], h⟩
  · exact ⟨(x.berHigh, 4), by simp [thresholds], h⟩

theorem does_linkMarginMeasure {i : LinkId} {j : Fin 9} {x : LaneMeasure} {post : Dev → Prop} (hcarries : s.dev.linkCarries i = true)
    (h : ∀ sens, post ((s.dev.measured i j x).warnCrossed i j (thresholds sens x))) : Does (.linkMarginMeasure i j x) s post :=
  does_of_eq rfl (if_neg (by simp [hcarries])) (h (if s.dev.bit (Reg.LNK_CTL.EXT i) then -550 else -400))

/-- Settles O39: lost lanes by the `laneLost_of_` lemmas, HOLD by `leftHold_leaveHold`, margins by `marginKeeps_warnCrossed`. -/
theorem linkLanes : Obligations.LinkLanes := by
  intro s l lane d k st lost r moved locks only isDown
  have hl : l.val < 24 := l.isLt
  have hlane : lane.val < 9 := lane.isLt
  have hisDown (x : Dev) (hused : x.usedLinks = d.usedLinks) : isDown (x.linkDown l) := by
    have hdown := wentDown_linkDown hl x
    refine ⟨hdown.down, hdown.downed, hdown.state.trans ?_⟩
    rw [Dev.linkUsed, hused]
    rfl
  have hchanges {y : Nat} {b : Bool} {flag : Fld} {e : Dev} (h : Remapped l lane b (moved y) flag d e) :
      (e.get (Reg.LNK_STATUS.LOST l) = lost ||| 2 ^ lane.val ∧ e.bit (Reg.LNK_LANE.LOCK l lane) = b) ∧
      (e.lnkState l = st ∧ (e.link l).maps = k.maps ++ [moved y] ∧ (e.link l).rxMap = k.rxMap ∧ (e.link l).lmapOwed = 4 ∧
        e.bit (Reg.LNK_STATUS.SPARE l) = decide (8 ∈ moved y) ∧ e.bit (Reg.LNK_STATUS.NARROW l) = decide (9 ∈ moved y) ∧
        linksBut l d e ∧ e.mem = d.mem ∧ e.cores = d.cores) ∧ e.bit flag = true :=
    ⟨⟨h.lost, h.lock⟩, ⟨h.state, (congrArg Link.maps h.link :), (congrArg Link.rxMap h.link :), congrArg Link.lmapOwed h.link, h.spare, h.narrow,
      h.links, h.mem, h.cores⟩, h.flagged⟩
  refine ⟨fun x hst => ⟨fun hmany => ?holds, fun hfew => ?unlocks⟩, fun locked hst hnew => ⟨fun hidle => ?idle,
    fun hused hspare => ?spare, fun hused hspare hfull => ?narrow, fun hused hspare hnarrow => ?full⟩, fun h b => ?again,
    fun hst => ⟨fun bs => ⟨fun hpart => ?whole, fun hpart hlength => ?part, fun hpart hlength hfrom hok => ?bad⟩, fun x bs hmany => ?waits,
      fun x hfew => ?stall, fun x hmany => ?lost⟩, fun n => ?marker, fun x hcarries => ?margin⟩
  case holds =>
    have hset := linkRegs_heldBack d l x
    exact does_laneLockLoss hst (if_pos hmany) ⟨⟨hset.frame, hset.links⟩, hset.link, lnkState_setLnkState hl _ _, fun i hi =>
      bit_lock_heldBack hl d x hi⟩
  case unlocks =>
    exact does_laneLockLoss hst (if_neg (Nat.not_le.2 hfew)) ⟨onlyRegs_unlock d l _ _, fun i hi => bit_lock_unlock_range hl d x hi⟩
  case idle => exact does_of_eq rfl (laneLost_of_idle hst hnew hidle) ⟨onlyRegs_noteLost d l lane locked, noteLost_written hl hlane d locked⟩
  case spare =>
    have hapart := (linkApart_lost l hl lane hlane).1
    exact does_of_eq rfl (laneLost_of_spare hl hlane hst hnew hused hspare)
      (hchanges ((remapped_noteLost hlane hapart rfl d locked (moved 8)).reported (reported_raise _ (show faultClass Flt.LNK_SPARED ≠ 4 by decide)) hapart))
  case narrow =>
    have hapart := (linkApart_lost l hl lane hlane).2
    exact does_of_eq rfl (laneLost_of_narrow hl hlane hst hnew hused hspare hfull)
      (hchanges ((remapped_noteLost hlane hapart rfl d locked (moved 9)).reported
        (reported_warnHourly _ _ (show faultClass Flt.LNK_NARROW ≠ 4 by decide)) hapart))
  case full =>
    exact does_of_eq rfl (laneLost_of_full hl hlane hst hnew hused hspare hnarrow) (hisDown _ rfl)
  case again => exact does_of_eq rfl (if_pos (by simpa [or_imp] using h)) rfl
  case whole =>
    obtain ⟨hframe, hlinks, hlink, hstate, hlocks⟩ := leftHold_resumed hl d []
    refine does_holdResume hst (if_pos hpart) rfl ⟨⟨hframe, hlinks⟩, ⟨hstate, hlocks⟩, hlink.trans ?_⟩
    rw [← hpart]
  case part =>
    obtain ⟨hframe, hlinks, hlink, hstate, hlocks⟩ := leftHold_resumed hl d (k.part ++ bs)
    exact does_holdResume hst (if_neg hpart) ((if_neg (Nat.ne_of_lt hlength)).trans (by rw [if_pos hlength]))
      ⟨⟨hframe, hlinks⟩, ⟨hstate, hlocks⟩, hlink⟩
  case bad =>
    have hback := leftHold_resumed hl d []
    have hup : (d.resumed l []).lnkState l = lUp := hback.state.trans (congrArg (· % 16) hfrom)
    obtain ⟨hframe, hlinks, hlink, hstate, hlocks⟩ := hback.thenRegs (onlyRegs_add64 _ (Reg.LNK_CRCF_LO l) 1) (hold_apart_crcf l hl)
    refine does_holdResume hst (if_neg hpart) ((if_pos hlength).trans (arrive_of_bad hup hok))
      ⟨⟨hframe, hlinks⟩, ⟨hstate, hlocks⟩, hlink, (get64_add64 _ 1 (Fld.key_ne_hi _) rfl).trans ?_⟩
    rw [crcf_resumed hl]
  case waits => exact does_of_eq rfl (if_neg fun h => Nat.not_lt.2 hmany h.2) rfl
  case stall => exact does_of_eq rfl ((if_neg (not_not.2 hst)).trans (if_pos hfew)) (stalled_spec hl d x)
  case lost => exact does_of_eq rfl ((if_neg (not_not.2 hst)).trans (if_neg (Nat.not_lt.2 hmany))) (hisDown d rfl)
  case marker =>
    have hlink := link_modLink_same d l fun k => match k.maps.drop n with
      | m :: r => { k with rxMap := m, maps := r }
      | [] => k
    refine does_of_eq rfl rfl ⟨rfl, fun j hj => Dev.link_setLink_other d _ hj, fun x r hdrop => hlink.trans ?_, fun hdrop => hlink.trans ?_⟩
    · rw [hdrop]
    · rw [hdrop]
  case margin =>
    refine does_linkMarginMeasure hcarries fun sens => ?_
    have hwarn := marginKeeps_warnCrossed hl (d.measured l lane x) (thresholds sens x) (lane := lane)
    have hkeeps {f : Fld} (hf : f ∈ measureFields l lane) := hwarn.get_measured hl hlane hf
    obtain ⟨hbut, hlink, hh, hw, herrs⟩ := measured_spec hl hlane d x
    have hlinkEq (j : Nat) : ((d.measured l lane x).warnCrossed l lane (thresholds sens x)).link j = (d.measured l lane x).link j := by
      rw [Dev.link, hwarn.links]
      rfl
    have hsym : (((d.measured l lane x).warnCrossed l lane (thresholds sens x)).link l).symErrs = mset 0 k.symErrs lane 0 :=
      congrArg Link.symErrs ((hlinkEq l).trans hlink)
    refine ⟨(hkeeps (by simp [measureFields])).trans hh, (hkeeps (by simp [measureFields])).trans hw,
      (hkeeps (by simp [measureFields])).trans herrs, fun j hj => (hlinkEq j).trans (hbut j hj), hwarn.mem, ?_, fun j hj => ?_,
      fun hcross => flag_warnCrossed hl _ (exists_threshold sens hcross)⟩
    · rw [hsym, mget_mset_same]
    · rw [hsym, mget_mset_other _ _ _ hj]

end Sys2Proof.Machine

/-! ## The fabric target and the router (R162, R238, R274 to R281)

What this module sends to answer a request, and what it notes on the way, changes registers, links, the fault unit and what is driven outwards; of the
fabric's queues it adds to the responses alone, where the requester is this module itself. So the requests that wait stay, and memory and the cores do. -/

namespace Sys2Proof.Machine

variable {s : State} {d e f : Dev} {m : Frame} {t : Nat}

/-- Nothing differs but what noting and answering a request may change. -/
def Answers (d e : Dev) : Prop :=
  e = { d with
    regs := e.regs, links := e.links, flt := e.flt, host := e.host, out := e.out,
    fab := { d.fab with arrivals := e.fab.arrivals, rspQ := e.fab.rspQ } }

namespace Answers

theorem refl : Answers d d := rfl

theorem trans (h : Answers d e) (h' : Answers e f) : Answers d f := by
  rw [Answers] at h h' ⊢
  rw [h', h]

theorem of_reported (h : Reported d e) : Answers d e := by
  rw [Answers, h.frame]

theorem of_onlyRegs {fs : List Fld} (h : onlyRegs fs d e) : Answers d e := by
  rw [Answers, h.1]

theorem mem (h : Answers d e) : e.mem = d.mem := by rw [h]
theorem cores (h : Answers d e) : e.cores = d.cores := by rw [h]
theorem tgtQ (h : Answers d e) : e.fab.tgtQ = d.fab.tgtQ := by rw [h]
theorem readQ (h : Answers d e) : e.fab.readQ = d.fab.readQ := by rw [h]

end Answers

/-! ### Notes -/

theorem answers_raise (d : Dev) {ev : Ev} (h : faultClass ev.code ≠ 4) : Answers d (d.raise ev) := .of_reported (reported_raise d h)

theorem answers_dropFrame (d : Dev) (cnt flag : Fld) {code : Nat} (inl : Option Nat) (arg : Nat) (h : faultClass code ≠ 4) :
    Answers d (d.dropFrame cnt flag code inl arg) :=
  .trans (e := (d.addSat cnt 1).flag flag Reg.FAB_ERR.DROP_CNT) rfl (answers_raise _ h)

theorem answers_dropBlk (d : Dev) (inl : Option Nat) (m : Frame) : Answers d (d.dropBlk inl m) := answers_dropFrame d _ _ _ _ (by decide)
theorem answers_dropHdr (d : Dev) (inl : Option Nat) (m : Frame) : Answers d (d.dropHdr inl m) := answers_dropFrame d _ _ _ _ (by decide)
theorem answers_dropNest (d : Dev) (inl : Option Nat) (m : Frame) : Answers d (d.dropNest inl m) := answers_dropFrame d _ _ _ _ (by decide)
theorem answers_dropRoute (d : Dev) (inl : Option Nat) (m : Frame) : Answers d (d.dropRoute inl m) := answers_dropFrame d _ _ _ _ (by decide)

theorem answers_noteUe (d : Dev) (a : Nat) : Answers d (d.noteUe a) := by
  unfold Dev.noteUe
  split
  · split
    · exact .of_onlyRegs (noted_ue d _ _ a Nat.one_pos).1
    · split
      · exact .of_onlyRegs (noted_ue d _ _ a Nat.one_pos).1
      · exact .refl
  · exact .refl

/-! ### The operation of a frame (R277, R278) -/

/-- A frame that carries a response to a read or a write, or an error. -/
def IsResponse (m : Frame) : Prop := 2 ≤ m.op ∧ m.op < 8

theorem op_dataFrame {blk op : Nat} {piste : Option Nat} (dst src txid addr : Nat) (payload : List Byte) (hblk : blk < 2 ^ 10)
    (hpiste : piste.getD 0 < 2 ^ 9) (hop : op < 16) : (dataFrame ⟨dst, src, blk, op, txid, addr, none, piste⟩ payload).op = op := by
  simp only [dataFrame, Frame.op, BitVec.toNat_ofNat]
  omega

theorem originPiste_lt (d : Dev) (node : Nat) : (d.originPiste node).getD 0 < 2 ^ 9 := by
  cases h : d.originPiste node with
  | none => decide
  | some p =>
    have hp := List.mem_of_find?_eq_some h
    exact List.mem_range.1 hp

/-- Tunnel headers do not carry the operation. -/
theorem op_popHere (d : Dev) (n : Nat) (m : Frame) : (d.popHere n m).2.op = m.op := by
  induction n generalizing m with
  | zero => rfl
  | succ n ih =>
    unfold Dev.popHere
    split
    · exact ih m.pop
    · rfl

/-! ### Routing a response of this module (R281) -/

theorem answers_deliver (hm : IsResponse m) : Answers d (d.deliver m) := by
  obtain ⟨hlo, hhi⟩ := hm
  unfold Dev.deliver
  dsimp only
  rw [if_neg (by omega), if_neg (by omega), if_pos hhi]
  rfl

theorem answers_deliverOwn (hm : IsResponse m) (inl : Option Nat) : Answers d (d.deliverOwn inl m).2 := by
  unfold Dev.deliverOwn
  split
  · exact answers_deliver hm
  · exact answers_dropBlk d inl m

section
variable {r : RouteFrom} (hlocal : r.inl = none)
include hlocal

theorem answers_sendDir (d : Dev) (was m : Frame) (dir : Nat) (fresh : Bool) : Answers d (d.sendDir r was m dir fresh).2 := by
  unfold Dev.sendDir
  rw [hlocal]
  dsimp only
  split <;> rfl

theorem answers_routeOn (d : Dev) (was : Frame) (fresh : Bool) (n : Nat) (m : Frame) : Answers d (d.routeOn r was fresh n m).2 := by
  induction n generalizing d m with
  | zero =>
    rw [Dev.routeOn, release_of_local hlocal]
    exact answers_dropNest d _ m
  | succ n ih =>
    unfold Dev.routeOn
    simp only [release_of_local hlocal]
    split
    · exact answers_dropRoute d _ m
    split
    · exact answers_sendDir hlocal d was m _ fresh
    split
    · exact answers_dropRoute d _ m
    split
    · exact answers_dropNest d _ m
    · exact .trans (e := d.add64 Reg.FAB_DETOUR_LO 1) rfl (ih _ _)

theorem answers_routePiste (hm : IsResponse m) : Answers d (d.routePiste r m).2 := by
  unfold Dev.routePiste
  simp only [release_of_local hlocal, hlocal]
  split
  · exact answers_dropHdr d _ m
  split
  · split
    · exact answers_dropHdr d _ m
    · exact answers_deliverOwn hm _
  split <;> rfl

theorem answers_routeMc (d : Dev) (m : Frame) : Answers d (d.routeMc r m).2 := by
  unfold Dev.routeMc
  simp only [release_of_local hlocal, hlocal]
  split
  · exact answers_dropHdr d _ m
  · exact answers_sendDir hlocal d m m _ true

theorem answers_route (hm : IsResponse m) : Answers d (d.route r m).2 := by
  unfold Dev.route
  simp only [release_of_local hlocal]
  split
  · rfl
  split
  · exact answers_dropBlk d _ m
  split
  · exact answers_dropNest d _ m
  split
  · exact answers_dropHdr d _ m
  split
  · exact answers_routePiste hlocal hm
  split
  · exact answers_routeMc hlocal d m
  split
  · exact answers_deliverOwn (by rwa [IsResponse, op_popHere]) _
  · exact answers_routeOn hlocal d m _ 3 _

end

theorem answers_originate (d : Dev) (node : Nat) {op : Nat} (hlo : 2 ≤ op) (hhi : op < 8) (txid addr : Nat) (payload : List Byte) :
    Answers d (d.originate node op txid addr payload).2 := by
  unfold Dev.originate
  split
  · exact .refl
  · refine answers_route rfl ?_
    rw [IsResponse, op_dataFrame _ _ _ _ _ (Dev.get_lt d Reg.FAB_BLOCK_ID) (originPiste_lt d node) (by omega)]
    exact ⟨hlo, hhi⟩

/-! ### The target's answers (R278) -/

theorem answers_answerError (d : Dev) (m : Frame) (code : Nat) : Answers d (d.answerError m code) :=
  answers_originate d m.src (by decide) (by decide) m.txid m.addr _

/-- A request that names the host window or control space is logged and answered with an error (R162). -/
theorem answers_denied (d : Dev) (m : Frame) : Answers d (d.denied m) :=
  (answers_raise d (show faultClass Flt.FAB_REMOTE_DENIED ≠ 4 by decide)).trans (answers_answerError _ m 8)

theorem answers_sendData (d : Dev) (m : Frame) (n a : Nat) (bs : List Byte) : Answers d (d.sendData m n a bs) := by
  induction n generalizing d a bs with
  | zero => exact .refl
  | succ n ih =>
    have hfirst := answers_originate d m.src (op := 2) (by decide) (by decide) m.txid a (bs.take d.frameRoom)
    unfold Dev.sendData
    dsimp only
    split
    · exact hfirst
    · exact hfirst.trans (ih _ _ _)

/-- What becomes of a read request: its data, an error or, where its length is no length of a read, a drop. -/
theorem answers_serveRead (d : Dev) (m : Frame) : Answers d (d.serveRead m) := by
  unfold Dev.serveRead
  dsimp only
  split
  · exact answers_denied d m
  split
  · exact answers_dropHdr d none m
  split
  · exact answers_sendData d m 2 m.addr _
  · next a _ => exact (answers_noteUe d a).trans (answers_answerError _ m 7)
  · next er _ _ => exact answers_answerError d m er.code

theorem serveRead_of_good {n : Nat} (hn : n = leNat m.payload) (hallowed : remoteDenied m.addr = false) (hpos : 0 < n) (hle : n ≤ 224)
    (hread : d.readErr m.addr n = none) : d.serveRead m = d.sendData m 2 m.addr (d.rdBytes m.addr n) := by
  subst hn
  have hroom : ¬(leNat m.payload = 0 ∨ 224 < leNat m.payload) := by omega
  simp only [Dev.serveRead, hallowed, hread, if_neg hroom]
  rfl

theorem targetWrite_of_denied (h : remoteDenied m.addr = true) : d.targetWrite m = d.denied m := if_pos h

theorem targetWrite_of_good (hallowed : remoteDenied m.addr = false) (hwrite : d.writeErr m.addr m.payload = none) :
    d.targetWrite m = ((d.writeGood .fabric m.addr m.payload).originate m.src 3 m.txid m.addr []).2 := by
  simp only [Dev.targetWrite, hallowed, Dev.fabricWrite, hwrite]
  rfl

/-! ### The oldest request leaves its queue -/

/-- The other writes stay in the queue. -/
def Dev.writeTaken (r : List Frame) (d : Dev) : Dev := { d with fab := { d.fab with tgtQ := r } }

/-- The other reads stay in the queue. -/
def Dev.readTaken (r : List Frame) (d : Dev) : Dev := { d with fab := { d.fab with readQ := r } }

theorem does_targetWriteDone {r : List Frame} {post : Dev → Prop} (hq : s.dev.fab.tgtQ = m :: r)
    (hpost : post ((s.dev.writeTaken r).targetWrite m)) : Does .targetWriteDone s post :=
  does_of_eq rfl (by rw [hq]; rfl) hpost

theorem does_remoteReadServe {r : List Frame} {post : Dev → Prop} (hq : s.dev.fab.readQ = m :: r)
    (hpost : post ((s.dev.readTaken r).serveRead m)) : Does .remoteReadServe s post :=
  does_of_eq rfl (by rw [hq]; rfl) hpost

/-- What a write looks like depends on the bytes after it alone. -/
theorem wroteBytes_of_mem {a : Nat} {bs : List Byte} (h : wroteBytes a bs d e) (hmem : f.mem = e.mem) : wroteBytes a bs d f := fun p => by
  rw [Dev.byte, hmem]
  exact h p

/-- A remote write to good memory lands, and is acknowledged. -/
theorem does_targetWriteDone_good {r : List Frame} (hq : s.dev.fab.tgtQ = m :: r) (hallowed : remoteDenied m.addr = false)
    (hwrite : s.dev.writeErr m.addr m.payload = none) (hhit : s.dev.rbtHit m.addr m.payload.length = []) :
    Does .targetWriteDone s fun e =>
      e.fab.tgtQ = r ∧ e.cores = s.dev.cores ∧ wroteBytes m.addr m.payload s.dev e ∧
        ∃ x : Dev, x = { s.dev with mem := x.mem, grnBad := x.grnBad, sramEcc := x.sramEcc, fab := { s.dev.fab with tgtQ := r } } ∧
          e = (x.originate m.src 3 m.txid m.addr []).2 := by
  refine does_targetWriteDone hq ?_
  rw [targetWrite_of_good (d := s.dev.writeTaken r) hallowed hwrite]
  obtain ⟨hframe, hwrote⟩ := writeGood_of_noHit (d := s.dev.writeTaken r) .fabric hhit
  generalize (s.dev.writeTaken r).writeGood .fabric m.addr m.payload = x at hframe hwrote
  have hanswer := answers_originate x m.src (op := 3) (by decide) (by decide) m.txid m.addr []
  have hlanded : wroteBytes m.addr m.payload s.dev x := wroteBytes_congr (SameTables.of_regs rfl).place rfl hwrote
  refine ⟨?queue, ?cores, wroteBytes_of_mem hlanded hanswer.mem, x, hframe, rfl⟩
  case queue =>
    rw [hanswer.tgtQ, hframe]
    rfl
  case cores =>
    rw [hanswer.cores, hframe]
    rfl

theorem does_remoteReadServe_good {r : List Frame} {n : Nat} (hq : s.dev.fab.readQ = m :: r) (hn : n = leNat m.payload)
    (hallowed : remoteDenied m.addr = false) (hpos : 0 < n) (hle : n ≤ 224) (hread : s.dev.readErr m.addr n = none) :
    Does .remoteReadServe s fun e =>
      e = Dev.sendData m 2 m.addr (s.dev.rdBytes m.addr n) { s.dev with fab := { s.dev.fab with readQ := r } } := by
  have hplace := (SameTables.of_regs (d := s.dev) (e := s.dev.readTaken r) rfl).place
  refine does_remoteReadServe hq ?_
  rw [serveRead_of_good hn hallowed hpos hle ((readErr_congr hplace rfl rfl rfl m.addr n).trans hread), rdBytes_congr hplace rfl]
  rfl

/-! ### Numbers that are held (R238) -/

theorem lateResponse_of_abandoned {r : TxRec} (h : mget none d.fab.txids t = some r) (hlate : r.abandoned = true) (howner : r.owner < 64) :
    d.lateResponse t = d.addSat (Reg.CORE_DMA_LATE r.owner) 1 := by
  rw [Dev.lateResponse, h]
  exact if_pos ⟨hlate, howner⟩

theorem does_txidHoldExpire_abandoned {t : BitVec 16} {r : TxRec} (h : mget none s.dev.fab.txids t.toNat = some r)
    (hlate : r.abandoned = true) : Does (.txidHoldExpire t) s fun e => e = s.dev.freeTxid t.toNat :=
  does_of_eq rfl (by rw [h]; exact if_pos hlate) rfl

theorem does_txidHoldExpire_live {t : BitVec 16} (h : ∀ r, mget none s.dev.fab.txids t.toNat = some r → r.abandoned = false) :
    Does (.txidHoldExpire t) s fun e => e = s.dev := by
  refine does_of_eq (e := s.dev) rfl ?_ rfl
  split
  · next r hr => exact if_neg (by simp [h r hr])
  · rfl

/-! ### The statement -/

/-- Settles O35: the requests by `answers_originate`, which every answer of the target comes to, and `writeGood_of_noHit`; the numbers by the tracker's
record of each. -/
theorem fabricTarget : Obligations.FabricTarget := by
  intro s d
  refine ⟨fun m r hq hallowed hwrite hhit => ?written, fun m r hq hdenied => ?denied, fun m r hq => ⟨?served, fun n hn hallowed hpos hle hread => ?read⟩,
    fun t => ⟨fun r hr hlate => ⟨fun howner => ?late, ?expires⟩, fun hlive => ?held⟩⟩
  case written => exact does_targetWriteDone_good hq hallowed hwrite hhit
  case denied =>
    have hanswer := answers_denied (d.writeTaken r) m
    exact does_targetWriteDone hq (targetWrite_of_denied hdenied ▸ ⟨hanswer.mem, hanswer.cores, hanswer.tgtQ⟩)
  case served =>
    have hanswer := answers_serveRead (d.readTaken r) m
    exact does_remoteReadServe hq ⟨hanswer.mem, hanswer.cores, hanswer.readQ⟩
  case read => exact does_remoteReadServe_good hq hn hallowed hpos hle hread
  case late =>
    exact does_of_eq rfl (lateResponse_of_abandoned hr hlate howner)
      ⟨onlyRegs_set d _ (List.mem_singleton_self _), get_addSat_same d _ 1⟩
  case expires =>
    obtain ⟨e, hexec, rfl⟩ := does_txidHoldExpire_abandoned hr hlate
    exact ⟨_, hexec, rfl, mget_mset_same none d.fab.txids t.toNat none, fun j hj => mget_mset_other none d.fab.txids none hj⟩
  case held => exact does_txidHoldExpire_live hlive

end Sys2Proof.Machine

/-! ## What a local frame does on its way (R281)

The router answers a frame of this module by a few operations on the module. What every one of them keeps, the way of the frame keeps. -/

namespace Sys2Proof.Machine

variable {d e x : Dev} {m : Frame}

/-- A property of the module that the router keeps while a frame of this module finds its way. -/
structure RouterKeeps (P : Dev → Prop) : Prop where
  drop : ∀ {d : Dev} {cnt flag : Fld} {code arg : Nat} {inl : Option Nat}, cnt ∈ [Reg.FAB_DROP_BLK, Reg.FAB_DROP_HDR, Reg.FAB_DROP_NEST,
    Reg.FAB_DROP_ROUTE] → flag ∈ [Reg.FAB_ERR.BLK, Reg.FAB_ERR.HDR, Reg.FAB_ERR.NEST, Reg.FAB_ERR.ROUTE] → faultClass code = 3 → P d →
    P (d.dropFrame cnt flag code inl arg)
  withdrawn : ∀ {d : Dev}, P d → P (d.addSat Reg.FAB_DROP_ROUTE 1)
  deliver : ∀ {d : Dev} (m : Frame), P d → P (d.deliver m)
  enqueue : ∀ {d : Dev} (l : Nat) (t : TxItem), P d → P (d.enqueue l t)
  detour : ∀ {d : Dev}, P d → P (d.add64 Reg.FAB_DETOUR_LO 1)

namespace RouterKeeps

variable {P : Dev → Prop} (h : RouterKeeps P)
include h

theorem dropBlk (inl : Option Nat) (m : Frame) (hd : P d) : P (d.dropBlk inl m) := h.drop (by decide) (by decide) (by decide) hd
theorem dropHdr (inl : Option Nat) (m : Frame) (hd : P d) : P (d.dropHdr inl m) := h.drop (by decide) (by decide) (by decide) hd
theorem dropNest (inl : Option Nat) (m : Frame) (hd : P d) : P (d.dropNest inl m) := h.drop (by decide) (by decide) (by decide) hd
theorem dropRoute (inl : Option Nat) (m : Frame) (hd : P d) : P (d.dropRoute inl m) := h.drop (by decide) (by decide) (by decide) hd

theorem deliverOwn (inl : Option Nat) (m : Frame) (hd : P d) : P (d.deliverOwn inl m).2 := by
  unfold Dev.deliverOwn
  split
  · exact h.deliver m hd
  · exact h.dropBlk inl m hd

variable {r : RouteFrom} (hlocal : r.inl = none)
include hlocal

theorem sendDir (was m : Frame) (dir : Nat) (fresh : Bool) (hd : P d) : P (d.sendDir r was m dir fresh).2 := by
  unfold Dev.sendDir
  rw [hlocal]
  dsimp only
  split
  · exact h.enqueue _ _ hd
  · exact hd

theorem routeOn (was : Frame) (fresh : Bool) (n : Nat) (m : Frame) (hd : P d) : P (d.routeOn r was fresh n m).2 := by
  induction n generalizing d m with
  | zero =>
    rw [Dev.routeOn, release_of_local hlocal]
    exact h.dropNest _ m hd
  | succ n ih =>
    unfold Dev.routeOn
    simp only [release_of_local hlocal]
    split
    · exact h.dropRoute _ m hd
    split
    · exact h.sendDir hlocal was m _ fresh hd
    split
    · exact h.dropRoute _ m hd
    split
    · exact h.dropNest _ m hd
    · exact ih _ (h.detour hd)

theorem routePiste (m : Frame) (hd : P d) : P (d.routePiste r m).2 := by
  unfold Dev.routePiste
  simp only [release_of_local hlocal, hlocal]
  split
  · exact h.dropHdr _ m hd
  split
  · split
    · exact h.dropHdr _ m hd
    · exact h.deliverOwn _ m hd
  split
  · exact h.enqueue _ _ hd
  · exact hd

theorem routeMc (m : Frame) (hd : P d) : P (d.routeMc r m).2 := by
  unfold Dev.routeMc
  simp only [release_of_local hlocal, hlocal]
  split
  · exact h.dropHdr _ m hd
  · exact h.sendDir hlocal m m _ true hd

theorem route (m : Frame) (hd : P d) : P (d.route r m).2 := by
  unfold Dev.route
  simp only [release_of_local hlocal]
  split
  · exact h.withdrawn hd
  split
  · exact h.dropBlk _ m hd
  split
  · exact h.dropNest _ m hd
  split
  · exact h.dropHdr _ m hd
  split
  · exact h.routePiste hlocal m hd
  split
  · exact h.routeMc hlocal m hd
  split
  · exact h.deliverOwn _ _ hd
  · exact h.routeOn hlocal m _ 3 _ hd

end RouterKeeps

end Sys2Proof.Machine

/-! ## The collective unit stops (R314 to R319)

A fault of the unit notes its cause and stops the script; then the members are told, the waiting cores fault and the job stops. What the unit shows of
its stop stays through all of that. -/

namespace Sys2Proof.Machine

variable {s : State} {d e : Dev} {cause : Fld}

/-- The flags of COL_ERR that name the cause of a stop. -/
def causeFields : List Fld :=
  [Reg.COL_ERR.ORDER_CROSS, Reg.COL_ERR.ORDER_STALL, Reg.COL_ERR.STRAY, Reg.COL_ERR.ENTRY_BAD, Reg.COL_ERR.ABORTED]

/-- A field outside block COL. -/
abbrev Fld.outsideCol (x : Fld) : Prop := x.key < 0x00180000 * 32 ∨ 0x00190000 * 32 ≤ x.key

/-- The unit has stopped for a cause: its flags say so, and no entry and no held record is left. -/
structure Halted (cause : Fld) (d : Dev) : Prop where
  cause_mem : cause ∈ causeFields
  cause : d.bit cause = true
  aborted : d.bit Reg.COL_ERR.ABORTED = true
  stopped : d.bit Reg.COL_STATUS.STOPPED = true
  idle : d.bit Reg.COL_STATUS.BUSY = false
  entry : d.col.entry = none
  held : d.col.held = []

theorem causeFields_inCol : ∀ g ∈ causeFields, 0x00180000 * 32 ≤ g.key ∧ g.key < 0x00190000 * 32 := by decide

theorem causeFields_apart : ∀ g ∈ causeFields, ∀ f ∈ [Reg.COL_STATUS.BUSY, Reg.COL_STATUS.STOPPED, Reg.COL_STATUS.HELD,
    Reg.COL_ERR_COMM.COMM1, Reg.COL_ERR_COMM.COMM2, Reg.COL_ERR_COMM.NONE2], g.key ≠ f.key := by decide

theorem reportFields_outsideCol : ∀ x ∈ reportFields, x.outsideCol := by decide

theorem endFields_outsideCol (c : Nat) : ∀ x ∈ endFields c, x.outsideCol := by
  simp only [endFields, List.forall_mem_cons, Fld.outsideCol, Fld.key, Reg.CORE_SEQ_TRACE_DROP.COUNT, Reg.CORE_SEQ_ERR.FAULT,
    Reg.CORE_MXA_STATUS.BUSY, Reg.CORE_MXA_STATUS.ACTIVE, Reg.CORE_MXA_STATUS.KEPT, Reg.CORE_SEQ_CTRL.QREQ]
  refine ⟨?_, ?_, ?_, ?_, ?_, ?_, fun _ h => absurd h List.not_mem_nil⟩ <;> omega

theorem quiesceField_outsideCol (c : Nat) : (Reg.CORE_SEQ_CTRL.QREQ c).outsideCol := endFields_outsideCol c _ (by simp [endFields])

theorem col_setClm (d : Dev) (c off : Nat) (bs : List Byte) : (d.setClm c off bs).col = d.col := by
  rw [(wroteAt_setClm d c off bs).frame]

namespace Halted

/-- A change outside the unit and its block leaves it stopped. -/
theorem beside {fs : List Fld} (h : Halted cause d) (hcol : e.col = d.col) (hregs : regsBut fs d e) (hfs : ∀ x ∈ fs, x.outsideCol) :
    Halted cause e := by
  have hbit {g : Fld} (hg : 0x00180000 * 32 ≤ g.key ∧ g.key < 0x00190000 * 32) : e.bit g = d.bit g :=
    Dev.bit_congr (hregs g fun x hx => by
      have := hfs x hx
      omega)
  exact ⟨h.cause_mem, (hbit (causeFields_inCol _ h.cause_mem)).trans h.cause, (hbit (by decide)).trans h.aborted,
    (hbit (by decide)).trans h.stopped, (hbit (by decide)).trans h.idle, hcol ▸ h.entry, hcol ▸ h.held⟩

theorem of_same (h : Halted cause d) (hcol : e.col = d.col) (hregs : e.regs = d.regs) : Halted cause e :=
  h.beside (fs := []) hcol (fun _ _ => by rw [Dev.get, hregs]; rfl) (List.forall_mem_nil _)

theorem set (h : Halted cause d) (x : Fld) (v : Nat) (hx : x.outsideCol) : Halted cause (d.set x v) :=
  h.beside (fs := [x]) rfl (onlyRegs_set d v (by simp)).2 (by simpa using hx)

theorem set64 (h : Halted cause d) (x : Fld) (v : Nat) (hx : x.outsideCol) (hhi : x.hi.outsideCol) : Halted cause (d.set64 x v) :=
  (h.set x _ hx).set x.hi _ hhi

theorem reported (h : Halted cause d) (hrep : Reported d e) : Halted cause e :=
  h.beside (by rw [hrep.frame]) hrep.fields reportFields_outsideCol

/-- With the cause noted, the script is stopped (R319). -/
theorem of_colStop (hmem : cause ∈ causeFields) (hcause : d.bit cause = true) (haborted : d.bit Reg.COL_ERR.ABORTED = true) :
    Halted cause d.colStop := by
  have hkeeps {g : Fld} (hg : g ∈ causeFields) : d.colStop.bit g = d.bit g := by
    have hapart := causeFields_apart g hg
    exact ((Dev.bit_set_other _ _ (hapart _ (by simp))).trans (Dev.bit_setBit_other _ _ (hapart _ (by simp)))).trans
      (Dev.bit_setBit_other { d with col := { d.col with entry := none, held := [], sendq := [] } } false (hapart _ (by simp)))
  refine ⟨hmem, (hkeeps hmem).trans hcause, (hkeeps (by decide)).trans haborted, ?_, ?_, rfl, rfl⟩
  · exact (Dev.bit_set_other _ _ (by decide)).trans (Dev.bit_setBit_same _ true Nat.one_pos)
  · exact (Dev.bit_set_other _ _ (by decide)).trans ((Dev.bit_setBit_other _ _ (by decide)).trans (Dev.bit_setBit_same _ false Nat.one_pos))

theorem colStop (h : Halted cause d) : Halted cause d.colStop := of_colStop h.cause_mem h.cause h.aborted

/-! ### The STOP (R362) -/

theorem quiesceCore (h : Halted cause d) (c : Nat) : Halted cause (d.quiesceCore c) := by
  have hresume : Halted cause (d.writeResume c) := h.of_same (col_setClm d c _ _) (Dev.setClm_frame d c _ _).2
  have hrequest : Halted cause (d.setBit (Reg.CORE_SEQ_CTRL.QREQ c) true) := h.set _ _ (quiesceField_outsideCol c)
  unfold Dev.quiesceCore
  dsimp only
  split
  · exact hresume
  · exact hresume
  · exact hresume
  · exact h
  · exact hrequest
  · exact hrequest
  · exact hrequest.of_same rfl rfl
  · exact hrequest.of_same rfl rfl

theorem flood (h : Halted cause d) (n : Notice) (arrival : Option Nat) : Halted cause (d.flood n arrival) :=
  List.foldlRecOn (motive := Halted cause) _ _ h fun x hx l _ => by
    split
    · exact hx.of_same rfl rfl
    · exact hx

theorem roundDrop (h : Halted cause d) : Halted cause d.roundDrop := by
  unfold Dev.roundDrop
  dsimp only
  split
  · refine .set ?_ Reg.STG_STATUS.STATE _ (by decide)
    exact h.of_same rfl rfl
  · exact h.of_same rfl rfl

theorem wake (h : Halted cause d) : Halted cause d.wake :=
  ((h.set Reg.PWR_STATUS.STATE _ (by decide)).set Reg.PWR_STATUS.MOVING _ (by decide)).set Reg.PWR_LADDER.TARGET _ (by decide)

theorem enterStopped (h : Halted cause d) (ev : Ev) : Halted cause (d.enterStopped ev) := by
  unfold Dev.enterStopped
  dsimp only
  have hwake : Halted cause (if d.gliding then d.wake else d) := by
    split
    · exact h.wake
    · exact h
  have hcores := List.foldlRecOn (motive := Halted cause) (List.range 64) (fun d c => d.quiesceCore c) hwake.roundDrop.colStop
    fun x hx c _ => hx.quiesceCore c
  generalize List.foldl _ _ (List.range 64) = x at hcores ⊢
  exact .reported (.set (.set hcores Reg.FLT_STATUS.HL _ (by decide)) Reg.FLT_ERR.STOP _ (by decide)) (reported_log_fltMsix _ ev)

theorem raise (h : Halted cause d) (ev : Ev) : Halted cause (d.raise ev) := by
  by_cases hclass : faultClass ev.code = 4
  case neg => exact h.reported (reported_raise d hclass)
  have hraise : d.raise ev = (d.logOpen ev).2.stopJob ev := by simp only [Dev.raise, hclass]
  have hlog := h.reported (reported_logOpen d ev)
  rw [hraise, Dev.stopJob]
  split
  · exact hlog
  · refine .enterStopped (.flood ?_ _ none) _
    exact hlog.of_same rfl rfl

/-! ### The members are told, and the waiting cores fault (R319) -/

theorem routerKeeps : RouterKeeps (Halted cause) where
  drop {d cnt flag code arg inl} hcnt hflag _ h := by
    have hout := (by decide : ∀ x ∈ [Reg.FAB_DROP_BLK, Reg.FAB_DROP_HDR, Reg.FAB_DROP_NEST, Reg.FAB_DROP_ROUTE] ++
      [Reg.FAB_ERR.BLK, Reg.FAB_ERR.HDR, Reg.FAB_ERR.NEST, Reg.FAB_ERR.ROUTE], x.outsideCol)
    exact .raise (.set (.set (.set h cnt _ (hout _ (List.mem_append_left _ hcnt))) flag _ (hout _ (List.mem_append_right _ hflag)))
      Reg.FAB_ERR.DROP_CNT _ (by decide)) _
  withdrawn h := h.set Reg.FAB_DROP_ROUTE _ (by decide)
  deliver {d} m h := by
    refine .set64 ?_ Reg.FAB_DELIV_LO _ (by decide) (by decide)
    exact h.of_same rfl rfl
  enqueue _ _ h := h.of_same rfl rfl
  detour h := h.set64 Reg.FAB_DETOUR_LO _ (by decide) (by decide)

theorem sendAborts (h : Halted cause d) (comm seq code : Nat) : Halted cause (d.sendAborts comm seq code) :=
  List.foldlRecOn (motive := Halted cause) _ _ h fun _ hx _ _ => routerKeeps.route rfl _ hx

end Halted

theorem col_showEnd (d : Dev) (c : Nat) (hadArrays : Bool) : (d.showEnd c hadArrays).col = d.col := by
  have harrays (d : Dev) : (if hadArrays then (d.mxaShow c).setBit (Reg.CORE_MXA_STATUS.KEPT c) false else d).col = d.col := by
    split <;> rfl
  unfold Dev.showEnd
  dsimp only
  have hshown := harrays (d.setBit (Reg.CORE_SEQ_ERR.FAULT c) true)
  generalize (if hadArrays then _ else _ : Dev) = x at hshown
  split
  · exact (col_setClm _ c _ _).trans hshown
  · exact hshown

theorem col_cmpFaulted (d : Dev) (c : Nat) (cmd : Option LayerCmd) (code : Nat) : (d.cmpFaulted c cmd code).col = d.col := by
  unfold Dev.cmpFaulted Dev.cmpStatus
  split
  · split
    · exact col_setClm d c _ _
    · rfl
  · rfl

theorem col_seqEnd (d : Dev) (c code tag : Nat) : (d.seqEnd c code tag).col = d.col := by
  obtain ⟨q, n, htrace⟩ := coreRegs_trace d c 11 tag code (d.core c).pc
  rw [Dev.seqEnd_eq]
  dsimp only
  rw [col_showEnd, Dev.modCore_col, col_cmpFaulted, htrace.frame]

theorem Halted.endWaits (h : Halted cause d) (raw : List Byte) (idx code : Nat) : Halted cause (d.endWaits raw idx code) :=
  List.foldlRecOn (motive := Halted cause) _ _ h fun x hx c _ => by
    split
    · exact hx.beside (col_seqEnd x c _ _) (ended_seqEnd x c _ _).fields (endFields_outsideCol c)
    · exact hx

/-! ### A fault of the unit (R319) -/

/-- The cause and the communicators of a fault are noted. -/
def Dev.noteCause (cause : Fld) (comm : Nat) (second : Option (Option Nat)) (d : Dev) : Dev :=
  let d := ((d.setBit cause true).setBit Reg.COL_ERR.ABORTED true).set Reg.COL_ERR_COMM.COMM1 comm
  match second with
  | some c => (d.set Reg.COL_ERR_COMM.COMM2 (c.getD 63)).setBit Reg.COL_ERR_COMM.NONE2 c.isNone
  | none => d

theorem Dev.colFault_eq (d : Dev) (cause : Fld) (code : Nat) (second : Option (Option Nat)) (tell : Bool) :
    d.colFault cause code second tell =
      let x := (d.noteCause cause (eComm d.curRaw) second).colStop
      let y := if tell then x.sendAborts (eComm d.curRaw) (mget 0 d.col.seqs (eComm d.curRaw)) code else x
      (y.endWaits d.curRaw d.entryIdx code).raise
        { code := code, arg0 := eComm d.curRaw, arg1 := (second.map fun c => c.getD 63).getD 0 } := by
  cases second <;> rfl

theorem noteCause_flags (hmem : cause ∈ causeFields) (comm : Nat) (second : Option (Option Nat)) (d : Dev) :
    (d.noteCause cause comm second).bit cause = true ∧ (d.noteCause cause comm second).bit Reg.COL_ERR.ABORTED = true := by
  have hwidth : ∀ g ∈ causeFields, g.width = 1 := by decide
  have hx : ∀ g ∈ causeFields, (d.noteCause cause comm second).bit g = ((d.setBit cause true).setBit Reg.COL_ERR.ABORTED true).bit g := by
    intro g hg
    have hapart := causeFields_apart g hg
    have hcomm (d : Dev) : (d.set Reg.COL_ERR_COMM.COMM1 comm).bit g = d.bit g := Dev.bit_set_other d _ (hapart _ (by simp))
    cases second with
    | none => exact hcomm _
    | some c =>
      exact ((Dev.bit_setBit_other _ _ (hapart _ (by simp))).trans (Dev.bit_set_other _ _ (hapart _ (by simp)))).trans (hcomm _)
  have haborted := Dev.bit_setBit_same (d.setBit cause true) (f := Reg.COL_ERR.ABORTED) true Nat.one_pos
  refine ⟨(hx _ hmem).trans ?_, (hx _ (by decide)).trans haborted⟩
  obtain hkey | hkey := eq_or_ne cause.key Reg.COL_ERR.ABORTED.key
  · obtain rfl : cause = Reg.COL_ERR.ABORTED := (by decide : ∀ g ∈ causeFields, g.key = Reg.COL_ERR.ABORTED.key → g = Reg.COL_ERR.ABORTED) _ hmem hkey
    exact haborted
  · exact (Dev.bit_setBit_other _ _ hkey).trans (Dev.bit_setBit_same _ true (by rw [hwidth _ hmem]; exact Nat.one_pos))

/-- A job-fatal fault of the unit stops it for its cause, and the job. -/
theorem halted_colFault (hmem : cause ∈ causeFields) {code : Nat} (hclass : faultClass code = 4) (second : Option (Option Nat)) (tell : Bool)
    (d : Dev) : Halted cause (d.colFault cause code second tell) ∧ (d.colFault cause code second tell).get Reg.FLT_STATUS.HL = hlStopped := by
  obtain ⟨hcause, haborted⟩ := noteCause_flags hmem (eComm d.curRaw) second d
  have hstop := Halted.of_colStop hmem hcause haborted
  rw [Dev.colFault_eq]
  refine ⟨.raise (.endWaits ?_ _ _ _) _, (raise_jobFatal_spares_and_stops _ 0 hclass).2⟩
  split
  · exact hstop.sendAborts _ _ _
  · exact hstop

end Sys2Proof.Machine

/-! ## Beside the memories

What leaves the bytes, their marks, the ports and the tables of block TBL leaves every read, and which buffers a write touches. -/

namespace Sys2Proof.Machine

variable {d e : Dev} {a n i : Nat} {bs : List Byte}

/-- The memories and the tables that lead to them are as before. -/
structure SameMemory (d e : Dev) : Prop where
  tables : ∀ g : Fld, g.inTbl → e.get g = d.get g
  window : e.get Reg.HST_HWIN_SIZE = d.get Reg.HST_HWIN_SIZE
  mem : e.mem = d.mem
  grnBad : e.grnBad = d.grnBad
  sramEcc : e.sramEcc = d.sramEcc
  gdmDead : e.gdmDead = d.gdmDead

namespace SameMemory

theorem place (h : SameMemory d e) : ∀ x, e.place x = d.place x :=
  SameTables.place ⟨fun g hlo hhi hbit => h.tables g ⟨hlo, by omega, hbit⟩, h.window⟩

theorem settings (h : SameMemory d e) : Settings d e := fun g hg => h.tables g hg.inTbl

theorem rdBytes (h : SameMemory d e) (a n : Nat) : e.rdBytes a n = d.rdBytes a n := rdBytes_congr h.place h.mem a n

theorem firstBad (h : SameMemory d e) (a n : Nat) : e.firstBad a n = d.firstBad a n := by
  simp only [Dev.firstBad, Dev.firstUe, Dev.firstDead, h.place, h.grnBad, h.sramEcc, h.gdmDead]

theorem rbtCtl (h : SameMemory d e) (hi : i < 256) {lo width reset : Nat} (hlo : lo < 32) :
    e.get ⟨0x00281000 + i * 16, lo, width, reset⟩ = d.get ⟨0x00281000 + i * 16, lo, width, reset⟩ :=
  h.tables _ ⟨by dsimp only; omega, by dsimp only; omega, hlo⟩

theorem rbtEn (h : SameMemory d e) (hi : i < 256) : e.bit (Reg.GRN_RBT_CTL.EN i) = d.bit (Reg.GRN_RBT_CTL.EN i) :=
  Dev.bit_congr (h.rbtCtl hi (by decide))

/-- The state of an entry's group. -/
theorem groupState (h : SameMemory d e) (hi : i < 256) : e.grpState (e.rbtGroup i) = d.grpState (d.rbtGroup i) := by
  have hgroup : e.rbtGroup i = d.rbtGroup i := h.rbtCtl hi (by decide)
  have hlt : d.rbtGroup i < 2 ^ 4 := d.get_lt _
  rw [hgroup]
  refine h.tables _ ⟨?_, ?_, ?_⟩ <;> simp only [Reg.GRN_GRP_STATE.STATE] <;> omega

theorem rbtTakes (h : SameMemory d e) (hi : i < 256) : e.rbtTakes i = d.rbtTakes i := by
  simp only [Dev.rbtTakes, h.groupState hi]

theorem rbtHit (h : SameMemory d e) (a n : Nat) : e.rbtHit a n = d.rbtHit a n := by
  unfold Dev.rbtHit
  refine ite_congr rfl (fun _ => rfl) fun _ => List.filter_congr fun i hi => ?_
  have hi := List.mem_range.1 hi
  rw [h.rbtEn hi, h.settings.rbtHi hi, h.settings.rbtLo hi, h.groupState hi]

/-- Outside every open buffer a write fails as before. -/
theorem writeErr (h : SameMemory d e) (hhit : d.rbtHit a bs.length = []) : e.writeErr a bs = d.writeErr a bs := by
  simp only [Dev.writeErr, h.rbtHit, hhit, List.find?_nil, List.flatMap_nil, Dev.firstUnmapped, Dev.firstDead, Dev.firstPartialUe, Dev.plainAt,
    Dev.inRbt, List.any_nil, h.place, h.grnBad, h.gdmDead]

theorem gridBuffer (h : SameMemory d e) (a : Nat) : e.gridBuffer a = d.gridBuffer a := by
  have hsame : ∀ i ∈ List.range 256,
      (e.bit (Reg.GRN_RBT_CTL.EN i) && decide (e.get (Reg.GRN_RBT_CTL.FMT i) = 13) && decide (e.rbtLo i ≤ a) && decide (a < e.rbtHi i)) =
      (d.bit (Reg.GRN_RBT_CTL.EN i) && decide (d.get (Reg.GRN_RBT_CTL.FMT i) = 13) && decide (d.rbtLo i ≤ a) && decide (a < d.rbtHi i)) := by
    intro i hi
    have hi := List.mem_range.1 hi
    have hfmt : e.get (Reg.GRN_RBT_CTL.FMT i) = d.get (Reg.GRN_RBT_CTL.FMT i) := h.rbtCtl hi (by decide)
    rw [h.rbtEn hi, hfmt, h.settings.rbtHi hi, h.settings.rbtLo hi]
  exact List.find?_congr hsame

end SameMemory

theorem gridBuffer_lt (h : d.gridBuffer a = some i) : i < 256 := List.mem_range.1 (List.mem_of_find?_eq_some h)

/-- A write outside every open buffer that does not fail, made where the memories are as before. -/
theorem putMem_of_noHit (h : SameMemory d e) (hhit : d.rbtHit a bs.length = []) (herr : d.writeErr a bs = none) (q : MemRequester) :
    e.putMem q a bs = { e with mem := (e.putMem q a bs).mem, grnBad := (e.putMem q a bs).grnBad, sramEcc := (e.putMem q a bs).sramEcc } ∧
      wroteBytes a bs d (e.putMem q a bs) := by
  have hgood : e.putMem q a bs = e.writeGood q a bs := by
    rw [Dev.putMem, Dev.writeMem, h.writeErr hhit, herr]
  obtain ⟨hframe, hwrote⟩ := writeGood_of_noHit q ((h.rbtHit a bs.length).trans hhit)
  rw [hgood]
  exact ⟨hframe, wroteBytes_congr h.place h.mem hwrote⟩

end Sys2Proof.Machine

/-! ## Records that the collective unit takes (O41) -/

namespace Sys2Proof.Machine

variable {s : State} {d e x y : Dev} {f : Frame} {en : ColEntry} {i n : Nat}

/-- A delivered record leaves the unit's queue. -/
def Dev.colTaken (f : Frame) (d : Dev) : Dev := { d with fab := { d.fab with colQ := d.fab.colQ.erase f } }

theorem takeCol_of_mem (hmem : f ∈ d.fab.colQ) (hop : f.op = n) : d.takeCol f n = some (d.colTaken f) := by
  simp [Dev.takeCol, Dev.colTaken, hmem, hop]

section
variable {post : Dev → Prop} (hmem : f ∈ s.dev.fab.colQ)
include hmem

theorem does_countRecord (hop : f.op = 8) (h : post ((s.dev.colTaken f).countIn f)) : Does (.countRecord f) s post :=
  does_of_eq rfl (by rw [takeCol_of_mem hmem hop]) h

theorem does_dataRecord (hop : f.op = 9) (h : post ((s.dev.colTaken f).dataIn f false)) : Does (.dataRecord f) s post :=
  does_of_eq rfl (by rw [takeCol_of_mem hmem hop]) h

theorem does_gridDataRecord (hop : f.op = 10) (h : post ((s.dev.colTaken f).dataIn f true)) : Does (.gridDataRecord f) s post :=
  does_of_eq rfl (by rw [takeCol_of_mem hmem hop]) h

theorem does_abortRecord (hop : f.op = 11) (h : post ((s.dev.colTaken f).abortIn f)) : Does (.abortRecord f) s post :=
  does_of_eq rfl (by rw [takeCol_of_mem hmem hop]) h

end

/-! ### A record that is heard (R317, R328) -/

/-- A record of the launched entry has been taken from the queue and heard: its bytes count, and the stall limit begins anew. -/
structure Took (f : Frame) (d e : Dev) : Prop where
  fab : e.fab = { d.fab with colQ := d.fab.colQ.erase f }
  cores : e.cores = d.cores
  count : e.get64 Reg.COL_RX_LO = (d.get64 Reg.COL_RX_LO + f.plen) % 2 ^ 64
  lastAt : e.col.lastAt = d.mt

/-- The module as a record finds it that names the launched entry. -/
def Dev.hearing (f : Frame) (d : Dev) : Dev := (d.colTaken f).colHeard f.plen

theorem took_hearing (f : Frame) (d : Dev) : Took f d (d.hearing f) where
  fab := rfl
  cores := rfl
  count := get64_add64 { d.colTaken f with col := { d.col with lastAt := d.mt } } f.plen (Fld.key_ne_hi _) rfl
  lastAt := rfl

/-- What then follows may change memory, the unit, and registers other than the count of bytes. -/
theorem Took.andThen (h : Took f d x)
    (hframe : y = { x with regs := y.regs, mem := y.mem, grnBad := y.grnBad, sramEcc := y.sramEcc, col := y.col })
    (hcount : y.get64 Reg.COL_RX_LO = x.get64 Reg.COL_RX_LO) (hlast : y.col.lastAt = x.col.lastAt) : Took f d y where
  fab := by
    rw [hframe]
    exact h.fab
  cores := by
    rw [hframe]
    exact h.cores
  count := hcount.trans h.count
  lastAt := hlast.trans h.lastAt

theorem regsBut_hearing (f : Frame) (d : Dev) : regsBut [Reg.COL_RX_LO, Reg.COL_RX_LO.hi] d (d.hearing f) :=
  (onlyRegs_set64 { d.colTaken f with col := { d.col with lastAt := d.mt } } Reg.COL_RX_LO _).2

theorem sameMemory_hearing (f : Frame) (d : Dev) : SameMemory d (d.hearing f) where
  tables g hg := regsBut_hearing f d g (by
    have hout : ∀ x ∈ [Reg.COL_RX_LO, Reg.COL_RX_LO.hi], x.outsideTbl := by decide
    exact fun x hx => hg.key_ne (hout x hx))
  window := regsBut_hearing f d _ (by decide)
  mem := rfl
  grnBad := rfl
  sramEcc := rfl
  gdmDead := rfl

/-! ### Count records (R313 to R316) -/

/-- The count record that a frame carries. -/
def countOf (f : Frame) : ColCount :=
  ⟨f.src, crStep f.payload, crFlags f.payload, crBytes f.payload, recField f.payload 0x14 2,
    (List.range (recField f.payload 0x12 2)).map fun i => recField f.payload (0x20 + 2 * i) 2⟩

theorem isCurrent_of_entry {comm seq : Nat} (hentry : d.col.entry = some en) (hcomm : eComm en.raw = comm) (hseq : en.seq = seq) :
    d.isCurrent comm seq = true := by
  simp [Dev.isCurrent, hentry, hcomm, hseq]

/-- The entry with one count record more. -/
def ColEntry.counting (f : Frame) (en : ColEntry) : ColEntry := { en with counts := en.counts ++ [countOf f] }

/-- A count record names a step of the entry with its sender, and agrees with the entry (R314, R201). -/
structure Agrees (f : Frame) (gride : Nat) (en : ColEntry) : Prop where
  known : ∃ st ∈ en.steps, st.num = crStep f.payload ∧ ∃ p ∈ st.peers, p.node = f.src
  grid : eGrid en.raw = true → crGride f.payload = gride
  step : eKind en.raw = 6 → crPstep f.payload = eAux en.raw

theorem countTake_of_agrees (h : Agrees f (d.entryGride en.raw) en) (hroom : (en.counting f).overrun f.src = false) :
    d.countTake f en = (d.setEntry (en.counting f)).permPlace.colGo := by
  obtain ⟨⟨st, hst, hnum, p, hp, hnode⟩, hgrid, hstep⟩ := h
  have hany : (en.steps.any fun s => decide (s.num = crStep f.payload) && s.peers.any fun p => decide (p.node = f.src)) = true :=
    List.any_eq_true.2 ⟨st, hst, by simpa [hnum] using ⟨p, hp, hnode⟩⟩
  unfold Dev.countTake
  dsimp only
  rw [hany, if_neg (by simp), if_neg (by simpa using hgrid), if_neg (by simpa using hstep)]
  exact if_neg (ne_true_of_eq_false hroom)

theorem permPlace_of_placed (hentry : d.col.entry = some en) (hplaced : en.placed = true) : d.permPlace = d := by
  unfold Dev.permPlace
  rw [hentry]
  dsimp only
  split
  · exact if_neg (by simp [hplaced])
  · rfl

/-- Once the count records of its step have been made and sent, the unit goes on by queueing data. -/
theorem colGo_of_counted (hentry : d.col.entry = some en) (hsteps : en.steps ≠ []) (hcounted : en.counted = true) (hunsent : en.unsent = []) :
    ∃ queued sendq, d.colGo = { d with col := { d.col with entry := some { en with queued := queued }, sendq := sendq } } := by
  obtain ⟨st, rest, hsteps⟩ := List.exists_cons_of_ne_nil hsteps
  cases en
  subst hsteps hcounted hunsent
  simp only [Dev.colGo, hentry]
  exact ⟨_, _, rfl⟩

theorem entryGride_hearing (f : Frame) (d : Dev) (raw : List Byte) : (d.hearing f).entryGride raw = d.entryGride raw := by
  have hsame := sameMemory_hearing f d
  unfold Dev.entryGride
  rw [hsame.gridBuffer]
  refine ite_congr rfl (fun _ => ?_) fun _ => rfl
  cases hbuffer : d.gridBuffer (eSrc raw) with
  | none => rfl
  | some i =>
    have hi := gridBuffer_lt hbuffer
    exact hsame.tables _ ⟨by simp only [Reg.GRN_RBS_FLAGS.GRIDE]; omega, by simp only [Reg.GRN_RBS_FLAGS.GRIDE]; omega, (by decide : 16 < 32)⟩

/-- A record of the launched entry is counted, and data may be queued, where the count records of the step have been sent. -/
theorem countIn_of_current (hstop : d.bit Reg.COL_STATUS.STOPPED = false) (hentry : d.col.entry = some en)
    (hcomm : eComm en.raw = recField f.payload 0 1) (hseq : en.seq = crSeq f.payload) (hagrees : Agrees f (d.entryGride en.raw) en)
    (hplaced : en.placed = true) (hcounted : en.counted = true) (hunsent : en.unsent = []) (hroom : (en.counting f).overrun f.src = false) :
    ∃ queued sendq, (d.colTaken f).countIn f =
      { d.hearing f with col := { (d.hearing f).col with entry := some { en.counting f with queued := queued }, sendq := sendq } } := by
  have hcurrent : (d.colTaken f).isCurrent (recField f.payload 0 1) (crSeq f.payload) = true :=
    isCurrent_of_entry (d := d.colTaken f) hentry hcomm hseq
  have hrun : (d.colTaken f).bit Reg.COL_STATUS.STOPPED = false := hstop
  have htake : (d.colTaken f).countIn f = (d.hearing f).countTake f en := by
    unfold Dev.countIn
    dsimp only
    rw [if_neg (ne_true_of_eq_false hrun), if_pos hcurrent, show (d.colTaken f).col.entry = some en from hentry]
    rfl
  have hsteps : en.steps ≠ [] := by
    obtain ⟨st, hst, -⟩ := hagrees.known
    exact List.ne_nil_of_mem hst
  rw [htake, countTake_of_agrees (by rwa [entryGride_hearing]) hroom,
    permPlace_of_placed (d := (d.hearing f).setEntry (en.counting f)) (en := en.counting f) rfl hplaced]
  exact colGo_of_counted (d := (d.hearing f).setEntry (en.counting f)) (en := en.counting f) rfl hsteps hcounted hunsent

theorem countIn_of_other (hstop : d.bit Reg.COL_STATUS.STOPPED = false)
    (hother : d.isCurrent (recField f.payload 0 1) (crSeq f.payload) = false) : d.countIn f =
      if (d.laterSeqs (recField f.payload 0 1)).contains (crSeq f.payload) then d.holdRecord f
      else if seqPast (mget 0 d.col.seqs (recField f.payload 0 1)) (crSeq f.payload) 32 then d else d.colStray := by
  unfold Dev.countIn
  dsimp only
  rw [if_neg (ne_true_of_eq_false hstop), if_neg (ne_true_of_eq_false hother)]

/-- A count record of a later entry waits in the unit (R315). -/
def Dev.holding (f : Frame) (d : Dev) : Dev :=
  Dev.set Reg.COL_STATUS.HELD (d.col.held ++ [f]).length { d with col := { d.col with held := d.col.held ++ [f] } }

theorem holdRecord_of_room (hroom : d.col.held.length < 64) : d.holdRecord f =
    match d.col.entry with
    | some e =>
      if e.owes f.src then
        (d.holding f).colFault Reg.COL_ERR.ORDER_CROSS Flt.ORDER_CROSS (some (some (recField f.payload 0 1))) true
      else d.holding f
    | none => d.holding f := by
  unfold Dev.holdRecord
  rw [if_neg (by omega)]
  rfl

theorem get_holding (f : Frame) (d : Dev) (hroom : d.col.held.length < 64) : (d.holding f).get Reg.COL_STATUS.HELD = d.col.held.length + 1 := by
  rw [Dev.holding, Dev.get_set_same, List.length_append]
  exact Nat.mod_eq_of_lt (show d.col.held.length + 1 < 2 ^ 7 by omega)

end Sys2Proof.Machine

/-! ### Data records (R312, R314, R328) -/

namespace Sys2Proof.Machine

variable {s : State} {d e x y : Dev} {f : Frame} {en : ColEntry} {i n : Nat}

theorem partner_of_step (h : ∃ st ∈ en.steps, ∃ p ∈ st.peers, p.node = n) : en.partner n = true := by
  obtain ⟨st, hst, p, hp, hnode⟩ := h
  have hsteps : (en.steps.any fun s => s.peers.any fun p => decide (p.node = n)) = true :=
    List.any_eq_true.2 ⟨st, hst, List.any_eq_true.2 ⟨p, hp, decide_eq_true hnode⟩⟩
  rw [ColEntry.partner, hsteps, Bool.or_true]

/-- A partner's data record of the launched entry is heard, and then stored or added. -/
theorem dataIn_of_current (hstop : d.bit Reg.COL_STATUS.STOPPED = false) (hentry : d.col.entry = some en)
    (hcomm : eComm en.raw = f.txid % 64) (hseq : en.seq % 1024 = f.txid / 64 % 1024) (hpartner : en.partner f.src = true) (grid : Bool) :
    (d.colTaken f).dataIn f grid = if grid then ((d.hearing f).gridWrite f).colReceived f else (d.hearing f).dataTake f en := by
  have hrun : (d.colTaken f).bit Reg.COL_STATUS.STOPPED = false := hstop
  have htaken : (d.colTaken f).col.entry = some en := hentry
  unfold Dev.dataIn
  dsimp only
  rw [if_neg (ne_true_of_eq_false hrun), htaken]
  dsimp only
  rw [if_pos ⟨hcomm, hseq⟩, if_neg (by simp [hpartner])]
  rfl

/-- The entry with the bytes of one data record more. -/
def ColEntry.receiving (f : Frame) (en : ColEntry) : ColEntry := { en with rx := mset 0 en.rx f.src (en.got f.src + f.plen) }

theorem colReceived_of_room (hentry : d.col.entry = some en) (hroom : (en.receiving f).overrun f.src = false) :
    d.colReceived f = d.setEntry (en.receiving f) := by
  unfold Dev.colReceived
  rw [hentry]
  exact if_neg (ne_true_of_eq_false hroom)

/-- Bytes that the unit writes outside every open buffer are stored. -/
theorem recWrite_of_noHit (h : SameMemory d e) (hdenied : remoteDenied n = false) (herr : d.writeErr n f.payload = none)
    (hhit : d.rbtHit n f.payload.length = []) :
    e.recWrite f n = { e with mem := (e.recWrite f n).mem, grnBad := (e.recWrite f n).grnBad, sramEcc := (e.recWrite f n).sramEcc } ∧
      wroteBytes n f.payload d (e.recWrite f n) := by
  have hput : e.recWrite f n = e.putMem .coll n f.payload := if_neg (ne_true_of_eq_false hdenied)
  rw [hput]
  exact putMem_of_noHit h hhit herr .coll

/-- Nothing of a record is moved but of a permute whose places the unit computes (R308). -/
theorem dataTake_of_placed (hplaced : en.placed = true) (hfixed : ¬(eKind en.raw = 4 ∧ eDyn en.raw = true ∧ eArg en.raw = 0)) :
    d.dataTake f en = (d.recWrite f f.addr).colReceived f := by
  have hmoved : (eDyn en.raw && mapped en.raw) = false := by
    rw [mapped, ← Bool.not_eq_true]
    simpa [and_assoc, and_left_comm] using hfixed
  unfold Dev.dataTake
  dsimp only
  rw [hmoved, hplaced, if_pos rfl, if_neg Bool.false_ne_true, Nat.add_zero]

/-- A data record is stored, and its bytes count towards what its sender has declared. -/
theorem took_dataTake (hentry : d.col.entry = some en) (hplaced : en.placed = true)
    (hfixed : ¬(eKind en.raw = 4 ∧ eDyn en.raw = true ∧ eArg en.raw = 0)) (hroom : (en.receiving f).overrun f.src = false)
    (hdenied : remoteDenied f.addr = false) (herr : d.writeErr f.addr f.payload = none) (hhit : d.rbtHit f.addr f.payload.length = []) :
    Took f d ((d.hearing f).dataTake f en) ∧ ((d.hearing f).dataTake f en).col.entry = some (en.receiving f) ∧
      wroteBytes f.addr f.payload d ((d.hearing f).dataTake f en) := by
  obtain ⟨hframe, hwrote⟩ := recWrite_of_noHit (sameMemory_hearing f d) hdenied herr hhit
  rw [dataTake_of_placed hplaced hfixed]
  generalize (d.hearing f).recWrite f f.addr = y at hframe hwrote
  rw [colReceived_of_room (by rw [hframe]; exact hentry) hroom]
  exact ⟨(took_hearing f d).andThen (by rw [hframe]; rfl) (by rw [hframe]; rfl) (by rw [hframe]; rfl), rfl, hwrote⟩

/-! ### Grid-data records (R199, R306) -/

theorem accDrain_of_none {which : Addend → Bool} (h : ∀ a ∈ d.accq, which a = false) : d.accDrain which = d := by
  have hnone : d.accq.filter which = [] := List.filter_eq_nil_iff.2 fun a ha => ne_true_of_eq_false (h a ha)
  have hall : (d.accq.filter fun a => !which a) = d.accq := List.filter_eq_self.2 fun a ha => by rw [h a ha, Bool.not_false]
  rw [Dev.accDrain, hnone, hall]
  rfl

theorem chunks_one {α : Type} {l : List α} (hlen : l.length = n + 1) : chunks (n + 1) l = [l] := by
  obtain ⟨a, l, rfl⟩ := List.exists_cons_of_length_eq_add_one hlen
  have htake : (a :: l).take (n + 1) = a :: l := List.take_of_length_le hlen.le
  have hdrop : (a :: l).drop (n + 1) = [] := List.drop_eq_nil_of_le hlen.le
  rw [chunks, List.length_cons, chunksAux, htake, hdrop]
  · cases l.length <;> rfl
  · simp

/-- One integer for a buffer that takes it is added at its place. -/
theorem gridWrite_of_one (hbuffer : d.gridBuffer f.addr = some i) (halign : (f.addr - d.rbtLo i) % 8 = 0) (hlen : f.payload.length = 8)
    (hroom : f.addr + 8 ≤ d.rbtHi i) (htakes : d.rbtTakes i = true) (hgood : d.firstBad f.addr 8 = none) (hidle : ∀ x ∈ d.accq, x.rbt ≠ i) :
    d.gridWrite f = d.gridAddAt i f.addr (leNat f.payload) := by
  unfold Dev.gridWrite
  dsimp only
  rw [hbuffer]
  dsimp only
  rw [hlen, if_neg (by omega), if_neg (by simp [htakes]), hgood, chunks_one hlen, accDrain_of_none fun a ha => decide_eq_false (hidle a ha)]
  rfl

/-- The integer at an address with an integer added, and whether the sum wraps. -/
def Dev.gridSum (d : Dev) (a v : Nat) : DWord × Bool := gridAdd (BitVec.ofNat 64 (d.rdNat a 8)) (BitVec.ofNat 64 v)

/-- The module after a sum is stored and its wrap noted. -/
def Dev.gridStored (i a : Nat) (sum : DWord × Bool) (d : Dev) : Dev :=
  let e := d.wrBytes a (leBytes 8 sum.1.toNat)
  if sum.2 then e.setBit (Reg.GRN_RBS_FLAGS.GRID_RANGE i) true else e

/-- The counters of stack `k` count one integer, of four cycles. -/
def Dev.gridCounted (k : Nat) (d : Dev) : Dev := (d.add64 (Reg.GRN_THR_ACC_LO k) 1).add64 (Reg.GRN_THR_BUSY_LO k) 4

theorem gridAddAt_of_place {a v p : Nat} (h : (d.gridStored i a (d.gridSum a v)).place a = some p) :
    d.gridAddAt i a v = (d.gridStored i a (d.gridSum a v)).gridCounted (stackOf p) := by
  unfold Dev.gridStored Dev.gridSum at *
  unfold Dev.gridAddAt Dev.gridCounted
  dsimp only at *
  rw [h]

theorem gridAddAt_of_noPlace {a v : Nat} (h : (d.gridStored i a (d.gridSum a v)).place a = none) :
    d.gridAddAt i a v = d.gridStored i a (d.gridSum a v) := by
  unfold Dev.gridStored Dev.gridSum at *
  unfold Dev.gridAddAt
  dsimp only at *
  rw [h]

end Sys2Proof.Machine

/-! ### One integer added at its place (R74, R199) -/

namespace Sys2Proof.Machine

variable {s : State} {d e x y : Dev} {f : Frame} {en : ColEntry} {a i k n p v : Nat} {sum : DWord × Bool}

/-- The fields of a stack's two work counters. -/
def workFields (k : Nat) : List Fld :=
  [Reg.GRN_THR_ACC_LO k, (Reg.GRN_THR_ACC_LO k).hi, Reg.GRN_THR_BUSY_LO k, (Reg.GRN_THR_BUSY_LO k).hi]

/-- No entry's flag of a wrapped sum lies in a work counter, whatever the stack's number. -/
theorem workFields_ne_range : ∀ x ∈ workFields k, x.key ≠ (Reg.GRN_RBS_FLAGS.GRID_RANGE i).key := by
  simp only [workFields, List.forall_mem_cons, Fld.key, Fld.hi, Reg.GRN_THR_ACC_LO, Reg.GRN_THR_BUSY_LO, Reg.GRN_RBS_FLAGS.GRID_RANGE,
    List.not_mem_nil, false_imp_iff, implies_true, and_true]
  omega

/-- The unit's count of received bytes lies before both. -/
theorem received_apart : ∀ x ∈ [Reg.COL_RX_LO, Reg.COL_RX_LO.hi],
    x.key ≠ (Reg.GRN_RBS_FLAGS.GRID_RANGE i).key ∧ ∀ w ∈ workFields k, x.key ≠ w.key := by
  simp only [workFields, List.forall_mem_cons, Fld.key, Fld.hi, Reg.GRN_THR_ACC_LO, Reg.GRN_THR_BUSY_LO, Reg.GRN_RBS_FLAGS.GRID_RANGE,
    Reg.COL_RX_LO, List.not_mem_nil, false_imp_iff, implies_true, and_true]
  omega

/-- The two counters of a stack lie apart. -/
theorem work_apart : ∀ x ∈ [Reg.GRN_THR_ACC_LO k, (Reg.GRN_THR_ACC_LO k).hi],
    ∀ w ∈ [Reg.GRN_THR_BUSY_LO k, (Reg.GRN_THR_BUSY_LO k).hi], x.key ≠ w.key := by
  simp only [List.forall_mem_cons, Fld.key, Fld.hi, Reg.GRN_THR_ACC_LO, Reg.GRN_THR_BUSY_LO, List.not_mem_nil, false_imp_iff, implies_true, and_true]
  omega

theorem onlyRegs_gridCounted (d : Dev) (k : Nat) : onlyRegs (workFields k) d (d.gridCounted k) :=
  ((onlyRegs_add64 d _ 1).mono (by simp [workFields])).trans ((onlyRegs_add64 _ _ 4).mono (by simp [workFields]))

/-- The counters of a stack have counted one integer, of four cycles. -/
def gridWorked (k : Nat) (d e : Dev) : Prop :=
  e.get64 (Reg.GRN_THR_ACC_LO k) = (d.get64 (Reg.GRN_THR_ACC_LO k) + 1) % 2 ^ 64 ∧
    e.get64 (Reg.GRN_THR_BUSY_LO k) = (d.get64 (Reg.GRN_THR_BUSY_LO k) + 4) % 2 ^ 64

theorem gridWorked_gridCounted (d : Dev) (k : Nat) : gridWorked k d (d.gridCounted k) := by
  have hbusy : (d.add64 (Reg.GRN_THR_ACC_LO k) 1).get64 (Reg.GRN_THR_BUSY_LO k) = d.get64 (Reg.GRN_THR_BUSY_LO k) :=
    get64_of_regsBut (onlyRegs_add64 d _ 1).2 fun w hw => ⟨(work_apart w hw _ (by simp)).symm, (work_apart w hw _ (by simp)).symm⟩
  have hacc : (d.gridCounted k).get64 (Reg.GRN_THR_ACC_LO k) = (d.add64 (Reg.GRN_THR_ACC_LO k) 1).get64 (Reg.GRN_THR_ACC_LO k) :=
    get64_of_regsBut (onlyRegs_add64 _ _ 4).2 fun w hw => ⟨work_apart _ (by simp) w hw, work_apart _ (by simp) w hw⟩
  refine ⟨hacc.trans (get64_add64 d 1 (Fld.key_ne_hi _) rfl), ?_⟩
  rw [← hbusy]
  exact get64_add64 _ 4 (Fld.key_ne_hi _) rfl

theorem gridWorked.congr (h : gridWorked k x e) (hregs : regsBut [Reg.COL_RX_LO, Reg.COL_RX_LO.hi] d x) : gridWorked k d e := by
  have hwork {c : Fld} (hlo : c ∈ workFields k) (hhi : c.hi ∈ workFields k) : x.get64 c = d.get64 c :=
    get64_of_regsBut hregs fun w hw => ⟨((received_apart (i := 0) w hw).2 c hlo).symm, ((received_apart (i := 0) w hw).2 _ hhi).symm⟩
  rwa [gridWorked, hwork (by simp [workFields]) (by simp [workFields]), hwork (by simp [workFields]) (by simp [workFields])] at h

/-- The sum is stored: memory and the flag of a wrapped sum alone may change. -/
theorem gridStored_frame (d : Dev) (i a : Nat) (sum : DWord × Bool) :
    d.gridStored i a sum = { d with regs := (d.gridStored i a sum).regs, mem := (d.wrBytes a (leBytes 8 sum.1.toNat)).mem } ∧
      regsBut [Reg.GRN_RBS_FLAGS.GRID_RANGE i] d (d.gridStored i a sum) := by
  have hframe := d.wrBytes_frame a (leBytes 8 sum.1.toNat)
  have hflag : onlyRegs [Reg.GRN_RBS_FLAGS.GRID_RANGE i] (d.wrBytes a (leBytes 8 sum.1.toNat)) (d.gridStored i a sum) :=
    onlyRegs_ite (onlyRegs_setBit _ true (List.mem_singleton_self _)) .refl
  generalize d.gridStored i a sum = y at hflag
  generalize d.wrBytes a (leBytes 8 sum.1.toNat) = z at hframe hflag
  obtain ⟨hsame, hregs⟩ := hflag
  exact ⟨by rw [hsame, hframe], fun g hg => (hregs g hg).trans (by rw [hframe]; rfl)⟩

theorem place_gridStored (d : Dev) (i a : Nat) (sum : DWord × Bool) (x : Nat) : (d.gridStored i a sum).place x = d.place x := by
  refine SameTables.place ⟨fun g _ hhi hbit => (gridStored_frame d i a sum).2 g ?_, (gridStored_frame d i a sum).2 _ ?_⟩ x
  · simp only [List.mem_singleton, forall_eq, Fld.key, Reg.GRN_RBS_FLAGS.GRID_RANGE]
    omega
  · simp only [List.mem_singleton, forall_eq, Fld.key, Reg.GRN_RBS_FLAGS.GRID_RANGE, Reg.HST_HWIN_SIZE]
    omega

theorem bit_gridStored (h : sum.2 = true) : (d.gridStored i a sum).bit (Reg.GRN_RBS_FLAGS.GRID_RANGE i) = true := by
  have hset : d.gridStored i a sum = (d.wrBytes a (leBytes 8 sum.1.toNat)).setBit (Reg.GRN_RBS_FLAGS.GRID_RANGE i) true := if_pos h
  rw [hset]
  exact Dev.bit_setBit_same _ true (by decide : 0 < 1)

/-- A sum has been stored in buffer `i`, a wrap noted, and the stack that holds it has counted its work. -/
structure GridAdded (i a : Nat) (sum : DWord × Bool) (d e : Dev) : Prop where
  frame : e = { d with regs := e.regs, mem := e.mem }
  wrote : wroteBytes a (leBytes 8 sum.1.toNat) d e
  worked : ∀ p, d.place a = some p → gridWorked (stackOf p) d e
  range : sum.2 = true → e.bit (Reg.GRN_RBS_FLAGS.GRID_RANGE i) = true
  received : e.get64 Reg.COL_RX_LO = d.get64 Reg.COL_RX_LO

theorem get64_gridStored {c : Fld} (hlo : c.key ≠ (Reg.GRN_RBS_FLAGS.GRID_RANGE i).key) (hhi : c.hi.key ≠ (Reg.GRN_RBS_FLAGS.GRID_RANGE i).key) :
    (d.gridStored i a sum).get64 c = d.get64 c :=
  get64_of_regsBut (gridStored_frame d i a sum).2 fun w hw => by
    rw [List.mem_singleton.1 hw]
    exact ⟨hlo, hhi⟩

theorem wroteBytes_gridStored (d : Dev) (i a : Nat) (sum : DWord × Bool) : wroteBytes a (leBytes 8 sum.1.toNat) d (d.gridStored i a sum) := by
  rw [(gridStored_frame d i a sum).1]
  exact wroteBytes_wrBytes d a _

theorem received_gridStored (d : Dev) (i a : Nat) (sum : DWord × Bool) : (d.gridStored i a sum).get64 Reg.COL_RX_LO = d.get64 Reg.COL_RX_LO :=
  get64_gridStored (received_apart (k := 0) _ (by simp)).1 (received_apart (k := 0) _ (by simp)).1

theorem gridAdded_gridCounted (hp : d.place a = some p) : GridAdded i a sum d ((d.gridStored i a sum).gridCounted (stackOf p)) := by
  have hcounted := onlyRegs_gridCounted (d.gridStored i a sum) (stackOf p)
  refine ⟨by rw [hcounted.1, (gridStored_frame d i a sum).1], ?wrote, fun q hq => ?worked, fun h => ?range, ?received⟩
  case wrote =>
    rw [hcounted.1]
    exact wroteBytes_gridStored d i a sum
  case worked =>
    obtain rfl : p = q := Option.some.inj (hp.symm.trans hq)
    have hworked := gridWorked_gridCounted (d.gridStored i a sum) (stackOf p)
    have hwork {c : Fld} (hlo : c ∈ workFields (stackOf p)) (hhi : c.hi ∈ workFields (stackOf p)) : (d.gridStored i a sum).get64 c = d.get64 c :=
      get64_gridStored (workFields_ne_range _ hlo) (workFields_ne_range _ hhi)
    rwa [gridWorked, hwork (by simp [workFields]) (by simp [workFields]), hwork (by simp [workFields]) (by simp [workFields])] at hworked
  case range =>
    exact (Dev.bit_congr (hcounted.2 _ fun w hw => (workFields_ne_range w hw).symm)).trans (bit_gridStored h)
  case received =>
    have hapart {x : Fld} (hx : x ∈ [Reg.COL_RX_LO, Reg.COL_RX_LO.hi]) := (received_apart (i := 0) (k := stackOf p) x hx).2
    exact (get64_of_regsBut hcounted.2 fun w hw => ⟨hapart (by simp) w hw, hapart (by simp) w hw⟩).trans (received_gridStored d i a sum)

theorem gridAdded_gridAddAt (d : Dev) (i a v : Nat) : GridAdded i a (d.gridSum a v) d (d.gridAddAt i a v) := by
  have hplace := place_gridStored d i a (d.gridSum a v) a
  cases hp : d.place a with
  | none =>
    rw [gridAddAt_of_noPlace (hplace.trans hp)]
    generalize d.gridSum a v = sum
    exact ⟨by rw [(gridStored_frame d i a sum).1], wroteBytes_gridStored d i a sum, fun p h => by simp [hp] at h, bit_gridStored,
      received_gridStored d i a sum⟩
  | some p =>
    rw [gridAddAt_of_place (hplace.trans hp)]
    exact gridAdded_gridCounted hp

theorem gridSum_hearing (f : Frame) (d : Dev) (a v : Nat) : (d.hearing f).gridSum a v = d.gridSum a v := by
  rw [Dev.gridSum, Dev.gridSum, Dev.rdNat, Dev.rdNat, (sameMemory_hearing f d).rdBytes]

/-- A grid-data record of one integer is added, and its bytes count towards what its sender has declared. -/
theorem took_gridWrite (hentry : d.col.entry = some en) (hroom : (en.receiving f).overrun f.src = false)
    (hbuffer : d.gridBuffer f.addr = some i) (halign : (f.addr - d.rbtLo i) % 8 = 0) (hlen : f.payload.length = 8)
    (hend : f.addr + 8 ≤ d.rbtHi i) (htakes : d.rbtTakes i = true) (hgood : d.firstBad f.addr 8 = none) (hidle : ∀ x ∈ d.accq, x.rbt ≠ i) :
    let e := ((d.hearing f).gridWrite f).colReceived f
    let sum := d.gridSum f.addr (leNat f.payload)
    Took f d e ∧ e.col.entry = some (en.receiving f) ∧ wroteBytes f.addr (leBytes 8 sum.1.toNat) d e ∧
      (∀ p, d.place f.addr = some p → gridWorked (stackOf p) d e) ∧ (sum.2 = true → e.bit (Reg.GRN_RBS_FLAGS.GRID_RANGE i) = true) := by
  have hsame := sameMemory_hearing f d
  have hi := gridBuffer_lt hbuffer
  have hadded := gridAdded_gridAddAt (d.hearing f) i f.addr (leNat f.payload)
  have hwrite : (d.hearing f).gridWrite f = (d.hearing f).gridAddAt i f.addr (leNat f.payload) :=
    gridWrite_of_one (by rwa [hsame.gridBuffer]) (by rwa [hsame.settings.rbtLo hi]) hlen (by rwa [hsame.settings.rbtHi hi])
      (by rwa [hsame.rbtTakes hi]) (by rwa [hsame.firstBad]) hidle
  rw [← hwrite, gridSum_hearing] at hadded
  dsimp only
  generalize d.gridSum f.addr (leNat f.payload) = sum at hadded ⊢
  generalize (d.hearing f).gridWrite f = y at hadded ⊢
  obtain ⟨hframe, hwrote, hworked, hrange, hreceived⟩ := hadded
  have hentry' : y.col.entry = some en := by
    rw [hframe]
    exact hentry
  rw [colReceived_of_room hentry' hroom]
  exact ⟨(took_hearing f d).andThen (by rw [hframe]; rfl) hreceived (by rw [hframe]; rfl), rfl,
    wroteBytes_congr hsame.place hsame.mem hwrote, fun p hp => (hworked p ((hsame.place _).trans hp)).congr (regsBut_hearing f d), hrange⟩

end Sys2Proof.Machine

/-! ### Records that a stopped unit takes, and abort records (R319) -/

namespace Sys2Proof.Machine

variable {s : State} {d : Dev} {f : Frame} {en : ColEntry}

/-- A stopped unit discards every record. -/
theorem discards_of_stopped (hstop : d.bit Reg.COL_STATUS.STOPPED = true) (f : Frame) :
    d.countIn f = d ∧ (∀ grid, d.dataIn f grid = d) ∧ d.abortIn f = d :=
  ⟨if_pos hstop, fun _ => if_pos hstop, if_pos hstop⟩

theorem abortIn_of_current (hstop : d.bit Reg.COL_STATUS.STOPPED = false) (hcurrent : d.isCurrent (recField f.payload 0 1) (crSeq f.payload) = true) :
    d.abortIn f = d.colFault Reg.COL_ERR.ABORTED Flt.COL_ABORTED none false := by
  unfold Dev.abortIn
  dsimp only
  rw [if_neg (ne_true_of_eq_false hstop), if_pos (by rw [show recField f.payload 4 4 = crSeq f.payload from rfl, hcurrent, Bool.true_or])]

theorem abortIn_of_other (hother : d.isCurrent (recField f.payload 0 1) (crSeq f.payload) = false)
    (hheld : ∀ h ∈ d.col.held, ¬(recField h.payload 0 1 = recField f.payload 0 1 ∧ crSeq h.payload = crSeq f.payload)) : d.abortIn f = d := by
  have hnone : (d.col.held.any fun h =>
      decide (recField h.payload 0 1 = recField f.payload 0 1) && decide (crSeq h.payload = recField f.payload 4 4)) = false := by
    rw [List.any_eq_false]
    intro h hh
    rw [← Bool.decide_and, decide_eq_true_eq]
    exact hheld h hh
  unfold Dev.abortIn
  dsimp only
  rw [hnone, show recField f.payload 4 4 = crSeq f.payload from rfl, hother]
  exact ite_self d

/-- What a fault of the unit leaves, as the statement writes it. -/
theorem stopped_colFault {cause : Fld} (hmem : cause ∈ causeFields) {code : Nat} (hclass : faultClass code = 4) (second : Option (Option Nat))
    (tell : Bool) (d : Dev) :
    (d.colFault cause code second tell).bit cause = true ∧ (d.colFault cause code second tell).bit Reg.COL_ERR.ABORTED = true ∧
      (d.colFault cause code second tell).bit Reg.COL_STATUS.STOPPED = true ∧ (d.colFault cause code second tell).bit Reg.COL_STATUS.BUSY = false ∧
      (d.colFault cause code second tell).col.entry = none ∧ (d.colFault cause code second tell).col.held = [] ∧
      (d.colFault cause code second tell).get Reg.FLT_STATUS.HL = hlStopped := by
  obtain ⟨h, hlamp⟩ := halted_colFault hmem hclass second tell d
  exact ⟨h.cause, h.aborted, h.stopped, h.idle, h.entry, h.held, hlamp⟩

/-- Settles O41, by what each of the four kinds of record finds: the launched entry, a later one of its communicator, or nothing that it names. -/
theorem collectiveRecords : Obligations.CollectiveRecords := by
  unfold Obligations.CollectiveRecords
  intro s f d b comm gone took stops heard hmem
  refine ⟨fun hstop => ?stopped, fun hstop => ⟨fun hop => ⟨?current, ?later, ?cross, ?stray⟩, ?data, fun hop => ⟨?abort, ?noAbort⟩⟩⟩
  case stopped =>
    obtain ⟨hcount, hdata, habort⟩ := discards_of_stopped (d := d.colTaken f) hstop f
    exact ⟨fun hop => does_countRecord hmem hop hcount, fun hop => does_dataRecord hmem hop (hdata false),
      fun hop => does_gridDataRecord hmem hop (hdata true), fun hop => does_abortRecord hmem hop habort⟩
  case current =>
    intro en st hentry hcomm hseq hst hnum hpeer hgrid hstep hplaced hcounted hunsent c hroom
    obtain ⟨queued, sendq, heq⟩ :=
      countIn_of_current hstop hentry hcomm hseq ⟨⟨st, hst, hnum, hpeer⟩, hgrid, hstep⟩ hplaced hcounted hunsent hroom
    obtain ⟨hfab, hcores, hbytes, hlast⟩ := took_hearing f d
    refine does_countRecord hmem hop ?_
    rw [show (s.dev.colTaken f).countIn f = _ from heq]
    exact ⟨⟨hfab, hcores⟩, rfl, ⟨hbytes, hlast⟩, _, rfl, rfl⟩
  case later =>
    intro hother hlater hroom howes
    have hhold : (d.colTaken f).countIn f = (d.colTaken f).holding f := by
      rw [countIn_of_other (d := d.colTaken f) hstop hother]
      refine (if_pos hlater).trans ?_
      rw [holdRecord_of_room (d := d.colTaken f) hroom]
      split
      · next en hentry => exact if_neg (ne_true_of_eq_false (howes en hentry))
      · rfl
    refine does_countRecord hmem hop ?_
    rw [show (s.dev.colTaken f).countIn f = _ from hhold]
    obtain ⟨hframe, hregs⟩ := onlyRegs_set { d.colTaken f with col := { d.col with held := d.col.held ++ [f] } } (d.col.held ++ [f]).length
      (List.mem_singleton_self Reg.COL_STATUS.HELD)
    exact ⟨hframe, hregs, get_holding f (d.colTaken f) hroom⟩
  case cross =>
    intro en hentry hother hlater hroom howes
    refine does_countRecord hmem hop ?_
    have hcross : (d.colTaken f).countIn f =
        ((d.colTaken f).holding f).colFault Reg.COL_ERR.ORDER_CROSS Flt.ORDER_CROSS (some (some comm)) true := by
      rw [countIn_of_other (d := d.colTaken f) hstop hother]
      refine (if_pos hlater).trans ?_
      rw [holdRecord_of_room (d := d.colTaken f) hroom, show (d.colTaken f).col.entry = some en from hentry]
      exact if_pos howes
    rw [show (s.dev.colTaken f).countIn f = _ from hcross]
    exact stopped_colFault (by decide) (by decide) _ _ _
  case stray =>
    intro hother hlater hpast
    refine does_countRecord hmem hop ?_
    have hstray : (d.colTaken f).countIn f = (d.colTaken f).colStray := by
      rw [countIn_of_other (d := d.colTaken f) hstop hother]
      exact (if_neg (ne_true_of_eq_false hlater)).trans (if_neg (ne_true_of_eq_false hpast))
    rw [show (s.dev.colTaken f).countIn f = _ from hstray]
    exact stopped_colFault (by decide) (by decide) _ _ _
  case data =>
    intro en hentry hcomm hseq hpeer en' hroom
    have hdata := dataIn_of_current hstop hentry hcomm hseq (partner_of_step hpeer)
    refine ⟨fun hop hplaced hfixed hdenied herr hhit => ?store, fun i hop hbuffer halign hlen hend htakes hgood hidle => ?add⟩
    case store =>
      obtain ⟨htook, hrx, hwrote⟩ := took_dataTake hentry hplaced hfixed hroom hdenied herr hhit
      refine does_dataRecord hmem hop ?_
      rw [show (s.dev.colTaken f).dataIn f false = _ from hdata false]
      exact ⟨⟨htook.fab, htook.cores⟩, ⟨htook.count, htook.lastAt⟩, hrx, hwrote⟩
    case add =>
      obtain ⟨htook, hrx, hwrote, hworked, hrange⟩ := took_gridWrite hentry hroom hbuffer halign hlen hend htakes hgood hidle
      refine does_gridDataRecord hmem hop ?_
      rw [show (s.dev.colTaken f).dataIn f true = _ from hdata true]
      exact ⟨⟨htook.fab, htook.cores⟩, ⟨htook.count, htook.lastAt⟩, hrx, hwrote, hworked, hrange⟩
  case abort =>
    intro hcurrent
    refine does_abortRecord hmem hop ?_
    rw [abortIn_of_current (d := s.dev.colTaken f) hstop hcurrent]
    exact stopped_colFault (by decide) (by decide) _ _ _
  case noAbort =>
    intro hother hheld
    exact does_abortRecord hmem hop (abortIn_of_other (d := d.colTaken f) hother hheld)

end Sys2Proof.Machine

/-! ## Staging pools (O40)

A send queue asks for a buffer if a record waits that would leave on its link. Which link that is, `Dev.recLane` finds by sending a frame of zeros with
the record's header. O40 asks that the link's queue grow once the record is given its buffer. A record that the unit makes bears an operation of four
bits and the number of a node, so that its payload cannot turn it elsewhere. The statement speaks of every state, and of records whose numbers reach
into the next fields of the header: the operation into PLEN, and the node into NEST. Such a frame carries a second header in its payload (R297). With
zeros in it the frame leaves for another node; with the bytes that are sent it is for this module, which takes it. -/

namespace Sys2Proof.Machine

/-- A record of 40 bytes at 0x1000 for node 1. Its node sets NEST to 1, and its operation, which is 9, adds 496 to PLEN, which is then 24: the first 16
bytes of the payload are a header. -/
def nestedRecord : ColRec :=
  { node := 2 ^ 28 + 1, src := 0x1000, addr := 0x4000, len := 40, op := 16 * 496 + 9, piste := none, mc := none, zero := false }

/-- A launched entry without steps. -/
def idleEntry : ColEntry := { idx := 0, raw := [], seq := 0, steps := [] }

/-- The module after reset, but for these: it is node 1 of a field of four on one axis, its first six links are up, pool 0 has one buffer, the
record waits under that entry, and the header in its payload names node 1. -/
def nestedSend : Dev :=
  let d := (((Dev.reset.set Reg.FAB_GEOM 0x041044).set Reg.FAB_BLOCK_ID 5).set Reg.FAB_BLOCK_LEN 0x041044).set Reg.FAB_COORD 1
  let d := ((List.range 6).foldl (fun d l => d.setLnkState l lUp) d).set (Reg.COL_POOL_CFG.COUNT 0) 1
  let d := d.wrBytes 0x1000 [1#8]
  { d with col := { d.col with entry := some idleEntry, sendq := [nestedRecord] } }

/-- What the allocator's cycle does when the send queue of link 4 asks. -/
def nestedGrant (d : Dev) : Dev :=
  (rotate d.col.last (([(4 : Fin 25)].map Fin.val).filter fun q => decide (q = 24) || (decide ((0 : Fin 16) = 0) && d.wantsBuf q))).foldl
    (Dev.grantOne 0) d

theorem nestedSend_asks : nestedSend.wantsBuf 4 = true := by decide +kernel

theorem nestedSend_lane : nestedSend.recLane [] 0 nestedRecord = some (4, none) := by decide +kernel

theorem nestedSend_readable : nestedSend.readErr 0x1000 40 = none := by decide +kernel

theorem nestedSend_free : nestedSend.freeBuf 0 = some 0 := by decide +kernel

theorem nestedSend_writable : nestedSend.writeErr (nestedSend.bufAddr 0 0) (nestedSend.rdBytes 0x1000 40) = none := by decide +kernel

theorem nestedSend_plain : nestedSend.rbtHit (nestedSend.bufAddr 0 0) 40 = [] := by decide +kernel

/-- Link 4 has nothing to send after the grant. -/
theorem nestedGrant_sends_nothing : ((nestedGrant nestedSend).link 4).txq.length = 0 := by decide +kernel

/-- Refutes O40: the send queue of link 4 is given the buffer that it asks for, and the record that it holds is delivered to this module, so that the
link's queue does not grow. -/
theorem not_stagingPools : ¬ Obligations.StagingPools := by
  intro h
  obtain ⟨-, -, -, -, -, hsends, -⟩ := h ⟨nestedSend, []⟩ 0 .host
  obtain ⟨hfills, -⟩ := hsends 4 (by decide) nestedSend_asks
  have hdoes := hfills idleEntry nestedRecord none 0 rfl rfl nestedSend_lane (by decide +kernel) rfl nestedSend_readable nestedSend_free
    nestedSend_writable nestedSend_plain
  have hgrant := post_of_does (f := nestedGrant) rfl hdoes
  obtain ⟨-, -, -, -, -, -, hgrows, -⟩ := hgrant
  exact absurd (nestedGrant_sends_nothing.symm.trans hgrows) (by omega)

end Sys2Proof.Machine

/-! ## The collective script (O42)

At the launch of a step decision every addend of its groups that waits is added, and the groups become DECIDING (R201). O42 asks that a launch find each
of them OPEN, DECIDING or MIRRORING, and leave it DECIDING. Between the two lie the addends. One of an entry of the table RBT can change that entry's
status (R197), never the state of a group. The statement speaks of every state, and of an addend that names an entry 512, of which there are 256: the
place where its count of non-finite events would lie is GRP_STATE of group 0. Such an addend takes the group from DECIDING to APPLYING, and then the
launch raises THR_GROUP_STATE and leaves the group where it is. -/

namespace Sys2Proof.Machine

variable {d e z : Dev} {en : ColEntry} {raw : List Byte} {p : ColPlan}

/-! ### The launch of a step decision without steps -/

/-- What a launch event does to the module. -/
def Dev.entryStep (d : Dev) : Dev :=
  if !d.colReady then d
  else match d.readMem .coll (d.entryAddr d.entryIdx) 64 with
    | (none, d) => d
    | (some raw, d) =>
      if d.entryWaits raw then d
      else match d.launchReads raw with
        | (none, d) => d
        | (some (count, map), d) =>
          Dev.launch raw count map (if d.entryLate raw then d.flag Reg.COL_ERR.LATE Reg.COL_ERR.LATE_CNT else d)

theorem launchReads_of_decision (hkind : 5 ≤ eKind raw) : d.launchReads raw = (some (0, []), d) := if_pos (.inr hkind)

/-- A ready entry of a kind that reads nothing more, and without an instant, launches. -/
theorem entryStep_of_due (hready : d.colReady = true) (hread : d.readErr (d.entryAddr d.entryIdx) 64 = none) (hraw : d.entryRaw d.entryIdx = raw)
    (hkind : 5 ≤ eKind raw) (hinstant : d.entryInstant raw = none) : d.entryStep = d.launch raw 0 [] := by
  have hbytes : d.readMem .coll (d.entryAddr d.entryIdx) 64 = (some raw, d) := by
    rw [Dev.readMem, hread, ← hraw]
    rfl
  have hwaits : d.entryWaits raw = false := by
    rw [Dev.entryWaits, hinstant]
    exact Bool.and_false _
  have hlate : d.entryLate raw = false := by
    rw [Dev.entryLate, hinstant]
    rfl
  unfold Dev.entryStep
  rw [hready, hbytes, if_neg (by decide)]
  dsimp only
  rw [hwaits, if_neg (by decide), launchReads_of_decision hkind]
  dsimp only
  rw [hlate, if_neg (by decide)]

/-- The entry that a step decision without steps launches. -/
def Dev.decisionEntry (raw : List Byte) (d : Dev) : ColEntry :=
  { idx := d.entryIdx, raw := raw, seq := mget 0 d.col.seqs (eComm raw), steps := [], placed := true, own := none }

/-- The module with that entry launched, before the decision. -/
def Dev.decisionBegun (raw : List Byte) (d : Dev) : Dev :=
  { d.setBit Reg.COL_STATUS.BUSY true with col := { d.col with entry := some (d.decisionEntry raw), lastAt := d.mt, decGroups := 0, readyAt := 0 } }

theorem launch_of_decision (hkind : eKind raw = 6) (hp : p.kind = 6) (hschedule : d.schedule raw 0 [] = some (p, [])) :
    d.launch raw 0 [] = ((d.decisionBegun raw).progLeaves.decideLaunch (d.decisionEntry raw)).useHeld.colGo := by
  have hmapped : mapped raw = false := by simp [mapped, hkind]
  have hmove (z : Dev) (ms : List PermMove) : z.localMove p raw ms = z := by
    unfold Dev.localMove
    dsimp only
    rw [if_neg (by omega), if_neg (by omega), if_neg (by omega)]
  unfold Dev.launch
  rw [hschedule]
  dsimp only
  simp only [hmapped, hp, hmove, Bool.false_and, Bool.not_false, Bool.false_eq_true, if_false, if_true]
  rfl

/-! ### A unit with nothing to send -/

/-- The unit holds no count record, and what it has launched, if anything, has no step to take. -/
structure Spent (d : Dev) : Prop where
  held : d.col.held = []
  entry : ∀ en, d.col.entry = some en → en.steps = [] ∧ en.unsent = []

theorem Spent.of_col (h : Spent d) (hcol : e.col = d.col) : Spent e := ⟨hcol ▸ h.held, hcol ▸ h.entry⟩

theorem spent_colStop (d : Dev) : Spent d.colStop := ⟨rfl, fun _ h => nomatch h⟩

theorem Spent.quiesceCore (h : Spent d) (c : Nat) : Spent (d.quiesceCore c) := by
  unfold Dev.quiesceCore
  dsimp only
  cases (d.core c).seq
  case idle => exact h.of_col (col_setClm d c _ _)
  case halted => exact h.of_col (col_setClm d c _ _)
  case fault => exact h.of_col (col_setClm d c _ _)
  all_goals exact h.of_col rfl

/-- A STOP of the job ends the script (R362). -/
theorem spent_enterStopped (d : Dev) (ev : Ev) : Spent (d.enterStopped ev) := by
  unfold Dev.enterStopped
  dsimp only
  have hcores := List.foldlRecOn (motive := Spent) (List.range 64) (fun d c => d.quiesceCore c)
    (spent_colStop (if d.gliding then d.wake else d).roundDrop) fun x hx c _ => hx.quiesceCore c
  generalize List.foldl _ _ (List.range 64) = x at hcores ⊢
  refine Spent.of_col (d := (x.set Reg.FLT_STATUS.HL hlStopped).setBit Reg.FLT_ERR.STOP true) (hcores.of_col rfl) ?_
  rw [(reported_log_fltMsix _ ev).frame]

theorem Spent.raise (h : Spent d) (ev : Ev) : Spent (d.raise ev) := by
  by_cases hclass : faultClass ev.code = 4
  case neg => exact h.of_col (by rw [(reported_raise d hclass).frame])
  have hraise : d.raise ev = (d.logOpen ev).2.stopJob ev := by simp only [Dev.raise, hclass]
  rw [hraise, Dev.stopJob]
  split
  · exact h.of_col (by rw [(reported_logOpen d ev).frame])
  · exact spent_enterStopped _ _

/-- Such a unit has nothing more to do at a launch. -/
theorem Spent.grpState_launched (h : Spent d) (g : Nat) : d.useHeld.colGo.grpState g = d.grpState g := by
  have huse : d.useHeld = Dev.set Reg.COL_STATUS.HELD 0 { d with col := { d.col with held := [] } } := by
    unfold Dev.useHeld
    simp only [h.held, List.filter_nil, List.foldl_nil, List.length_nil]
  have hstate : (d.set Reg.COL_STATUS.HELD 0).grpState g = d.grpState g := Dev.get_set_other (d := d) 0 (by
    simp only [Fld.key, Reg.GRN_GRP_STATE.STATE, Reg.COL_STATUS.HELD]
    omega)
  rw [huse, ← hstate]
  cases hentry : d.col.entry with
  | none =>
    simp only [Dev.colGo, Dev.set, hentry]
    rfl
  | some en =>
    obtain ⟨hsteps, hunsent⟩ := h.entry en hentry
    simp only [Dev.colGo, Dev.set, hentry, hsteps, hunsent, Dev.sendUnsent]
    rfl

/-! ### What the decision leaves of the stray addend's group -/

theorem onlyRegs_addDigest (d : Dev) (f : Nat → Fld) (leaf : List Byte) : onlyRegs ((List.range 8).map f) d (d.addDigest f leaf) :=
  onlyRegs_set256 d f _

/-- The registers of some fields and the cores alone may differ. -/
def besideCores (fs : List Fld) (d e : Dev) : Prop := e = { d with regs := e.regs, cores := e.cores } ∧ regsBut fs d e

theorem besideCores_leaf {fs : List Fld} {x y : Dev} (h : besideCores fs d x) (hy : onlyRegs fs x y) (c : Nat) (k : Core) :
    besideCores fs d (y.setCore c k) := by
  refine ⟨?_, h.2.trans hy.2⟩
  rw [Dev.setCore, hy.1, h.1]

theorem besideCores.kept {fs : List Fld} (h : besideCores fs d e) : e.col = d.col ∧ e.accq = d.accq ∧ e.grnBad = d.grnBad := by
  obtain ⟨hframe, -⟩ := h
  exact ⟨by rw [hframe], by rw [hframe], by rw [hframe]⟩

/-- Closing the program digests leaves all but their fields and the cores. -/
theorem besideCores_progLeaves (d : Dev) : besideCores ((List.range 8).map Reg.GRN_DIG_PROG) d d.progLeaves := by
  unfold Dev.progLeaves
  exact List.foldlRecOn _ _ ⟨rfl, .refl⟩ fun x hx c _ => besideCores_leaf hx (onlyRegs_addDigest x _ _) c _

/-- An addend of the quiet NaN whose entry would be the 513th of the table. -/
def straySum : Addend := ⟨512, 0x8000, 0x8000, 0x7FC00000, .host⟩

/-- That entry's count of non-finite events would lie where the state of group 0 does. -/
theorem grpState_zero (d : Dev) : d.grpState 0 = d.get (Reg.GRN_RBS_NFCNT.COUNT 512) % 8 :=
  (Nat.mod_mod_of_dvd _ (by decide : 2 ^ 3 ∣ 2 ^ 32)).symm

theorem rbtUpdate_nan (gride old : Nat) : (rbtUpdate 0 0 gride old 0x7FC00000).2 = (true, false, none) := by
  have hnan : (fp32.decode 0x7FC00000).isFinite = false := by decide
  simp [rbtUpdate, hnan]

theorem addendApply_of_good {x : Addend} (h : mget 0 d.grnBad (x.place / 64) = 0) : d.addendApply x =
    (((d.setBytes x.place (leBytes (rbtElem (d.get (Reg.GRN_RBT_CTL.FMT x.rbt))) (d.rbsResult x).1)).rbsNote x.rbt (d.rbsResult x).2.1
      (d.rbsResult x).2.2.1 (d.rbsResult x).2.2.2).add64 (Reg.GRN_THR_ACC_LO (stackOf x.place)) 1).add64 (Reg.GRN_THR_BUSY_LO (stackOf x.place))
        (if d.get (Reg.GRN_RBT_CTL.FMT x.rbt) = 13 then 4 else 1) := by
  unfold Dev.addendApply
  dsimp only
  rw [if_neg (not_not.2 h)]
  rfl

/-- The status of the stray addend's entry has counted its event; the work counters lie elsewhere. -/
theorem noted_straySum (d : Dev) (cost : Nat) (hcount : d.get (Reg.GRN_RBS_NFCNT.COUNT 512) = grpDeciding) :
    let e := ((d.rbsNote 512 true false none).add64 (Reg.GRN_THR_ACC_LO 0) 1).add64 (Reg.GRN_THR_BUSY_LO 0) cost
    e.grpState 0 = grpApplying ∧ e.col = d.col := by
  have hnote : (d.rbsNote 512 true false none).get (Reg.GRN_RBS_NFCNT.COUNT 512) = grpApplying := by
    show Dev.get (Dev.addSat (Reg.GRN_RBS_NFCNT.COUNT 512) 1 (d.setBit (Reg.GRN_RBS_FLAGS.NONFIN 512) true)) _ = _
    rw [Dev.addSat, Dev.get_set_same, Dev.setBit, Dev.get_set_other _ _ (by decide), hcount]
    decide
  have hframe := onlyRegs_rbsNote d 512 true false none
  have hacc := onlyRegs_add64 (d.rbsNote 512 true false none) (Reg.GRN_THR_ACC_LO 0) 1
  have hbusy := onlyRegs_add64 ((d.rbsNote 512 true false none).add64 (Reg.GRN_THR_ACC_LO 0) 1) (Reg.GRN_THR_BUSY_LO 0) cost
  refine ⟨?_, by rw [hbusy.1, hacc.1, hframe.1]⟩
  rw [grpState_zero, hbusy.2 _ (by decide), hacc.2 _ (by decide), hnote]
  rfl

/-- The stray addend adds one to the state of group 0. -/
theorem addendApply_straySum (hbad : d.grnBad = []) (hfmt : d.get (Reg.GRN_RBT_CTL.FMT 512) = 0) (hafmt : d.get (Reg.GRN_RBT_CTL.AFMT 512) = 0)
    (hcount : d.get (Reg.GRN_RBS_NFCNT.COUNT 512) = grpDeciding) :
    (d.addendApply straySum).grpState 0 = grpApplying ∧ (d.addendApply straySum).col = d.col := by
  have hresult : (d.rbsResult straySum).2 = (true, false, none) := by
    rw [Dev.rbsResult]
    simp only [straySum, hfmt, hafmt, rbtUpdate_nan]
  rw [addendApply_of_good (x := straySum) (by rw [hbad]; rfl), hresult]
  generalize leBytes (rbtElem (d.get (Reg.GRN_RBT_CTL.FMT straySum.rbt))) (d.rbsResult straySum).1 = bs
  have hstored := d.setBytes_eq straySum.place bs
  generalize d.setBytes straySum.place bs = x at hstored ⊢
  have hcol : x.col = d.col := by rw [hstored]
  rw [← hcol]
  exact noted_straySum x _ (by rw [hstored]; exact hcount)

/-- The decision adds the stray addend, and cannot then set group 0 to DECIDING. -/
theorem decideLaunch_straySum (hmask : eArg en.raw = 1) (hsteps : en.steps = []) (hunsent : en.unsent = []) (hheld : d.col.held = [])
    (haccq : d.accq = [straySum]) (hgroup : d.rbtGroup 512 = 0) (hbad : d.grnBad = []) (hfmt : d.get (Reg.GRN_RBT_CTL.FMT 512) = 0)
    (hafmt : d.get (Reg.GRN_RBT_CTL.AFMT 512) = 0) (hcount : d.get (Reg.GRN_RBS_NFCNT.COUNT 512) = grpDeciding) :
    (d.decideLaunch en).grpState 0 = grpApplying ∧ Spent (d.decideLaunch en) := by
  have hdrain : (d.accDrain fun a => (1 : Nat).testBit (d.rbtGroup a.rbt)) = Dev.addendApply straySum { d with accq := [] } := by
    have htakes : (1 : Nat).testBit (d.rbtGroup straySum.rbt) = true := by
      rw [show straySum.rbt = 512 from rfl, hgroup]
      rfl
    simp [Dev.accDrain, haccq, htakes]
  obtain ⟨hstate, hcol⟩ := addendApply_straySum (d := { d with accq := [] }) hbad hfmt hafmt hcount
  unfold Dev.decideLaunch
  dsimp only
  rw [hmask, hdrain]
  generalize Dev.addendApply straySum { d with accq := [] } = x at hstate hcol ⊢
  rw [show groupsOf 1 = [0] from by decide, List.foldl_cons, List.foldl_nil]
  generalize hen : ColEntry.mk .. = decided
  obtain ⟨hsteps, hunsent⟩ : decided.steps = [] ∧ decided.unsent = [] := hen ▸ ⟨hsteps, hunsent⟩
  have hset : (x.setEntry decided).grpState 0 = grpApplying := hstate
  have hspent : Spent (x.setEntry decided) := ⟨(congrArg Collective.held hcol).trans hheld, fun e he => by
    obtain rfl := Option.some.inj he
    exact ⟨hsteps, hunsent⟩⟩
  rw [hset, if_pos (by decide)]
  exact ⟨((Aside.refl.raise _).state 0).trans hset, hspent.raise _⟩

/-! ### The refutation -/

/-- A step decision of group 0, without an instant. -/
def strayDecision : List Byte := leBytes 8 6 ++ leBytes 8 (2 ^ 64 - 1) ++ leBytes 24 0 ++ leBytes 8 (2 ^ 16) ++ leBytes 16 0

/-- The module after reset, but for these: it is one of block 5, four on the one axis of their field, communicator 0 is a furrow of this module alone, the
script runs and has that entry, at address 0, group 0 is DECIDING, and the stray addend waits. -/
def strayLaunch : Dev :=
  let d := ((Dev.reset.set Reg.FAB_GEOM 0x041044).set Reg.FAB_BLOCK_ID 5).set Reg.FAB_BLOCK_LEN 0x041044
  let d := (d.set (Reg.COL_COMM_CTL.KIND 0) 1).set (Reg.COL_COMM_MASK_0 0) 1
  let d := ((d.setBit Reg.COL_CTL.EN true).set Reg.COL_SCRIPT_LEN 1).setGrp 0 grpDeciding
  { d.wrBytes 0 strayDecision with accq := [straySum] }

theorem strayLaunch_ready : strayLaunch.colReady = true := by decide +kernel

theorem strayLaunch_readable : strayLaunch.readErr (strayLaunch.entryAddr strayLaunch.entryIdx) 64 = none := by decide +kernel

theorem strayLaunch_raw : strayLaunch.entryRaw strayLaunch.entryIdx = strayDecision := by decide +kernel

theorem strayLaunch_instant : strayLaunch.entryInstant strayDecision = none := by decide +kernel

theorem strayLaunch_schedule : ∃ p, p.kind = 6 ∧ strayLaunch.schedule strayDecision 0 [] = some (p, []) := by
  have h : (strayLaunch.schedule strayDecision 0 []).map (fun x => (x.1.kind, x.2)) = some (6, []) := by decide +kernel
  obtain ⟨⟨p, steps⟩, hschedule, hp⟩ := Option.map_eq_some_iff.1 h
  obtain ⟨hkind, rfl⟩ := Prod.mk.inj hp
  exact ⟨p, hkind, hschedule⟩

/-- After the launch group 0 is APPLYING. -/
theorem strayLaunch_applies : strayLaunch.entryStep.grpState 0 = grpApplying := by
  obtain ⟨p, hkind, hschedule⟩ := strayLaunch_schedule
  have hbeside := besideCores_progLeaves (strayLaunch.decisionBegun strayDecision)
  obtain ⟨hcol, haccq, hbad⟩ := hbeside.kept
  obtain ⟨-, hregs⟩ := hbeside
  rw [entryStep_of_due strayLaunch_ready strayLaunch_readable strayLaunch_raw (by decide +kernel) strayLaunch_instant,
    launch_of_decision (by decide +kernel) hkind hschedule]
  generalize (strayLaunch.decisionBegun strayDecision).progLeaves = x at hcol haccq hbad hregs ⊢
  have hheld : x.col.held = [] := (congrArg Collective.held hcol).trans (by decide +kernel)
  obtain ⟨hstate, hspent⟩ := decideLaunch_straySum (d := x) (en := strayLaunch.decisionEntry strayDecision) (by decide +kernel) rfl rfl
    hheld (haccq.trans (by decide +kernel)) ((hregs _ (by decide)).trans (by decide +kernel)) (hbad.trans (by decide +kernel))
    ((hregs _ (by decide)).trans (by decide +kernel)) ((hregs _ (by decide)).trans (by decide +kernel))
    ((hregs _ (by decide)).trans (by decide +kernel))
  exact (hspent.grpState_launched 0).trans hstate

/-- Refutes O42: a step decision launches while group 0 is DECIDING, and the stray addend leaves the group APPLYING. -/
theorem not_collectiveScript : ¬ Obligations.CollectiveScript := by
  intro h
  obtain ⟨-, hlaunch, -⟩ := h ⟨strayLaunch, []⟩
  obtain ⟨-, hdue⟩ := hlaunch strayLaunch_ready strayLaunch_readable
  obtain ⟨p, -, hschedule⟩ := strayLaunch_schedule
  have hraw := strayLaunch_raw
  dsimp only at hdue
  rw [hraw] at hdue
  obtain ⟨-, hdecides, -⟩ := hdue 0 [] (.inr fun t ht => nomatch strayLaunch_instant.symm.trans ht)
    (congrArg Prod.fst (launchReads_of_decision (by decide +kernel)))
  have hdoes := hdecides (by decide +kernel) (by rw [hschedule]; rfl) (by decide +kernel)
  have hdeciding := post_of_does (f := Dev.entryStep) rfl hdoes 0 (by decide +kernel)
  rw [strayLaunch_applies] at hdeciding
  exact absurd hdeciding (by decide)

end Sys2Proof.Machine
